-- ==== Sys2Proof/Word.lean ====
section
/-! DEFINITION. The word types of the model and their plainest arithmetic: bit ranges written [high:low], counters
that wrap, and little-endian bytes (R5, 00_scope.md). -/

namespace Sys2Proof

/-- A byte of memory. -/
abbrev Byte := BitVec 8

/-- A 64-bit register. -/
abbrev W64 := BitVec 64

/-- The value of bits [lo + w − 1 : lo] of a word, bit 0 the least significant (R5). -/
def bitsOf (v lo w : Nat) : Nat := v / 2 ^ lo % 2 ^ w

/-- A word with bits [lo + w − 1 : lo] replaced by the low w bits of x. -/
def withBits (v lo w x : Nat) : Nat :=
  v - bitsOf v lo w * 2 ^ lo + x % 2 ^ w * 2 ^ lo

/-- A counter of w bits after n more events. -/
def wrapAdd (w v n : Nat) : Nat := (v + n) % 2 ^ w

/-- The value of bytes read little-endian (R5). -/
def leNat : List Byte → Nat
  | [] => 0
  | b :: bs => b.toNat + 256 * leNat bs

/-- n bytes of a value, little-endian (R5). -/
def leBytes : Nat → Nat → List Byte
  | 0, _ => []
  | n + 1, v => BitVec.ofNat 8 v :: leBytes n (v / 256)

/-- ⌈a ÷ b⌉, and 0 where b is 0. -/
def ceilDiv (a b : Nat) : Nat := (a + b - 1) / b

/-- A value as a two's complement number of w bits. -/
def signedOf (w v : Nat) : Int :=
  let u := v % 2 ^ w
  if u < 2 ^ (w - 1) then (u : Int) else (u : Int) - (2 ^ w : Nat)

/-- The low w bits of an integer, as a word. -/
def wordOf (w : Nat) (i : Int) : Nat := (i % ((2 ^ w : Nat) : Int)).toNat

end Sys2Proof
end

