-- ==== Sys2Proof/Syntax.lean ====
section
/-! DEFINITION. The commands the block takes: one constructor per row of spec/opcode_table.json, with the operands the
row's rule gives it, and the types of those operands. An operand that is an outcome of the world outside the model
(whether a signature verifies, which free slot the device takes, how many cycles a job ran) says so in its docstring. -/

namespace Sys2Proof

/-- Where an Onaraef command was submitted: a ring pair (R339) or the primary mailbox (R328). -/
inductive Src where
  | ring (r : Nat)
  | mailbox
deriving DecidableEq, Repr

/-- One command of one source: the source and the number of the command in the order the source's commands were taken. -/
structure CmdRef where
  src : Src
  seq : Nat
deriving DecidableEq, Repr

/-- The phases of a request (R9, 01_request_life.md). -/
inductive Phase where
  | admitted | prompting | handoff | generating | listening | parking | parked | resuming | closed | failed
deriving DecidableEq, Repr

/-- The types of the Leash, token and liveness messages (R180, 07_ownership_and_recovery.md). -/
inductive MsgType where
  | handoffStart | offer | offerAck | leashCas | casResult | leashRelease | leashQuery | queryResult | handoffCancel
  | holdDrop | holdFree | leashGrant | ping | pingAck | tokenAppend | tokenResult | homeMoved | close | homeReleased
  | holdEmpty
deriving DecidableEq, Repr

/-- A Leash, token or liveness message without its TYPE byte (R179), its ARGS by the fields R180 gives each type. -/
structure Msg where
  /-- FLAGS, per type -/
  flags : Nat := 0
  /-- STATUS, for result types -/
  status : Nat := 0
  epoch : Nat := 0
  handle : Nat := 0
  /-- FROM, the sending chip -/
  sender : Nat := 0
  /-- CHIP, the chip named by the type -/
  chip : Nat := 0
  step : Nat := 0
  /-- BUDGET_US; 0xFFFF_FFFF means none -/
  budget : Nat := 0xFFFFFFFF
  phase : Nat := 0
  /-- ARGS: page-list reference (OFFER, LEASH_CAS) -/
  pageList : Nat := 0
  /-- ARGS: sampler frame reference (OFFER) -/
  sampler : Nat := 0
  /-- ARGS: positions (OFFER, LEASH_CAS) -/
  positions : Nat := 0
  /-- ARGS of LEASH_GRANT -/
  replayFrom : Nat := 0
  replayTo : Nat := 0
  source : Nat := 0
  stepFloor : Nat := 0
  /-- ARGS of HOLD_DROP and HOLD_FREE without ALL: up to 12 page references -/
  refs : List Nat := []
  /-- ARGS of TOKEN_APPEND and TOKEN_RESULT: up to 16 token entries -/
  tokens : List Nat := []
  /-- the smallest acknowledged position count over the layers, reported with token appends (R188) -/
  mirrorPos : Nat := 0
deriving DecidableEq, Repr

/-- A turn record of a token log (R174). -/
structure TurnRec where
  num : Nat
  kind : Nat
  first : Nat
  count : Nat
  startTick : Nat
  /-- the 16 bytes the host writes with REQ_LOG_APPEND -/
  note : List Byte
deriving DecidableEq, Repr

/-- A request record (R172) with its token log (R174). -/
structure Rec where
  handle : Nat
  phase : Phase
  prePhase : Phase
  targetPhase : Phase
  cls : Nat
  tenant : Nat
  mirrored : Bool
  replayPending : Bool
  replaying : Bool
  late : Bool
  /-- HANDOFF_MODE: 0 automatic, 1 Fetch, 2 copy-free -/
  mode : Nat
  /-- OWNER_EPOCH, the home epoch -/
  epoch : Nat
  /-- OWNER_CHIP, none when the request has no owner (R189) -/
  owner : Option Nat
  receiver : Nat
  stateMirror : Nat
  pageListRef : Nat
  positions : Nat
  maxPositions : Nat
  budgetUs : Nat
  budgetTick : Nat
  logPtr : Nat
  /-- the token entries, entry i at position i: id in [19:0], source in [21:20]; LOG_LEN is its length -/
  log : List Nat
  /-- the last 256 turn records, oldest first -/
  turnRecs : List TurnRec
  /-- TURNS -/
  turns : Nat
  logStep : Nat
  logCount : Nat
  /-- the token entries LOG_STEP logged, for the repeated result of R162 -/
  lastTokens : List Nat
  /-- HOLDER_0 to HOLDER_3, at most four chips -/
  holders : List Nat
  replayFrom : Nat
  replayTo : Nat
  mirrorPos : Nat
  prefix0 : Nat
  prefix1 : Nat
  prefixPos : Nat
deriving DecidableEq, Repr

/-- A change a home sends its mirror partner (R176): a record with its log, the end of the traffic for a released
partner, or the copies a new partner asks for. -/
inductive MirrorUpd where
  | record (r : Rec)
  | remove (handle : Nat)
deriving DecidableEq, Repr

/-- The coherence messages (R217, 08_fabric_memory_semantics.md). -/
inductive CohType where
  | pageRead | pageData | genStale | notSealed | inval | invalAck | drop | fenceNotice | fenced | flushDone
deriving DecidableEq, Repr

/-- A coherence message: TRACKED, FROM (a pod member), SEQ, and its page references. -/
structure CohMsg where
  type : CohType
  tracked : Bool := false
  sender : Nat := 0
  seq : Nat := 0
  refs : List Nat := []
deriving DecidableEq, Repr

/-- Why an island is reset (R372): loss of its clock, a crossing error, a parity failure in its sequencer, a fault of a
core that needs a restart. -/
inductive ResetCause where
  | clock | crossing | parity | core
deriving DecidableEq, Repr

/-- Why an island is throttled, or that it no longer is (R367, R425, R430): a neighbour 20 °C cooler, a junction at
100 °C, a block at its power limit (block, power in mW), or back within its limits. -/
inductive ThrottleCause where
  | neighbour
  | junction
  | block (b mw : Nat)
  | release
deriving DecidableEq, Repr

/-- What a receiver reads of a giver before its pages (R183): the page-list table (pages and position count, last step number
of each layer), the sampler frame (the 256 bytes of its record and the entries of its count table, slot by slot), what
the request is, and the sum of STORED_LEN of its pages (R184). The giver lies outside the device: the reads' results are the
world's. -/
structure GivenTable where
  tenant : Nat
  cls : Nat
  maxPositions : Nat := 32768
  prefix0 : Nat := 0
  prefix1 : Nat := 0
  prefixPos : Nat := 0
  /-- the state mirror, 0 if none -/
  mirror : Nat := 0
  /-- by layer: page references, position count, last step number -/
  layers : List (List Nat × Nat × Nat) := []
  /-- by layer: the copies the state mirror has acknowledged, as page index and the mirror's reference -/
  acked : List (List (Nat × Nat)) := []
  sampler : Option (List Byte × List (Nat × Nat)) := none
  stored : Nat := 0
deriving DecidableEq, Repr

/-- What one macro's evaluation brought besides its codes (R105, R106, R111): the logical macro; how many of its evaluations
were invalid (at most 2), and whether by a supply excursion; the statistics published, NOISE_RMS and MEAN_ERR. -/
structure EvalOut where
  macroNo : Nat
  bad : Nat := 0
  supply : Bool := false
  rms : Nat := 0
  mean : Nat := 0
deriving DecidableEq, Repr

/-- What a link receives (R239): a flit as the receiver reads it; that its CRC is good or not; how many codewords the FEC corrected
on the way. Its payload's packets are commands of their own. -/
structure Flit where
  crcGood : Bool := true
  /-- TYPE: 0 IDLE, 1 DATA, 2 CONTROL -/
  type : Nat := 0
  seq : Nat := 0
  vc : Nat := 0
  ackSeq : Nat := 0
  ackValid : Bool := false
  crVc : Nat := 0
  crCount : Nat := 0
  fec : Nat := 0
deriving DecidableEq, Repr

/-- What reading a message's bytes for sending brings (R254, R265): the packet at which an uncorrectable read ends the send, block
resends, and the packets of which a block still mismatched after 3. -/
structure SrcRead where
  ue : Option Nat := none
  resends : Nat := 0
  lost : List Nat := []
deriving DecidableEq, Repr

/-- Who issued an access: a step job's remote output, a sample's, a mover descriptor, an arrival counter's event store, the
page store (a read tag), or software through a fence name. -/
inductive Requester where
  | job (id : Nat)
  | smp (id : Nat)
  | mov (id : Nat)
  | event (counter : Nat)
  | page (tag : Nat)
  /-- the read of a page sketch held on another chip (R114) -/
  | sketch (h l i : Nat)
  /-- a copy of a page to the state mirror (R188) -/
  | mirror (h l i : Nat)
deriving DecidableEq, Repr

/-- Where an access comes from (R205, R206): a pod member, or an agent by the id its port gives it. -/
inductive AccFrom where
  | member (m : Nat)
  | agent (id : Nat)
deriving DecidableEq, Repr

/-- A read of a unit in the Kennel that has ended: of an image being resumed, or of the page of a demoted prefix. -/
inductive KRead where
  | unit (slot index : Nat)
  | page (ref : Nat)
deriving DecidableEq, Repr

/-- What the LDPC ladder (R307) brought: the corrected bits of each codeword that hard or later decoding corrected, how many
codewords a retry or a soft decode corrected, whether the unit was rebuilt from its stripe, and whether even that failed. -/
structure KReadEnd where
  bits : List Nat := []
  retried : Nat := 0
  rebuilt : Bool := false
  lost : Bool := false
deriving DecidableEq, Repr

/-- What the device finds on the NF channels (R294, R295): the fields of KNL_NAND_CFG and KNL_NAND_TIME that the ONFI parameter
pages give, whether a target lacks a required feature, whether the population is as R295 demands, and the good blocks of each
die. -/
structure NandPop where
  targets : Nat
  luns : Nat
  planes : Nat
  bpc : Nat
  pages : Nat
  blocks : Nat
  mode : Nat
  spareB : Nat
  rejected : Bool := false
  uniform : Bool := true
  good : List Nat := []
deriving DecidableEq, Repr

/-- What fails (R40, R81, R145, R163): a DAE lane or PAE tile by number (spares from 256 and 128 on); a near-state read of a frame that cannot be
corrected; a job-buffer read of a job (false) or of a sample (true); an internal 256-byte block that is resent; the sampler, while it serves a
sample; the count table of a request; a transcoder pipe, and the job whose intake it served, if it was one. -/
inductive FaultUnit where
  | lane (n : Nat)
  | tile (n : Nat)
  | near (frame : Nat)
  | jobBuffer (smp : Bool) (id : Nat)
  | block
  | sampler (id : Nat)
  | countTable (handle : Nat)
  | pipe (i : Nat) (job : Option Nat)
deriving DecidableEq, Repr

/-- What the patrol tests or scrubs (R386): a lane, a tile, a Scent macro, a core, a transcoder pipe, a lane of a port; a near-state bank, by a
frame in it, with the errors corrected there within the interval; a far-state frame. -/
inductive PatrolUnit where
  | lane (n : Nat)
  | tile (n : Nat)
  | macro_ (n : Nat)
  | core (n : Nat)
  | pipe (i : Nat)
  | portLane (p lane : Nat)
  | near (frame corrected : Nat)
  | far (frame : Nat)
deriving DecidableEq, Repr

/-- The commands, in the table's order. -/
inductive Instr where
  /-- IFACE_OPEN (R347) -/
  | ifaceOpen (src : Src)
  /-- IDENTIFY (R354) -/
  | identify (src : Src)
  /-- CONFIG_STAGE (R349) -/
  | configStage (src : Src)
  /-- CONFIG_COMMIT (R352) -/
  | configCommit (src : Src)
  /-- CONFIG_CONFIRM (R352) -/
  | configConfirm (src : Src)
  /-- HEEL (R352) -/
  | heel (src : Src)
  /-- CONFIG_READ (R354) -/
  | configRead (src : Src)
  /-- CONFIG_DISCARD (R354) -/
  | configDiscard (src : Src)
  /-- CONFIG_CONFIRM_TIMEOUT (R352) -/
  | configConfirmTimeout
  /-- PERSONALITY_REASSIGN (R19) -/
  | personalityReassign
  /-- TENANT_QUERY (R354) -/
  | tenantQuery (src : Src)
  /-- REQ_ADMIT (R11) -/
  | reqAdmit (src : Src)
  /-- REQ_HANDOFF (R11) -/
  | reqHandoff (src : Src)
  /-- REQ_CLOSE (R14) -/
  | reqClose (src : Src)
  /-- REQ_LOG_APPEND (R355) -/
  | reqLogAppend (src : Src)
  /-- REQ_REPLAY (R190) -/
  | reqReplay (src : Src)
  /-- REQ_STATUS (R354) -/
  | reqStatus (src : Src)
  /-- REQ_CHIP_DOWN (R187) -/
  | reqChipDown (src : Src)
  /-- REQ_SET_PARTNER (R197) -/
  | reqSetPartner (src : Src)
  /-- REQ_SET_MIRROR (R188) -/
  | reqSetMirror (src : Src)
  /-- PREFIX_CREATE (R356) -/
  | prefixCreate (src : Src)
  /-- PREFIX_RELEASE (R34) -/
  | prefixRelease (src : Src)
  /-- PREFIX_DEMOTE (R304) -/
  | prefixDemote (src : Src)
  /-- PREFIX_PIN (R354) -/
  | prefixPin (src : Src)
  /-- PAGE_LOAD (R357) -/
  | pageLoad (src : Src)
  /-- EMB_LOAD (R358) -/
  | embLoad (src : Src)
  /-- KNL_PARK (R305) -/
  | knlPark (src : Src) (missing : List (Nat × Nat))
  /-- KNL_RESUME (R306) -/
  | knlResume (src : Src)
  /-- KNL_PROFILE_LOAD (R359) -/
  | knlProfileLoad (src : Src) (pop : NandPop)
  /-- KNL_FORMAT (R354) -/
  | knlFormat (src : Src)
  /-- KNL_HEALTH (R322) -/
  | knlHealth (src : Src)
  /-- KNL_KEY_LOAD (R418): key is what the wrapped key opens to -/
  | knlKeyLoad (src : Src) (key : Option (List Byte))
  /-- BUF_POST (R258) -/
  | bufPost (src : Src)
  /-- BUF_WITHDRAW (R258) -/
  | bufWithdraw (src : Src)
  /-- POD_KEY_INSTALL (R418): key is what the wrapped key opens to -/
  | podKeyInstall (src : Src) (key : Option (List Byte))
  /-- HEALTH (R354) -/
  | health (src : Src)
  /-- BARK_ACK (R380) -/
  | barkAck (src : Src)
  /-- LEDGER_AUDIT (R390) -/
  | ledgerAudit (src : Src) (hold : Nat)
  /-- SPARE_MAP (R354) -/
  | spareMap (src : Src)
  /-- FW_INFO (R354) -/
  | fwInfo (src : Src)
  /-- FW_STAGE (R410) -/
  | fwStage (src : Src)
  /-- FW_ACTIVATE (R394): whether hashes and signature verify -/
  | fwActivate (src : Src) (verifies : Bool)
  /-- FW_CORE_UPDATE_DONE (R394): whether the self-check passes -/
  | fwCoreUpdateDone (ok : Bool)
  /-- ATTEST_QUOTE (R414) -/
  | attestQuote (src : Src)
  /-- CERT_READ (R413) -/
  | certRead (src : Src)
  /-- TEST_UNLOCK (R419): whether the public key and the signature verify -/
  | testUnlock (src : Src) (verifies : Bool)
  /-- TEST_RELOCK (R419) -/
  | testRelock
  /-- GET_EVENT_RECORDS (R327) -/
  | getEventRecords
  /-- CLEAR_EVENT_RECORDS (R327) -/
  | clearEventRecords
  /-- GET_EVENT_INTERRUPT_POLICY (R327) -/
  | getEventInterruptPolicy
  /-- SET_EVENT_INTERRUPT_POLICY (R327) -/
  | setEventInterruptPolicy
  /-- GET_FW_INFO (R327) -/
  | getFwInfo
  /-- TRANSFER_FW (R327) -/
  | transferFw
  /-- ACTIVATE_FW (R327): whether hashes and signature verify -/
  | activateFw (verifies : Bool)
  /-- GET_TIMESTAMP (R327) -/
  | getTimestamp
  /-- SET_TIMESTAMP (R327) -/
  | setTimestamp
  /-- GET_SUPPORTED_LOGS (R327) -/
  | getSupportedLogs
  /-- GET_LOG (R327) -/
  | getLog
  /-- IDENTIFY_MEMORY_DEVICE (R327) -/
  | identifyMemoryDevice
  /-- GET_HEALTH_INFO (R327) -/
  | getHealthInfo
  /-- CXL_UNSUPPORTED_OPCODE (R327) -/
  | cxlUnsupportedOpcode
  /-- PRIMARY_MAILBOX_DOORBELL (R328) -/
  | mailboxDoorbell (opcode : Nat) (payload : List Byte)
  /-- RING_DOORBELL (R342) -/
  | ringDoorbell (r tail : Nat)
  /-- CPL_HEAD_WRITE (R342) -/
  | cplHeadWrite (r head : Nat)
  /-- RING_ENABLE (R343) -/
  | ringEnable (r sizeLog2 irqEn coalesce : Nat)
  /-- RING_DISABLE (R343) -/
  | ringDisable (r sizeLog2 irqEn coalesce : Nat)
  /-- RING_DISABLE_DONE (R343) -/
  | ringDisableDone (r : Nat)
  /-- COMMAND_COMPLETE (R342) -/
  | commandComplete (r : Nat)
  /-- COALESCE_WINDOW_END (R344) -/
  | coalesceWindowEnd (r : Nat)
  /-- REGISTER_WRITE (R7) -/
  | registerWrite (window : Option Nat) (addr size value : Nat)
  /-- SCT_CAL_REQ_WRITE (R107) -/
  | sctCalReqWrite (w value : Nat)
  /-- BRK_OVF_REARM (R379) -/
  | brkOvfRearm (mask : Nat)
  /-- HDM_DECODER_COMMIT (R325) -/
  | hdmDecoderCommit (base size ways : Nat)
  /-- HOST_WINDOW_WRITE (R334) -/
  | hostWindowWrite (off : Nat) (bytes : List Byte)
  /-- HOST_WINDOW_READ (R329) -/
  | hostWindowRead (off len : Nat) (ue : Bool)
  /-- JOB_QUEUE_DOORBELL (R70) -/
  | jobQueueDoorbell (q tail : Nat)
  /-- JOB_QUEUE_REENABLE (R86) -/
  | jobQueueReenable (q : Nat)
  /-- PROMPT_CHUNK (R73) -/
  | promptChunk (q : Nat)
  /-- DECODE (R73) -/
  | decode (q : Nat)
  /-- VERIFY_CHAIN (R73) -/
  | verifyChain (q : Nat)
  /-- VERIFY_TREE (R73) -/
  | verifyTree (q : Nat)
  /-- PARTIAL (R73) -/
  | partial_ (q : Nat)
  /-- PREFIX_PARTIAL (R73) -/
  | prefixPartial (q : Nat)
  /-- MERGE (R73) -/
  | merge (q : Nat)
  /-- SCENT_EVAL (R95) -/
  | scentEval (id : Nat) (noise : List (Nat × Int)) (outs : List EvalOut) (wait : Nat)
  /-- JOB_DISPATCH (R284) -/
  | jobDispatch (pae : Bool)
  /-- SUBJOB_END (R76) -/
  | subjobEnd (id cycles highWater : Nat)
  /-- JOB_END (R77) -/
  | jobEnd (id cycles highWater : Nat)
  /-- STALL_LIMIT (R50) -/
  | stallLimit (id : Nat)
  /-- UNIT_FAULT (R81) -/
  | unitFault (u : FaultUnit)
  /-- INTERNAL_REPLAY (R82) -/
  | internalReplay (smp : Bool) (id : Nat)
  /-- SAMPLE_QUEUE_DOORBELL (R148) -/
  | sampleQueueDoorbell (q tail : Nat)
  /-- SAMPLE (R152) -/
  | sample (q ns : Nat)
  /-- ACCEPT_CHAIN (R157) -/
  | acceptChain (q ns : Nat)
  /-- ACCEPT_TREE (R157) -/
  | acceptTree (q ns : Nat)
  /-- GATHER (R165) -/
  | gather (q ns : Nat)
  /-- LOG_TIMEOUT (R162) -/
  | logTimeout (id : Nat)
  /-- HANDOFF_START (R181) -/
  | handoffStart (m : Msg)
  /-- OFFER (R181) -/
  | offer (m : Msg) (tbl : GivenTable)
  /-- OFFER_ACK (R181) -/
  | offerAck (m : Msg)
  /-- LEASH_CAS (R182) -/
  | leashCas (m : Msg)
  /-- CAS_RESULT (R181) -/
  | casResult (m : Msg)
  /-- LEASH_RELEASE (R181) -/
  | leashRelease (m : Msg)
  /-- LEASH_QUERY (R182) -/
  | leashQuery (m : Msg)
  /-- QUERY_RESULT (R181) -/
  | queryResult (m : Msg)
  /-- HANDOFF_CANCEL (R181) -/
  | handoffCancel (m : Msg)
  /-- HOLD_DROP (R178) -/
  | holdDrop (m : Msg)
  /-- HOLD_FREE (R181) -/
  | holdFree (m : Msg)
  /-- LEASH_GRANT (R181) -/
  | leashGrant (m : Msg) (tbl : GivenTable)
  /-- PING (R187) -/
  | ping (m : Msg)
  /-- PING_ACK (R187) -/
  | pingAck (m : Msg)
  /-- TOKEN_APPEND (R162) -/
  | tokenAppend (m : Msg)
  /-- TOKEN_RESULT (R160) -/
  | tokenResult (m : Msg)
  /-- HOME_MOVED (R196) -/
  | homeMoved (m : Msg)
  /-- CLOSE (R181) -/
  | close (m : Msg)
  /-- HOME_RELEASED (R196) -/
  | homeReleased (m : Msg)
  /-- HOLD_EMPTY (R182) -/
  | holdEmpty (m : Msg)
  /-- REPLAY_REPORT (R191) -/
  | replayReport (h chip epoch positions : Nat)
  /-- OFFER_TIMEOUT (R181) -/
  | offerTimeout (h : Nat)
  /-- CAS_TIMEOUT (R181) -/
  | casTimeout (h : Nat)
  /-- HANDOFF_LIMIT (R186) -/
  | handoffLimit (h : Nat)
  /-- FETCH_START (R184) -/
  | fetchStart
  /-- FETCH_COMPLETE (R183) -/
  | fetchComplete (h : Nat)
  /-- PING_INTERVAL (R187) -/
  | pingInterval
  /-- OWNER_TIMEOUT (R187) -/
  | ownerTimeout (chip : Nat)
  /-- HOME_FENCE (R193) -/
  | homeFence
  /-- PARTNER_TAKEOVER (R194) -/
  | partnerTakeover
  /-- BACKUP_READ_TIMER (R198) -/
  | backupReadTimer (tag : Nat)
  /-- FAR_READ_DONE (R46) -/
  | farReadDone (tag : Nat) (good : Bool) (refresh : Nat)
  /-- PREFETCH_RETRY (R39) -/
  | prefetchRetry
  /-- COPYDOWN_HOLD_EXPIRY (R39) -/
  | copydownHoldExpiry (k : Nat)
  /-- MIGRATION_START (R51) -/
  | migrationStart (k dst : Nat)
  /-- MIGRATION_COPY_COMPLETE (R51) -/
  | migrationCopyComplete (k : Nat)
  /-- MIGRATION_FLIP_DONE (R51) -/
  | migrationFlipDone (k : Nat)
  /-- MIGRATION_DEST_FAIL (R51) -/
  | migrationDestFail (k : Nat)
  /-- TRACKER_GEN_ADVANCE (R51) -/
  | trackerGenAdvance
  /-- PAGE_READ (R218) -/
  | pageRead (m : CohMsg)
  /-- PAGE_DATA (R219) -/
  | pageData (m : CohMsg) (hb data scale : List Byte)
  /-- GEN_STALE (R219) -/
  | genStale (m : CohMsg) (found : List (Nat × Nat))
  /-- NOT_SEALED (R219) -/
  | notSealed (m : CohMsg)
  /-- INVAL (R219) -/
  | inval (m : CohMsg)
  /-- INVAL_ACK (R218) -/
  | invalAck (m : CohMsg)
  /-- DROP (R218) -/
  | drop (m : CohMsg)
  /-- FENCE_NOTICE (R219) -/
  | fenceNotice (m : CohMsg)
  /-- FENCED (R219) -/
  | fenced (m : CohMsg)
  /-- FLUSH_DONE (R221) -/
  | flushDone (m : CohMsg)
  /-- INVAL_TIMEOUT (R218) -/
  | invalTimeout (k : Nat)
  /-- LOAD (R208) -/
  | load_ (src : AccFrom) (tag addr size : Nat) (ue : Bool)
  /-- STORE (R207) -/
  | store_ (src : AccFrom) (tag addr : Nat) (bytes : List Byte)
  /-- HINT_FETCH (R223) -/
  | hintFetch (src : AccFrom) (tag addr : Nat) (bytes : List Byte)
  /-- FADD32 (R209) -/
  | fadd32 (src : AccFrom) (tag addr value : Nat) (noret : Bool)
  /-- FADD64 (R209) -/
  | fadd64 (src : AccFrom) (tag addr value : Nat) (noret : Bool)
  /-- CAS32 (R209) -/
  | cas32 (src : AccFrom) (tag addr compare new : Nat) (noret : Bool)
  /-- CAS64 (R209) -/
  | cas64 (src : AccFrom) (tag addr compare new : Nat) (noret : Bool)
  /-- UMIN32 (R209) -/
  | umin32 (src : AccFrom) (tag addr value : Nat) (noret : Bool)
  /-- UMIN64 (R209) -/
  | umin64 (src : AccFrom) (tag addr value : Nat) (noret : Bool)
  /-- UMAX32 (R209) -/
  | umax32 (src : AccFrom) (tag addr value : Nat) (noret : Bool)
  /-- UMAX64 (R209) -/
  | umax64 (src : AccFrom) (tag addr value : Nat) (noret : Bool)
  /-- SMIN32 (R209) -/
  | smin32 (src : AccFrom) (tag addr value : Nat) (noret : Bool)
  /-- SMIN64 (R209) -/
  | smin64 (src : AccFrom) (tag addr value : Nat) (noret : Bool)
  /-- SMAX32 (R209) -/
  | smax32 (src : AccFrom) (tag addr value : Nat) (noret : Bool)
  /-- SMAX64 (R209) -/
  | smax64 (src : AccFrom) (tag addr value : Nat) (noret : Bool)
  /-- FPADD32 (R209) -/
  | fpadd32 (src : AccFrom) (tag addr value : Nat) (noret : Bool)
  /-- ACCESS_ANSWER (R249) -/
  | accessAnswer (tag status : Nat) (data : List Byte)
  /-- LOAD_TIMEOUT (R213) -/
  | loadTimeout (page : Bool) (tag : Nat)
  /-- FABRIC_FENCE (R212) -/
  | fabricFence (who : Requester)
  /-- ACN_ARM (R230) -/
  | acnArm (window : Option Nat) (counter target route : Nat)
  /-- ACN_DISARM (R228) -/
  | acnDisarm (window : Option Nat) (counter target route : Nat)
  /-- ACN_SIGNAL (R229) -/
  | acnSignal (window : Option Nat) (counter value : Nat)
  /-- MOV_QUEUE_DOORBELL (R224) -/
  | movQueueDoorbell (q tail : Nat)
  /-- COPY (R226) -/
  | copy_ (q : Nat)
  /-- COPY_PAGE (R226) -/
  | copyPage (q : Nat)
  /-- FILL (R226) -/
  | fill (q : Nat)
  /-- BARRIER (R226) -/
  | barrier (q : Nat)
  /-- MOVER_DESCRIPTOR_END (R227) -/
  | moverDescriptorEnd (id : Nat)
  /-- SEND_QUEUE_DOORBELL (R253) -/
  | sendQueueDoorbell (q tail : Nat)
  /-- SEND (R254) -/
  | send (q : Nat) (read : SrcRead)
  /-- DATA_PACKET_RECEIVE (R259) -/
  | dataPacketReceive (packet : List Byte) (resends : Nat) (blockFail : Bool)
  /-- ACK_PACKET_RECEIVE (R254) -/
  | ackPacketReceive (packet : List Byte)
  /-- RTO_EXPIRY (R254) -/
  | rtoExpiry (seq : Nat) (read : SrcRead)
  /-- SEND_GIVE_UP (R254) -/
  | sendGiveUp (seq : Nat)
  /-- FILL_TIMEOUT (R262) -/
  | fillTimeout (buf : Nat)
  /-- FLIT_RECEIVE (R241) -/
  | flitReceive (p : Nat) (f : Flit)
  /-- NAK (R241) -/
  | nak (p : Nat) (f : Flit)
  /-- REPLAY_TIMEOUT (R241) -/
  | replayTimeout (p : Nat)
  /-- RETRAIN (R242) -/
  | retrain (p : Nat)
  /-- RETRAIN_DONE (R242) -/
  | retrainDone (p : Nat)
  /-- RETRAIN_TIMEOUT (R242) -/
  | retrainTimeout (p : Nat)
  /-- PORT_UP (R242) -/
  | portUp (p width peer : Nat)
  /-- LANE_FAIL (R245) -/
  | laneFail (p lane : Nat)
  /-- SPARE_LANE_TRAINED (R245) -/
  | spareLaneTrained (p : Nat)
  /-- HERDER_SELECT (R274) -/
  | herderSelect (p : Nat)
  /-- SHAPER_REFILL (R276) -/
  | shaperRefill
  /-- COLLAR_REFILL (R278) -/
  | collarRefill (t k : Nat)
  /-- RESV_TIMEOUT (R280) -/
  | resvTimeout (kind h step : Nat)
  /-- SCT_CALIBRATION_START (R107) -/
  | sctCalibrationStart (macroNo : Nat)
  /-- SCT_CALIBRATION_END (R109) -/
  | sctCalibrationEnd (macroNo gain offset temp : Nat) (ok : Bool)
  /-- KNL_PROGRAM_DONE (R305) -/
  | knlProgramDone (unit : Nat)
  /-- KNL_PROGRAM_FAIL (R321) -/
  | knlProgramFail (unit : Nat)
  /-- KNL_READ_DONE (R307) -/
  | knlReadDone (what : KRead) (e : KReadEnd)
  /-- KNL_ERASE_DONE (R310) -/
  | knlEraseDone (sb : Nat) (failed : Option Nat)
  /-- KNL_JOURNAL_TIMER (R303) -/
  | knlJournalTimer
  /-- KNL_GC_START (R310) -/
  | knlGcStart (g : Nat)
  /-- KNL_FOLD (R311) -/
  | knlFold
  /-- KNL_WL_MOVE (R312) -/
  | knlWlMove
  /-- KNL_RESTART (R317) -/
  | knlRestart
  /-- KNL_FLUSH_COMPLETE (R314): whether slots A and B verify at a boot that a held reset brings -/
  | knlFlushComplete (okA okB : Bool)
  /-- KNL_TEMP_MINUTE (R322) -/
  | knlTempMinute (temp : Int)
  /-- KNL_DIE_FAIL (R321) -/
  | knlDieFail (die : Nat)
  /-- ISL_IDLE_STOP (R370) -/
  | islIdleStop (island : Nat)
  /-- WHISTLE (R370) -/
  | whistle (island : Nat)
  /-- ISL_RESET (R371): the credits of its crossings in flight -/
  | islReset (island : Nat) (cause : ResetCause) (credits : Nat)
  /-- ISL_RESET_END (R371) -/
  | islResetEnd (island : Nat)
  /-- ISL_THROTTLE (R367) -/
  | islThrottle (island freq temp : Nat) (cause : ThrottleCause)
  /-- LIMIT_BREACH (R367) -/
  | limitBreach (island credits : Nat)
  /-- BARK_IRQ_WINDOW_END (R381) -/
  | barkIrqWindowEnd
  /-- LEDGER_AUDIT_TIMER (R390) -/
  | ledgerAuditTimer (hold : Nat)
  /-- PATROL_TEST (R386) -/
  | patrolTest (u : PatrolUnit) (fails : Bool)
  /-- CORE_FAULT (R383) -/
  | coreFault (core : Nat)
  /-- MGMT_TAKEOVER (R384) -/
  | mgmtTakeover
  /-- SEC_RESTART (R383) -/
  | secRestart (back : Bool)
  /-- SEC_REENTRY (R411) -/
  | secReentry (back : Bool)
  /-- POD_KEY_ROTATE (R418) -/
  | podKeyRotate
  /-- REPAIR_BURN (R388) -/
  | repairBurn
  /-- POWER_ON_RESET (R426): the straps of PWR_STRAPS, and whether slots A and B verify -/
  | powerOnReset (straps : Nat) (okA okB : Bool)
  /-- FW_READY (R337) -/
  | fwReady
  /-- PERST_N_FALL (R338): whether slots A and B verify at a boot it brings -/
  | perstNFall (okA okB : Bool)
  /-- PERST_N_RISE (R337) -/
  | perstNRise
  /-- CXL_LINK_UP (R326): lanes, code of the rate, 1 CXL or 2 PCIe -/
  | cxlLinkUp (width rate mode : Nat)
  /-- SURPRISE_LINK_DOWN (R338) -/
  | surpriseLinkDown
  /-- WARM_RESET_N (R373): whether slots A and B verify -/
  | warmResetN (okA okB : Bool)
  /-- PWRFAIL_N_FALL (R428) -/
  | pwrfailFall
  /-- RAIL_UV (R427) -/
  | railUv (rail : Nat)
  /-- RAIL_OV (R427) -/
  | railOv (rail : Nat)
  /-- THERM_ALERT (R430) -/
  | thermAlert (island temp : Nat)
  /-- THERM_ALERT_RELEASE (R430) -/
  | thermAlertRelease
  /-- THERMAL_TRIP (R430) -/
  | thermalTrip (island : Nat)
  /-- REFCLK_LOSS (R432): 0 REFCLK_SYS, 1 REFCLK_CXL, 2 + k REFCLK_PG k -/
  | refclkLoss (clock : Nat)
  /-- REFCLK_RESTORE (R432) -/
  | refclkRestore (clock : Nat)
  /-- IDCODE (R438) -/
  | tapIdcode
  /-- SAMPLE_PRELOAD (R437) -/
  | tapSamplePreload (cells : Nat)
  /-- EXTEST (R440) -/
  | tapExtest
  /-- EXTEST_PULSE (R439) -/
  | tapExtestPulse
  /-- EXTEST_TRAIN (R439) -/
  | tapExtestTrain
  /-- HIGHZ (R437) -/
  | tapHighz
  /-- CLAMP (R437) -/
  | tapClamp
  /-- BYPASS (R437) -/
  | tapBypass (enc : Nat)
  /-- TAP_SCAN_BIST (R437) -/
  | tapScanBist (enc : Nat)
  /-- TAP_CORE_DEBUG (R437) -/
  | tapCoreDebug (enc : Nat)
  /-- TAP_EFUSE_READ (R437) -/
  | tapEfuseRead (enc : Nat)
  /-- TRST_N (R433) -/
  | trst
  /-- MCTP_CERTIFICATES (R415) -/
  | mctpCertificates
  /-- MCTP_QUOTE (R415) -/
  | mctpQuote (nonce : List Byte)
  /-- MCTP_HEALTH (R415) -/
  | mctpHealth
  /-- MCTP_POWER_STATUS (R415) -/
  | mctpPowerStatus
  /-- I3C_SETDASA (R435) -/
  | i3cSetdasa (static dyn : Nat)
  /-- I3C_ENTDAA (R435) -/
  | i3cEntdaa (dyn : Nat)
  /-- MIRROR_UPDATE (R176) -/
  | mirrorUpdate (home n : Nat) (u : MirrorUpd)
  /-- MIRROR_ACK (R176) -/
  | mirrorAck (n : Nat)
  /-- ISLAND_RESTART (R367) -/
  | islandRestart (island : Nat)
  /-- SCT_RECAL_TEMPERATURE (R107) -/
  | sctRecalTemperature (macroNo temp : Nat)
  /-- FIRST_PASS_COMPLETE (R134) -/
  | firstPassComplete (h l : Nat)
deriving DecidableEq, Repr

end Sys2Proof
end

