-- ==== Sys2Proof/Machine/Bits.lean ====
section
/-! DEFINITION. Checksums the spec names: CRC-32C (R25, R172, R377, R404). -/

namespace Sys2Proof.Machine

/-- Eight steps of the CRC-32C register, reflected polynomial 0x82F63B78. -/
def crcSteps : Nat → Nat → Nat
  | 0, c => c
  | n + 1, c => crcSteps n (if c % 2 = 1 then (c / 2) ^^^ 0x82F63B78 else c / 2)

/-- The CRC-32C register after bytes. -/
def crcRun : Nat → List Byte → Nat
  | c, [] => c
  | c, b :: bs => crcRun (crcSteps 8 (c ^^^ b.toNat)) bs

/-- CRC-32C of bytes. -/
def crc32c (bs : List Byte) : Nat := crcRun 0xFFFFFFFF bs ^^^ 0xFFFFFFFF

end Sys2Proof.Machine
end

