-- ==== Sys2Proof/Machine/Crypto.lean ====
section
/-! DEFINITION. SHA-384 and AES-256, which the draws of the sampler (R154) and the rotation's sign vector (R125) name. The
round constants are computed from their definitions: roots of primes, and the inverse in GF(2^8). -/

namespace Sys2Proof.Machine

/-- The largest r, of at most n + 1 bits, with r^k ≤ v. -/
def rootOf (k v : Nat) : Nat → Nat
  | 0 => 0
  | n + 1 =>
    let r := 2 * rootOf k (v / 2 ^ k) n
    if (r + 1) ^ k ≤ v then r + 1 else r

/-- The first n primes. -/
def primes (n : Nat) : List Nat :=
  ((List.range 420).filter fun p => 2 ≤ p && (List.range 21).all fun d => d < 2 || p ≤ d || p % d != 0).take n

def rotr64 (x n : Nat) : Nat := (x / 2 ^ n + x * 2 ^ (64 - n)) % 2 ^ 64

/-- The round constants: the first 64 bits of the fractions of the cube roots of the first 80 primes. -/
def shaK : List Nat := (primes 80).map fun p => rootOf 3 (p * 2 ^ 192) 68 % 2 ^ 64

/-- The initial hash value of SHA-384: the first 64 bits of the fractions of the square roots of the ninth to sixteenth primes. -/
def shaIv : List Nat := ((primes 16).drop 8).map fun p => rootOf 2 (p * 2 ^ 128) 68 % 2 ^ 64

/-- A big-endian number. -/
def beNat (l : List Byte) : Nat := l.foldl (fun a b => 256 * a + b.toNat) 0

/-- n bytes of a number, big-endian. -/
def beBytes (n v : Nat) : List Byte := (leBytes n v).reverse

/-- The message schedule, latest word first, grown by n words. -/
def shaSchedule : Nat → List Nat → List Nat
  | 0, w => w
  | n + 1, w =>
    let a := w.getD 1 0
    let b := w.getD 14 0
    let s1 := rotr64 a 19 ^^^ rotr64 a 61 ^^^ a / 64
    let s0 := rotr64 b 1 ^^^ rotr64 b 8 ^^^ b / 128
    shaSchedule n ((w.getD 15 0 + s0 + w.getD 6 0 + s1) % 2 ^ 64 :: w)

/-- One round on the eight working variables. -/
def shaRound (v : List Nat) (k w : Nat) : List Nat :=
  match v with
  | [a, b, c, d, e, f, g, h] =>
    let s1 := rotr64 e 14 ^^^ rotr64 e 18 ^^^ rotr64 e 41
    let ch := (e &&& f) ^^^ ((2 ^ 64 - 1 - e) &&& g)
    let t1 := h + s1 + ch + k + w
    let s0 := rotr64 a 28 ^^^ rotr64 a 34 ^^^ rotr64 a 39
    let mj := (a &&& b) ^^^ (a &&& c) ^^^ (b &&& c)
    [(t1 + s0 + mj) % 2 ^ 64, a, b, c, (d + t1) % 2 ^ 64, e, f, g]
  | _ => v

/-- The hash value after one block of 128 bytes. -/
def shaBlock (hs : List Nat) (block : List Byte) : List Nat :=
  let w0 := (List.range 16).map fun i => beNat ((block.drop (8 * i)).take 8)
  let ws := (shaSchedule 64 w0.reverse).reverse
  let v := (shaK.zip ws).foldl (fun v kw => shaRound v kw.1 kw.2) hs
  (hs.zip v).map fun p => (p.1 + p.2) % 2 ^ 64

/-- The blocks of a padded message, n of them. -/
def shaBlocks : Nat → List Nat → List Byte → List Nat
  | 0, hs, _ => hs
  | n + 1, hs, m => shaBlocks n (shaBlock hs (m.take 128)) (m.drop 128)

/-- SHA-384 of a message, 48 bytes. -/
def sha384 (m : List Byte) : List Byte :=
  let zeros := (240 - (m.length + 1) % 128) % 128
  let p := m ++ [0x80] ++ List.replicate zeros 0 ++ beBytes 16 (8 * m.length)
  ((shaBlocks (p.length / 128) shaIv p).take 6).flatMap (beBytes 8)

/-! ### AES-256 -/

/-- Multiplication by x in GF(2^8). -/
def gfDouble (a : Nat) : Nat := if 2 * a < 256 then 2 * a else (2 * a) ^^^ 0x11B

/-- The product in GF(2^8), over n bits of b. -/
def gfMul : Nat → Nat → Nat → Nat
  | 0, _, _ => 0
  | n + 1, a, b => (if b % 2 = 1 then a else 0) ^^^ gfMul n (gfDouble a) (b / 2)

/-- The inverse in GF(2^8), a^254; 0 for 0. -/
def gfInv (a : Nat) : Nat := (List.range 253).foldl (fun x _ => gfMul 8 x a) a

/-- The S-box. -/
def aesSub (a : Nat) : Nat :=
  let b := gfInv a
  let r (n : Nat) : Nat := (b * 2 ^ n + b / 2 ^ (8 - n)) % 256
  b ^^^ r 1 ^^^ r 2 ^^^ r 3 ^^^ r 4 ^^^ 0x63

/-- Two lists of bytes, bit by bit exclusive or. -/
def xorBytes (a b : List Nat) : List Nat := (a.zip b).map fun p => p.1 ^^^ p.2

/-- The words of the key schedule, latest first, grown to 60; i is the next word's number. -/
def aesExpand : Nat → Nat → Nat → List (List Nat) → List (List Nat)
  | 0, _, _, w => w
  | n + 1, i, rc, w =>
    let t := w.getD 0 []
    let u := if i % 8 = 0 then xorBytes ((t.drop 1 ++ t.take 1).map aesSub) [rc, 0, 0, 0]
             else if i % 8 = 4 then t.map aesSub else t
    aesExpand n (i + 1) (if i % 8 = 0 then gfDouble rc else rc) (xorBytes (w.getD 7 []) u :: w)

/-- The 15 round keys of a 32-byte key. -/
def aesKeys (key : List Nat) : List (List Nat) :=
  let w := ((List.range 8).map fun i => (key.drop (4 * i)).take 4).reverse
  let ws := (aesExpand 52 8 1 w).reverse
  (List.range 15).map fun r => ((ws.drop (4 * r)).take 4).flatten

/-- The rows of the state shifted. -/
def aesShift (s : List Nat) : List Nat := (List.range 16).map fun i => s.getD ((i + 4 * (i % 4)) % 16) 0

/-- One column mixed. -/
def aesMixCol (c : List Nat) : List Nat :=
  (List.range 4).map fun i =>
    gfDouble (c.getD i 0) ^^^ gfDouble (c.getD ((i + 1) % 4) 0) ^^^ c.getD ((i + 1) % 4) 0
      ^^^ c.getD ((i + 2) % 4) 0 ^^^ c.getD ((i + 3) % 4) 0

/-- The columns of the state mixed. -/
def aesMix (s : List Nat) : List Nat := (List.range 4).flatMap fun c => aesMixCol ((s.drop (4 * c)).take 4)

/-- AES-256 of one 16-byte block. -/
def aes256 (key block : List Byte) : List Byte :=
  let ks := aesKeys (key.map BitVec.toNat)
  let s0 := xorBytes (block.map BitVec.toNat) (ks.getD 0 [])
  let s13 := (List.range 13).foldl (fun s r => xorBytes (aesMix (aesShift (s.map aesSub))) (ks.getD (r + 1) [])) s0
  (xorBytes (aesShift (s13.map aesSub)) (ks.getD 14 [])).map fun b => BitVec.ofNat 8 b

/-! ### The inverse cipher, and XTS-AES-256 (R308, 11_kennel.md) -/

/-- The inverse S-box: the inverse of the affine map, then of the field. -/
def aesUnsub (a : Nat) : Nat :=
  let r (n : Nat) : Nat := (a * 2 ^ n + a / 2 ^ (8 - n)) % 256
  gfInv (r 1 ^^^ r 3 ^^^ r 6 ^^^ 0x05)

/-- The rows of the state shifted back. -/
def aesUnshift (s : List Nat) : List Nat := (List.range 16).map fun i => s.getD ((i + 12 * (i % 4)) % 16) 0

/-- One column mixed back. -/
def aesUnmixCol (c : List Nat) : List Nat :=
  (List.range 4).map fun i =>
    gfMul 8 (c.getD i 0) 14 ^^^ gfMul 8 (c.getD ((i + 1) % 4) 0) 11 ^^^ gfMul 8 (c.getD ((i + 2) % 4) 0) 13 ^^^ gfMul 8 (c.getD ((i + 3) % 4) 0) 9

def aesUnmix (s : List Nat) : List Nat := (List.range 4).flatMap fun c => aesUnmixCol ((s.drop (4 * c)).take 4)

/-- AES-256 decryption of one 16-byte block. -/
def aesDec (key block : List Byte) : List Byte :=
  let ks := aesKeys (key.map BitVec.toNat)
  let s0 := xorBytes (block.map BitVec.toNat) (ks.getD 14 [])
  let s13 := (List.range 13).foldl (fun s r => aesUnmix (xorBytes ((aesUnshift s).map aesUnsub) (ks.getD (13 - r) []))) s0
  (xorBytes ((aesUnshift s13).map aesUnsub) (ks.getD 0 [])).map fun b => BitVec.ofNat 8 b

/-- The tweak of the next block: multiplied by x, little-endian. -/
def xtsNext (t : Nat) : Nat := t * 2 % 2 ^ 128 ^^^ (if 2 ^ 127 ≤ t then 0x87 else 0)

/-- XTS over n 16-byte blocks from a tweak on, by a block function. -/
def xtsBlocks (f : List Byte → List Byte) : Nat → Nat → List Byte → List Byte
  | 0, _, _ => []
  | n + 1, t, d =>
    let m := leBytes 16 t
    let x (a : List Byte) : List Byte := (a.zip m).map fun p => p.1 ^^^ p.2
    x (f (x (d.take 16))) ++ xtsBlocks f n (xtsNext t) (d.drop 16)

/-- XTS-AES-256 of a data unit under a 64-byte key and a tweak, and its inverse. -/
def xtsEnc (key : List Byte) (tweak : Nat) (d : List Byte) : List Byte :=
  xtsBlocks (aes256 (key.take 32)) (d.length / 16) (leNat (aes256 (key.drop 32) (leBytes 16 tweak))) d
def xtsDec (key : List Byte) (tweak : Nat) (d : List Byte) : List Byte :=
  xtsBlocks (aesDec (key.take 32)) (d.length / 16) (leNat (aes256 (key.drop 32) (leBytes 16 tweak))) d

/-! ### HKDF-SHA-384 (RFC 5869) -/

/-- HMAC-SHA-384. -/
def hmac384 (key m : List Byte) : List Byte :=
  let k := (if 128 < key.length then sha384 key else key)
  let k128 := (k ++ List.replicate 128 0).take 128
  sha384 (k128.map (· ^^^ 0x5C) ++ sha384 (k128.map (· ^^^ 0x36) ++ m))

/-- HKDF-SHA-384 of at most 48 bytes of output. -/
def hkdf384 (salt ikm info : List Byte) (n : Nat) : List Byte := (hmac384 (hmac384 salt ikm) (info ++ [1])).take n

/-! ### AES-256-GCM -/

/-- The product in GF(2^128) with GCM's order of bits: x of which n bits are left, the top one first. -/
def gcmMul : Nat → Nat → Nat → Nat
  | 0, _, _ => 0
  | n + 1, x, v => (if x / 2 ^ n % 2 = 1 then v else 0) ^^^ gcmMul n x (if v % 2 = 1 then v / 2 ^^^ 0xE1 * 2 ^ 120 else v / 2)

/-- GHASH over 16-byte blocks, n of them. -/
def ghash (h : Nat) : Nat → Nat → List Byte → Nat
  | 0, y, _ => y
  | n + 1, y, d => ghash h n (gcmMul 128 (y ^^^ beNat ((d.take 16 ++ List.replicate 16 0).take 16)) h) (d.drop 16)

/-- Bytes filled up to a multiple of 16. -/
def pad16Bytes (d : List Byte) : List Byte := d ++ List.replicate ((16 - d.length % 16) % 16) 0

/-- The key stream blocks of counter mode, n of them from a counter on. -/
def gcmStream (key nonce : List Byte) : Nat → Nat → List Byte
  | 0, _ => []
  | n + 1, c => aes256 key (nonce ++ beBytes 4 c) ++ gcmStream key nonce n (c + 1)

/-- Counter-mode encryption of bytes, its own inverse. -/
def gcmCrypt (key nonce d : List Byte) : List Byte :=
  (d.zip (gcmStream key nonce (ceilDiv d.length 16) 2)).map fun p => p.1 ^^^ p.2

/-- The 16-byte tag over associated data and ciphertext. -/
def gcmTag (key nonce aad c : List Byte) : List Byte :=
  let h := beNat (aes256 key (List.replicate 16 0))
  let d := pad16Bytes aad ++ pad16Bytes c ++ beBytes 8 (8 * aad.length) ++ beBytes 8 (8 * c.length)
  let g := ghash h (d.length / 16) 0 d
  beBytes 16 (g ^^^ beNat (aes256 key (nonce ++ beBytes 4 1)))

end Sys2Proof.Machine
end

