-- ==== Sys2Proof/Config.lean ====
section
/-! DEFINITION. What the spec leaves to the device, the board, the boot or the implementation, and the free values:
constants without a body, so that no proof can rest on a value of theirs. -/

namespace Sys2Proof.Config

/-- The reset value of a register field whose reset the spec leaves to the device, the firmware image, the board or the
boot: a function of the register's BAR0 address and the field's lowest bit. -/
opaque perDevice : Nat → Nat → Nat

/-- The fixed placement hash H of near state (R36, 02_state_memory.md): of handle, layer and page index. -/
opaque nearHash : Nat → Nat → Nat → Nat

/-- The second placement hash H′ of near state (R36). -/
opaque nearHash2 : Nat → Nat → Nat → Nat

/-- The hash of tier and frame number that indexes the directory (R216, 08_fabric_memory_semantics.md). -/
opaque dirHash : Nat → Nat

/-- The fixed hash of two chip ids that chooses the single path of their ACCESS and COHERENCE packets (R247). -/
opaque pathHash : Nat → Nat → Nat

/-- Where the page-reference array of a layer of a request lies in local memory (R28, 02_state_memory.md): of handle and layer. -/
opaque listArray : Nat → Nat → Nat

/-- Element i of the Walsh-Hadamard transform of 2^k binary32 numbers as the device computes it: R126 (05_transcoder.md) fixes
no order of its stages, only a bound of the error. -/
opaque hadamard : Nat → List Nat → Nat → Nat

/-- The engines' binary32 exponential: R59 (03_attention_engines.md) does not give its table and polynomial. -/
opaque expF32 : Nat → Nat

/-- The engines' binary32 natural logarithm (R59). -/
opaque lnF32 : Nat → Nat

/-- Code i of the basis rows that the transcoder's first pass builds from sampled vectors at rank r (R132): the rounding of
its operations is left open. -/
opaque basisCode : List (List Int) → Nat → Nat → Nat

/-- Scale byte i of the same basis. -/
opaque basisScale : List (List Int) → Nat → Nat → Nat

/-- The place in a prefix of (id, e) pairs that a draw picks where no cumulative sum exceeds the product of R152: its rule
names none then. -/
opaque lateDraw : List (Nat × Nat) → Nat → Nat

/-- Byte i of the embedding slice of a row that no EMB_LOAD has brought (R164). -/
opaque embByte : Nat → Nat → Nat

/-- What a register of a measured quantity (energy, leakage, a rail's voltage and current: R424 and R433) shows at a local counter
value: the spec gives no value. -/
opaque sensor : Nat → Nat → Nat

/-- Byte i of the host window's header for a chip id and a running configuration version: R334 (12_host_interface.md) says what it
holds, not its layout. -/
opaque windowHeader : Nat → Nat → Nat → Nat

/-- The DER bytes of the identity, wrapping and Device CA certificates (R413, 14_security.md). -/
opaque certificate : Nat → List Byte

/-- Byte i of the ROM's measurement, fixed in mask (R407). -/
opaque romMeasure : Nat → Byte

/-- The 96 bytes of a signature r and s over a message by the identity key, which never leaves the device (R412, R414): of the message
and of how many free values had been drawn. -/
opaque signature : List Byte → Nat → Nat → Byte

/-- The 16 bytes of the identifier of the vendor-defined event records of R327 (12_host_interface.md), and the records an event log is said
to hold. -/
opaque eventUuid : Nat → Byte
opaque eventLogSize : Nat → BitVec 16

/-- The effects that the Command Effects Log tells of a CXL opcode (R327). -/
opaque commandEffects : Nat → BitVec 16

/-- A value the spec leaves open, drawn anew: a function of how many were drawn before. -/
opaque free : Nat → Nat

end Sys2Proof.Config
end

