-- ==== Sys2Proof/Machine/RegTable.lean ====
section
/-! DEFINITION. The register space of PF0's BAR0: every register's address, its fields, their access types and
reset values, as the register tables of the chapters give them, at the block bases of R360 (12_host_interface.md);
and the offsets of the tenant-window registers (R332). A register's address is its byte address in BAR0. -/

namespace Sys2Proof.Machine

/-- The access types of R7 (00_scope.md); reserved bits are those no field covers. -/
inductive Acc where
  | ro | rw | rw1c | rw1s | wo | rwl
deriving DecidableEq, Repr

/-- One register field: its lowest bit, width, access type, reset value of index 0 of an array, reset value of every
other index, and whether the spec leaves the reset value to the device, the board or the boot. -/
structure RegField where
  lo : Nat
  w : Nat
  acc : Acc
  rst0 : Nat
  rst : Nat
  dev : Bool
deriving DecidableEq, Repr

/-- One register or array of registers: address of index 0, stride, count, size in bytes, fields. -/
structure RegDesc where
  base : Nat
  stride : Nat
  count : Nat
  size : Nat
  fields : List RegField
deriving DecidableEq, Repr

/-- A field of a register: the register's address, the field's lowest bit, its width. -/
structure Fld where
  addr : Nat
  lo : Nat
  w : Nat
deriving DecidableEq, Repr

namespace Reg

/-- STM_CAPS (02 R54) -/
def STM_CAPS : Nat := 0x030000
/-- STM_STATUS (02 R54) -/
def STM_STATUS : Nat := 0x030008
/-- STM_PREFETCH_CTL (02 R54) -/
def STM_PREFETCH_CTL : Nat := 0x030010
/-- STM_STALL_LIMIT (02 R54) -/
def STM_STALL_LIMIT : Nat := 0x030018
/-- STM_ERR_FLAGS (02 R54) -/
def STM_ERR_FLAGS : Nat := 0x030020
/-- STM_TRACKER_GEN (02 R54) -/
def STM_TRACKER_GEN : Nat := 0x030028
/-- STM_MIG_CTL (02 R54) -/
def STM_MIG_CTL : Nat := 0x030030
/-- STM_FREE_NEAR (02 R54) -/
def STM_FREE_NEAR : Nat := 0x030038
/-- STM_FREE_FAR (02 R54) -/
def STM_FREE_FAR : Nat := 0x030040
/-- STM_NPART_n (02 R54) -/
def STM_NPART (n : Nat) : Nat := 0x030100 + 8 * n
/-- STM_FPART_n (02 R54) -/
def STM_FPART (n : Nat) : Nat := 0x030180 + 8 * n
/-- STM_STALL_EVT_c (02 R54) -/
def STM_STALL_EVT (n : Nat) : Nat := 0x030200 + 8 * n
/-- STM_STALL_TICKS_c (02 R54) -/
def STM_STALL_TICKS (n : Nat) : Nat := 0x030240 + 8 * n
/-- STM_REF_TAKEN (02 R54) -/
def STM_REF_TAKEN : Nat := 0x030280
/-- STM_REF_DROPPED (02 R54) -/
def STM_REF_DROPPED : Nat := 0x030288
/-- STM_REF_LIVE (02 R54) -/
def STM_REF_LIVE : Nat := 0x030290
/-- STM_ALLOC_FAIL (02 R54) -/
def STM_ALLOC_FAIL : Nat := 0x030298
/-- STM_EVICT_DROP (02 R54) -/
def STM_EVICT_DROP : Nat := 0x0302A0
/-- STM_EVICT_COPY (02 R54) -/
def STM_EVICT_COPY : Nat := 0x0302A8
/-- STM_MIG_COMMIT (02 R54) -/
def STM_MIG_COMMIT : Nat := 0x0302B0
/-- STM_MIG_ABORT (02 R54) -/
def STM_MIG_ABORT : Nat := 0x0302B8
/-- STM_MIG_HOLD (02 R54) -/
def STM_MIG_HOLD : Nat := 0x0302C0
/-- STM_TOMB_FWD (02 R54) -/
def STM_TOMB_FWD : Nat := 0x0302C8
/-- STM_CRC_FAIL (02 R54) -/
def STM_CRC_FAIL : Nat := 0x0302D0
/-- STM_STALL_ABORT (02 R54) -/
def STM_STALL_ABORT : Nat := 0x0302D8
/-- STM_ERR_EVT_f (02 R54) -/
def STM_ERR_EVT (n : Nat) : Nat := 0x030300 + 4 * n
/-- STM_SPARE_d (02 R54) -/
def STM_SPARE (n : Nat) : Nat := 0x030400 + 4 * n
/-- PAE_CAPS (03 R84) -/
def PAE_CAPS : Nat := 0x040000
/-- PAE_STATUS (03 R84) -/
def PAE_STATUS : Nat := 0x040008
/-- PAE_ERR_FLAGS (03 R84) -/
def PAE_ERR_FLAGS : Nat := 0x040018
/-- PAE_TILE_MAP_w (03 R84) -/
def PAE_TILE_MAP (n : Nat) : Nat := 0x040020 + 8 * n
/-- PAE_SUBJOBS (03 R84) -/
def PAE_SUBJOBS : Nat := 0x040048
/-- PAE_BUSY_CYCLES (03 R84) -/
def PAE_BUSY_CYCLES : Nat := 0x040050
/-- PAE_POS_APPENDED (03 R84) -/
def PAE_POS_APPENDED : Nat := 0x040058
/-- PAE_PAGES_SEALED (03 R84) -/
def PAE_PAGES_SEALED : Nat := 0x040060
/-- PAE_ERR_EVT_f (03 R84) -/
def PAE_ERR_EVT (n : Nat) : Nat := 0x040100 + 4 * n
/-- DAE_CAPS (03 R85) -/
def DAE_CAPS : Nat := 0x050000
/-- DAE_STATUS (03 R85) -/
def DAE_STATUS : Nat := 0x050008
/-- DAE_CTL (03 R85) -/
def DAE_CTL : Nat := 0x050010
/-- DAE_ERR_FLAGS (03 R85) -/
def DAE_ERR_FLAGS : Nat := 0x050018
/-- DAE_LANE_MAP_w (03 R85) -/
def DAE_LANE_MAP (n : Nat) : Nat := 0x050020 + 8 * n
/-- DAE_CLASS_CFG_c (03 R85) -/
def DAE_CLASS_CFG (n : Nat) : Nat := 0x050080 + 8 * n
/-- DAE_JOB_STATUS_s (03 R85) -/
def DAE_JOB_STATUS (n : Nat) : Nat := 0x050100 + 8 * n
/-- DAE_JOBS_ACCEPTED (03 R85) -/
def DAE_JOBS_ACCEPTED : Nat := 0x050180
/-- DAE_SUBJOBS (03 R85) -/
def DAE_SUBJOBS : Nat := 0x050188
/-- DAE_INT_REPLAYS (03 R85) -/
def DAE_INT_REPLAYS : Nat := 0x050190
/-- DAE_MERGES (03 R85) -/
def DAE_MERGES : Nat := 0x050198
/-- DAE_GANG_FALLBACK (03 R85) -/
def DAE_GANG_FALLBACK : Nat := 0x0501A0
/-- DAE_DEFERRED (03 R85) -/
def DAE_DEFERRED : Nat := 0x0501A8
/-- DAE_BUSY_CYCLES (03 R85) -/
def DAE_BUSY_CYCLES : Nat := 0x0501B0
/-- DAE_BLOCK_RESEND (03 R85) -/
def DAE_BLOCK_RESEND : Nat := 0x0501B8
/-- DAE_ERR_EVT_f (03 R85) -/
def DAE_ERR_EVT (n : Nat) : Nat := 0x050200 + 4 * n
/-- DAE_JQ_CFG_q (03 R85) -/
def DAE_JQ_CFG (n : Nat) : Nat := 0x051000 + 16 * n
/-- DAE_JQ_PTR_q (03 R85) -/
def DAE_JQ_PTR (n : Nat) : Nat := 0x051008 + 16 * n
/-- DAE_JQ_DB_q (03 R85) -/
def DAE_JQ_DB (n : Nat) : Nat := 0x052000 + 8 * n
/-- SCT_CAPS (04 R120) -/
def SCT_CAPS : Nat := 0x060000
/-- SCT_STATUS (04 R120) -/
def SCT_STATUS : Nat := 0x060008
/-- SCT_CTL (04 R120) -/
def SCT_CTL : Nat := 0x060010
/-- SCT_ERR_FLAGS (04 R120) -/
def SCT_ERR_FLAGS : Nat := 0x060018
/-- SCT_CAL_REQ_w (04 R120) -/
def SCT_CAL_REQ (n : Nat) : Nat := 0x060020 + 8 * n
/-- SCT_RETIRED_w (04 R120) -/
def SCT_RETIRED (n : Nat) : Nat := 0x060030 + 8 * n
/-- SCT_PROF_p (04 R120) -/
def SCT_PROF (n : Nat) : Nat := 0x060100 + 8 * n
/-- SCT_EXACT_c (04 R120) -/
def SCT_EXACT (n : Nat) : Nat := 0x060200 + 8 * n
/-- SCT_EVALS (04 R120) -/
def SCT_EVALS : Nat := 0x060240
/-- SCT_EVAL_RETRY (04 R120) -/
def SCT_EVAL_RETRY : Nat := 0x060248
/-- SCT_EVAL_WAIT_NS (04 R120) -/
def SCT_EVAL_WAIT_NS : Nat := 0x060250
/-- SCT_SEL_PAGES (04 R120) -/
def SCT_SEL_PAGES : Nat := 0x060258
/-- SCT_RANGE_PAGES (04 R120) -/
def SCT_RANGE_PAGES : Nat := 0x060260
/-- SCT_UNSKETCHED (04 R120) -/
def SCT_UNSKETCHED : Nat := 0x060268
/-- SCT_SKETCH_SAT (04 R120) -/
def SCT_SKETCH_SAT : Nat := 0x060270
/-- SCT_CODE_SAT (04 R120) -/
def SCT_CODE_SAT : Nat := 0x060278
/-- SCT_CAL_RUNS (04 R120) -/
def SCT_CAL_RUNS : Nat := 0x060280
/-- SCT_ALLOC_WAIT (04 R120) -/
def SCT_ALLOC_WAIT : Nat := 0x060288
/-- SCT_AUDIT_HIST_b (04 R120) -/
def SCT_AUDIT_HIST (n : Nat) : Nat := 0x060300 + 8 * n
/-- SCT_LMAP_n (04 R120) -/
def SCT_LMAP (n : Nat) : Nat := 0x060400 + 4 * n
/-- SCT_MACRO_m (04 R120) -/
def SCT_MACRO (n : Nat) : Nat := 0x060600 + 8 * n
/-- SCT_ERR_EVT_f (04 R120) -/
def SCT_ERR_EVT (n : Nat) : Nat := 0x060900 + 4 * n
/-- TRC_CAPS (05 R146) -/
def TRC_CAPS : Nat := 0x070000
/-- TRC_STATUS (05 R146) -/
def TRC_STATUS : Nat := 0x070008
/-- TRC_CTL (05 R146) -/
def TRC_CTL : Nat := 0x070010
/-- TRC_ERR_FLAGS (05 R146) -/
def TRC_ERR_FLAGS : Nat := 0x070018
/-- TRC_PROF_p (05 R146) -/
def TRC_PROF (n : Nat) : Nat := 0x070100 + 8 * n
/-- TRC_PAGES_ENC (05 R146) -/
def TRC_PAGES_ENC : Nat := 0x070200
/-- TRC_CLIP_ELEMS (05 R146) -/
def TRC_CLIP_ELEMS : Nat := 0x070208
/-- TRC_ESCALATIONS (05 R146) -/
def TRC_ESCALATIONS : Nat := 0x070210
/-- TRC_LR_PAGES (05 R146) -/
def TRC_LR_PAGES : Nat := 0x070218
/-- TRC_LR_REJECTED (05 R146) -/
def TRC_LR_REJECTED : Nat := 0x070220
/-- TRC_BASES_BUILT (05 R146) -/
def TRC_BASES_BUILT : Nat := 0x070228
/-- TRC_BASIS_LIMIT (05 R146) -/
def TRC_BASIS_LIMIT : Nat := 0x070230
/-- TRC_COLD_PAGES (05 R146) -/
def TRC_COLD_PAGES : Nat := 0x070238
/-- TRC_PARK_IMAGES (05 R146) -/
def TRC_PARK_IMAGES : Nat := 0x070240
/-- TRC_PARK_BYTES (05 R146) -/
def TRC_PARK_BYTES : Nat := 0x070248
/-- TRC_NONFINITE (05 R146) -/
def TRC_NONFINITE : Nat := 0x070250
/-- TRC_PARK_MISSING (05 R146) -/
def TRC_PARK_MISSING : Nat := 0x070258
/-- TRC_ERR_EVT_f (05 R146) -/
def TRC_ERR_EVT (n : Nat) : Nat := 0x070300 + 4 * n
/-- TRC_LCLIP_l (05 R146) -/
def TRC_LCLIP (n : Nat) : Nat := 0x071000 + 8 * n
/-- SMP_CAPS (06 R169) -/
def SMP_CAPS : Nat := 0x180000
/-- SMP_STATUS (06 R169) -/
def SMP_STATUS : Nat := 0x180008
/-- SMP_CTL (06 R169) -/
def SMP_CTL : Nat := 0x180010
/-- SMP_ERR_FLAGS (06 R169) -/
def SMP_ERR_FLAGS : Nat := 0x180018
/-- SMP_EMB_CFG (06 R169) -/
def SMP_EMB_CFG : Nat := 0x180020
/-- SMP_DONE_s (06 R169) -/
def SMP_DONE (n : Nat) : Nat := 0x180100 + 8 * n
/-- SMP_TOKENS (06 R169) -/
def SMP_TOKENS : Nat := 0x180180
/-- SMP_DRAFTS_OFFERED (06 R169) -/
def SMP_DRAFTS_OFFERED : Nat := 0x180188
/-- SMP_DRAFTS_ACCEPTED (06 R169) -/
def SMP_DRAFTS_ACCEPTED : Nat := 0x180190
/-- SMP_COUNT_SAT (06 R169) -/
def SMP_COUNT_SAT : Nat := 0x180198
/-- SMP_COUNT_OVF (06 R169) -/
def SMP_COUNT_OVF : Nat := 0x1801A0
/-- SMP_GATHER_IDX (06 R169) -/
def SMP_GATHER_IDX : Nat := 0x1801A8
/-- SMP_GATHER_READS (06 R169) -/
def SMP_GATHER_READS : Nat := 0x1801B0
/-- SMP_LOG_ADOPTED (06 R169) -/
def SMP_LOG_ADOPTED : Nat := 0x1801B8
/-- SMP_ROW_HITS (06 R169) -/
def SMP_ROW_HITS : Nat := 0x1801C0
/-- SMP_ERR_EVT_f (06 R169) -/
def SMP_ERR_EVT (n : Nat) : Nat := 0x180200 + 4 * n
/-- SMP_SQ_CFG_q (06 R169) -/
def SMP_SQ_CFG (n : Nat) : Nat := 0x181000 + 16 * n
/-- SMP_SQ_PTR_q (06 R169) -/
def SMP_SQ_PTR (n : Nat) : Nat := 0x181008 + 16 * n
/-- SMP_SQ_DB_q (06 R169) -/
def SMP_SQ_DB (n : Nat) : Nat := 0x181200 + 8 * n
/-- RQT_CAPS (07 R200) -/
def RQT_CAPS : Nat := 0x020000
/-- RQT_STATUS (07 R200) -/
def RQT_STATUS : Nat := 0x020008
/-- RQT_CTL (07 R200) -/
def RQT_CTL : Nat := 0x020010
/-- RQT_FETCH_CFG (07 R200) -/
def RQT_FETCH_CFG : Nat := 0x020018
/-- RQT_PARTNER (07 R200) -/
def RQT_PARTNER : Nat := 0x020020
/-- RQT_ERR_FLAGS (07 R200) -/
def RQT_ERR_FLAGS : Nat := 0x020028
/-- RQT_ADMITTED (07 R200) -/
def RQT_ADMITTED : Nat := 0x020100
/-- RQT_CLOSED (07 R200) -/
def RQT_CLOSED : Nat := 0x020108
/-- RQT_FAILED (07 R200) -/
def RQT_FAILED : Nat := 0x020110
/-- RQT_LIVE (07 R200) -/
def RQT_LIVE : Nat := 0x020118
/-- RQT_ADOPTED (07 R200) -/
def RQT_ADOPTED : Nat := 0x020120
/-- RQT_HANDOFFS (07 R200) -/
def RQT_HANDOFFS : Nat := 0x020128
/-- RQT_CANCELLED (07 R200) -/
def RQT_CANCELLED : Nat := 0x020130
/-- RQT_CAS_REPEAT (07 R200) -/
def RQT_CAS_REPEAT : Nat := 0x020138
/-- RQT_OFFER_RESENT (07 R200) -/
def RQT_OFFER_RESENT : Nat := 0x020140
/-- RQT_STALE_MSG (07 R200) -/
def RQT_STALE_MSG : Nat := 0x020148
/-- RQT_COPY_FREE (07 R200) -/
def RQT_COPY_FREE : Nat := 0x020150
/-- RQT_FETCH_PAGES (07 R200) -/
def RQT_FETCH_PAGES : Nat := 0x020158
/-- RQT_FETCH_BYTES (07 R200) -/
def RQT_FETCH_BYTES : Nat := 0x020160
/-- RQT_FAILOVER (07 R200) -/
def RQT_FAILOVER : Nat := 0x020168
/-- RQT_REPLAY_REQ (07 R200) -/
def RQT_REPLAY_REQ : Nat := 0x020170
/-- RQT_REPLAY_POS (07 R200) -/
def RQT_REPLAY_POS : Nat := 0x020178
/-- RQT_TAKEOVERS (07 R200) -/
def RQT_TAKEOVERS : Nat := 0x020180
/-- RQT_BACKUP (07 R200) -/
def RQT_BACKUP : Nat := 0x020188
/-- RQT_BACKUP_WON (07 R200) -/
def RQT_BACKUP_WON : Nat := 0x020190
/-- RQT_BACKUP_DISCARD (07 R200) -/
def RQT_BACKUP_DISCARD : Nat := 0x020198
/-- RQT_LATE (07 R200) -/
def RQT_LATE : Nat := 0x0201A0
/-- RQT_REDIR_REPLACED (07 R200) -/
def RQT_REDIR_REPLACED : Nat := 0x0201A8
/-- RQT_ERR_EVT_f (07 R200) -/
def RQT_ERR_EVT (n : Nat) : Nat := 0x020200 + 4 * n
/-- RQT_REDIR_n (07 R200) -/
def RQT_REDIR (n : Nat) : Nat := 0x020400 + 8 * n
/-- MOV_CAPS (08 R234) -/
def MOV_CAPS : Nat := 0x200000
/-- MOV_STATUS (08 R234) -/
def MOV_STATUS : Nat := 0x200008
/-- MOV_CTL (08 R234) -/
def MOV_CTL : Nat := 0x200010
/-- MOV_ERR_FLAGS (08 R234) -/
def MOV_ERR_FLAGS : Nat := 0x200018
/-- MOV_DONE_s (08 R234) -/
def MOV_DONE (n : Nat) : Nat := 0x200100 + 8 * n
/-- MOV_BYTES (08 R234) -/
def MOV_BYTES : Nat := 0x200180
/-- MOV_WIN_FAULT (08 R234) -/
def MOV_WIN_FAULT : Nat := 0x200188
/-- MOV_REJECTED (08 R234) -/
def MOV_REJECTED : Nat := 0x200190
/-- MOV_TGT_DISCARD (08 R234) -/
def MOV_TGT_DISCARD : Nat := 0x200198
/-- MOV_INVAL_SENT (08 R234) -/
def MOV_INVAL_SENT : Nat := 0x2001A0
/-- MOV_INVAL_RECV (08 R234) -/
def MOV_INVAL_RECV : Nat := 0x2001A8
/-- MOV_DIR_EVICT (08 R234) -/
def MOV_DIR_EVICT : Nat := 0x2001B0
/-- MOV_GEN_STALE (08 R234) -/
def MOV_GEN_STALE : Nat := 0x2001B8
/-- MOV_HINT_PLACED (08 R234) -/
def MOV_HINT_PLACED : Nat := 0x2001C0
/-- MOV_HINT_DROPPED (08 R234) -/
def MOV_HINT_DROPPED : Nat := 0x2001C8
/-- MOV_FENCED (08 R234) -/
def MOV_FENCED : Nat := 0x2001D0
/-- MOV_TIMEOUTS (08 R234) -/
def MOV_TIMEOUTS : Nat := 0x2001D8
/-- MOV_ERR_EVT_f (08 R234) -/
def MOV_ERR_EVT (n : Nat) : Nat := 0x200200 + 4 * n
/-- MOV_MEMBER_m (08 R234) -/
def MOV_MEMBER (n : Nat) : Nat := 0x200400 + 8 * n
/-- MOV_WIN_LO_n (08 R234) -/
def MOV_WIN_LO (n : Nat) : Nat := 0x201000 + 16 * n
/-- MOV_WIN_HI_n (08 R234) -/
def MOV_WIN_HI (n : Nat) : Nat := 0x201008 + 16 * n
/-- MOV_Q_CFG_q (08 R234) -/
def MOV_Q_CFG (n : Nat) : Nat := 0x202000 + 16 * n
/-- MOV_Q_PTR_q (08 R234) -/
def MOV_Q_PTR (n : Nat) : Nat := 0x202008 + 16 * n
/-- MOV_Q_DB_q (08 R234) -/
def MOV_Q_DB (n : Nat) : Nat := 0x202400 + 8 * n
/-- ACN_CAPS (08 R236) -/
def ACN_CAPS : Nat := 0x800000
/-- ACN_STATUS (08 R236) -/
def ACN_STATUS : Nat := 0x800008
/-- ACN_ERR_FLAGS (08 R236) -/
def ACN_ERR_FLAGS : Nat := 0x800010
/-- ACN_INCREMENTS (08 R236) -/
def ACN_INCREMENTS : Nat := 0x800100
/-- ACN_SIGNALS (08 R236) -/
def ACN_SIGNALS : Nat := 0x800108
/-- ACN_EVENTS (08 R236) -/
def ACN_EVENTS : Nat := 0x800110
/-- ACN_EVENT_DROP (08 R236) -/
def ACN_EVENT_DROP : Nat := 0x800118
/-- ACN_ERR_EVT_f (08 R236) -/
def ACN_ERR_EVT (n : Nat) : Nat := 0x800200 + 4 * n
/-- ACN_ROUTE_CFG_r (08 R236) -/
def ACN_ROUTE_CFG (n : Nat) : Nat := 0x801000 + 16 * n
/-- ACN_ROUTE_ADDR_r (08 R236) -/
def ACN_ROUTE_ADDR (n : Nat) : Nat := 0x801008 + 16 * n
/-- ACN_TW_w (08 R236) -/
def ACN_TW (n : Nat) : Nat := 0x802000 + 8 * n
/-- FAB_CAPS (09 R267) -/
def FAB_CAPS : Nat := 0x080000
/-- FAB_STATUS (09 R267) -/
def FAB_STATUS : Nat := 0x080008
/-- FAB_CTL (09 R267) -/
def FAB_CTL : Nat := 0x080010
/-- FAB_ERR_FLAGS (09 R267) -/
def FAB_ERR_FLAGS : Nat := 0x080018
/-- FAB_SPARE_MAP (09 R267) -/
def FAB_SPARE_MAP : Nat := 0x080020
/-- FAB_ROUTE_m (09 R267) -/
def FAB_ROUTE (n : Nat) : Nat := 0x080100 + 8 * n
/-- FAB_ERR_EVT_f (09 R267) -/
def FAB_ERR_EVT (n : Nat) : Nat := 0x080900 + 4 * n
/-- FAB_PORT_CFG_p (09 R267) -/
def FAB_PORT_CFG (n : Nat) : Nat := 0x081000 + 256 * n
/-- FAB_PORT_STATUS_p (09 R267) -/
def FAB_PORT_STATUS (n : Nat) : Nat := 0x081008 + 256 * n
/-- FAB_FLITS_TX_p (09 R267) -/
def FAB_FLITS_TX (n : Nat) : Nat := 0x081010 + 256 * n
/-- FAB_FLITS_RX_p (09 R267) -/
def FAB_FLITS_RX (n : Nat) : Nat := 0x081018 + 256 * n
/-- FAB_CRC_ERR_p (09 R267) -/
def FAB_CRC_ERR (n : Nat) : Nat := 0x081020 + 256 * n
/-- FAB_REPLAYS_p (09 R267) -/
def FAB_REPLAYS (n : Nat) : Nat := 0x081028 + 256 * n
/-- FAB_REPLAY_FLITS_p (09 R267) -/
def FAB_REPLAY_FLITS (n : Nat) : Nat := 0x081030 + 256 * n
/-- FAB_FEC_CORR_p (09 R267) -/
def FAB_FEC_CORR (n : Nat) : Nat := 0x081038 + 256 * n
/-- FAB_CRED_ISSUED_p (09 R267) -/
def FAB_CRED_ISSUED (n : Nat) : Nat := 0x081040 + 256 * n
/-- FAB_CRED_RETURNED_p (09 R267) -/
def FAB_CRED_RETURNED (n : Nat) : Nat := 0x081048 + 256 * n
/-- FAB_CRED_INFLIGHT_p (09 R267) -/
def FAB_CRED_INFLIGHT (n : Nat) : Nat := 0x081050 + 256 * n
/-- FAB_CRED_FLUSHED_p (09 R267) -/
def FAB_CRED_FLUSHED (n : Nat) : Nat := 0x081058 + 256 * n
/-- FAB_RETRAINS_p (09 R267) -/
def FAB_RETRAINS (n : Nat) : Nat := 0x081060 + 256 * n
/-- XPT_CAPS (09 R269) -/
def XPT_CAPS : Nat := 0x400000
/-- XPT_STATUS (09 R269) -/
def XPT_STATUS : Nat := 0x400008
/-- XPT_CTL (09 R269) -/
def XPT_CTL : Nat := 0x400010
/-- XPT_KEY_STATUS (09 R269) -/
def XPT_KEY_STATUS : Nat := 0x400018
/-- XPT_ERR_FLAGS (09 R269) -/
def XPT_ERR_FLAGS : Nat := 0x400020
/-- XPT_SEND_DONE_s (09 R269) -/
def XPT_SEND_DONE (n : Nat) : Nat := 0x400100 + 8 * n
/-- XPT_MSG_DONE (09 R269) -/
def XPT_MSG_DONE : Nat := 0x400180
/-- XPT_RECV_DONE (09 R269) -/
def XPT_RECV_DONE : Nat := 0x400188
/-- XPT_BUF_POSTED (09 R269) -/
def XPT_BUF_POSTED : Nat := 0x400190
/-- XPT_BUF_COMPLETED (09 R269) -/
def XPT_BUF_COMPLETED : Nat := 0x400198
/-- XPT_BUF_OUTSTANDING (09 R269) -/
def XPT_BUF_OUTSTANDING : Nat := 0x4001A0
/-- XPT_BUF_WITHDRAWN (09 R269) -/
def XPT_BUF_WITHDRAWN : Nat := 0x4001A8
/-- XPT_PKT_SENT (09 R269) -/
def XPT_PKT_SENT : Nat := 0x4001B0
/-- XPT_PKT_RETX (09 R269) -/
def XPT_PKT_RETX : Nat := 0x4001B8
/-- XPT_DUP_DISCARD (09 R269) -/
def XPT_DUP_DISCARD : Nat := 0x4001C0
/-- XPT_STALE_DISCARD (09 R269) -/
def XPT_STALE_DISCARD : Nat := 0x4001C8
/-- XPT_AUTH_FAIL (09 R269) -/
def XPT_AUTH_FAIL : Nat := 0x4001D0
/-- XPT_SA_MISS (09 R269) -/
def XPT_SA_MISS : Nat := 0x4001D8
/-- XPT_NO_CTX (09 R269) -/
def XPT_NO_CTX : Nat := 0x4001E0
/-- XPT_FILL_ABANDON (09 R269) -/
def XPT_FILL_ABANDON : Nat := 0x4001E8
/-- XPT_ACK_ORPHAN (09 R269) -/
def XPT_ACK_ORPHAN : Nat := 0x4001F0
/-- XPT_BLOCK_RESEND (09 R269) -/
def XPT_BLOCK_RESEND : Nat := 0x4001F8
/-- XPT_ERR_EVT_f (09 R269) -/
def XPT_ERR_EVT (n : Nat) : Nat := 0x400200 + 4 * n
/-- XPT_TW_DST_w (09 R269) -/
def XPT_TW_DST (n : Nat) : Nat := 0x400400 + 8 * n
/-- XPT_RCQ_BASE_r (09 R269) -/
def XPT_RCQ_BASE (n : Nat) : Nat := 0x400800 + 16 * n
/-- XPT_RCQ_PTR_r (09 R269) -/
def XPT_RCQ_PTR (n : Nat) : Nat := 0x400808 + 16 * n
/-- XPT_SQ_CFG_q (09 R269) -/
def XPT_SQ_CFG (n : Nat) : Nat := 0x401000 + 16 * n
/-- XPT_SQ_PTR_q (09 R269) -/
def XPT_SQ_PTR (n : Nat) : Nat := 0x401008 + 16 * n
/-- XPT_SQ_DB_q (09 R269) -/
def XPT_SQ_DB (n : Nat) : Nat := 0x401400 + 8 * n
/-- HRD_CAPS (10 R289) -/
def HRD_CAPS : Nat := 0x140000
/-- HRD_CTL (10 R289) -/
def HRD_CTL : Nat := 0x140008
/-- HRD_CLASS_SLOT (10 R289) -/
def HRD_CLASS_SLOT : Nat := 0x140010
/-- HRD_ERR_FLAGS (10 R289) -/
def HRD_ERR_FLAGS : Nat := 0x140018
/-- HRD_VTIME_p (10 R289) -/
def HRD_VTIME (n : Nat) : Nat := 0x140100 + 8 * n
/-- HRD_SLOT_WMASK_s (10 R289) -/
def HRD_SLOT_WMASK (n : Nat) : Nat := 0x140200 + 8 * n
/-- HRD_ERR_EVT_f (10 R289) -/
def HRD_ERR_EVT (n : Nat) : Nat := 0x140400 + 4 * n
/-- HRD_Q_CFG_n (10 R289) -/
def HRD_Q_CFG (n : Nat) : Nat := 0x150000 + 16 * n
/-- HRD_Q_STATE_n (10 R289) -/
def HRD_Q_STATE (n : Nat) : Nat := 0x150008 + 16 * n
/-- HRD_Q_BYTES_n (10 R289) -/
def HRD_Q_BYTES (n : Nat) : Nat := 0x160000 + 8 * n
/-- COL_CAPS (10 R291) -/
def COL_CAPS : Nat := 0x600000
/-- COL_STATUS (10 R291) -/
def COL_STATUS : Nat := 0x600008
/-- COL_CTL (10 R291) -/
def COL_CTL : Nat := 0x600010
/-- COL_ERR_FLAGS (10 R291) -/
def COL_ERR_FLAGS : Nat := 0x600018
/-- COL_ENG_CFG (10 R291) -/
def COL_ENG_CFG : Nat := 0x600020
/-- COL_GRP_WEIGHT_g (10 R291) -/
def COL_GRP_WEIGHT (n : Nat) : Nat := 0x600100 + 8 * n
/-- COL_GRP_VDAE_g (10 R291) -/
def COL_GRP_VDAE (n : Nat) : Nat := 0x600180 + 8 * n
/-- COL_GRP_VPAE_g (10 R291) -/
def COL_GRP_VPAE (n : Nat) : Nat := 0x600200 + 8 * n
/-- COL_GRANTED_k (10 R291) -/
def COL_GRANTED (n : Nat) : Nat := 0x600280 + 8 * n
/-- COL_SPENT_k (10 R291) -/
def COL_SPENT (n : Nat) : Nat := 0x600290 + 8 * n
/-- COL_HELD_k (10 R291) -/
def COL_HELD (n : Nat) : Nat := 0x6002A0 + 8 * n
/-- COL_EXPIRED_k (10 R291) -/
def COL_EXPIRED (n : Nat) : Nat := 0x6002B0 + 8 * n
/-- COL_SWITCHES (10 R291) -/
def COL_SWITCHES : Nat := 0x6002C0
/-- COL_SWITCH_CYCLES (10 R291) -/
def COL_SWITCH_CYCLES : Nat := 0x6002C8
/-- COL_RESV_FULL (10 R291) -/
def COL_RESV_FULL : Nat := 0x6002D0
/-- COL_ERR_EVT_f (10 R291) -/
def COL_ERR_EVT (n : Nat) : Nat := 0x600300 + 4 * n
/-- COL_TOKCFG_t (10 R291) -/
def COL_TOKCFG (n : Nat) : Nat := 0x610000 + 16 * n
/-- COL_POSCFG_t (10 R291) -/
def COL_POSCFG (n : Nat) : Nat := 0x610008 + 16 * n
/-- KNL_CAPS (11 R323) -/
def KNL_CAPS : Nat := 0x090000
/-- KNL_STATUS (11 R323) -/
def KNL_STATUS : Nat := 0x090008
/-- KNL_CTL (11 R323) -/
def KNL_CTL : Nat := 0x090010
/-- KNL_NAND_CFG (11 R323) -/
def KNL_NAND_CFG : Nat := 0x090018
/-- KNL_NAND_TIME (11 R323) -/
def KNL_NAND_TIME : Nat := 0x090020
/-- KNL_ERR_FLAGS (11 R323) -/
def KNL_ERR_FLAGS : Nat := 0x090028
/-- KNL_CAPACITY (11 R323) -/
def KNL_CAPACITY : Nat := 0x090030
/-- KNL_FREE (11 R323) -/
def KNL_FREE : Nat := 0x090038
/-- KNL_PARKS (11 R323) -/
def KNL_PARKS : Nat := 0x090100
/-- KNL_RESUMES (11 R323) -/
def KNL_RESUMES : Nat := 0x090108
/-- KNL_FULL_REFUSED (11 R323) -/
def KNL_FULL_REFUSED : Nat := 0x090110
/-- KNL_HOST_UNITS (11 R323) -/
def KNL_HOST_UNITS : Nat := 0x090118
/-- KNL_NAND_UNITS (11 R323) -/
def KNL_NAND_UNITS : Nat := 0x090120
/-- KNL_GC_COPIES (11 R323) -/
def KNL_GC_COPIES : Nat := 0x090128
/-- KNL_FOLDS (11 R323) -/
def KNL_FOLDS : Nat := 0x090130
/-- KNL_WL_MOVES (11 R323) -/
def KNL_WL_MOVES : Nat := 0x090138
/-- KNL_ERASES (11 R323) -/
def KNL_ERASES : Nat := 0x090140
/-- KNL_RETIRED (11 R323) -/
def KNL_RETIRED : Nat := 0x090148
/-- KNL_UE_READS (11 R323) -/
def KNL_UE_READS : Nat := 0x090150
/-- KNL_PARITY_REBUILT (11 R323) -/
def KNL_PARITY_REBUILT : Nat := 0x090158
/-- KNL_RETRY_READS (11 R323) -/
def KNL_RETRY_READS : Nat := 0x090160
/-- KNL_FLUSHES (11 R323) -/
def KNL_FLUSHES : Nat := 0x090168
/-- KNL_ADOPTED (11 R323) -/
def KNL_ADOPTED : Nat := 0x090170
/-- KNL_CORR_HIST_b (11 R323) -/
def KNL_CORR_HIST (n : Nat) : Nat := 0x090200 + 8 * n
/-- KNL_TEMP_HIST_b (11 R323) -/
def KNL_TEMP_HIST (n : Nat) : Nat := 0x090280 + 8 * n
/-- KNL_ERR_EVT_f (11 R323) -/
def KNL_ERR_EVT (n : Nat) : Nat := 0x090300 + 4 * n
/-- GLB_IDENT (12 R361) -/
def GLB_IDENT : Nat := 0x000000
/-- GLB_CHIP (12 R361) -/
def GLB_CHIP : Nat := 0x000008
/-- GLB_STATUS (12 R361) -/
def GLB_STATUS : Nat := 0x000010
/-- GLB_VERSION (12 R361) -/
def GLB_VERSION : Nat := 0x000018
/-- GLB_CFG_VER (12 R361) -/
def GLB_CFG_VER : Nat := 0x000020
/-- GLB_CFG_PEND (12 R361) -/
def GLB_CFG_PEND : Nat := 0x000028
/-- GLB_CFG_DEADLINE (12 R361) -/
def GLB_CFG_DEADLINE : Nat := 0x000030
/-- GLB_PERS (12 R361) -/
def GLB_PERS : Nat := 0x000038
/-- GLB_LOCAL_CTR (12 R361) -/
def GLB_LOCAL_CTR : Nat := 0x000040
/-- GLB_SERIAL (12 R361) -/
def GLB_SERIAL : Nat := 0x000048
/-- GLB_ERR_FLAGS (12 R361) -/
def GLB_ERR_FLAGS : Nat := 0x000050
/-- GLB_ERR_EVT_f (12 R361) -/
def GLB_ERR_EVT (n : Nat) : Nat := 0x000100 + 4 * n
/-- MBX_CAPS (12 R363) -/
def MBX_CAPS : Nat := 0x010000
/-- MBX_ERR_FLAGS (12 R363) -/
def MBX_ERR_FLAGS : Nat := 0x010008
/-- MBX_RING_CFG_r (12 R363) -/
def MBX_RING_CFG (n : Nat) : Nat := 0x010100 + 32 * n
/-- MBX_RING_PTR_r (12 R363) -/
def MBX_RING_PTR (n : Nat) : Nat := 0x010108 + 32 * n
/-- MBX_RING_DB_r (12 R363) -/
def MBX_RING_DB (n : Nat) : Nat := 0x010110 + 32 * n
/-- MBX_CPL_HEAD_r (12 R363) -/
def MBX_CPL_HEAD (n : Nat) : Nat := 0x010118 + 32 * n
/-- MBX_DONE_s (12 R363) -/
def MBX_DONE (n : Nat) : Nat := 0x012000 + 8 * n
/-- MBX_ERR_EVT_f (12 R363) -/
def MBX_ERR_EVT (n : Nat) : Nat := 0x012100 + 4 * n
/-- CXL_LINK_STATUS (12 R365) -/
def CXL_LINK_STATUS : Nat := 0x100000
/-- CXL_ERR_FLAGS (12 R365) -/
def CXL_ERR_FLAGS : Nat := 0x100008
/-- CXL_MEM_UE_ADDR (12 R365) -/
def CXL_MEM_UE_ADDR : Nat := 0x100010
/-- CXL_WR_DISCARD (12 R365) -/
def CXL_WR_DISCARD : Nat := 0x100018
/-- CXL_ERR_EVT_f (12 R365) -/
def CXL_ERR_EVT (n : Nat) : Nat := 0x100100 + 4 * n
/-- ISL_CAPS (13 R398) -/
def ISL_CAPS : Nat := 0x0C0000
/-- ISL_STATUS (13 R398) -/
def ISL_STATUS : Nat := 0x0C0008
/-- ISL_CTL (13 R398) -/
def ISL_CTL : Nat := 0x0C0010
/-- ISL_ERR_FLAGS (13 R398) -/
def ISL_ERR_FLAGS : Nat := 0x0C0018
/-- ISL_EFUSE (13 R398) -/
def ISL_EFUSE : Nat := 0x0C0020
/-- ISL_STATE_n (13 R398) -/
def ISL_STATE (n : Nat) : Nat := 0x0C0100 + 8 * n
/-- ISL_NEIGH_n (13 R398) -/
def ISL_NEIGH (n : Nat) : Nat := 0x0C0300 + 8 * n
/-- ISL_SPARE_k (13 R398) -/
def ISL_SPARE (n : Nat) : Nat := 0x0C0500 + 8 * n
/-- ISL_XCRED_ISSUED (13 R398) -/
def ISL_XCRED_ISSUED : Nat := 0x0C0600
/-- ISL_XCRED_RETURNED (13 R398) -/
def ISL_XCRED_RETURNED : Nat := 0x0C0608
/-- ISL_XCRED_INFLIGHT (13 R398) -/
def ISL_XCRED_INFLIGHT : Nat := 0x0C0610
/-- ISL_XCRED_FLUSHED (13 R398) -/
def ISL_XCRED_FLUSHED : Nat := 0x0C0618
/-- ISL_WHISTLES (13 R398) -/
def ISL_WHISTLES : Nat := 0x0C0620
/-- ISL_RESETS (13 R398) -/
def ISL_RESETS : Nat := 0x0C0628
/-- ISL_THROTTLES (13 R398) -/
def ISL_THROTTLES : Nat := 0x0C0630
/-- ISL_PATROL_RUNS (13 R398) -/
def ISL_PATROL_RUNS : Nat := 0x0C0638
/-- ISL_PATROL_FAILS (13 R398) -/
def ISL_PATROL_FAILS : Nat := 0x0C0640
/-- ISL_XING_RESAMPLE (13 R398) -/
def ISL_XING_RESAMPLE : Nat := 0x0C0648
/-- ISL_ERR_EVT_f (13 R398) -/
def ISL_ERR_EVT (n : Nat) : Nat := 0x0C0700 + 4 * n
/-- BRK_CAPS (13 R400) -/
def BRK_CAPS : Nat := 0x0A0000
/-- BRK_CTL (13 R400) -/
def BRK_CTL : Nat := 0x0A0008
/-- BRK_ERR_FLAGS (13 R400) -/
def BRK_ERR_FLAGS : Nat := 0x0A0010
/-- BRK_MADE (13 R400) -/
def BRK_MADE : Nat := 0x0A0018
/-- BRK_STORED (13 R400) -/
def BRK_STORED : Nat := 0x0A0020
/-- BRK_HEAD (13 R400) -/
def BRK_HEAD : Nat := 0x0A0028
/-- BRK_OVF_TOTAL (13 R400) -/
def BRK_OVF_TOTAL : Nat := 0x0A0030
/-- BRK_OVF_REARM (13 R400) -/
def BRK_OVF_REARM : Nat := 0x0A0038
/-- BRK_ERR_EVT_f (13 R400) -/
def BRK_ERR_EVT (n : Nat) : Nat := 0x0A0100 + 4 * n
/-- LDG_CAPS (13 R402) -/
def LDG_CAPS : Nat := 0x0B0000
/-- LDG_CTL (13 R402) -/
def LDG_CTL : Nat := 0x0B0008
/-- LDG_ERR_FLAGS (13 R402) -/
def LDG_ERR_FLAGS : Nat := 0x0B0010
/-- LDG_SNAP_SEQ (13 R402) -/
def LDG_SNAP_SEQ : Nat := 0x0B0018
/-- LDG_AUDITS (13 R402) -/
def LDG_AUDITS : Nat := 0x0B0020
/-- LDG_HOLD_MAX_NS (13 R402) -/
def LDG_HOLD_MAX_NS : Nat := 0x0B0028
/-- LDG_ERR_EVT_f (13 R402) -/
def LDG_ERR_EVT (n : Nat) : Nat := 0x0B0100 + 4 * n
/-- SEC_CAPS (14 R420) -/
def SEC_CAPS : Nat := 0x0E0000
/-- SEC_STATUS (14 R420) -/
def SEC_STATUS : Nat := 0x0E0008
/-- SEC_CTL (14 R420) -/
def SEC_CTL : Nat := 0x0E0010
/-- SEC_ERR_FLAGS (14 R420) -/
def SEC_ERR_FLAGS : Nat := 0x0E0018
/-- SEC_ARB (14 R420) -/
def SEC_ARB : Nat := 0x0E0020
/-- SEC_FUSE_KEYS (14 R420) -/
def SEC_FUSE_KEYS : Nat := 0x0E0028
/-- SEC_BOOT_NONCE_i (14 R420) -/
def SEC_BOOT_NONCE (n : Nat) : Nat := 0x0E0040 + 8 * n
/-- SEC_QUOTES (14 R420) -/
def SEC_QUOTES : Nat := 0x0E0080
/-- SEC_UNLOCK_FAIL (14 R420) -/
def SEC_UNLOCK_FAIL : Nat := 0x0E0088
/-- SEC_WRAP_FAIL (14 R420) -/
def SEC_WRAP_FAIL : Nat := 0x0E0090
/-- SEC_AP4_DISCARD (14 R420) -/
def SEC_AP4_DISCARD : Nat := 0x0E0098
/-- SEC_ERR_EVT_f (14 R420) -/
def SEC_ERR_EVT (n : Nat) : Nat := 0x0E0100 + 4 * n
/-- PWR_CAPS (15 R441) -/
def PWR_CAPS : Nat := 0x0D0000
/-- PWR_STATUS (15 R441) -/
def PWR_STATUS : Nat := 0x0D0008
/-- PWR_CTL (15 R441) -/
def PWR_CTL : Nat := 0x0D0010
/-- PWR_ERR_FLAGS (15 R441) -/
def PWR_ERR_FLAGS : Nat := 0x0D0018
/-- PWR_STRAPS (15 R441) -/
def PWR_STRAPS : Nat := 0x0D0020
/-- PWR_ENERGY (15 R441) -/
def PWR_ENERGY : Nat := 0x0D0028
/-- PWR_LEAK (15 R441) -/
def PWR_LEAK : Nat := 0x0D0030
/-- PWR_BLOCK_b (15 R441) -/
def PWR_BLOCK (n : Nat) : Nat := 0x0D0100 + 8 * n
/-- PWR_RAIL_r (15 R441) -/
def PWR_RAIL (n : Nat) : Nat := 0x0D0200 + 8 * n
/-- PWR_ERR_EVT_f (15 R441) -/
def PWR_ERR_EVT (n : Nat) : Nat := 0x0D0300 + 4 * n
/-- TST_IDCODE (15 R443) -/
def TST_IDCODE : Nat := 0x0F0000
/-- TST_STATUS (15 R443) -/
def TST_STATUS : Nat := 0x0F0008
/-- TST_ERR_FLAGS (15 R443) -/
def TST_ERR_FLAGS : Nat := 0x0F0010
/-- TST_ERR_EVT_f (15 R443) -/
def TST_ERR_EVT (n : Nat) : Nat := 0x0F0100 + 4 * n

end Reg

/-! Offsets of the tenant-window registers within one window (R332, 12_host_interface.md). -/
namespace TReg

/-- tenant window STM_TSTALL_TICKS_c (02 R54) -/
def STM_TSTALL_TICKS (n : Nat) : Nat := 0x1000 + 8 * n
/-- tenant window STM_TSTALL_EVT_c (02 R54) -/
def STM_TSTALL_EVT (n : Nat) : Nat := 0x1040 + 8 * n
/-- tenant window SCT_TEXACT_c (04 R120) -/
def SCT_TEXACT (n : Nat) : Nat := 0x1100 + 8 * n
/-- tenant window SCT_TSEL_PAGES (04 R120) -/
def SCT_TSEL_PAGES : Nat := 0x1140
/-- tenant window SCT_TRANGE_PAGES (04 R120) -/
def SCT_TRANGE_PAGES : Nat := 0x1148
/-- tenant window TRC_TCLIP (05 R146) -/
def TRC_TCLIP : Nat := 0x1200
/-- tenant window TRC_TESC (05 R146) -/
def TRC_TESC : Nat := 0x1208
/-- tenant window TRC_TLR_PAGES (05 R146) -/
def TRC_TLR_PAGES : Nat := 0x1210
/-- tenant window TRC_TLR_REJ (05 R146) -/
def TRC_TLR_REJ : Nat := 0x1218
/-- tenant window TRC_TPARK_BYTES (05 R146) -/
def TRC_TPARK_BYTES : Nat := 0x1220
/-- tenant window TRC_TLR_LIVE (05 R146) -/
def TRC_TLR_LIVE : Nat := 0x1228
/-- tenant window SMP_TTOKENS (06 R169) -/
def SMP_TTOKENS : Nat := 0x1300
/-- tenant window SMP_TDRAFT_ACC (06 R169) -/
def SMP_TDRAFT_ACC : Nat := 0x1308
/-- tenant window SMP_TCOUNT_OVF (06 R169) -/
def SMP_TCOUNT_OVF : Nat := 0x1310
/-- tenant window RQT_TLIVE (07 R200) -/
def RQT_TLIVE : Nat := 0x1400
/-- tenant window RQT_TREPLAY_POS (07 R200) -/
def RQT_TREPLAY_POS : Nat := 0x1408
/-- tenant window RQT_TLATE (07 R200) -/
def RQT_TLATE : Nat := 0x1410
/-- tenant window KNL_TIMAGES (11 R323) -/
def KNL_TIMAGES : Nat := 0x1500
/-- tenant window KNL_TUNITS (11 R323) -/
def KNL_TUNITS : Nat := 0x1508
/-- tenant window KNL_TFULL (11 R323) -/
def KNL_TFULL : Nat := 0x1510

end TReg

/-! The fields of the registers, each named REGISTER_FIELD as its field table names it. -/
namespace Fld

def STM_CAPS_NEAR_FRAMES : Fld := ⟨Reg.STM_CAPS, 0, 20⟩
def STM_CAPS_FAR_FRAMES : Fld := ⟨Reg.STM_CAPS, 20, 28⟩
def STM_CAPS_WAYS_LOG2 : Fld := ⟨Reg.STM_CAPS, 48, 5⟩
def STM_CAPS_SLICES_LOG2 : Fld := ⟨Reg.STM_CAPS, 53, 4⟩
def STM_STATUS_MIG_ACTIVE : Fld := ⟨Reg.STM_STATUS, 0, 9⟩
def STM_STATUS_TOMBSTONES : Fld := ⟨Reg.STM_STATUS, 9, 13⟩
def STM_PREFETCH_CTL_DEPTH : Fld := ⟨Reg.STM_PREFETCH_CTL, 0, 3⟩
def STM_ERR_FLAGS_NEAR_CE : Fld := ⟨Reg.STM_ERR_FLAGS, 0, 1⟩
def STM_ERR_FLAGS_NEAR_UE : Fld := ⟨Reg.STM_ERR_FLAGS, 1, 1⟩
def STM_ERR_FLAGS_FAR_UE : Fld := ⟨Reg.STM_ERR_FLAGS, 2, 1⟩
def STM_ERR_FLAGS_CRC_FAIL : Fld := ⟨Reg.STM_ERR_FLAGS, 3, 1⟩
def STM_ERR_FLAGS_SPARE_ROW : Fld := ⟨Reg.STM_ERR_FLAGS, 4, 1⟩
def STM_ERR_FLAGS_SPARE_BANK : Fld := ⟨Reg.STM_ERR_FLAGS, 5, 1⟩
def STM_ERR_FLAGS_FAR_REMAP : Fld := ⟨Reg.STM_ERR_FLAGS, 6, 1⟩
def STM_ERR_FLAGS_SPARE_LOW : Fld := ⟨Reg.STM_ERR_FLAGS, 7, 1⟩
def STM_MIG_CTL_LOG_DEPTH : Fld := ⟨Reg.STM_MIG_CTL, 0, 8⟩
def STM_MIG_CTL_MAX_ACTIVE : Fld := ⟨Reg.STM_MIG_CTL, 16, 9⟩
def STM_MIG_CTL_BANK_ERR_LIMIT : Fld := ⟨Reg.STM_MIG_CTL, 32, 16⟩
def STM_NPART_WAY_MASK (n : Nat) : Fld := ⟨Reg.STM_NPART n, 0, 32⟩
def STM_NPART_KIND_MASK (n : Nat) : Fld := ⟨Reg.STM_NPART n, 32, 5⟩
def STM_NPART_GROUP_MASK (n : Nat) : Fld := ⟨Reg.STM_NPART n, 48, 16⟩
def STM_FPART_CHAN_BASE (n : Nat) : Fld := ⟨Reg.STM_FPART n, 0, 6⟩
def STM_FPART_CHAN_SIZE (n : Nat) : Fld := ⟨Reg.STM_FPART n, 6, 2⟩
def STM_FPART_KIND_MASK (n : Nat) : Fld := ⟨Reg.STM_FPART n, 8, 5⟩
def STM_FPART_GROUP_MASK (n : Nat) : Fld := ⟨Reg.STM_FPART n, 32, 16⟩
def STM_SPARE_BANKS_LEFT (n : Nat) : Fld := ⟨Reg.STM_SPARE n, 0, 3⟩
def STM_SPARE_ROWS_LEFT (n : Nat) : Fld := ⟨Reg.STM_SPARE n, 16, 16⟩
def PAE_CAPS_TILES : Fld := ⟨Reg.PAE_CAPS, 0, 8⟩
def PAE_CAPS_SPARE_TILES : Fld := ⟨Reg.PAE_CAPS, 8, 4⟩
def PAE_CAPS_GROUP_LOG2 : Fld := ⟨Reg.PAE_CAPS, 12, 4⟩
def PAE_STATUS_TILES_OK : Fld := ⟨Reg.PAE_STATUS, 0, 8⟩
def PAE_STATUS_GROUPS_BUSY : Fld := ⟨Reg.PAE_STATUS, 8, 16⟩
def PAE_ERR_FLAGS_TILE_FAULT : Fld := ⟨Reg.PAE_ERR_FLAGS, 0, 1⟩
def PAE_ERR_FLAGS_TILE_SPARED : Fld := ⟨Reg.PAE_ERR_FLAGS, 1, 1⟩
def PAE_ERR_FLAGS_SPARE_LOW : Fld := ⟨Reg.PAE_ERR_FLAGS, 2, 1⟩
def PAE_ERR_FLAGS_SPARE_EXHAUSTED : Fld := ⟨Reg.PAE_ERR_FLAGS, 3, 1⟩
def DAE_CAPS_LANES : Fld := ⟨Reg.DAE_CAPS, 0, 9⟩
def DAE_CAPS_GROUP_LOG2 : Fld := ⟨Reg.DAE_CAPS, 9, 4⟩
def DAE_CAPS_SPARE_LANES : Fld := ⟨Reg.DAE_CAPS, 13, 5⟩
def DAE_CAPS_JOB_LIMIT_NS : Fld := ⟨Reg.DAE_CAPS, 18, 14⟩
def DAE_CAPS_SLOTS : Fld := ⟨Reg.DAE_CAPS, 32, 16⟩
def DAE_CAPS_JBUF_MIB : Fld := ⟨Reg.DAE_CAPS, 48, 16⟩
def DAE_STATUS_LANES_OK : Fld := ⟨Reg.DAE_STATUS, 0, 9⟩
def DAE_STATUS_GROUPS_BUSY : Fld := ⟨Reg.DAE_STATUS, 16, 16⟩
def DAE_STATUS_JOBS_LIVE : Fld := ⟨Reg.DAE_STATUS, 32, 17⟩
def DAE_CTL_REPLAY_MAX : Fld := ⟨Reg.DAE_CTL, 0, 2⟩
def DAE_CTL_SCENT_DISABLE : Fld := ⟨Reg.DAE_CTL, 8, 1⟩
def DAE_ERR_FLAGS_LANE_FAULT : Fld := ⟨Reg.DAE_ERR_FLAGS, 0, 1⟩
def DAE_ERR_FLAGS_LANE_SPARED : Fld := ⟨Reg.DAE_ERR_FLAGS, 1, 1⟩
def DAE_ERR_FLAGS_SPARE_LOW : Fld := ⟨Reg.DAE_ERR_FLAGS, 2, 1⟩
def DAE_ERR_FLAGS_SPARE_EXHAUSTED : Fld := ⟨Reg.DAE_ERR_FLAGS, 3, 1⟩
def DAE_ERR_FLAGS_JBUF_UE : Fld := ⟨Reg.DAE_ERR_FLAGS, 4, 1⟩
def DAE_ERR_FLAGS_REPLAY_EXHAUSTED : Fld := ⟨Reg.DAE_ERR_FLAGS, 5, 1⟩
def DAE_ERR_FLAGS_DB_RANGE : Fld := ⟨Reg.DAE_ERR_FLAGS, 6, 1⟩
def DAE_CLASS_CFG_DAE_GROUPS (n : Nat) : Fld := ⟨Reg.DAE_CLASS_CFG n, 0, 5⟩
def DAE_CLASS_CFG_PAE_GROUPS (n : Nat) : Fld := ⟨Reg.DAE_CLASS_CFG n, 8, 5⟩
def DAE_JQ_CFG_SLOT_BASE (n : Nat) : Fld := ⟨Reg.DAE_JQ_CFG n, 0, 16⟩
def DAE_JQ_CFG_DEPTH_LOG2 (n : Nat) : Fld := ⟨Reg.DAE_JQ_CFG n, 16, 4⟩
def DAE_JQ_CFG_PRIORITY (n : Nat) : Fld := ⟨Reg.DAE_JQ_CFG n, 20, 3⟩
def DAE_JQ_CFG_ENABLE (n : Nat) : Fld := ⟨Reg.DAE_JQ_CFG n, 24, 1⟩
def DAE_JQ_PTR_HEAD (n : Nat) : Fld := ⟨Reg.DAE_JQ_PTR n, 0, 12⟩
def DAE_JQ_PTR_TAIL (n : Nat) : Fld := ⟨Reg.DAE_JQ_PTR n, 16, 12⟩
def DAE_JQ_PTR_QSEQ (n : Nat) : Fld := ⟨Reg.DAE_JQ_PTR n, 32, 32⟩
def DAE_JQ_DB_TAIL (n : Nat) : Fld := ⟨Reg.DAE_JQ_DB n, 0, 12⟩
def SCT_CAPS_MACROS : Fld := ⟨Reg.SCT_CAPS, 0, 7⟩
def SCT_CAPS_SPARES : Fld := ⟨Reg.SCT_CAPS, 7, 3⟩
def SCT_CAPS_ROWS_LOG2 : Fld := ⟨Reg.SCT_CAPS, 10, 4⟩
def SCT_CAPS_REF_ROWS : Fld := ⟨Reg.SCT_CAPS, 14, 7⟩
def SCT_CAPS_SKETCH_BYTES : Fld := ⟨Reg.SCT_CAPS, 21, 7⟩
def SCT_STATUS_IN_SERVICE : Fld := ⟨Reg.SCT_STATUS, 0, 7⟩
def SCT_STATUS_SPARES_LEFT : Fld := ⟨Reg.SCT_STATUS, 7, 3⟩
def SCT_STATUS_GEN_MACROS : Fld := ⟨Reg.SCT_STATUS, 10, 7⟩
def SCT_STATUS_CALIBRATING : Fld := ⟨Reg.SCT_STATUS, 17, 7⟩
def SCT_STATUS_ROWS_FREE : Fld := ⟨Reg.SCT_STATUS, 24, 20⟩
def SCT_STATUS_REQ_LOADED : Fld := ⟨Reg.SCT_STATUS, 44, 16⟩
def SCT_CTL_RECAL_DEG : Fld := ⟨Reg.SCT_CTL, 0, 4⟩
def SCT_CTL_MAX_CAL : Fld := ⟨Reg.SCT_CTL, 4, 3⟩
def SCT_CTL_GROSS_LSB : Fld := ⟨Reg.SCT_CTL, 8, 4⟩
def SCT_CTL_CAL_FAIL_LIMIT : Fld := ⟨Reg.SCT_CTL, 12, 4⟩
def SCT_CTL_CHECK_LOG2 : Fld := ⟨Reg.SCT_CTL, 16, 4⟩
def SCT_ERR_FLAGS_EVAL_INVALID : Fld := ⟨Reg.SCT_ERR_FLAGS, 0, 1⟩
def SCT_ERR_FLAGS_CAL_FAIL : Fld := ⟨Reg.SCT_ERR_FLAGS, 1, 1⟩
def SCT_ERR_FLAGS_MACRO_RETIRED : Fld := ⟨Reg.SCT_ERR_FLAGS, 2, 1⟩
def SCT_ERR_FLAGS_SPARE_IN : Fld := ⟨Reg.SCT_ERR_FLAGS, 3, 1⟩
def SCT_ERR_FLAGS_SPARE_LOW : Fld := ⟨Reg.SCT_ERR_FLAGS, 4, 1⟩
def SCT_ERR_FLAGS_SPARE_EXHAUSTED : Fld := ⟨Reg.SCT_ERR_FLAGS, 5, 1⟩
def SCT_ERR_FLAGS_SUPPLY_EVENT : Fld := ⟨Reg.SCT_ERR_FLAGS, 6, 1⟩
def SCT_PROF_TOPK (n : Nat) : Fld := ⟨Reg.SCT_PROF n, 0, 10⟩
def SCT_PROF_MARGIN (n : Nat) : Fld := ⟨Reg.SCT_PROF n, 10, 4⟩
def SCT_PROF_SINK_GROUPS (n : Nat) : Fld := ⟨Reg.SCT_PROF n, 14, 4⟩
def SCT_PROF_WIN_GROUPS (n : Nat) : Fld := ⟨Reg.SCT_PROF n, 18, 8⟩
def SCT_PROF_MARGIN_CAP (n : Nat) : Fld := ⟨Reg.SCT_PROF n, 26, 10⟩
def SCT_PROF_AUDIT_LOG2 (n : Nat) : Fld := ⟨Reg.SCT_PROF n, 36, 4⟩
def SCT_PROF_ENABLE (n : Nat) : Fld := ⟨Reg.SCT_PROF n, 40, 1⟩
def SCT_MACRO_STATE (n : Nat) : Fld := ⟨Reg.SCT_MACRO n, 0, 2⟩
def SCT_MACRO_DUE (n : Nat) : Fld := ⟨Reg.SCT_MACRO n, 2, 1⟩
def SCT_MACRO_LOGICAL (n : Nat) : Fld := ⟨Reg.SCT_MACRO n, 3, 7⟩
def SCT_MACRO_GAIN_TRIM (n : Nat) : Fld := ⟨Reg.SCT_MACRO n, 10, 8⟩
def SCT_MACRO_OFFSET_TRIM (n : Nat) : Fld := ⟨Reg.SCT_MACRO n, 18, 8⟩
def SCT_MACRO_CAL_TEMP (n : Nat) : Fld := ⟨Reg.SCT_MACRO n, 26, 12⟩
def SCT_MACRO_NOISE_RMS (n : Nat) : Fld := ⟨Reg.SCT_MACRO n, 38, 8⟩
def SCT_MACRO_MEAN_ERR (n : Nat) : Fld := ⟨Reg.SCT_MACRO n, 46, 8⟩
def SCT_MACRO_CAL_FAILS (n : Nat) : Fld := ⟨Reg.SCT_MACRO n, 54, 4⟩
def TRC_CAPS_PIPES : Fld := ⟨Reg.TRC_CAPS, 0, 5⟩
def TRC_CAPS_MACS_PER_PIPE : Fld := ⟨Reg.TRC_CAPS, 5, 13⟩
def TRC_CAPS_MAX_RANK : Fld := ⟨Reg.TRC_CAPS, 18, 6⟩
def TRC_STATUS_PIPES_OK : Fld := ⟨Reg.TRC_STATUS, 0, 16⟩
def TRC_STATUS_PASSES_ACTIVE : Fld := ⟨Reg.TRC_STATUS, 16, 12⟩
def TRC_CTL_LR_SAMPLE_LOG2 : Fld := ⟨Reg.TRC_CTL, 0, 4⟩
def TRC_CTL_LR_REBUILD : Fld := ⟨Reg.TRC_CTL, 4, 8⟩
def TRC_CTL_MAX_BASES : Fld := ⟨Reg.TRC_CTL, 12, 3⟩
def TRC_ERR_FLAGS_PIPE_FAULT : Fld := ⟨Reg.TRC_ERR_FLAGS, 0, 1⟩
def TRC_ERR_FLAGS_NONFINITE : Fld := ⟨Reg.TRC_ERR_FLAGS, 1, 1⟩
def TRC_ERR_FLAGS_PARK_MISSING : Fld := ⟨Reg.TRC_ERR_FLAGS, 2, 1⟩
def TRC_ERR_FLAGS_SPARE_EXHAUSTED : Fld := ⟨Reg.TRC_ERR_FLAGS, 3, 1⟩
def TRC_PROF_CLIP_PPM (n : Nat) : Fld := ⟨Reg.TRC_PROF n, 0, 20⟩
def TRC_PROF_ESC_MODE (n : Nat) : Fld := ⟨Reg.TRC_PROF n, 20, 1⟩
def TRC_PROF_LR_FAR (n : Nat) : Fld := ⟨Reg.TRC_PROF n, 21, 1⟩
def TRC_PROF_LR_PARK (n : Nat) : Fld := ⟨Reg.TRC_PROF n, 22, 1⟩
def TRC_PROF_COLD_FMT (n : Nat) : Fld := ⟨Reg.TRC_PROF n, 23, 2⟩
def TRC_PROF_PARK_FMT (n : Nat) : Fld := ⟨Reg.TRC_PROF n, 25, 2⟩
def TRC_PROF_EXACT_WIN (n : Nat) : Fld := ⟨Reg.TRC_PROF n, 27, 8⟩
def TRC_PROF_LR_THRESH (n : Nat) : Fld := ⟨Reg.TRC_PROF n, 35, 4⟩
def SMP_CAPS_QUEUES : Fld := ⟨Reg.SMP_CAPS, 0, 5⟩
def SMP_CAPS_MAX_DEPTH_LOG2 : Fld := ⟨Reg.SMP_CAPS, 5, 4⟩
def SMP_CAPS_MAX_TOPK : Fld := ⟨Reg.SMP_CAPS, 9, 12⟩
def SMP_CAPS_CT_ENTRIES : Fld := ⟨Reg.SMP_CAPS, 21, 13⟩
def SMP_STATUS_LIVE : Fld := ⟨Reg.SMP_STATUS, 0, 12⟩
def SMP_STATUS_ROWS_CACHED : Fld := ⟨Reg.SMP_STATUS, 12, 16⟩
def SMP_CTL_PROBE_MAX : Fld := ⟨Reg.SMP_CTL, 0, 13⟩
def SMP_CTL_LOG_TIMEOUT : Fld := ⟨Reg.SMP_CTL, 16, 16⟩
def SMP_ERR_FLAGS_SMP_FAULT : Fld := ⟨Reg.SMP_ERR_FLAGS, 0, 1⟩
def SMP_ERR_FLAGS_JBUF_UE : Fld := ⟨Reg.SMP_ERR_FLAGS, 1, 1⟩
def SMP_ERR_FLAGS_COUNT_LOST : Fld := ⟨Reg.SMP_ERR_FLAGS, 2, 1⟩
def SMP_ERR_FLAGS_LOG_TIMEOUT : Fld := ⟨Reg.SMP_ERR_FLAGS, 3, 1⟩
def SMP_ERR_FLAGS_DB_RANGE : Fld := ⟨Reg.SMP_ERR_FLAGS, 4, 1⟩
def SMP_EMB_CFG_EMB_COL_BASE : Fld := ⟨Reg.SMP_EMB_CFG, 0, 16⟩
def SMP_EMB_CFG_EMB_COLS : Fld := ⟨Reg.SMP_EMB_CFG, 16, 13⟩
def SMP_SQ_CFG_DEPTH_LOG2 (n : Nat) : Fld := ⟨Reg.SMP_SQ_CFG n, 0, 4⟩
def SMP_SQ_CFG_PRIORITY (n : Nat) : Fld := ⟨Reg.SMP_SQ_CFG n, 4, 3⟩
def SMP_SQ_CFG_ENABLE (n : Nat) : Fld := ⟨Reg.SMP_SQ_CFG n, 7, 1⟩
def SMP_SQ_PTR_HEAD (n : Nat) : Fld := ⟨Reg.SMP_SQ_PTR n, 0, 8⟩
def SMP_SQ_PTR_TAIL (n : Nat) : Fld := ⟨Reg.SMP_SQ_PTR n, 8, 8⟩
def SMP_SQ_PTR_QSEQ (n : Nat) : Fld := ⟨Reg.SMP_SQ_PTR n, 32, 32⟩
def SMP_SQ_DB_TAIL (n : Nat) : Fld := ⟨Reg.SMP_SQ_DB n, 0, 8⟩
def RQT_CAPS_SLOTS : Fld := ⟨Reg.RQT_CAPS, 0, 17⟩
def RQT_CAPS_REDIRECTS : Fld := ⟨Reg.RQT_CAPS, 17, 7⟩
def RQT_CAPS_HOLDERS : Fld := ⟨Reg.RQT_CAPS, 24, 3⟩
def RQT_STATUS_LIVE : Fld := ⟨Reg.RQT_STATUS, 0, 17⟩
def RQT_STATUS_HOME_MODE : Fld := ⟨Reg.RQT_STATUS, 17, 2⟩
def RQT_STATUS_PENDING : Fld := ⟨Reg.RQT_STATUS, 32, 16⟩
def RQT_STATUS_HANDOFFS_LIVE : Fld := ⟨Reg.RQT_STATUS, 48, 16⟩
def RQT_CTL_OFFER_TIMEOUT : Fld := ⟨Reg.RQT_CTL, 0, 8⟩
def RQT_CTL_CAS_TIMEOUT : Fld := ⟨Reg.RQT_CTL, 8, 8⟩
def RQT_CTL_PING_INTERVAL : Fld := ⟨Reg.RQT_CTL, 16, 8⟩
def RQT_CTL_OWNER_TIMEOUT : Fld := ⟨Reg.RQT_CTL, 24, 8⟩
def RQT_CTL_HOME_FENCE : Fld := ⟨Reg.RQT_CTL, 32, 8⟩
def RQT_CTL_HANDOFF_LIMIT : Fld := ⟨Reg.RQT_CTL, 40, 8⟩
def RQT_CTL_BACKUP_US : Fld := ⟨Reg.RQT_CTL, 48, 8⟩
def RQT_FETCH_CFG_FETCH_RATE : Fld := ⟨Reg.RQT_FETCH_CFG, 0, 16⟩
def RQT_FETCH_CFG_FETCH_MAX : Fld := ⟨Reg.RQT_FETCH_CFG, 16, 4⟩
def RQT_FETCH_CFG_BG_FETCH : Fld := ⟨Reg.RQT_FETCH_CFG, 20, 1⟩
def RQT_PARTNER_PARTNER : Fld := ⟨Reg.RQT_PARTNER, 0, 16⟩
def RQT_PARTNER_VALID : Fld := ⟨Reg.RQT_PARTNER, 16, 1⟩
def RQT_PARTNER_TAKEN : Fld := ⟨Reg.RQT_PARTNER, 17, 1⟩
def RQT_PARTNER_TAKEN_FROM : Fld := ⟨Reg.RQT_PARTNER, 18, 16⟩
def RQT_ERR_FLAGS_OWNER_LOST : Fld := ⟨Reg.RQT_ERR_FLAGS, 0, 1⟩
def RQT_ERR_FLAGS_TAKEOVER : Fld := ⟨Reg.RQT_ERR_FLAGS, 1, 1⟩
def RQT_ERR_FLAGS_FENCED : Fld := ⟨Reg.RQT_ERR_FLAGS, 2, 1⟩
def RQT_ERR_FLAGS_PARTNER_LOST : Fld := ⟨Reg.RQT_ERR_FLAGS, 3, 1⟩
def RQT_ERR_FLAGS_REPLAY_PENDING : Fld := ⟨Reg.RQT_ERR_FLAGS, 4, 1⟩
def RQT_ERR_FLAGS_LOG_UE : Fld := ⟨Reg.RQT_ERR_FLAGS, 5, 1⟩
def RQT_ERR_FLAGS_REQ_FAILED : Fld := ⟨Reg.RQT_ERR_FLAGS, 6, 1⟩
def RQT_ERR_FLAGS_HOLDER_FULL : Fld := ⟨Reg.RQT_ERR_FLAGS, 7, 1⟩
def RQT_REDIR_FROM_CHIP (n : Nat) : Fld := ⟨Reg.RQT_REDIR n, 0, 16⟩
def RQT_REDIR_TO_CHIP (n : Nat) : Fld := ⟨Reg.RQT_REDIR n, 16, 16⟩
def RQT_REDIR_VALID (n : Nat) : Fld := ⟨Reg.RQT_REDIR n, 32, 1⟩
def MOV_CAPS_QUEUES : Fld := ⟨Reg.MOV_CAPS, 0, 7⟩
def MOV_CAPS_MAX_DEPTH_LOG2 : Fld := ⟨Reg.MOV_CAPS, 7, 4⟩
def MOV_CAPS_WINDOWS : Fld := ⟨Reg.MOV_CAPS, 11, 9⟩
def MOV_CAPS_DIR_SETS_LOG2 : Fld := ⟨Reg.MOV_CAPS, 20, 5⟩
def MOV_CAPS_DIR_WAYS_LOG2 : Fld := ⟨Reg.MOV_CAPS, 25, 4⟩
def MOV_CAPS_INFLIGHT : Fld := ⟨Reg.MOV_CAPS, 29, 5⟩
def MOV_STATUS_DIR_USED : Fld := ⟨Reg.MOV_STATUS, 0, 21⟩
def MOV_STATUS_DIR_BLOCKED : Fld := ⟨Reg.MOV_STATUS, 21, 16⟩
def MOV_STATUS_FENCED_READERS : Fld := ⟨Reg.MOV_STATUS, 37, 8⟩
def MOV_STATUS_FENCED_BY : Fld := ⟨Reg.MOV_STATUS, 45, 8⟩
def MOV_CTL_SELF_MEMBER : Fld := ⟨Reg.MOV_CTL, 0, 8⟩
def MOV_CTL_LOAD_TIMEOUT : Fld := ⟨Reg.MOV_CTL, 8, 8⟩
def MOV_CTL_INVAL_TIMEOUT : Fld := ⟨Reg.MOV_CTL, 16, 10⟩
def MOV_CTL_SHARED_MIB : Fld := ⟨Reg.MOV_CTL, 26, 11⟩
def MOV_ERR_FLAGS_WIN_FAULT : Fld := ⟨Reg.MOV_ERR_FLAGS, 0, 1⟩
def MOV_ERR_FLAGS_REJECTED : Fld := ⟨Reg.MOV_ERR_FLAGS, 1, 1⟩
def MOV_ERR_FLAGS_TGT_DISCARD : Fld := ⟨Reg.MOV_ERR_FLAGS, 2, 1⟩
def MOV_ERR_FLAGS_TIMEOUT : Fld := ⟨Reg.MOV_ERR_FLAGS, 3, 1⟩
def MOV_ERR_FLAGS_REMOTE_UE : Fld := ⟨Reg.MOV_ERR_FLAGS, 4, 1⟩
def MOV_ERR_FLAGS_READER_FENCED : Fld := ⟨Reg.MOV_ERR_FLAGS, 5, 1⟩
def MOV_ERR_FLAGS_FENCED_HERE : Fld := ⟨Reg.MOV_ERR_FLAGS, 6, 1⟩
def MOV_ERR_FLAGS_DB_RANGE : Fld := ⟨Reg.MOV_ERR_FLAGS, 7, 1⟩
def MOV_MEMBER_CHIP_ID (n : Nat) : Fld := ⟨Reg.MOV_MEMBER n, 0, 16⟩
def MOV_MEMBER_VALID (n : Nat) : Fld := ⟨Reg.MOV_MEMBER n, 16, 1⟩
def MOV_WIN_LO_MEMBER_FIRST (n : Nat) : Fld := ⟨Reg.MOV_WIN_LO n, 0, 8⟩
def MOV_WIN_LO_MEMBER_LAST (n : Nat) : Fld := ⟨Reg.MOV_WIN_LO n, 8, 8⟩
def MOV_WIN_LO_APERTURES (n : Nat) : Fld := ⟨Reg.MOV_WIN_LO n, 16, 5⟩
def MOV_WIN_LO_LOAD (n : Nat) : Fld := ⟨Reg.MOV_WIN_LO n, 21, 1⟩
def MOV_WIN_LO_STORE (n : Nat) : Fld := ⟨Reg.MOV_WIN_LO n, 22, 1⟩
def MOV_WIN_LO_ATOMIC (n : Nat) : Fld := ⟨Reg.MOV_WIN_LO n, 23, 1⟩
def MOV_WIN_LO_PAGE_READ (n : Nat) : Fld := ⟨Reg.MOV_WIN_LO n, 24, 1⟩
def MOV_WIN_LO_HINT (n : Nat) : Fld := ⟨Reg.MOV_WIN_LO n, 25, 1⟩
def MOV_WIN_LO_FW (n : Nat) : Fld := ⟨Reg.MOV_WIN_LO n, 26, 1⟩
def MOV_WIN_LO_ANY_TENANT (n : Nat) : Fld := ⟨Reg.MOV_WIN_LO n, 27, 1⟩
def MOV_WIN_LO_AGENT (n : Nat) : Fld := ⟨Reg.MOV_WIN_LO n, 28, 1⟩
def MOV_WIN_LO_ENABLE (n : Nat) : Fld := ⟨Reg.MOV_WIN_LO n, 29, 1⟩
def MOV_WIN_LO_TENANT (n : Nat) : Fld := ⟨Reg.MOV_WIN_LO n, 32, 10⟩
def MOV_WIN_LO_AGENT_ID (n : Nat) : Fld := ⟨Reg.MOV_WIN_LO n, 48, 16⟩
def MOV_WIN_HI_BASE (n : Nat) : Fld := ⟨Reg.MOV_WIN_HI n, 0, 40⟩
def MOV_WIN_HI_SIZE_LOG2 (n : Nat) : Fld := ⟨Reg.MOV_WIN_HI n, 40, 6⟩
def MOV_Q_CFG_DEPTH_LOG2 (n : Nat) : Fld := ⟨Reg.MOV_Q_CFG n, 0, 4⟩
def MOV_Q_CFG_ENABLE (n : Nat) : Fld := ⟨Reg.MOV_Q_CFG n, 4, 1⟩
def MOV_Q_CFG_OWNER (n : Nat) : Fld := ⟨Reg.MOV_Q_CFG n, 5, 2⟩
def MOV_Q_CFG_WINDOW (n : Nat) : Fld := ⟨Reg.MOV_Q_CFG n, 7, 6⟩
def MOV_Q_CFG_TRAFFIC_Q (n : Nat) : Fld := ⟨Reg.MOV_Q_CFG n, 16, 10⟩
def MOV_Q_PTR_HEAD (n : Nat) : Fld := ⟨Reg.MOV_Q_PTR n, 0, 8⟩
def MOV_Q_PTR_TAIL (n : Nat) : Fld := ⟨Reg.MOV_Q_PTR n, 8, 8⟩
def MOV_Q_PTR_QSEQ (n : Nat) : Fld := ⟨Reg.MOV_Q_PTR n, 32, 32⟩
def MOV_Q_DB_TAIL (n : Nat) : Fld := ⟨Reg.MOV_Q_DB n, 0, 8⟩
def ACN_CAPS_COUNTERS : Fld := ⟨Reg.ACN_CAPS, 0, 17⟩
def ACN_CAPS_ROUTES : Fld := ⟨Reg.ACN_CAPS, 17, 9⟩
def ACN_CAPS_TW_MAX : Fld := ⟨Reg.ACN_CAPS, 26, 10⟩
def ACN_STATUS_ARMED : Fld := ⟨Reg.ACN_STATUS, 0, 17⟩
def ACN_ERR_FLAGS_EVENT_FAIL : Fld := ⟨Reg.ACN_ERR_FLAGS, 0, 1⟩
def ACN_ERR_FLAGS_ROUTE_INVALID : Fld := ⟨Reg.ACN_ERR_FLAGS, 1, 1⟩
def ACN_ERR_FLAGS_RANGE : Fld := ⟨Reg.ACN_ERR_FLAGS, 2, 1⟩
def ACN_ROUTE_CFG_KIND (n : Nat) : Fld := ⟨Reg.ACN_ROUTE_CFG n, 0, 2⟩
def ACN_ROUTE_CFG_VECTOR (n : Nat) : Fld := ⟨Reg.ACN_ROUTE_CFG n, 2, 11⟩
def ACN_ROUTE_CFG_WINDOW (n : Nat) : Fld := ⟨Reg.ACN_ROUTE_CFG n, 13, 6⟩
def ACN_ROUTE_CFG_IN_WINDOW (n : Nat) : Fld := ⟨Reg.ACN_ROUTE_CFG n, 19, 1⟩
def ACN_ROUTE_ADDR_ADDR (n : Nat) : Fld := ⟨Reg.ACN_ROUTE_ADDR n, 0, 64⟩
def ACN_TW_BASE (n : Nat) : Fld := ⟨Reg.ACN_TW n, 0, 16⟩
def ACN_TW_COUNT (n : Nat) : Fld := ⟨Reg.ACN_TW n, 16, 10⟩
def FAB_CAPS_PORTS : Fld := ⟨Reg.FAB_CAPS, 0, 5⟩
def FAB_CAPS_LANES : Fld := ⟨Reg.FAB_CAPS, 5, 7⟩
def FAB_CAPS_SPARES : Fld := ⟨Reg.FAB_CAPS, 12, 3⟩
def FAB_CAPS_REPLAY_FLITS : Fld := ⟨Reg.FAB_CAPS, 15, 10⟩
def FAB_STATUS_PORTS_UP : Fld := ⟨Reg.FAB_STATUS, 0, 16⟩
def FAB_STATUS_SPARES_LEFT : Fld := ⟨Reg.FAB_STATUS, 16, 3⟩
def FAB_CTL_REPLAY_TIMEOUT : Fld := ⟨Reg.FAB_CTL, 0, 8⟩
def FAB_CTL_REPLAY_MAX : Fld := ⟨Reg.FAB_CTL, 8, 4⟩
def FAB_CTL_LANE_ERR_LIMIT : Fld := ⟨Reg.FAB_CTL, 12, 16⟩
def FAB_CTL_SPARE_AUTO : Fld := ⟨Reg.FAB_CTL, 28, 1⟩
def FAB_CTL_SYS_PORT_MASK : Fld := ⟨Reg.FAB_CTL, 32, 16⟩
def FAB_ERR_FLAGS_CRC_ERR : Fld := ⟨Reg.FAB_ERR_FLAGS, 0, 1⟩
def FAB_ERR_FLAGS_REPLAY : Fld := ⟨Reg.FAB_ERR_FLAGS, 1, 1⟩
def FAB_ERR_FLAGS_RETRAIN : Fld := ⟨Reg.FAB_ERR_FLAGS, 2, 1⟩
def FAB_ERR_FLAGS_LANE_FAIL : Fld := ⟨Reg.FAB_ERR_FLAGS, 3, 1⟩
def FAB_ERR_FLAGS_SPARE_IN : Fld := ⟨Reg.FAB_ERR_FLAGS, 4, 1⟩
def FAB_ERR_FLAGS_SPARE_LOW : Fld := ⟨Reg.FAB_ERR_FLAGS, 5, 1⟩
def FAB_ERR_FLAGS_SPARE_EXHAUSTED : Fld := ⟨Reg.FAB_ERR_FLAGS, 6, 1⟩
def FAB_ERR_FLAGS_UNREACHABLE : Fld := ⟨Reg.FAB_ERR_FLAGS, 7, 1⟩
def FAB_ERR_FLAGS_PORT_DOWN : Fld := ⟨Reg.FAB_ERR_FLAGS, 8, 1⟩
def FAB_SPARE_MAP_LANE (k : Nat) : Fld := ⟨Reg.FAB_SPARE_MAP, 8 * k, 7⟩
def FAB_SPARE_MAP_IN_USE (k : Nat) : Fld := ⟨Reg.FAB_SPARE_MAP, 8 * k + 7, 1⟩
def FAB_ROUTE_PORT_MASK (n : Nat) : Fld := ⟨Reg.FAB_ROUTE n, 0, 16⟩
def FAB_ROUTE_PATHS (n : Nat) : Fld := ⟨Reg.FAB_ROUTE n, 16, 4⟩
def FAB_PORT_CFG_ENABLE (n : Nat) : Fld := ⟨Reg.FAB_PORT_CFG n, 0, 1⟩
def FAB_PORT_CFG_AGENT (n : Nat) : Fld := ⟨Reg.FAB_PORT_CFG n, 1, 1⟩
def FAB_PORT_CFG_AGENT_ID (n : Nat) : Fld := ⟨Reg.FAB_PORT_CFG n, 16, 16⟩
def FAB_PORT_STATUS_UP (n : Nat) : Fld := ⟨Reg.FAB_PORT_STATUS n, 0, 1⟩
def FAB_PORT_STATUS_WIDTH (n : Nat) : Fld := ⟨Reg.FAB_PORT_STATUS n, 1, 3⟩
def FAB_PORT_STATUS_DEGRADED (n : Nat) : Fld := ⟨Reg.FAB_PORT_STATUS n, 4, 1⟩
def FAB_PORT_STATUS_SPARED (n : Nat) : Fld := ⟨Reg.FAB_PORT_STATUS n, 5, 1⟩
def FAB_PORT_STATUS_PEER_ID (n : Nat) : Fld := ⟨Reg.FAB_PORT_STATUS n, 16, 16⟩
def XPT_CAPS_MSG_ENTRIES : Fld := ⟨Reg.XPT_CAPS, 0, 15⟩
def XPT_CAPS_BUFFERS : Fld := ⟨Reg.XPT_CAPS, 15, 19⟩
def XPT_CAPS_CONTEXTS : Fld := ⟨Reg.XPT_CAPS, 34, 13⟩
def XPT_CAPS_SA_ENTRIES : Fld := ⟨Reg.XPT_CAPS, 47, 15⟩
def XPT_STATUS_MSG_OUT : Fld := ⟨Reg.XPT_STATUS, 0, 15⟩
def XPT_STATUS_CTX_USED : Fld := ⟨Reg.XPT_STATUS, 15, 13⟩
def XPT_STATUS_SA_USED : Fld := ⟨Reg.XPT_STATUS, 28, 15⟩
def XPT_CTL_RTO : Fld := ⟨Reg.XPT_CTL, 0, 8⟩
def XPT_CTL_RETRY_MAX : Fld := ⟨Reg.XPT_CTL, 8, 4⟩
def XPT_CTL_FILL_TIMEOUT : Fld := ⟨Reg.XPT_CTL, 12, 16⟩
def XPT_KEY_STATUS_CUR_EPOCH : Fld := ⟨Reg.XPT_KEY_STATUS, 0, 16⟩
def XPT_KEY_STATUS_PREV_EPOCH : Fld := ⟨Reg.XPT_KEY_STATUS, 16, 16⟩
def XPT_KEY_STATUS_CUR_VALID : Fld := ⟨Reg.XPT_KEY_STATUS, 32, 1⟩
def XPT_KEY_STATUS_PREV_VALID : Fld := ⟨Reg.XPT_KEY_STATUS, 33, 1⟩
def XPT_ERR_FLAGS_AUTH_FAIL : Fld := ⟨Reg.XPT_ERR_FLAGS, 0, 1⟩
def XPT_ERR_FLAGS_NO_KEY : Fld := ⟨Reg.XPT_ERR_FLAGS, 1, 1⟩
def XPT_ERR_FLAGS_FILL_ABANDON : Fld := ⟨Reg.XPT_ERR_FLAGS, 2, 1⟩
def XPT_ERR_FLAGS_SEND_TIMEOUT : Fld := ⟨Reg.XPT_ERR_FLAGS, 3, 1⟩
def XPT_ERR_FLAGS_BLOCK_RESEND_FAIL : Fld := ⟨Reg.XPT_ERR_FLAGS, 4, 1⟩
def XPT_ERR_FLAGS_DB_RANGE : Fld := ⟨Reg.XPT_ERR_FLAGS, 5, 1⟩
def XPT_TW_DST_FIRST_CHIP (n : Nat) : Fld := ⟨Reg.XPT_TW_DST n, 0, 16⟩
def XPT_TW_DST_LAST_CHIP (n : Nat) : Fld := ⟨Reg.XPT_TW_DST n, 16, 16⟩
def XPT_TW_DST_ENABLE (n : Nat) : Fld := ⟨Reg.XPT_TW_DST n, 32, 1⟩
def XPT_RCQ_BASE_ADDR (n : Nat) : Fld := ⟨Reg.XPT_RCQ_BASE n, 0, 48⟩
def XPT_RCQ_BASE_HOSTWIN (n : Nat) : Fld := ⟨Reg.XPT_RCQ_BASE n, 48, 1⟩
def XPT_RCQ_BASE_SIZE_LOG2 (n : Nat) : Fld := ⟨Reg.XPT_RCQ_BASE n, 49, 5⟩
def XPT_RCQ_BASE_ENABLE (n : Nat) : Fld := ⟨Reg.XPT_RCQ_BASE n, 54, 1⟩
def XPT_RCQ_BASE_OWNER (n : Nat) : Fld := ⟨Reg.XPT_RCQ_BASE n, 55, 2⟩
def XPT_RCQ_BASE_WINDOW (n : Nat) : Fld := ⟨Reg.XPT_RCQ_BASE n, 57, 6⟩
def XPT_RCQ_PTR_TAIL (n : Nat) : Fld := ⟨Reg.XPT_RCQ_PTR n, 0, 16⟩
def XPT_RCQ_PTR_HEAD (n : Nat) : Fld := ⟨Reg.XPT_RCQ_PTR n, 16, 16⟩
def XPT_RCQ_PTR_BUFFERS (n : Nat) : Fld := ⟨Reg.XPT_RCQ_PTR n, 32, 17⟩
def XPT_SQ_CFG_DEPTH_LOG2 (n : Nat) : Fld := ⟨Reg.XPT_SQ_CFG n, 0, 4⟩
def XPT_SQ_CFG_ENABLE (n : Nat) : Fld := ⟨Reg.XPT_SQ_CFG n, 4, 1⟩
def XPT_SQ_CFG_OWNER (n : Nat) : Fld := ⟨Reg.XPT_SQ_CFG n, 5, 2⟩
def XPT_SQ_CFG_WINDOW (n : Nat) : Fld := ⟨Reg.XPT_SQ_CFG n, 7, 6⟩
def XPT_SQ_CFG_TRAFFIC_Q (n : Nat) : Fld := ⟨Reg.XPT_SQ_CFG n, 16, 10⟩
def XPT_SQ_PTR_HEAD (n : Nat) : Fld := ⟨Reg.XPT_SQ_PTR n, 0, 8⟩
def XPT_SQ_PTR_TAIL (n : Nat) : Fld := ⟨Reg.XPT_SQ_PTR n, 8, 8⟩
def XPT_SQ_PTR_QSEQ (n : Nat) : Fld := ⟨Reg.XPT_SQ_PTR n, 32, 32⟩
def XPT_SQ_DB_TAIL (n : Nat) : Fld := ⟨Reg.XPT_SQ_DB n, 0, 8⟩
def HRD_CAPS_QUEUES : Fld := ⟨Reg.HRD_CAPS, 0, 11⟩
def HRD_CAPS_SLOTS : Fld := ⟨Reg.HRD_CAPS, 11, 7⟩
def HRD_CTL_OVERHEAD : Fld := ⟨Reg.HRD_CTL, 0, 8⟩
def HRD_CTL_REFILL_LOG2 : Fld := ⟨Reg.HRD_CTL, 8, 4⟩
def HRD_CTL_MIRROR_SLOT : Fld := ⟨Reg.HRD_CTL, 12, 6⟩
def HRD_CLASS_SLOT (c : Nat) : Fld := ⟨Reg.HRD_CLASS_SLOT, 6 * c, 6⟩
def HRD_ERR_FLAGS_CTRL_HELD : Fld := ⟨Reg.HRD_ERR_FLAGS, 0, 1⟩
def HRD_ERR_FLAGS_ANSWER_HELD : Fld := ⟨Reg.HRD_ERR_FLAGS, 1, 1⟩
def HRD_Q_CFG_WEIGHT (n : Nat) : Fld := ⟨Reg.HRD_Q_CFG n, 0, 16⟩
def HRD_Q_CFG_SHAPE (n : Nat) : Fld := ⟨Reg.HRD_Q_CFG n, 16, 1⟩
def HRD_Q_CFG_RATE (n : Nat) : Fld := ⟨Reg.HRD_Q_CFG n, 20, 20⟩
def HRD_Q_CFG_DEPTH (n : Nat) : Fld := ⟨Reg.HRD_Q_CFG n, 40, 24⟩
def HRD_Q_STATE_TOKENS (n : Nat) : Fld := ⟨Reg.HRD_Q_STATE n, 0, 32⟩
def HRD_Q_STATE_BACKLOG (n : Nat) : Fld := ⟨Reg.HRD_Q_STATE n, 32, 16⟩
def HRD_Q_STATE_ELIGIBLE (n : Nat) : Fld := ⟨Reg.HRD_Q_STATE n, 48, 1⟩
def COL_CAPS_TENANTS : Fld := ⟨Reg.COL_CAPS, 0, 11⟩
def COL_CAPS_GROUPS : Fld := ⟨Reg.COL_CAPS, 11, 5⟩
def COL_CAPS_RESV_ENTRIES : Fld := ⟨Reg.COL_CAPS, 16, 13⟩
def COL_STATUS_RESV_USED : Fld := ⟨Reg.COL_STATUS, 0, 13⟩
def COL_STATUS_DEFERRED : Fld := ⟨Reg.COL_STATUS, 32, 17⟩
def COL_CTL_RESV_TIMEOUT : Fld := ⟨Reg.COL_CTL, 0, 16⟩
def COL_ERR_FLAGS_RESV_FULL : Fld := ⟨Reg.COL_ERR_FLAGS, 0, 1⟩
def COL_ERR_FLAGS_RESV_TIMEOUT : Fld := ⟨Reg.COL_ERR_FLAGS, 1, 1⟩
def COL_ERR_FLAGS_DEBT : Fld := ⟨Reg.COL_ERR_FLAGS, 2, 1⟩
def COL_ENG_CFG_RT_DAE_GROUPS : Fld := ⟨Reg.COL_ENG_CFG, 0, 5⟩
def COL_ENG_CFG_RT_PAE_GROUPS : Fld := ⟨Reg.COL_ENG_CFG, 8, 5⟩
def COL_GRP_WEIGHT_DAE_W (n : Nat) : Fld := ⟨Reg.COL_GRP_WEIGHT n, 0, 16⟩
def COL_GRP_WEIGHT_PAE_W (n : Nat) : Fld := ⟨Reg.COL_GRP_WEIGHT n, 16, 16⟩
def COL_TOKCFG_RATE (n : Nat) : Fld := ⟨Reg.COL_TOKCFG n, 0, 20⟩
def COL_TOKCFG_CAP (n : Nat) : Fld := ⟨Reg.COL_TOKCFG n, 20, 20⟩
def COL_TOKCFG_INTERVAL (n : Nat) : Fld := ⟨Reg.COL_TOKCFG n, 40, 16⟩
def COL_TOKCFG_ENABLE (n : Nat) : Fld := ⟨Reg.COL_TOKCFG n, 56, 1⟩
def COL_POSCFG_RATE (n : Nat) : Fld := ⟨Reg.COL_POSCFG n, 0, 20⟩
def COL_POSCFG_CAP (n : Nat) : Fld := ⟨Reg.COL_POSCFG n, 20, 20⟩
def COL_POSCFG_INTERVAL (n : Nat) : Fld := ⟨Reg.COL_POSCFG n, 40, 16⟩
def COL_POSCFG_ENABLE (n : Nat) : Fld := ⟨Reg.COL_POSCFG n, 56, 1⟩
def KNL_CAPS_CHANNELS : Fld := ⟨Reg.KNL_CAPS, 0, 5⟩
def KNL_CAPS_CE_PER_CH : Fld := ⟨Reg.KNL_CAPS, 5, 4⟩
def KNL_CAPS_SLOTS : Fld := ⟨Reg.KNL_CAPS, 9, 19⟩
def KNL_CAPS_DIRTY_MAX : Fld := ⟨Reg.KNL_CAPS, 28, 11⟩
def KNL_STATUS_STATE : Fld := ⟨Reg.KNL_STATUS, 0, 3⟩
def KNL_STATUS_DIRTY_LIMIT : Fld := ⟨Reg.KNL_STATUS, 3, 11⟩
def KNL_STATUS_SPARE_MIN : Fld := ⟨Reg.KNL_STATUS, 14, 16⟩
def KNL_STATUS_SPARE_MIN_DIE : Fld := ⟨Reg.KNL_STATUS, 30, 9⟩
def KNL_STATUS_WEAR_USED : Fld := ⟨Reg.KNL_STATUS, 39, 14⟩
def KNL_CTL_GC_LOW : Fld := ⟨Reg.KNL_CTL, 0, 4⟩
def KNL_CTL_GC_CRIT : Fld := ⟨Reg.KNL_CTL, 4, 4⟩
def KNL_CTL_WL_SPREAD : Fld := ⟨Reg.KNL_CTL, 8, 10⟩
def KNL_CTL_JOURNAL_US : Fld := ⟨Reg.KNL_CTL, 18, 12⟩
def KNL_CTL_SPARE_INIT : Fld := ⟨Reg.KNL_CTL, 30, 8⟩
def KNL_CTL_SPARE_FLOOR : Fld := ⟨Reg.KNL_CTL, 38, 8⟩
def KNL_NAND_CFG_TARGETS : Fld := ⟨Reg.KNL_NAND_CFG, 0, 4⟩
def KNL_NAND_CFG_LUNS : Fld := ⟨Reg.KNL_NAND_CFG, 4, 3⟩
def KNL_NAND_CFG_PLANES : Fld := ⟨Reg.KNL_NAND_CFG, 7, 2⟩
def KNL_NAND_CFG_BPC : Fld := ⟨Reg.KNL_NAND_CFG, 9, 2⟩
def KNL_NAND_CFG_PAGES_PER_BLOCK : Fld := ⟨Reg.KNL_NAND_CFG, 11, 16⟩
def KNL_NAND_CFG_BLOCKS_PER_LUN : Fld := ⟨Reg.KNL_NAND_CFG, 27, 16⟩
def KNL_NAND_CFG_PE_RATED : Fld := ⟨Reg.KNL_NAND_CFG, 43, 16⟩
def KNL_NAND_CFG_MODE : Fld := ⟨Reg.KNL_NAND_CFG, 59, 4⟩
def KNL_NAND_CFG_PROFILE : Fld := ⟨Reg.KNL_NAND_CFG, 63, 1⟩
def KNL_NAND_TIME_TPROG_SLC : Fld := ⟨Reg.KNL_NAND_TIME, 0, 12⟩
def KNL_NAND_TIME_TPROG_NAT : Fld := ⟨Reg.KNL_NAND_TIME, 12, 12⟩
def KNL_NAND_TIME_TR : Fld := ⟨Reg.KNL_NAND_TIME, 24, 12⟩
def KNL_NAND_TIME_TBERS : Fld := ⟨Reg.KNL_NAND_TIME, 36, 16⟩
def KNL_NAND_TIME_SPARE_B : Fld := ⟨Reg.KNL_NAND_TIME, 52, 12⟩
def KNL_ERR_FLAGS_NAND_REJECT : Fld := ⟨Reg.KNL_ERR_FLAGS, 0, 1⟩
def KNL_ERR_FLAGS_NAND_MISMATCH : Fld := ⟨Reg.KNL_ERR_FLAGS, 1, 1⟩
def KNL_ERR_FLAGS_UE_READ : Fld := ⟨Reg.KNL_ERR_FLAGS, 2, 1⟩
def KNL_ERR_FLAGS_BLOCK_RETIRED : Fld := ⟨Reg.KNL_ERR_FLAGS, 3, 1⟩
def KNL_ERR_FLAGS_CAP_SHRINK : Fld := ⟨Reg.KNL_ERR_FLAGS, 4, 1⟩
def KNL_ERR_FLAGS_READ_ONLY : Fld := ⟨Reg.KNL_ERR_FLAGS, 5, 1⟩
def KNL_ERR_FLAGS_SPARE_LOW : Fld := ⟨Reg.KNL_ERR_FLAGS, 6, 1⟩
def KNL_ERR_FLAGS_WEAR_OUT : Fld := ⟨Reg.KNL_ERR_FLAGS, 7, 1⟩
def KNL_ERR_FLAGS_FLUSH_RISK : Fld := ⟨Reg.KNL_ERR_FLAGS, 8, 1⟩
def KNL_ERR_FLAGS_FLUSH_DONE : Fld := ⟨Reg.KNL_ERR_FLAGS, 9, 1⟩
def KNL_ERR_FLAGS_FLUSH_SHORT : Fld := ⟨Reg.KNL_ERR_FLAGS, 10, 1⟩
def KNL_ERR_FLAGS_DIE_FAIL : Fld := ⟨Reg.KNL_ERR_FLAGS, 11, 1⟩
def GLB_IDENT_DEVICE : Fld := ⟨Reg.GLB_IDENT, 0, 16⟩
def GLB_IDENT_STEPPING : Fld := ⟨Reg.GLB_IDENT, 16, 8⟩
def GLB_CHIP_CHIP_ID : Fld := ⟨Reg.GLB_CHIP, 0, 16⟩
def GLB_CHIP_VALID : Fld := ⟨Reg.GLB_CHIP, 16, 1⟩
def GLB_STATUS_FW_READY : Fld := ⟨Reg.GLB_STATUS, 0, 1⟩
def GLB_STATUS_HOST_MODE : Fld := ⟨Reg.GLB_STATUS, 1, 2⟩
def GLB_STATUS_MEM_ACTIVE : Fld := ⟨Reg.GLB_STATUS, 3, 1⟩
def GLB_STATUS_CFG_PENDING : Fld := ⟨Reg.GLB_STATUS, 4, 1⟩
def GLB_STATUS_BOOT_SLOT : Fld := ⟨Reg.GLB_STATUS, 5, 1⟩
def GLB_STATUS_FW_ACTIVATING : Fld := ⟨Reg.GLB_STATUS, 6, 1⟩
def GLB_VERSION_FW_MAJOR : Fld := ⟨Reg.GLB_VERSION, 0, 8⟩
def GLB_VERSION_FW_MINOR : Fld := ⟨Reg.GLB_VERSION, 8, 8⟩
def GLB_VERSION_FW_PATCH : Fld := ⟨Reg.GLB_VERSION, 16, 16⟩
def GLB_VERSION_IFACE_MAJOR : Fld := ⟨Reg.GLB_VERSION, 32, 8⟩
def GLB_VERSION_IFACE_MINOR : Fld := ⟨Reg.GLB_VERSION, 40, 8⟩
def GLB_CFG_VER_RUNNING : Fld := ⟨Reg.GLB_CFG_VER, 0, 32⟩
def GLB_CFG_VER_PREVIOUS : Fld := ⟨Reg.GLB_CFG_VER, 32, 32⟩
def GLB_CFG_PEND_PENDING : Fld := ⟨Reg.GLB_CFG_PEND, 0, 32⟩
def GLB_PERS_PAE_PROMPT : Fld := ⟨Reg.GLB_PERS, 0, 5⟩
def GLB_PERS_PAE_GEN : Fld := ⟨Reg.GLB_PERS, 8, 5⟩
def GLB_PERS_DAE_GEN : Fld := ⟨Reg.GLB_PERS, 16, 5⟩
def GLB_PERS_SCT_GEN : Fld := ⟨Reg.GLB_PERS, 24, 7⟩
def GLB_PERS_CACHE : Fld := ⟨Reg.GLB_PERS, 32, 1⟩
def GLB_ERR_FLAGS_HEEL_AUTO : Fld := ⟨Reg.GLB_ERR_FLAGS, 0, 1⟩
def GLB_ERR_FLAGS_HEEL_CMD : Fld := ⟨Reg.GLB_ERR_FLAGS, 1, 1⟩
def GLB_ERR_FLAGS_CFG_REJECT : Fld := ⟨Reg.GLB_ERR_FLAGS, 2, 1⟩
def GLB_ERR_FLAGS_HOSTIF_RESET : Fld := ⟨Reg.GLB_ERR_FLAGS, 3, 1⟩
def MBX_CAPS_RINGS : Fld := ⟨Reg.MBX_CAPS, 0, 8⟩
def MBX_CAPS_PF0_RINGS : Fld := ⟨Reg.MBX_CAPS, 8, 5⟩
def MBX_CAPS_MAX_SIZE_LOG2 : Fld := ⟨Reg.MBX_CAPS, 13, 4⟩
def MBX_CAPS_RUNNING_MAX : Fld := ⟨Reg.MBX_CAPS, 17, 7⟩
def MBX_CAPS_PAYLOAD_LOG2 : Fld := ⟨Reg.MBX_CAPS, 24, 5⟩
def MBX_ERR_FLAGS_DB_RANGE : Fld := ⟨Reg.MBX_ERR_FLAGS, 0, 1⟩
def MBX_ERR_FLAGS_RING_CFG : Fld := ⟨Reg.MBX_ERR_FLAGS, 1, 1⟩
def MBX_ERR_FLAGS_VERSION : Fld := ⟨Reg.MBX_ERR_FLAGS, 2, 1⟩
def MBX_RING_CFG_SIZE_LOG2 (n : Nat) : Fld := ⟨Reg.MBX_RING_CFG n, 0, 4⟩
def MBX_RING_CFG_ENABLE (n : Nat) : Fld := ⟨Reg.MBX_RING_CFG n, 4, 1⟩
def MBX_RING_CFG_IRQ_EN (n : Nat) : Fld := ⟨Reg.MBX_RING_CFG n, 5, 1⟩
def MBX_RING_CFG_COALESCE_US (n : Nat) : Fld := ⟨Reg.MBX_RING_CFG n, 8, 8⟩
def MBX_RING_PTR_CMD_HEAD (n : Nat) : Fld := ⟨Reg.MBX_RING_PTR n, 0, 12⟩
def MBX_RING_PTR_CMD_TAIL (n : Nat) : Fld := ⟨Reg.MBX_RING_PTR n, 16, 12⟩
def MBX_RING_PTR_CPL_TAIL (n : Nat) : Fld := ⟨Reg.MBX_RING_PTR n, 32, 12⟩
def MBX_RING_PTR_IFACE_OPEN (n : Nat) : Fld := ⟨Reg.MBX_RING_PTR n, 48, 1⟩
def MBX_RING_DB_TAIL (n : Nat) : Fld := ⟨Reg.MBX_RING_DB n, 0, 12⟩
def MBX_CPL_HEAD_HEAD (n : Nat) : Fld := ⟨Reg.MBX_CPL_HEAD n, 0, 12⟩
def CXL_LINK_STATUS_WIDTH : Fld := ⟨Reg.CXL_LINK_STATUS, 0, 5⟩
def CXL_LINK_STATUS_RATE : Fld := ⟨Reg.CXL_LINK_STATUS, 5, 3⟩
def CXL_LINK_STATUS_MODE : Fld := ⟨Reg.CXL_LINK_STATUS, 8, 2⟩
def CXL_LINK_STATUS_TRAININGS : Fld := ⟨Reg.CXL_LINK_STATUS, 32, 16⟩
def CXL_ERR_FLAGS_MEM_UE : Fld := ⟨Reg.CXL_ERR_FLAGS, 0, 1⟩
def CXL_ERR_FLAGS_WR_DISCARD : Fld := ⟨Reg.CXL_ERR_FLAGS, 1, 1⟩
def CXL_ERR_FLAGS_LINK_DOWN : Fld := ⟨Reg.CXL_ERR_FLAGS, 2, 1⟩
def CXL_ERR_FLAGS_HDM_REJECT : Fld := ⟨Reg.CXL_ERR_FLAGS, 3, 1⟩
def ISL_CAPS_ISLANDS : Fld := ⟨Reg.ISL_CAPS, 0, 6⟩
def ISL_CAPS_SPARE_KINDS : Fld := ⟨Reg.ISL_CAPS, 6, 4⟩
def ISL_CAPS_FUSE_ENTRIES : Fld := ⟨Reg.ISL_CAPS, 10, 10⟩
def ISL_CAPS_LOG_ENTRIES : Fld := ⟨Reg.ISL_CAPS, 20, 13⟩
def ISL_STATUS_RUNNING : Fld := ⟨Reg.ISL_STATUS, 0, 6⟩
def ISL_STATUS_STOPPED : Fld := ⟨Reg.ISL_STATUS, 6, 6⟩
def ISL_STATUS_IN_RESET : Fld := ⟨Reg.ISL_STATUS, 12, 6⟩
def ISL_STATUS_THROTTLED : Fld := ⟨Reg.ISL_STATUS, 18, 6⟩
def ISL_STATUS_MGMT_ACTIVE : Fld := ⟨Reg.ISL_STATUS, 24, 1⟩
def ISL_STATUS_STANDBY_OK : Fld := ⟨Reg.ISL_STATUS, 25, 1⟩
def ISL_STATUS_CORES_OK : Fld := ⟨Reg.ISL_STATUS, 26, 5⟩
def ISL_STATUS_SEC_OK : Fld := ⟨Reg.ISL_STATUS, 31, 1⟩
def ISL_CTL_PATROL_S : Fld := ⟨Reg.ISL_CTL, 0, 16⟩
def ISL_CTL_PATROL_EN : Fld := ⟨Reg.ISL_CTL, 16, 1⟩
def ISL_CTL_IDLE_US : Fld := ⟨Reg.ISL_CTL, 24, 8⟩
def ISL_ERR_FLAGS_XING_ERR : Fld := ⟨Reg.ISL_ERR_FLAGS, 0, 1⟩
def ISL_ERR_FLAGS_ISL_RESET : Fld := ⟨Reg.ISL_ERR_FLAGS, 1, 1⟩
def ISL_ERR_FLAGS_THROTTLE : Fld := ⟨Reg.ISL_ERR_FLAGS, 2, 1⟩
def ISL_ERR_FLAGS_LIMIT_BREACH : Fld := ⟨Reg.ISL_ERR_FLAGS, 3, 1⟩
def ISL_ERR_FLAGS_CLOCK_LOSS : Fld := ⟨Reg.ISL_ERR_FLAGS, 4, 1⟩
def ISL_ERR_FLAGS_CORE_FAULT : Fld := ⟨Reg.ISL_ERR_FLAGS, 5, 1⟩
def ISL_ERR_FLAGS_CORE_SPARED : Fld := ⟨Reg.ISL_ERR_FLAGS, 6, 1⟩
def ISL_ERR_FLAGS_MGMT_TAKEOVER : Fld := ⟨Reg.ISL_ERR_FLAGS, 7, 1⟩
def ISL_ERR_FLAGS_SEC_RESTART : Fld := ⟨Reg.ISL_ERR_FLAGS, 8, 1⟩
def ISL_ERR_FLAGS_PATROL_FAIL : Fld := ⟨Reg.ISL_ERR_FLAGS, 9, 1⟩
def ISL_ERR_FLAGS_REPAIR_RECORDED : Fld := ⟨Reg.ISL_ERR_FLAGS, 10, 1⟩
def ISL_ERR_FLAGS_EFUSE_FULL : Fld := ⟨Reg.ISL_ERR_FLAGS, 11, 1⟩
def ISL_ERR_FLAGS_SPARE_LOW : Fld := ⟨Reg.ISL_ERR_FLAGS, 12, 1⟩
def ISL_ERR_FLAGS_SPARE_EXHAUSTED : Fld := ⟨Reg.ISL_ERR_FLAGS, 13, 1⟩
def ISL_ERR_FLAGS_FW_REVERT : Fld := ⟨Reg.ISL_ERR_FLAGS, 14, 1⟩
def ISL_ERR_FLAGS_WARM_RESET : Fld := ⟨Reg.ISL_ERR_FLAGS, 15, 1⟩
def ISL_EFUSE_FUSE_USED : Fld := ⟨Reg.ISL_EFUSE, 0, 10⟩
def ISL_EFUSE_LOG_USED : Fld := ⟨Reg.ISL_EFUSE, 16, 13⟩
def ISL_STATE_STATE (n : Nat) : Fld := ⟨Reg.ISL_STATE n, 0, 3⟩
def ISL_STATE_THROTTLED (n : Nat) : Fld := ⟨Reg.ISL_STATE n, 3, 1⟩
def ISL_STATE_FREQ_MHZ (n : Nat) : Fld := ⟨Reg.ISL_STATE n, 4, 12⟩
def ISL_STATE_VDD_MV (n : Nat) : Fld := ⟨Reg.ISL_STATE n, 16, 10⟩
def ISL_STATE_TEMP (n : Nat) : Fld := ⟨Reg.ISL_STATE n, 26, 12⟩
def ISL_NEIGH_NEIGHBOURS (n : Nat) : Fld := ⟨Reg.ISL_NEIGH n, 0, 56⟩
def ISL_SPARE_INITIAL (n : Nat) : Fld := ⟨Reg.ISL_SPARE n, 0, 32⟩
def ISL_SPARE_LEFT (n : Nat) : Fld := ⟨Reg.ISL_SPARE n, 32, 32⟩
def BRK_CAPS_ENTRIES : Fld := ⟨Reg.BRK_CAPS, 0, 13⟩
def BRK_CAPS_CLASSES : Fld := ⟨Reg.BRK_CAPS, 13, 6⟩
def BRK_CTL_RESERVE : Fld := ⟨Reg.BRK_CTL, 0, 7⟩
def BRK_CTL_IRQ_EN : Fld := ⟨Reg.BRK_CTL, 7, 1⟩
def BRK_ERR_FLAGS_OVERFLOW : Fld := ⟨Reg.BRK_ERR_FLAGS, 0, 1⟩
def BRK_ERR_FLAGS_RESERVE_USED : Fld := ⟨Reg.BRK_ERR_FLAGS, 1, 1⟩
def BRK_OVF_REARM_CLASS_MASK : Fld := ⟨Reg.BRK_OVF_REARM, 0, 32⟩
def LDG_CAPS_LEDGERS : Fld := ⟨Reg.LDG_CAPS, 0, 3⟩
def LDG_CTL_CHECK_MS : Fld := ⟨Reg.LDG_CTL, 0, 16⟩
def LDG_ERR_FLAGS_LINK_CREDITS : Fld := ⟨Reg.LDG_ERR_FLAGS, 0, 1⟩
def LDG_ERR_FLAGS_POSTED_BUFFERS : Fld := ⟨Reg.LDG_ERR_FLAGS, 1, 1⟩
def LDG_ERR_FLAGS_COLLAR_TOKENS : Fld := ⟨Reg.LDG_ERR_FLAGS, 2, 1⟩
def LDG_ERR_FLAGS_ARRIVAL_INCREMENTS : Fld := ⟨Reg.LDG_ERR_FLAGS, 3, 1⟩
def LDG_ERR_FLAGS_REQUESTS : Fld := ⟨Reg.LDG_ERR_FLAGS, 4, 1⟩
def LDG_ERR_FLAGS_SHARED_REFS : Fld := ⟨Reg.LDG_ERR_FLAGS, 5, 1⟩
def SEC_CAPS_FW_KEYS : Fld := ⟨Reg.SEC_CAPS, 0, 3⟩
def SEC_CAPS_ARB_MAX : Fld := ⟨Reg.SEC_CAPS, 3, 7⟩
def SEC_CAPS_KNL_KEYS : Fld := ⟨Reg.SEC_CAPS, 10, 12⟩
def SEC_STATUS_RECOVERY : Fld := ⟨Reg.SEC_STATUS, 0, 1⟩
def SEC_STATUS_BOOT_FALLBACK : Fld := ⟨Reg.SEC_STATUS, 1, 1⟩
def SEC_STATUS_SEC_STAGED : Fld := ⟨Reg.SEC_STATUS, 2, 1⟩
def SEC_STATUS_TEST_UNLOCKED : Fld := ⟨Reg.SEC_STATUS, 3, 1⟩
def SEC_STATUS_UNLOCKED_SINCE_BOOT : Fld := ⟨Reg.SEC_STATUS, 4, 1⟩
def SEC_STATUS_UNLOCK_SCOPE : Fld := ⟨Reg.SEC_STATUS, 5, 3⟩
def SEC_STATUS_KEY_STAGED : Fld := ⟨Reg.SEC_STATUS, 8, 1⟩
def SEC_STATUS_STAGED_EPOCH : Fld := ⟨Reg.SEC_STATUS, 9, 16⟩
def SEC_STATUS_KNL_KEYS_LOADED : Fld := ⟨Reg.SEC_STATUS, 25, 12⟩
def SEC_CTL_SEAL_DELAY_MS : Fld := ⟨Reg.SEC_CTL, 0, 16⟩
def SEC_ERR_FLAGS_IMAGE_REJECT : Fld := ⟨Reg.SEC_ERR_FLAGS, 0, 1⟩
def SEC_ERR_FLAGS_BOOT_FALLBACK : Fld := ⟨Reg.SEC_ERR_FLAGS, 1, 1⟩
def SEC_ERR_FLAGS_WRAP_FAIL : Fld := ⟨Reg.SEC_ERR_FLAGS, 2, 1⟩
def SEC_ERR_FLAGS_UNLOCK_FAIL : Fld := ⟨Reg.SEC_ERR_FLAGS, 3, 1⟩
def SEC_ERR_FLAGS_UNLOCK : Fld := ⟨Reg.SEC_ERR_FLAGS, 4, 1⟩
def SEC_ERR_FLAGS_AP4_DISCARD : Fld := ⟨Reg.SEC_ERR_FLAGS, 5, 1⟩
def SEC_ARB_ARB_COUNT : Fld := ⟨Reg.SEC_ARB, 0, 7⟩
def SEC_ARB_SVN_A : Fld := ⟨Reg.SEC_ARB, 8, 7⟩
def SEC_ARB_SVN_B : Fld := ⟨Reg.SEC_ARB, 16, 7⟩
def SEC_ARB_A_BOOTABLE : Fld := ⟨Reg.SEC_ARB, 24, 1⟩
def SEC_ARB_B_BOOTABLE : Fld := ⟨Reg.SEC_ARB, 25, 1⟩
def SEC_FUSE_KEYS_VALID : Fld := ⟨Reg.SEC_FUSE_KEYS, 0, 4⟩
def SEC_FUSE_KEYS_REVOKED : Fld := ⟨Reg.SEC_FUSE_KEYS, 4, 4⟩
def SEC_FUSE_KEYS_UNLOCK_KEY : Fld := ⟨Reg.SEC_FUSE_KEYS, 8, 1⟩
def PWR_CAPS_BLOCKS : Fld := ⟨Reg.PWR_CAPS, 0, 4⟩
def PWR_CAPS_RAILS : Fld := ⟨Reg.PWR_CAPS, 4, 4⟩
def PWR_CAPS_BSR_LEN : Fld := ⟨Reg.PWR_CAPS, 8, 12⟩
def PWR_STATUS_HOT_ISLAND : Fld := ⟨Reg.PWR_STATUS, 0, 6⟩
def PWR_STATUS_HOT_TEMP : Fld := ⟨Reg.PWR_STATUS, 6, 12⟩
def PWR_STATUS_ALERT : Fld := ⟨Reg.PWR_STATUS, 18, 1⟩
def PWR_STATUS_TRIP : Fld := ⟨Reg.PWR_STATUS, 19, 1⟩
def PWR_STATUS_PF_STATE : Fld := ⟨Reg.PWR_STATUS, 20, 2⟩
def PWR_CTL_ALERT_C : Fld := ⟨Reg.PWR_CTL, 0, 8⟩
def PWR_CTL_ALERT_HYST : Fld := ⟨Reg.PWR_CTL, 8, 4⟩
def PWR_ERR_FLAGS_THERM_ALERT : Fld := ⟨Reg.PWR_ERR_FLAGS, 0, 1⟩
def PWR_ERR_FLAGS_PWRFAIL : Fld := ⟨Reg.PWR_ERR_FLAGS, 1, 1⟩
def PWR_ERR_FLAGS_RAIL_UV : Fld := ⟨Reg.PWR_ERR_FLAGS, 2, 1⟩
def PWR_ERR_FLAGS_RAIL_OV : Fld := ⟨Reg.PWR_ERR_FLAGS, 3, 1⟩
def PWR_ERR_FLAGS_REFCLK_LOSS : Fld := ⟨Reg.PWR_ERR_FLAGS, 4, 1⟩
def PWR_ERR_FLAGS_BLOCK_LIMIT : Fld := ⟨Reg.PWR_ERR_FLAGS, 5, 1⟩
def PWR_ERR_FLAGS_LEAK_HIGH : Fld := ⟨Reg.PWR_ERR_FLAGS, 6, 1⟩
def PWR_ERR_FLAGS_FLUSH_DONE : Fld := ⟨Reg.PWR_ERR_FLAGS, 7, 1⟩
def PWR_STRAPS_RECOVERY : Fld := ⟨Reg.PWR_STRAPS, 0, 1⟩
def PWR_STRAPS_SPI_QUAD : Fld := ⟨Reg.PWR_STRAPS, 1, 1⟩
def PWR_STRAPS_NF_VCCQ : Fld := ⟨Reg.PWR_STRAPS, 2, 1⟩
def PWR_STRAPS_I3C_SA : Fld := ⟨Reg.PWR_STRAPS, 3, 2⟩
def PWR_BLOCK_POWER_MW (n : Nat) : Fld := ⟨Reg.PWR_BLOCK n, 0, 32⟩
def PWR_BLOCK_LIMIT_MW (n : Nat) : Fld := ⟨Reg.PWR_BLOCK n, 32, 32⟩
def PWR_RAIL_MV (n : Nat) : Fld := ⟨Reg.PWR_RAIL n, 0, 16⟩
def PWR_RAIL_CURRENT (n : Nat) : Fld := ⟨Reg.PWR_RAIL n, 16, 20⟩
def TST_STATUS_INSTRUCTION : Fld := ⟨Reg.TST_STATUS, 0, 8⟩
def TST_STATUS_LOCKED : Fld := ⟨Reg.TST_STATUS, 8, 1⟩
def TST_STATUS_SCOPE : Fld := ⟨Reg.TST_STATUS, 9, 3⟩
def TST_ERR_FLAGS_EXTEST_LIVE : Fld := ⟨Reg.TST_ERR_FLAGS, 0, 1⟩
def TST_ERR_FLAGS_PRIVATE_REFUSED : Fld := ⟨Reg.TST_ERR_FLAGS, 1, 1⟩

end Fld

namespace RegTab

def glb0 : List RegDesc := [
  -- GLB_IDENT
  ⟨0x000000, 8, 1, 8, [⟨0, 16, .ro, 1600, 1600, false⟩, ⟨16, 8, .ro, 192, 192, false⟩]⟩,
  -- GLB_CHIP
  ⟨0x000008, 8, 1, 8, [⟨0, 16, .rwl, 0, 0, false⟩, ⟨16, 1, .rwl, 0, 0, false⟩]⟩,
  -- GLB_STATUS
  ⟨0x000010, 8, 1, 8, [⟨0, 1, .ro, 0, 0, false⟩, ⟨1, 2, .ro, 0, 0, false⟩, ⟨3, 1, .ro, 0, 0, false⟩, ⟨4, 1, .ro, 0, 0, false⟩, ⟨5, 1, .ro, 0, 0, false⟩, ⟨6, 1, .ro, 0, 0, false⟩]⟩,
  -- GLB_VERSION
  ⟨0x000018, 8, 1, 8, [⟨0, 8, .ro, 0, 0, true⟩, ⟨8, 8, .ro, 0, 0, true⟩, ⟨16, 16, .ro, 0, 0, true⟩, ⟨32, 8, .ro, 3, 3, false⟩, ⟨40, 8, .ro, 0, 0, true⟩]⟩,
  -- GLB_CFG_VER
  ⟨0x000020, 8, 1, 8, [⟨0, 32, .ro, 0, 0, false⟩, ⟨32, 32, .ro, 0, 0, false⟩]⟩,
  -- GLB_CFG_PEND
  ⟨0x000028, 8, 1, 8, [⟨0, 32, .ro, 0, 0, false⟩]⟩,
  -- GLB_CFG_DEADLINE
  ⟨0x000030, 8, 1, 8, [⟨0, 64, .ro, 0, 0, false⟩]⟩,
  -- GLB_PERS
  ⟨0x000038, 8, 1, 8, [⟨0, 5, .rwl, 16, 16, false⟩, ⟨8, 5, .rwl, 0, 0, false⟩, ⟨16, 5, .rwl, 16, 16, false⟩, ⟨24, 7, .rwl, 64, 64, false⟩, ⟨32, 1, .rwl, 1, 1, false⟩]⟩,
  -- GLB_LOCAL_CTR
  ⟨0x000040, 8, 1, 8, [⟨0, 64, .ro, 0, 0, false⟩]⟩,
  -- GLB_SERIAL
  ⟨0x000048, 8, 1, 8, [⟨0, 64, .ro, 0, 0, true⟩]⟩,
  -- GLB_ERR_FLAGS
  ⟨0x000050, 8, 1, 8, [⟨0, 1, .rw1c, 0, 0, false⟩, ⟨1, 1, .rw1c, 0, 0, false⟩, ⟨2, 1, .rw1c, 0, 0, false⟩, ⟨3, 1, .rw1c, 0, 0, false⟩]⟩,
  -- GLB_ERR_EVT_f
  ⟨0x000100, 4, 4, 4, [⟨0, 32, .ro, 0, 0, false⟩]⟩]

/-- The registers of the GLB block. -/
def glb : List RegDesc := glb0

def mbx0 : List RegDesc := [
  -- MBX_CAPS
  ⟨0x010000, 8, 1, 8, [⟨0, 8, .ro, 144, 144, false⟩, ⟨8, 5, .ro, 16, 16, false⟩, ⟨13, 4, .ro, 12, 12, false⟩, ⟨17, 7, .ro, 64, 64, false⟩, ⟨24, 5, .ro, 16, 16, false⟩]⟩,
  -- MBX_ERR_FLAGS
  ⟨0x010008, 8, 1, 8, [⟨0, 1, .rw1c, 0, 0, false⟩, ⟨1, 1, .rw1c, 0, 0, false⟩, ⟨2, 1, .rw1c, 0, 0, false⟩]⟩,
  -- MBX_RING_CFG_r
  ⟨0x010100, 32, 144, 8, [⟨0, 4, .rw, 0, 0, false⟩, ⟨4, 1, .rw, 0, 0, false⟩, ⟨5, 1, .rw, 0, 0, false⟩, ⟨8, 8, .rw, 0, 0, false⟩]⟩,
  -- MBX_RING_PTR_r
  ⟨0x010108, 32, 144, 8, [⟨0, 12, .ro, 0, 0, false⟩, ⟨16, 12, .ro, 0, 0, false⟩, ⟨32, 12, .ro, 0, 0, false⟩, ⟨48, 1, .ro, 0, 0, false⟩]⟩,
  -- MBX_RING_DB_r
  ⟨0x010110, 32, 144, 8, [⟨0, 12, .wo, 0, 0, false⟩]⟩,
  -- MBX_CPL_HEAD_r
  ⟨0x010118, 32, 144, 8, [⟨0, 12, .rw, 0, 0, false⟩]⟩,
  -- MBX_DONE_s
  ⟨0x012000, 8, 16, 8, [⟨0, 64, .ro, 0, 0, false⟩]⟩,
  -- MBX_ERR_EVT_f
  ⟨0x012100, 4, 3, 4, [⟨0, 32, .ro, 0, 0, false⟩]⟩]

/-- The registers of the MBX block. -/
def mbx : List RegDesc := mbx0

def rqt0 : List RegDesc := [
  -- RQT_CAPS
  ⟨0x020000, 8, 1, 8, [⟨0, 17, .ro, 65536, 65536, false⟩, ⟨17, 7, .ro, 64, 64, false⟩, ⟨24, 3, .ro, 4, 4, false⟩]⟩,
  -- RQT_STATUS
  ⟨0x020008, 8, 1, 8, [⟨0, 17, .ro, 0, 0, false⟩, ⟨17, 2, .ro, 0, 0, false⟩, ⟨32, 16, .ro, 0, 0, false⟩, ⟨48, 16, .ro, 0, 0, false⟩]⟩,
  -- RQT_CTL
  ⟨0x020010, 8, 1, 8, [⟨0, 8, .rwl, 20, 20, false⟩, ⟨8, 8, .rwl, 20, 20, false⟩, ⟨16, 8, .rwl, 10, 10, false⟩, ⟨24, 8, .rwl, 20, 20, false⟩, ⟨32, 8, .rwl, 10, 10, false⟩, ⟨40, 8, .rwl, 10, 10, false⟩, ⟨48, 8, .rwl, 50, 50, false⟩]⟩,
  -- RQT_FETCH_CFG
  ⟨0x020018, 8, 1, 8, [⟨0, 16, .rwl, 1600, 1600, false⟩, ⟨16, 4, .rwl, 4, 4, false⟩, ⟨20, 1, .rwl, 1, 1, false⟩]⟩,
  -- RQT_PARTNER
  ⟨0x020020, 8, 1, 8, [⟨0, 16, .ro, 0, 0, false⟩, ⟨16, 1, .ro, 0, 0, false⟩, ⟨17, 1, .ro, 0, 0, false⟩, ⟨18, 16, .ro, 0, 0, false⟩]⟩,
  -- RQT_ERR_FLAGS
  ⟨0x020028, 8, 1, 8, [⟨0, 1, .rw1c, 0, 0, false⟩, ⟨1, 1, .rw1c, 0, 0, false⟩, ⟨2, 1, .rw1c, 0, 0, false⟩, ⟨3, 1, .rw1c, 0, 0, false⟩, ⟨4, 1, .rw1c, 0, 0, false⟩, ⟨5, 1, .rw1c, 0, 0, false⟩, ⟨6, 1, .rw1c, 0, 0, false⟩, ⟨7, 1, .rw1c, 0, 0, false⟩]⟩,
  -- RQT_ADMITTED
  ⟨0x020100, 8, 1, 8, [⟨0, 64, .ro, 0, 0, false⟩]⟩,
  -- RQT_CLOSED
  ⟨0x020108, 8, 1, 8, [⟨0, 64, .ro, 0, 0, false⟩]⟩,
  -- RQT_FAILED
  ⟨0x020110, 8, 1, 8, [⟨0, 64, .ro, 0, 0, false⟩]⟩,
  -- RQT_LIVE
  ⟨0x020118, 8, 1, 8, [⟨0, 64, .ro, 0, 0, false⟩]⟩,
  -- RQT_ADOPTED
  ⟨0x020120, 8, 1, 8, [⟨0, 64, .ro, 0, 0, false⟩]⟩,
  -- RQT_HANDOFFS
  ⟨0x020128, 8, 1, 8, [⟨0, 64, .ro, 0, 0, false⟩]⟩]

def rqt1 : List RegDesc := [
  -- RQT_CANCELLED
  ⟨0x020130, 8, 1, 8, [⟨0, 64, .ro, 0, 0, false⟩]⟩,
  -- RQT_CAS_REPEAT
  ⟨0x020138, 8, 1, 8, [⟨0, 64, .ro, 0, 0, false⟩]⟩,
  -- RQT_OFFER_RESENT
  ⟨0x020140, 8, 1, 8, [⟨0, 64, .ro, 0, 0, false⟩]⟩,
  -- RQT_STALE_MSG
  ⟨0x020148, 8, 1, 8, [⟨0, 64, .ro, 0, 0, false⟩]⟩,
  -- RQT_COPY_FREE
  ⟨0x020150, 8, 1, 8, [⟨0, 64, .ro, 0, 0, false⟩]⟩,
  -- RQT_FETCH_PAGES
  ⟨0x020158, 8, 1, 8, [⟨0, 64, .ro, 0, 0, false⟩]⟩,
  -- RQT_FETCH_BYTES
  ⟨0x020160, 8, 1, 8, [⟨0, 64, .ro, 0, 0, false⟩]⟩,
  -- RQT_FAILOVER
  ⟨0x020168, 8, 1, 8, [⟨0, 64, .ro, 0, 0, false⟩]⟩,
  -- RQT_REPLAY_REQ
  ⟨0x020170, 8, 1, 8, [⟨0, 64, .ro, 0, 0, false⟩]⟩,
  -- RQT_REPLAY_POS
  ⟨0x020178, 8, 1, 8, [⟨0, 64, .ro, 0, 0, false⟩]⟩,
  -- RQT_TAKEOVERS
  ⟨0x020180, 8, 1, 8, [⟨0, 64, .ro, 0, 0, false⟩]⟩,
  -- RQT_BACKUP
  ⟨0x020188, 8, 1, 8, [⟨0, 64, .ro, 0, 0, false⟩]⟩]

def rqt2 : List RegDesc := [
  -- RQT_BACKUP_WON
  ⟨0x020190, 8, 1, 8, [⟨0, 64, .ro, 0, 0, false⟩]⟩,
  -- RQT_BACKUP_DISCARD
  ⟨0x020198, 8, 1, 8, [⟨0, 64, .ro, 0, 0, false⟩]⟩,
  -- RQT_LATE
  ⟨0x0201A0, 8, 1, 8, [⟨0, 64, .ro, 0, 0, false⟩]⟩,
  -- RQT_REDIR_REPLACED
  ⟨0x0201A8, 8, 1, 8, [⟨0, 64, .ro, 0, 0, false⟩]⟩,
  -- RQT_ERR_EVT_f
  ⟨0x020200, 4, 8, 4, [⟨0, 32, .ro, 0, 0, false⟩]⟩,
  -- RQT_REDIR_n
  ⟨0x020400, 8, 64, 8, [⟨0, 16, .ro, 0, 0, false⟩, ⟨16, 16, .ro, 0, 0, false⟩, ⟨32, 1, .ro, 0, 0, false⟩]⟩]

/-- The registers of the RQT block. -/
def rqt : List RegDesc := rqt0 ++ rqt1 ++ rqt2

def stm0 : List RegDesc := [
  -- STM_CAPS
  ⟨0x030000, 8, 1, 8, [⟨0, 20, .ro, 262144, 262144, false⟩, ⟨20, 28, .ro, 29360128, 29360128, false⟩, ⟨48, 5, .ro, 5, 5, false⟩, ⟨53, 4, .ro, 4, 4, false⟩]⟩,
  -- STM_STATUS
  ⟨0x030008, 8, 1, 8, [⟨0, 9, .ro, 0, 0, false⟩, ⟨9, 13, .ro, 0, 0, false⟩]⟩,
  -- STM_PREFETCH_CTL
  ⟨0x030010, 8, 1, 8, [⟨0, 3, .rwl, 2, 2, false⟩]⟩,
  -- STM_STALL_LIMIT
  ⟨0x030018, 8, 1, 8, [⟨0, 64, .rwl, 2000000, 2000000, false⟩]⟩,
  -- STM_ERR_FLAGS
  ⟨0x030020, 8, 1, 8, [⟨0, 1, .rw1c, 0, 0, false⟩, ⟨1, 1, .rw1c, 0, 0, false⟩, ⟨2, 1, .rw1c, 0, 0, false⟩, ⟨3, 1, .rw1c, 0, 0, false⟩, ⟨4, 1, .rw1c, 0, 0, false⟩, ⟨5, 1, .rw1c, 0, 0, false⟩, ⟨6, 1, .rw1c, 0, 0, false⟩, ⟨7, 1, .rw1c, 0, 0, false⟩]⟩,
  -- STM_TRACKER_GEN
  ⟨0x030028, 8, 1, 8, [⟨0, 64, .ro, 0, 0, false⟩]⟩,
  -- STM_MIG_CTL
  ⟨0x030030, 8, 1, 8, [⟨0, 8, .rwl, 64, 64, false⟩, ⟨16, 9, .rwl, 256, 256, false⟩, ⟨32, 16, .rwl, 0, 0, false⟩]⟩,
  -- STM_FREE_NEAR
  ⟨0x030038, 8, 1, 8, [⟨0, 64, .ro, 262144, 262144, false⟩]⟩,
  -- STM_FREE_FAR
  ⟨0x030040, 8, 1, 8, [⟨0, 64, .ro, 29360128, 29360128, false⟩]⟩,
  -- STM_NPART_n
  ⟨0x030100, 8, 16, 8, [⟨0, 32, .rwl, 4294967295, 0, false⟩, ⟨32, 5, .rwl, 31, 0, false⟩, ⟨48, 16, .rwl, 65535, 0, false⟩]⟩,
  -- STM_FPART_n
  ⟨0x030180, 8, 8, 8, [⟨0, 6, .rwl, 0, 0, false⟩, ⟨6, 2, .rwl, 3, 0, false⟩, ⟨8, 5, .rwl, 31, 0, false⟩, ⟨32, 16, .rwl, 65535, 0, false⟩]⟩,
  -- STM_STALL_EVT_c
  ⟨0x030200, 8, 8, 8, [⟨0, 64, .ro, 0, 0, false⟩]⟩]

def stm1 : List RegDesc := [
  -- STM_STALL_TICKS_c
  ⟨0x030240, 8, 8, 8, [⟨0, 64, .ro, 0, 0, false⟩]⟩,
  -- STM_REF_TAKEN
  ⟨0x030280, 8, 1, 8, [⟨0, 64, .ro, 0, 0, false⟩]⟩,
  -- STM_REF_DROPPED
  ⟨0x030288, 8, 1, 8, [⟨0, 64, .ro, 0, 0, false⟩]⟩,
  -- STM_REF_LIVE
  ⟨0x030290, 8, 1, 8, [⟨0, 64, .ro, 0, 0, false⟩]⟩,
  -- STM_ALLOC_FAIL
  ⟨0x030298, 8, 1, 8, [⟨0, 64, .ro, 0, 0, false⟩]⟩,
  -- STM_EVICT_DROP
  ⟨0x0302A0, 8, 1, 8, [⟨0, 64, .ro, 0, 0, false⟩]⟩,
  -- STM_EVICT_COPY
  ⟨0x0302A8, 8, 1, 8, [⟨0, 64, .ro, 0, 0, false⟩]⟩,
  -- STM_MIG_COMMIT
  ⟨0x0302B0, 8, 1, 8, [⟨0, 64, .ro, 0, 0, false⟩]⟩,
  -- STM_MIG_ABORT
  ⟨0x0302B8, 8, 1, 8, [⟨0, 64, .ro, 0, 0, false⟩]⟩,
  -- STM_MIG_HOLD
  ⟨0x0302C0, 8, 1, 8, [⟨0, 64, .ro, 0, 0, false⟩]⟩,
  -- STM_TOMB_FWD
  ⟨0x0302C8, 8, 1, 8, [⟨0, 64, .ro, 0, 0, false⟩]⟩,
  -- STM_CRC_FAIL
  ⟨0x0302D0, 8, 1, 8, [⟨0, 64, .ro, 0, 0, false⟩]⟩]

def stm2 : List RegDesc := [
  -- STM_STALL_ABORT
  ⟨0x0302D8, 8, 1, 8, [⟨0, 64, .ro, 0, 0, false⟩]⟩,
  -- STM_ERR_EVT_f
  ⟨0x030300, 4, 8, 4, [⟨0, 32, .ro, 0, 0, false⟩]⟩,
  -- STM_SPARE_d
  ⟨0x030400, 4, 4, 4, [⟨0, 3, .ro, 4, 4, false⟩, ⟨16, 16, .ro, 0, 0, true⟩]⟩]

/-- The registers of the STM block. -/
def stm : List RegDesc := stm0 ++ stm1 ++ stm2

def pae0 : List RegDesc := [
  -- PAE_CAPS
  ⟨0x040000, 8, 1, 8, [⟨0, 8, .ro, 128, 128, false⟩, ⟨8, 4, .ro, 8, 8, false⟩, ⟨12, 4, .ro, 3, 3, false⟩]⟩,
  -- PAE_STATUS
  ⟨0x040008, 8, 1, 8, [⟨0, 8, .ro, 128, 128, false⟩, ⟨8, 16, .ro, 0, 0, false⟩]⟩,
  -- PAE_ERR_FLAGS
  ⟨0x040018, 8, 1, 8, [⟨0, 1, .rw1c, 0, 0, false⟩, ⟨1, 1, .rw1c, 0, 0, false⟩, ⟨2, 1, .rw1c, 0, 0, false⟩, ⟨3, 1, .rw1c, 0, 0, false⟩]⟩,
  -- PAE_TILE_MAP_w
  ⟨0x040020, 8, 3, 8, [⟨0, 64, .ro, 0, 0, true⟩]⟩,
  -- PAE_SUBJOBS
  ⟨0x040048, 8, 1, 8, [⟨0, 64, .ro, 0, 0, false⟩]⟩,
  -- PAE_BUSY_CYCLES
  ⟨0x040050, 8, 1, 8, [⟨0, 64, .ro, 0, 0, false⟩]⟩,
  -- PAE_POS_APPENDED
  ⟨0x040058, 8, 1, 8, [⟨0, 64, .ro, 0, 0, false⟩]⟩,
  -- PAE_PAGES_SEALED
  ⟨0x040060, 8, 1, 8, [⟨0, 64, .ro, 0, 0, false⟩]⟩,
  -- PAE_ERR_EVT_f
  ⟨0x040100, 4, 8, 4, [⟨0, 32, .ro, 0, 0, false⟩]⟩]

/-- The registers of the PAE block. -/
def pae : List RegDesc := pae0

def dae0 : List RegDesc := [
  -- DAE_CAPS
  ⟨0x050000, 8, 1, 8, [⟨0, 9, .ro, 256, 256, false⟩, ⟨9, 4, .ro, 4, 4, false⟩, ⟨13, 5, .ro, 16, 16, false⟩, ⟨18, 14, .ro, 8000, 8000, false⟩, ⟨32, 16, .ro, 65535, 65535, false⟩, ⟨48, 16, .ro, 64, 64, false⟩]⟩,
  -- DAE_STATUS
  ⟨0x050008, 8, 1, 8, [⟨0, 9, .ro, 256, 256, false⟩, ⟨16, 16, .ro, 0, 0, false⟩, ⟨32, 17, .ro, 0, 0, false⟩]⟩,
  -- DAE_CTL
  ⟨0x050010, 8, 1, 8, [⟨0, 2, .rwl, 2, 2, false⟩, ⟨8, 1, .rwl, 0, 0, false⟩]⟩,
  -- DAE_ERR_FLAGS
  ⟨0x050018, 8, 1, 8, [⟨0, 1, .rw1c, 0, 0, false⟩, ⟨1, 1, .rw1c, 0, 0, false⟩, ⟨2, 1, .rw1c, 0, 0, false⟩, ⟨3, 1, .rw1c, 0, 0, false⟩, ⟨4, 1, .rw1c, 0, 0, false⟩, ⟨5, 1, .rw1c, 0, 0, false⟩, ⟨6, 1, .rw1c, 0, 0, false⟩]⟩,
  -- DAE_LANE_MAP_w
  ⟨0x050020, 8, 5, 8, [⟨0, 64, .ro, 0, 0, true⟩]⟩,
  -- DAE_CLASS_CFG_c
  ⟨0x050080, 8, 8, 8, [⟨0, 5, .rwl, 16, 16, false⟩, ⟨8, 5, .rwl, 16, 16, false⟩]⟩,
  -- DAE_JOB_STATUS_s
  ⟨0x050100, 8, 16, 8, [⟨0, 64, .ro, 0, 0, false⟩]⟩,
  -- DAE_JOBS_ACCEPTED
  ⟨0x050180, 8, 1, 8, [⟨0, 64, .ro, 0, 0, false⟩]⟩,
  -- DAE_SUBJOBS
  ⟨0x050188, 8, 1, 8, [⟨0, 64, .ro, 0, 0, false⟩]⟩,
  -- DAE_INT_REPLAYS
  ⟨0x050190, 8, 1, 8, [⟨0, 64, .ro, 0, 0, false⟩]⟩,
  -- DAE_MERGES
  ⟨0x050198, 8, 1, 8, [⟨0, 64, .ro, 0, 0, false⟩]⟩,
  -- DAE_GANG_FALLBACK
  ⟨0x0501A0, 8, 1, 8, [⟨0, 64, .ro, 0, 0, false⟩]⟩]

def dae1 : List RegDesc := [
  -- DAE_DEFERRED
  ⟨0x0501A8, 8, 1, 8, [⟨0, 64, .ro, 0, 0, false⟩]⟩,
  -- DAE_BUSY_CYCLES
  ⟨0x0501B0, 8, 1, 8, [⟨0, 64, .ro, 0, 0, false⟩]⟩,
  -- DAE_BLOCK_RESEND
  ⟨0x0501B8, 8, 1, 8, [⟨0, 64, .ro, 0, 0, false⟩]⟩,
  -- DAE_ERR_EVT_f
  ⟨0x050200, 4, 8, 4, [⟨0, 32, .ro, 0, 0, false⟩]⟩,
  -- DAE_JQ_CFG_q
  ⟨0x051000, 16, 256, 8, [⟨0, 16, .rwl, 0, 0, false⟩, ⟨16, 4, .rwl, 0, 0, false⟩, ⟨20, 3, .rwl, 0, 0, false⟩, ⟨24, 1, .rwl, 0, 0, false⟩]⟩,
  -- DAE_JQ_PTR_q
  ⟨0x051008, 16, 256, 8, [⟨0, 12, .ro, 0, 0, false⟩, ⟨16, 12, .ro, 0, 0, false⟩, ⟨32, 32, .ro, 0, 0, false⟩]⟩,
  -- DAE_JQ_DB_q
  ⟨0x052000, 8, 256, 8, [⟨0, 12, .wo, 0, 0, false⟩]⟩]

/-- The registers of the DAE block. -/
def dae : List RegDesc := dae0 ++ dae1

def sct0 : List RegDesc := [
  -- SCT_CAPS
  ⟨0x060000, 8, 1, 8, [⟨0, 7, .ro, 64, 64, false⟩, ⟨7, 3, .ro, 4, 4, false⟩, ⟨10, 4, .ro, 13, 13, false⟩, ⟨14, 7, .ro, 64, 64, false⟩, ⟨21, 7, .ro, 64, 64, false⟩]⟩,
  -- SCT_STATUS
  ⟨0x060008, 8, 1, 8, [⟨0, 7, .ro, 64, 64, false⟩, ⟨7, 3, .ro, 4, 4, false⟩, ⟨10, 7, .ro, 64, 64, false⟩, ⟨17, 7, .ro, 0, 0, false⟩, ⟨24, 20, .ro, 524288, 524288, false⟩, ⟨44, 16, .ro, 0, 0, false⟩]⟩,
  -- SCT_CTL
  ⟨0x060010, 8, 1, 8, [⟨0, 4, .rwl, 4, 4, false⟩, ⟨4, 3, .rwl, 2, 2, false⟩, ⟨8, 4, .rwl, 4, 4, false⟩, ⟨12, 4, .rwl, 3, 3, false⟩, ⟨16, 4, .rwl, 8, 8, false⟩]⟩,
  -- SCT_ERR_FLAGS
  ⟨0x060018, 8, 1, 8, [⟨0, 1, .rw1c, 0, 0, false⟩, ⟨1, 1, .rw1c, 0, 0, false⟩, ⟨2, 1, .rw1c, 0, 0, false⟩, ⟨3, 1, .rw1c, 0, 0, false⟩, ⟨4, 1, .rw1c, 0, 0, false⟩, ⟨5, 1, .rw1c, 0, 0, false⟩, ⟨6, 1, .rw1c, 0, 0, false⟩]⟩,
  -- SCT_CAL_REQ_w
  ⟨0x060020, 8, 2, 8, [⟨0, 64, .rw1s, 0, 0, false⟩]⟩,
  -- SCT_RETIRED_w
  ⟨0x060030, 8, 2, 8, [⟨0, 64, .ro, 0, 0, true⟩]⟩,
  -- SCT_PROF_p
  ⟨0x060100, 8, 16, 8, [⟨0, 10, .rwl, 96, 0, false⟩, ⟨10, 4, .rwl, 3, 0, false⟩, ⟨14, 4, .rwl, 4, 0, false⟩, ⟨18, 8, .rwl, 32, 0, false⟩, ⟨26, 10, .rwl, 64, 0, false⟩, ⟨36, 4, .rwl, 0, 0, false⟩, ⟨40, 1, .rwl, 1, 0, false⟩]⟩,
  -- SCT_EXACT_c
  ⟨0x060200, 8, 8, 8, [⟨0, 64, .ro, 0, 0, false⟩]⟩,
  -- SCT_EVALS
  ⟨0x060240, 8, 1, 8, [⟨0, 64, .ro, 0, 0, false⟩]⟩,
  -- SCT_EVAL_RETRY
  ⟨0x060248, 8, 1, 8, [⟨0, 64, .ro, 0, 0, false⟩]⟩,
  -- SCT_EVAL_WAIT_NS
  ⟨0x060250, 8, 1, 8, [⟨0, 64, .ro, 0, 0, false⟩]⟩,
  -- SCT_SEL_PAGES
  ⟨0x060258, 8, 1, 8, [⟨0, 64, .ro, 0, 0, false⟩]⟩]

def sct1 : List RegDesc := [
  -- SCT_RANGE_PAGES
  ⟨0x060260, 8, 1, 8, [⟨0, 64, .ro, 0, 0, false⟩]⟩,
  -- SCT_UNSKETCHED
  ⟨0x060268, 8, 1, 8, [⟨0, 64, .ro, 0, 0, false⟩]⟩,
  -- SCT_SKETCH_SAT
  ⟨0x060270, 8, 1, 8, [⟨0, 64, .ro, 0, 0, false⟩]⟩,
  -- SCT_CODE_SAT
  ⟨0x060278, 8, 1, 8, [⟨0, 64, .ro, 0, 0, false⟩]⟩,
  -- SCT_CAL_RUNS
  ⟨0x060280, 8, 1, 8, [⟨0, 64, .ro, 0, 0, false⟩]⟩,
  -- SCT_ALLOC_WAIT
  ⟨0x060288, 8, 1, 8, [⟨0, 64, .ro, 0, 0, false⟩]⟩,
  -- SCT_AUDIT_HIST_b
  ⟨0x060300, 8, 16, 8, [⟨0, 64, .ro, 0, 0, false⟩]⟩,
  -- SCT_LMAP_n
  ⟨0x060400, 4, 64, 4, [⟨0, 32, .ro, 0, 0, true⟩]⟩,
  -- SCT_MACRO_m
  ⟨0x060600, 8, 68, 8, [⟨0, 2, .ro, 0, 0, true⟩, ⟨2, 1, .ro, 0, 0, false⟩, ⟨3, 7, .ro, 0, 0, true⟩, ⟨10, 8, .ro, 0, 0, true⟩, ⟨18, 8, .ro, 0, 0, true⟩, ⟨26, 12, .ro, 0, 0, true⟩, ⟨38, 8, .ro, 0, 0, false⟩, ⟨46, 8, .ro, 0, 0, false⟩, ⟨54, 4, .ro, 0, 0, false⟩]⟩,
  -- SCT_ERR_EVT_f
  ⟨0x060900, 4, 8, 4, [⟨0, 32, .ro, 0, 0, false⟩]⟩]

/-- The registers of the SCT block. -/
def sct : List RegDesc := sct0 ++ sct1

def trc0 : List RegDesc := [
  -- TRC_CAPS
  ⟨0x070000, 8, 1, 8, [⟨0, 5, .ro, 16, 16, false⟩, ⟨5, 13, .ro, 2048, 2048, false⟩, ⟨18, 6, .ro, 32, 32, false⟩]⟩,
  -- TRC_STATUS
  ⟨0x070008, 8, 1, 8, [⟨0, 16, .ro, 65535, 65535, false⟩, ⟨16, 12, .ro, 0, 0, false⟩]⟩,
  -- TRC_CTL
  ⟨0x070010, 8, 1, 8, [⟨0, 4, .rwl, 10, 10, false⟩, ⟨4, 8, .rwl, 8, 8, false⟩, ⟨12, 3, .rwl, 4, 4, false⟩]⟩,
  -- TRC_ERR_FLAGS
  ⟨0x070018, 8, 1, 8, [⟨0, 1, .rw1c, 0, 0, false⟩, ⟨1, 1, .rw1c, 0, 0, false⟩, ⟨2, 1, .rw1c, 0, 0, false⟩, ⟨3, 1, .rw1c, 0, 0, false⟩]⟩,
  -- TRC_PROF_p
  ⟨0x070100, 8, 16, 8, [⟨0, 20, .rwl, 1000, 1000, false⟩, ⟨20, 1, .rwl, 0, 0, false⟩, ⟨21, 1, .rwl, 1, 0, false⟩, ⟨22, 1, .rwl, 1, 0, false⟩, ⟨23, 2, .rwl, 0, 0, false⟩, ⟨25, 2, .rwl, 1, 1, false⟩, ⟨27, 8, .rwl, 16, 16, false⟩, ⟨35, 4, .rwl, 6, 6, false⟩]⟩,
  -- TRC_PAGES_ENC
  ⟨0x070200, 8, 1, 8, [⟨0, 64, .ro, 0, 0, false⟩]⟩,
  -- TRC_CLIP_ELEMS
  ⟨0x070208, 8, 1, 8, [⟨0, 64, .ro, 0, 0, false⟩]⟩,
  -- TRC_ESCALATIONS
  ⟨0x070210, 8, 1, 8, [⟨0, 64, .ro, 0, 0, false⟩]⟩,
  -- TRC_LR_PAGES
  ⟨0x070218, 8, 1, 8, [⟨0, 64, .ro, 0, 0, false⟩]⟩,
  -- TRC_LR_REJECTED
  ⟨0x070220, 8, 1, 8, [⟨0, 64, .ro, 0, 0, false⟩]⟩,
  -- TRC_BASES_BUILT
  ⟨0x070228, 8, 1, 8, [⟨0, 64, .ro, 0, 0, false⟩]⟩,
  -- TRC_BASIS_LIMIT
  ⟨0x070230, 8, 1, 8, [⟨0, 64, .ro, 0, 0, false⟩]⟩]

def trc1 : List RegDesc := [
  -- TRC_COLD_PAGES
  ⟨0x070238, 8, 1, 8, [⟨0, 64, .ro, 0, 0, false⟩]⟩,
  -- TRC_PARK_IMAGES
  ⟨0x070240, 8, 1, 8, [⟨0, 64, .ro, 0, 0, false⟩]⟩,
  -- TRC_PARK_BYTES
  ⟨0x070248, 8, 1, 8, [⟨0, 64, .ro, 0, 0, false⟩]⟩,
  -- TRC_NONFINITE
  ⟨0x070250, 8, 1, 8, [⟨0, 64, .ro, 0, 0, false⟩]⟩,
  -- TRC_PARK_MISSING
  ⟨0x070258, 8, 1, 8, [⟨0, 64, .ro, 0, 0, false⟩]⟩,
  -- TRC_ERR_EVT_f
  ⟨0x070300, 4, 8, 4, [⟨0, 32, .ro, 0, 0, false⟩]⟩,
  -- TRC_LCLIP_l
  ⟨0x071000, 8, 256, 8, [⟨0, 64, .ro, 0, 0, false⟩]⟩]

/-- The registers of the TRC block. -/
def trc : List RegDesc := trc0 ++ trc1

def fab0 : List RegDesc := [
  -- FAB_CAPS
  ⟨0x080000, 8, 1, 8, [⟨0, 5, .ro, 16, 16, false⟩, ⟨5, 7, .ro, 68, 68, false⟩, ⟨12, 3, .ro, 4, 4, false⟩, ⟨15, 10, .ro, 512, 512, false⟩]⟩,
  -- FAB_STATUS
  ⟨0x080008, 8, 1, 8, [⟨0, 16, .ro, 0, 0, false⟩, ⟨16, 3, .ro, 4, 4, false⟩]⟩,
  -- FAB_CTL
  ⟨0x080010, 8, 1, 8, [⟨0, 8, .rwl, 20, 20, false⟩, ⟨8, 4, .rwl, 4, 4, false⟩, ⟨12, 16, .rwl, 16, 16, false⟩, ⟨28, 1, .rwl, 1, 1, false⟩, ⟨32, 16, .rwl, 0, 0, false⟩]⟩,
  -- FAB_ERR_FLAGS
  ⟨0x080018, 8, 1, 8, [⟨0, 1, .rw1c, 0, 0, false⟩, ⟨1, 1, .rw1c, 0, 0, false⟩, ⟨2, 1, .rw1c, 0, 0, false⟩, ⟨3, 1, .rw1c, 0, 0, false⟩, ⟨4, 1, .rw1c, 0, 0, false⟩, ⟨5, 1, .rw1c, 0, 0, false⟩, ⟨6, 1, .rw1c, 0, 0, false⟩, ⟨7, 1, .rw1c, 0, 0, false⟩, ⟨8, 1, .rw1c, 0, 0, false⟩]⟩,
  -- FAB_SPARE_MAP
  ⟨0x080020, 8, 1, 8, [⟨0, 7, .ro, 0, 0, true⟩, ⟨7, 1, .ro, 0, 0, true⟩, ⟨8, 7, .ro, 0, 0, true⟩, ⟨15, 1, .ro, 0, 0, true⟩, ⟨16, 7, .ro, 0, 0, true⟩, ⟨23, 1, .ro, 0, 0, true⟩, ⟨24, 7, .ro, 0, 0, true⟩, ⟨31, 1, .ro, 0, 0, true⟩]⟩,
  -- FAB_ROUTE_m
  ⟨0x080100, 8, 256, 8, [⟨0, 16, .rwl, 0, 0, false⟩, ⟨16, 4, .rwl, 0, 0, false⟩]⟩,
  -- FAB_ERR_EVT_f
  ⟨0x080900, 4, 9, 4, [⟨0, 32, .ro, 0, 0, false⟩]⟩,
  -- FAB_PORT_CFG_p
  ⟨0x081000, 256, 16, 8, [⟨0, 1, .rwl, 1, 1, false⟩, ⟨1, 1, .rwl, 0, 0, false⟩, ⟨16, 16, .rwl, 0, 0, false⟩]⟩,
  -- FAB_PORT_STATUS_p
  ⟨0x081008, 256, 16, 8, [⟨0, 1, .ro, 0, 0, false⟩, ⟨1, 3, .ro, 0, 0, false⟩, ⟨4, 1, .ro, 0, 0, false⟩, ⟨5, 1, .ro, 0, 0, false⟩, ⟨16, 16, .ro, 0, 0, false⟩]⟩,
  -- FAB_FLITS_TX_p
  ⟨0x081010, 256, 16, 8, [⟨0, 64, .ro, 0, 0, false⟩]⟩,
  -- FAB_FLITS_RX_p
  ⟨0x081018, 256, 16, 8, [⟨0, 64, .ro, 0, 0, false⟩]⟩,
  -- FAB_CRC_ERR_p
  ⟨0x081020, 256, 16, 8, [⟨0, 64, .ro, 0, 0, false⟩]⟩]

def fab1 : List RegDesc := [
  -- FAB_REPLAYS_p
  ⟨0x081028, 256, 16, 8, [⟨0, 64, .ro, 0, 0, false⟩]⟩,
  -- FAB_REPLAY_FLITS_p
  ⟨0x081030, 256, 16, 8, [⟨0, 64, .ro, 0, 0, false⟩]⟩,
  -- FAB_FEC_CORR_p
  ⟨0x081038, 256, 16, 8, [⟨0, 64, .ro, 0, 0, false⟩]⟩,
  -- FAB_CRED_ISSUED_p
  ⟨0x081040, 256, 16, 8, [⟨0, 64, .ro, 0, 0, false⟩]⟩,
  -- FAB_CRED_RETURNED_p
  ⟨0x081048, 256, 16, 8, [⟨0, 64, .ro, 0, 0, false⟩]⟩,
  -- FAB_CRED_INFLIGHT_p
  ⟨0x081050, 256, 16, 8, [⟨0, 64, .ro, 0, 0, false⟩]⟩,
  -- FAB_CRED_FLUSHED_p
  ⟨0x081058, 256, 16, 8, [⟨0, 64, .ro, 0, 0, false⟩]⟩,
  -- FAB_RETRAINS_p
  ⟨0x081060, 256, 16, 8, [⟨0, 64, .ro, 0, 0, false⟩]⟩]

/-- The registers of the FAB block. -/
def fab : List RegDesc := fab0 ++ fab1

def knl0 : List RegDesc := [
  -- KNL_CAPS
  ⟨0x090000, 8, 1, 8, [⟨0, 5, .ro, 16, 16, false⟩, ⟨5, 4, .ro, 8, 8, false⟩, ⟨9, 19, .ro, 262144, 262144, false⟩, ⟨28, 11, .ro, 1024, 1024, false⟩]⟩,
  -- KNL_STATUS
  ⟨0x090008, 8, 1, 8, [⟨0, 3, .ro, 0, 0, false⟩, ⟨3, 11, .ro, 0, 0, false⟩, ⟨14, 16, .ro, 0, 0, false⟩, ⟨30, 9, .ro, 0, 0, false⟩, ⟨39, 14, .ro, 0, 0, false⟩]⟩,
  -- KNL_CTL
  ⟨0x090010, 8, 1, 8, [⟨0, 4, .rwl, 8, 8, false⟩, ⟨4, 4, .rwl, 3, 3, false⟩, ⟨8, 10, .rwl, 512, 512, false⟩, ⟨18, 12, .rwl, 1000, 1000, false⟩, ⟨30, 8, .rwl, 36, 36, false⟩, ⟨38, 8, .rwl, 18, 18, false⟩]⟩,
  -- KNL_NAND_CFG
  ⟨0x090018, 8, 1, 8, [⟨0, 4, .ro, 0, 0, false⟩, ⟨4, 3, .ro, 0, 0, false⟩, ⟨7, 2, .ro, 0, 0, false⟩, ⟨9, 2, .ro, 0, 0, false⟩, ⟨11, 16, .ro, 0, 0, false⟩, ⟨27, 16, .ro, 0, 0, false⟩, ⟨43, 16, .ro, 0, 0, false⟩, ⟨59, 4, .ro, 0, 0, false⟩, ⟨63, 1, .ro, 0, 0, false⟩]⟩,
  -- KNL_NAND_TIME
  ⟨0x090020, 8, 1, 8, [⟨0, 12, .ro, 0, 0, false⟩, ⟨12, 12, .ro, 0, 0, false⟩, ⟨24, 12, .ro, 0, 0, false⟩, ⟨36, 16, .ro, 0, 0, false⟩, ⟨52, 12, .ro, 0, 0, false⟩]⟩,
  -- KNL_ERR_FLAGS
  ⟨0x090028, 8, 1, 8, [⟨0, 1, .rw1c, 0, 0, false⟩, ⟨1, 1, .rw1c, 0, 0, false⟩, ⟨2, 1, .rw1c, 0, 0, false⟩, ⟨3, 1, .rw1c, 0, 0, false⟩, ⟨4, 1, .rw1c, 0, 0, false⟩, ⟨5, 1, .rw1c, 0, 0, false⟩, ⟨6, 1, .rw1c, 0, 0, false⟩, ⟨7, 1, .rw1c, 0, 0, false⟩, ⟨8, 1, .rw1c, 0, 0, false⟩, ⟨9, 1, .rw1c, 0, 0, false⟩, ⟨10, 1, .rw1c, 0, 0, false⟩, ⟨11, 1, .rw1c, 0, 0, false⟩]⟩,
  -- KNL_CAPACITY
  ⟨0x090030, 8, 1, 8, [⟨0, 64, .ro, 0, 0, false⟩]⟩,
  -- KNL_FREE
  ⟨0x090038, 8, 1, 8, [⟨0, 64, .ro, 0, 0, false⟩]⟩,
  -- KNL_PARKS
  ⟨0x090100, 8, 1, 8, [⟨0, 64, .ro, 0, 0, false⟩]⟩,
  -- KNL_RESUMES
  ⟨0x090108, 8, 1, 8, [⟨0, 64, .ro, 0, 0, false⟩]⟩,
  -- KNL_FULL_REFUSED
  ⟨0x090110, 8, 1, 8, [⟨0, 64, .ro, 0, 0, false⟩]⟩,
  -- KNL_HOST_UNITS
  ⟨0x090118, 8, 1, 8, [⟨0, 64, .ro, 0, 0, false⟩]⟩]

def knl1 : List RegDesc := [
  -- KNL_NAND_UNITS
  ⟨0x090120, 8, 1, 8, [⟨0, 64, .ro, 0, 0, false⟩]⟩,
  -- KNL_GC_COPIES
  ⟨0x090128, 8, 1, 8, [⟨0, 64, .ro, 0, 0, false⟩]⟩,
  -- KNL_FOLDS
  ⟨0x090130, 8, 1, 8, [⟨0, 64, .ro, 0, 0, false⟩]⟩,
  -- KNL_WL_MOVES
  ⟨0x090138, 8, 1, 8, [⟨0, 64, .ro, 0, 0, false⟩]⟩,
  -- KNL_ERASES
  ⟨0x090140, 8, 1, 8, [⟨0, 64, .ro, 0, 0, false⟩]⟩,
  -- KNL_RETIRED
  ⟨0x090148, 8, 1, 8, [⟨0, 64, .ro, 0, 0, false⟩]⟩,
  -- KNL_UE_READS
  ⟨0x090150, 8, 1, 8, [⟨0, 64, .ro, 0, 0, false⟩]⟩,
  -- KNL_PARITY_REBUILT
  ⟨0x090158, 8, 1, 8, [⟨0, 64, .ro, 0, 0, false⟩]⟩,
  -- KNL_RETRY_READS
  ⟨0x090160, 8, 1, 8, [⟨0, 64, .ro, 0, 0, false⟩]⟩,
  -- KNL_FLUSHES
  ⟨0x090168, 8, 1, 8, [⟨0, 64, .ro, 0, 0, false⟩]⟩,
  -- KNL_ADOPTED
  ⟨0x090170, 8, 1, 8, [⟨0, 64, .ro, 0, 0, false⟩]⟩,
  -- KNL_CORR_HIST_b
  ⟨0x090200, 8, 16, 8, [⟨0, 64, .ro, 0, 0, false⟩]⟩]

def knl2 : List RegDesc := [
  -- KNL_TEMP_HIST_b
  ⟨0x090280, 8, 8, 8, [⟨0, 64, .ro, 0, 0, false⟩]⟩,
  -- KNL_ERR_EVT_f
  ⟨0x090300, 4, 12, 4, [⟨0, 32, .ro, 0, 0, false⟩]⟩]

/-- The registers of the KNL block. -/
def knl : List RegDesc := knl0 ++ knl1 ++ knl2

def brk0 : List RegDesc := [
  -- BRK_CAPS
  ⟨0x0A0000, 8, 1, 8, [⟨0, 13, .ro, 4096, 4096, false⟩, ⟨13, 6, .ro, 32, 32, false⟩]⟩,
  -- BRK_CTL
  ⟨0x0A0008, 8, 1, 8, [⟨0, 7, .rwl, 64, 64, false⟩, ⟨7, 1, .rwl, 1, 1, false⟩]⟩,
  -- BRK_ERR_FLAGS
  ⟨0x0A0010, 8, 1, 8, [⟨0, 1, .rw1c, 0, 0, false⟩, ⟨1, 1, .rw1c, 0, 0, false⟩]⟩,
  -- BRK_MADE
  ⟨0x0A0018, 8, 1, 8, [⟨0, 64, .ro, 0, 0, false⟩]⟩,
  -- BRK_STORED
  ⟨0x0A0020, 8, 1, 8, [⟨0, 64, .ro, 0, 0, false⟩]⟩,
  -- BRK_HEAD
  ⟨0x0A0028, 8, 1, 8, [⟨0, 64, .ro, 0, 0, false⟩]⟩,
  -- BRK_OVF_TOTAL
  ⟨0x0A0030, 8, 1, 8, [⟨0, 64, .ro, 0, 0, false⟩]⟩,
  -- BRK_OVF_REARM
  ⟨0x0A0038, 8, 1, 8, [⟨0, 32, .wo, 0, 0, false⟩]⟩,
  -- BRK_ERR_EVT_f
  ⟨0x0A0100, 4, 2, 4, [⟨0, 32, .ro, 0, 0, false⟩]⟩]

/-- The registers of the BRK block. -/
def brk : List RegDesc := brk0

def ldg0 : List RegDesc := [
  -- LDG_CAPS
  ⟨0x0B0000, 8, 1, 8, [⟨0, 3, .ro, 6, 6, false⟩]⟩,
  -- LDG_CTL
  ⟨0x0B0008, 8, 1, 8, [⟨0, 16, .rwl, 1000, 1000, false⟩]⟩,
  -- LDG_ERR_FLAGS
  ⟨0x0B0010, 8, 1, 8, [⟨0, 1, .rw1c, 0, 0, false⟩, ⟨1, 1, .rw1c, 0, 0, false⟩, ⟨2, 1, .rw1c, 0, 0, false⟩, ⟨3, 1, .rw1c, 0, 0, false⟩, ⟨4, 1, .rw1c, 0, 0, false⟩, ⟨5, 1, .rw1c, 0, 0, false⟩]⟩,
  -- LDG_SNAP_SEQ
  ⟨0x0B0018, 8, 1, 8, [⟨0, 64, .ro, 0, 0, false⟩]⟩,
  -- LDG_AUDITS
  ⟨0x0B0020, 8, 1, 8, [⟨0, 64, .ro, 0, 0, false⟩]⟩,
  -- LDG_HOLD_MAX_NS
  ⟨0x0B0028, 8, 1, 8, [⟨0, 64, .ro, 0, 0, false⟩]⟩,
  -- LDG_ERR_EVT_f
  ⟨0x0B0100, 4, 6, 4, [⟨0, 32, .ro, 0, 0, false⟩]⟩]

/-- The registers of the LDG block. -/
def ldg : List RegDesc := ldg0

def isl0 : List RegDesc := [
  -- ISL_CAPS
  ⟨0x0C0000, 8, 1, 8, [⟨0, 6, .ro, 56, 56, false⟩, ⟨6, 4, .ro, 10, 10, false⟩, ⟨10, 10, .ro, 512, 512, false⟩, ⟨20, 13, .ro, 4096, 4096, false⟩]⟩,
  -- ISL_STATUS
  ⟨0x0C0008, 8, 1, 8, [⟨0, 6, .ro, 56, 56, false⟩, ⟨6, 6, .ro, 0, 0, false⟩, ⟨12, 6, .ro, 0, 0, false⟩, ⟨18, 6, .ro, 0, 0, false⟩, ⟨24, 1, .ro, 0, 0, false⟩, ⟨25, 1, .ro, 1, 1, false⟩, ⟨26, 5, .ro, 20, 20, false⟩, ⟨31, 1, .ro, 1, 1, false⟩]⟩,
  -- ISL_CTL
  ⟨0x0C0010, 8, 1, 8, [⟨0, 16, .rwl, 64, 64, false⟩, ⟨16, 1, .rwl, 1, 1, false⟩, ⟨24, 8, .rwl, 10, 10, false⟩]⟩,
  -- ISL_ERR_FLAGS
  ⟨0x0C0018, 8, 1, 8, [⟨0, 1, .rw1c, 0, 0, false⟩, ⟨1, 1, .rw1c, 0, 0, false⟩, ⟨2, 1, .rw1c, 0, 0, false⟩, ⟨3, 1, .rw1c, 0, 0, false⟩, ⟨4, 1, .rw1c, 0, 0, false⟩, ⟨5, 1, .rw1c, 0, 0, false⟩, ⟨6, 1, .rw1c, 0, 0, false⟩, ⟨7, 1, .rw1c, 0, 0, false⟩, ⟨8, 1, .rw1c, 0, 0, false⟩, ⟨9, 1, .rw1c, 0, 0, false⟩, ⟨10, 1, .rw1c, 0, 0, false⟩, ⟨11, 1, .rw1c, 0, 0, false⟩, ⟨12, 1, .rw1c, 0, 0, false⟩, ⟨13, 1, .rw1c, 0, 0, false⟩, ⟨14, 1, .rw1c, 0, 0, false⟩, ⟨15, 1, .rw1c, 0, 0, false⟩]⟩,
  -- ISL_EFUSE
  ⟨0x0C0020, 8, 1, 8, [⟨0, 10, .ro, 0, 0, true⟩, ⟨16, 13, .ro, 0, 0, true⟩]⟩,
  -- ISL_STATE_n
  ⟨0x0C0100, 8, 56, 8, [⟨0, 3, .ro, 0, 0, false⟩, ⟨3, 1, .ro, 0, 0, false⟩, ⟨4, 12, .ro, 0, 0, true⟩, ⟨16, 10, .ro, 0, 0, true⟩, ⟨26, 12, .ro, 0, 0, true⟩]⟩,
  -- ISL_NEIGH_n
  ⟨0x0C0300, 8, 56, 8, [⟨0, 56, .ro, 0, 0, true⟩]⟩,
  -- ISL_SPARE_k
  ⟨0x0C0500, 8, 10, 8, [⟨0, 32, .ro, 0, 0, true⟩, ⟨32, 32, .ro, 0, 0, true⟩]⟩,
  -- ISL_XCRED_ISSUED
  ⟨0x0C0600, 8, 1, 8, [⟨0, 64, .ro, 0, 0, false⟩]⟩,
  -- ISL_XCRED_RETURNED
  ⟨0x0C0608, 8, 1, 8, [⟨0, 64, .ro, 0, 0, false⟩]⟩,
  -- ISL_XCRED_INFLIGHT
  ⟨0x0C0610, 8, 1, 8, [⟨0, 64, .ro, 0, 0, false⟩]⟩,
  -- ISL_XCRED_FLUSHED
  ⟨0x0C0618, 8, 1, 8, [⟨0, 64, .ro, 0, 0, false⟩]⟩]

def isl1 : List RegDesc := [
  -- ISL_WHISTLES
  ⟨0x0C0620, 8, 1, 8, [⟨0, 64, .ro, 0, 0, false⟩]⟩,
  -- ISL_RESETS
  ⟨0x0C0628, 8, 1, 8, [⟨0, 64, .ro, 0, 0, false⟩]⟩,
  -- ISL_THROTTLES
  ⟨0x0C0630, 8, 1, 8, [⟨0, 64, .ro, 0, 0, false⟩]⟩,
  -- ISL_PATROL_RUNS
  ⟨0x0C0638, 8, 1, 8, [⟨0, 64, .ro, 0, 0, false⟩]⟩,
  -- ISL_PATROL_FAILS
  ⟨0x0C0640, 8, 1, 8, [⟨0, 64, .ro, 0, 0, false⟩]⟩,
  -- ISL_XING_RESAMPLE
  ⟨0x0C0648, 8, 1, 8, [⟨0, 64, .ro, 0, 0, false⟩]⟩,
  -- ISL_ERR_EVT_f
  ⟨0x0C0700, 4, 16, 4, [⟨0, 32, .ro, 0, 0, false⟩]⟩]

/-- The registers of the ISL block. -/
def isl : List RegDesc := isl0 ++ isl1

def pwr0 : List RegDesc := [
  -- PWR_CAPS
  ⟨0x0D0000, 8, 1, 8, [⟨0, 4, .ro, 8, 8, false⟩, ⟨4, 4, .ro, 11, 11, false⟩, ⟨8, 12, .ro, 2615, 2615, false⟩]⟩,
  -- PWR_STATUS
  ⟨0x0D0008, 8, 1, 8, [⟨0, 6, .ro, 0, 0, false⟩, ⟨6, 12, .ro, 0, 0, false⟩, ⟨18, 1, .ro, 0, 0, false⟩, ⟨19, 1, .ro, 0, 0, false⟩, ⟨20, 2, .ro, 0, 0, false⟩]⟩,
  -- PWR_CTL
  ⟨0x0D0010, 8, 1, 8, [⟨0, 8, .rwl, 95, 95, false⟩, ⟨8, 4, .rwl, 3, 3, false⟩]⟩,
  -- PWR_ERR_FLAGS
  ⟨0x0D0018, 8, 1, 8, [⟨0, 1, .rw1c, 0, 0, false⟩, ⟨1, 1, .rw1c, 0, 0, false⟩, ⟨2, 1, .rw1c, 0, 0, false⟩, ⟨3, 1, .rw1c, 0, 0, false⟩, ⟨4, 1, .rw1c, 0, 0, false⟩, ⟨5, 1, .rw1c, 0, 0, false⟩, ⟨6, 1, .rw1c, 0, 0, false⟩, ⟨7, 1, .rw1c, 0, 0, false⟩]⟩,
  -- PWR_STRAPS
  ⟨0x0D0020, 8, 1, 8, [⟨0, 1, .ro, 0, 0, true⟩, ⟨1, 1, .ro, 0, 0, true⟩, ⟨2, 1, .ro, 0, 0, true⟩, ⟨3, 2, .ro, 0, 0, true⟩]⟩,
  -- PWR_ENERGY
  ⟨0x0D0028, 8, 1, 8, [⟨0, 64, .ro, 0, 0, false⟩]⟩,
  -- PWR_LEAK
  ⟨0x0D0030, 8, 1, 8, [⟨0, 64, .ro, 0, 0, false⟩]⟩,
  -- PWR_BLOCK_b
  ⟨0x0D0100, 8, 8, 8, [⟨0, 32, .ro, 0, 0, false⟩, ⟨32, 32, .ro, 0, 0, true⟩]⟩,
  -- PWR_RAIL_r
  ⟨0x0D0200, 8, 11, 8, [⟨0, 16, .ro, 0, 0, false⟩, ⟨16, 20, .ro, 0, 0, false⟩]⟩,
  -- PWR_ERR_EVT_f
  ⟨0x0D0300, 4, 8, 4, [⟨0, 32, .ro, 0, 0, false⟩]⟩]

/-- The registers of the PWR block. -/
def pwr : List RegDesc := pwr0

def sec0 : List RegDesc := [
  -- SEC_CAPS
  ⟨0x0E0000, 8, 1, 8, [⟨0, 3, .ro, 4, 4, false⟩, ⟨3, 7, .ro, 64, 64, false⟩, ⟨10, 12, .ro, 2048, 2048, false⟩]⟩,
  -- SEC_STATUS
  ⟨0x0E0008, 8, 1, 8, [⟨0, 1, .ro, 0, 0, false⟩, ⟨1, 1, .ro, 0, 0, false⟩, ⟨2, 1, .ro, 0, 0, false⟩, ⟨3, 1, .ro, 0, 0, false⟩, ⟨4, 1, .ro, 0, 0, false⟩, ⟨5, 3, .ro, 0, 0, false⟩, ⟨8, 1, .ro, 0, 0, false⟩, ⟨9, 16, .ro, 0, 0, false⟩, ⟨25, 12, .ro, 0, 0, false⟩]⟩,
  -- SEC_CTL
  ⟨0x0E0010, 8, 1, 8, [⟨0, 16, .rwl, 100, 100, false⟩]⟩,
  -- SEC_ERR_FLAGS
  ⟨0x0E0018, 8, 1, 8, [⟨0, 1, .rw1c, 0, 0, false⟩, ⟨1, 1, .rw1c, 0, 0, false⟩, ⟨2, 1, .rw1c, 0, 0, false⟩, ⟨3, 1, .rw1c, 0, 0, false⟩, ⟨4, 1, .rw1c, 0, 0, false⟩, ⟨5, 1, .rw1c, 0, 0, false⟩]⟩,
  -- SEC_ARB
  ⟨0x0E0020, 8, 1, 8, [⟨0, 7, .ro, 0, 0, true⟩, ⟨8, 7, .ro, 0, 0, true⟩, ⟨16, 7, .ro, 0, 0, true⟩, ⟨24, 1, .ro, 0, 0, true⟩, ⟨25, 1, .ro, 0, 0, true⟩]⟩,
  -- SEC_FUSE_KEYS
  ⟨0x0E0028, 8, 1, 8, [⟨0, 4, .ro, 0, 0, true⟩, ⟨4, 4, .ro, 0, 0, true⟩, ⟨8, 1, .ro, 0, 0, true⟩]⟩,
  -- SEC_BOOT_NONCE_i
  ⟨0x0E0040, 8, 4, 8, [⟨0, 64, .ro, 0, 0, true⟩]⟩,
  -- SEC_QUOTES
  ⟨0x0E0080, 8, 1, 8, [⟨0, 64, .ro, 0, 0, false⟩]⟩,
  -- SEC_UNLOCK_FAIL
  ⟨0x0E0088, 8, 1, 8, [⟨0, 64, .ro, 0, 0, false⟩]⟩,
  -- SEC_WRAP_FAIL
  ⟨0x0E0090, 8, 1, 8, [⟨0, 64, .ro, 0, 0, false⟩]⟩,
  -- SEC_AP4_DISCARD
  ⟨0x0E0098, 8, 1, 8, [⟨0, 64, .ro, 0, 0, false⟩]⟩,
  -- SEC_ERR_EVT_f
  ⟨0x0E0100, 4, 6, 4, [⟨0, 32, .ro, 0, 0, false⟩]⟩]

/-- The registers of the SEC block. -/
def sec : List RegDesc := sec0

def tst0 : List RegDesc := [
  -- TST_IDCODE
  ⟨0x0F0000, 8, 1, 8, [⟨0, 64, .ro, 641731485, 641731485, false⟩]⟩,
  -- TST_STATUS
  ⟨0x0F0008, 8, 1, 8, [⟨0, 8, .ro, 1, 1, false⟩, ⟨8, 1, .ro, 1, 1, false⟩, ⟨9, 3, .ro, 0, 0, false⟩]⟩,
  -- TST_ERR_FLAGS
  ⟨0x0F0010, 8, 1, 8, [⟨0, 1, .rw1c, 0, 0, false⟩, ⟨1, 1, .rw1c, 0, 0, false⟩]⟩,
  -- TST_ERR_EVT_f
  ⟨0x0F0100, 4, 2, 4, [⟨0, 32, .ro, 0, 0, false⟩]⟩]

/-- The registers of the TST block. -/
def tst : List RegDesc := tst0

def cxl0 : List RegDesc := [
  -- CXL_LINK_STATUS
  ⟨0x100000, 8, 1, 8, [⟨0, 5, .ro, 0, 0, false⟩, ⟨5, 3, .ro, 0, 0, false⟩, ⟨8, 2, .ro, 0, 0, false⟩, ⟨32, 16, .ro, 0, 0, false⟩]⟩,
  -- CXL_ERR_FLAGS
  ⟨0x100008, 8, 1, 8, [⟨0, 1, .rw1c, 0, 0, false⟩, ⟨1, 1, .rw1c, 0, 0, false⟩, ⟨2, 1, .rw1c, 0, 0, false⟩, ⟨3, 1, .rw1c, 0, 0, false⟩]⟩,
  -- CXL_MEM_UE_ADDR
  ⟨0x100010, 8, 1, 8, [⟨0, 64, .ro, 0, 0, false⟩]⟩,
  -- CXL_WR_DISCARD
  ⟨0x100018, 8, 1, 8, [⟨0, 64, .ro, 0, 0, false⟩]⟩,
  -- CXL_ERR_EVT_f
  ⟨0x100100, 4, 4, 4, [⟨0, 32, .ro, 0, 0, false⟩]⟩]

/-- The registers of the CXL block. -/
def cxl : List RegDesc := cxl0

def hrd0 : List RegDesc := [
  -- HRD_CAPS
  ⟨0x140000, 8, 1, 8, [⟨0, 11, .ro, 1024, 1024, false⟩, ⟨11, 7, .ro, 64, 64, false⟩]⟩,
  -- HRD_CTL
  ⟨0x140008, 8, 1, 8, [⟨0, 8, .rwl, 24, 24, false⟩, ⟨8, 4, .rwl, 10, 10, false⟩, ⟨12, 6, .rwl, 2, 2, false⟩]⟩,
  -- HRD_CLASS_SLOT
  ⟨0x140010, 8, 1, 8, [⟨0, 6, .rwl, 2, 2, false⟩, ⟨6, 6, .rwl, 2, 2, false⟩, ⟨12, 6, .rwl, 2, 2, false⟩, ⟨18, 6, .rwl, 2, 2, false⟩, ⟨24, 6, .rwl, 2, 2, false⟩, ⟨30, 6, .rwl, 2, 2, false⟩, ⟨36, 6, .rwl, 2, 2, false⟩, ⟨42, 6, .rwl, 2, 2, false⟩]⟩,
  -- HRD_ERR_FLAGS
  ⟨0x140018, 8, 1, 8, [⟨0, 1, .rw1c, 0, 0, false⟩, ⟨1, 1, .rw1c, 0, 0, false⟩]⟩,
  -- HRD_VTIME_p
  ⟨0x140100, 8, 16, 8, [⟨0, 64, .ro, 0, 0, false⟩]⟩,
  -- HRD_SLOT_WMASK_s
  ⟨0x140200, 8, 64, 8, [⟨0, 64, .rwl, 0, 0, false⟩]⟩,
  -- HRD_ERR_EVT_f
  ⟨0x140400, 4, 8, 4, [⟨0, 32, .ro, 0, 0, false⟩]⟩,
  -- HRD_Q_CFG_n
  ⟨0x150000, 16, 1024, 8, [⟨0, 16, .rwl, 0, 0, true⟩, ⟨16, 1, .rwl, 0, 0, true⟩, ⟨20, 20, .rwl, 0, 0, true⟩, ⟨40, 24, .rwl, 0, 0, true⟩]⟩,
  -- HRD_Q_STATE_n
  ⟨0x150008, 16, 1024, 8, [⟨0, 32, .ro, 0, 0, false⟩, ⟨32, 16, .ro, 0, 0, false⟩, ⟨48, 1, .ro, 0, 0, false⟩]⟩,
  -- HRD_Q_BYTES_n
  ⟨0x160000, 8, 1024, 8, [⟨0, 64, .ro, 0, 0, false⟩]⟩]

/-- The registers of the HRD block. -/
def hrd : List RegDesc := hrd0

def smp0 : List RegDesc := [
  -- SMP_CAPS
  ⟨0x180000, 8, 1, 8, [⟨0, 5, .ro, 16, 16, false⟩, ⟨5, 4, .ro, 8, 8, false⟩, ⟨9, 12, .ro, 1024, 1024, false⟩, ⟨21, 13, .ro, 4096, 4096, false⟩]⟩,
  -- SMP_STATUS
  ⟨0x180008, 8, 1, 8, [⟨0, 12, .ro, 0, 0, false⟩, ⟨12, 16, .ro, 0, 0, false⟩]⟩,
  -- SMP_CTL
  ⟨0x180010, 8, 1, 8, [⟨0, 13, .rwl, 64, 64, false⟩, ⟨16, 16, .rwl, 100, 100, false⟩]⟩,
  -- SMP_ERR_FLAGS
  ⟨0x180018, 8, 1, 8, [⟨0, 1, .rw1c, 0, 0, false⟩, ⟨1, 1, .rw1c, 0, 0, false⟩, ⟨2, 1, .rw1c, 0, 0, false⟩, ⟨3, 1, .rw1c, 0, 0, false⟩, ⟨4, 1, .rw1c, 0, 0, false⟩]⟩,
  -- SMP_EMB_CFG
  ⟨0x180020, 8, 1, 8, [⟨0, 16, .rwl, 0, 0, false⟩, ⟨16, 13, .rwl, 0, 0, false⟩]⟩,
  -- SMP_DONE_s
  ⟨0x180100, 8, 16, 8, [⟨0, 64, .ro, 0, 0, false⟩]⟩,
  -- SMP_TOKENS
  ⟨0x180180, 8, 1, 8, [⟨0, 64, .ro, 0, 0, false⟩]⟩,
  -- SMP_DRAFTS_OFFERED
  ⟨0x180188, 8, 1, 8, [⟨0, 64, .ro, 0, 0, false⟩]⟩,
  -- SMP_DRAFTS_ACCEPTED
  ⟨0x180190, 8, 1, 8, [⟨0, 64, .ro, 0, 0, false⟩]⟩,
  -- SMP_COUNT_SAT
  ⟨0x180198, 8, 1, 8, [⟨0, 64, .ro, 0, 0, false⟩]⟩,
  -- SMP_COUNT_OVF
  ⟨0x1801A0, 8, 1, 8, [⟨0, 64, .ro, 0, 0, false⟩]⟩,
  -- SMP_GATHER_IDX
  ⟨0x1801A8, 8, 1, 8, [⟨0, 64, .ro, 0, 0, false⟩]⟩]

def smp1 : List RegDesc := [
  -- SMP_GATHER_READS
  ⟨0x1801B0, 8, 1, 8, [⟨0, 64, .ro, 0, 0, false⟩]⟩,
  -- SMP_LOG_ADOPTED
  ⟨0x1801B8, 8, 1, 8, [⟨0, 64, .ro, 0, 0, false⟩]⟩,
  -- SMP_ROW_HITS
  ⟨0x1801C0, 8, 1, 8, [⟨0, 64, .ro, 0, 0, false⟩]⟩,
  -- SMP_ERR_EVT_f
  ⟨0x180200, 4, 8, 4, [⟨0, 32, .ro, 0, 0, false⟩]⟩,
  -- SMP_SQ_CFG_q
  ⟨0x181000, 16, 16, 8, [⟨0, 4, .rwl, 0, 0, false⟩, ⟨4, 3, .rwl, 0, 0, false⟩, ⟨7, 1, .rwl, 0, 0, false⟩]⟩,
  -- SMP_SQ_PTR_q
  ⟨0x181008, 16, 16, 8, [⟨0, 8, .ro, 0, 0, false⟩, ⟨8, 8, .ro, 0, 0, false⟩, ⟨32, 32, .ro, 0, 0, false⟩]⟩,
  -- SMP_SQ_DB_q
  ⟨0x181200, 8, 16, 8, [⟨0, 8, .wo, 0, 0, false⟩]⟩]

/-- The registers of the SMP block. -/
def smp : List RegDesc := smp0 ++ smp1

def mov0 : List RegDesc := [
  -- MOV_CAPS
  ⟨0x200000, 8, 1, 8, [⟨0, 7, .ro, 64, 64, false⟩, ⟨7, 4, .ro, 8, 8, false⟩, ⟨11, 9, .ro, 256, 256, false⟩, ⟨20, 5, .ro, 16, 16, false⟩, ⟨25, 4, .ro, 4, 4, false⟩, ⟨29, 5, .ro, 8, 8, false⟩]⟩,
  -- MOV_STATUS
  ⟨0x200008, 8, 1, 8, [⟨0, 21, .ro, 0, 0, false⟩, ⟨21, 16, .ro, 0, 0, false⟩, ⟨37, 8, .ro, 0, 0, false⟩, ⟨45, 8, .ro, 0, 0, false⟩]⟩,
  -- MOV_CTL
  ⟨0x200010, 8, 1, 8, [⟨0, 8, .rwl, 0, 0, false⟩, ⟨8, 8, .rwl, 200, 200, false⟩, ⟨16, 10, .rwl, 100, 100, false⟩, ⟨26, 11, .rwl, 64, 64, false⟩]⟩,
  -- MOV_ERR_FLAGS
  ⟨0x200018, 8, 1, 8, [⟨0, 1, .rw1c, 0, 0, false⟩, ⟨1, 1, .rw1c, 0, 0, false⟩, ⟨2, 1, .rw1c, 0, 0, false⟩, ⟨3, 1, .rw1c, 0, 0, false⟩, ⟨4, 1, .rw1c, 0, 0, false⟩, ⟨5, 1, .rw1c, 0, 0, false⟩, ⟨6, 1, .rw1c, 0, 0, false⟩, ⟨7, 1, .rw1c, 0, 0, false⟩]⟩,
  -- MOV_DONE_s
  ⟨0x200100, 8, 16, 8, [⟨0, 64, .ro, 0, 0, false⟩]⟩,
  -- MOV_BYTES
  ⟨0x200180, 8, 1, 8, [⟨0, 64, .ro, 0, 0, false⟩]⟩,
  -- MOV_WIN_FAULT
  ⟨0x200188, 8, 1, 8, [⟨0, 64, .ro, 0, 0, false⟩]⟩,
  -- MOV_REJECTED
  ⟨0x200190, 8, 1, 8, [⟨0, 64, .ro, 0, 0, false⟩]⟩,
  -- MOV_TGT_DISCARD
  ⟨0x200198, 8, 1, 8, [⟨0, 64, .ro, 0, 0, false⟩]⟩,
  -- MOV_INVAL_SENT
  ⟨0x2001A0, 8, 1, 8, [⟨0, 64, .ro, 0, 0, false⟩]⟩,
  -- MOV_INVAL_RECV
  ⟨0x2001A8, 8, 1, 8, [⟨0, 64, .ro, 0, 0, false⟩]⟩,
  -- MOV_DIR_EVICT
  ⟨0x2001B0, 8, 1, 8, [⟨0, 64, .ro, 0, 0, false⟩]⟩]

def mov1 : List RegDesc := [
  -- MOV_GEN_STALE
  ⟨0x2001B8, 8, 1, 8, [⟨0, 64, .ro, 0, 0, false⟩]⟩,
  -- MOV_HINT_PLACED
  ⟨0x2001C0, 8, 1, 8, [⟨0, 64, .ro, 0, 0, false⟩]⟩,
  -- MOV_HINT_DROPPED
  ⟨0x2001C8, 8, 1, 8, [⟨0, 64, .ro, 0, 0, false⟩]⟩,
  -- MOV_FENCED
  ⟨0x2001D0, 8, 1, 8, [⟨0, 64, .ro, 0, 0, false⟩]⟩,
  -- MOV_TIMEOUTS
  ⟨0x2001D8, 8, 1, 8, [⟨0, 64, .ro, 0, 0, false⟩]⟩,
  -- MOV_ERR_EVT_f
  ⟨0x200200, 4, 8, 4, [⟨0, 32, .ro, 0, 0, false⟩]⟩,
  -- MOV_MEMBER_m
  ⟨0x200400, 8, 256, 8, [⟨0, 16, .rwl, 0, 0, false⟩, ⟨16, 1, .rwl, 0, 0, false⟩]⟩,
  -- MOV_WIN_LO_n
  ⟨0x201000, 16, 256, 8, [⟨0, 8, .rwl, 0, 0, false⟩, ⟨8, 8, .rwl, 255, 0, false⟩, ⟨16, 5, .rwl, 31, 0, false⟩, ⟨21, 1, .rwl, 1, 0, false⟩, ⟨22, 1, .rwl, 1, 0, false⟩, ⟨23, 1, .rwl, 1, 0, false⟩, ⟨24, 1, .rwl, 1, 0, false⟩, ⟨25, 1, .rwl, 1, 0, false⟩, ⟨26, 1, .rwl, 1, 0, false⟩, ⟨27, 1, .rwl, 0, 0, false⟩, ⟨28, 1, .rwl, 0, 0, false⟩, ⟨29, 1, .rwl, 1, 0, false⟩, ⟨32, 10, .rwl, 0, 0, false⟩, ⟨48, 16, .rwl, 0, 0, false⟩]⟩,
  -- MOV_WIN_HI_n
  ⟨0x201008, 16, 256, 8, [⟨0, 40, .rwl, 0, 0, false⟩, ⟨40, 6, .rwl, 52, 12, false⟩]⟩,
  -- MOV_Q_CFG_q
  ⟨0x202000, 16, 64, 8, [⟨0, 4, .rwl, 0, 0, false⟩, ⟨4, 1, .rwl, 0, 0, false⟩, ⟨5, 2, .rwl, 0, 0, false⟩, ⟨7, 6, .rwl, 0, 0, false⟩, ⟨16, 10, .rwl, 0, 0, false⟩]⟩,
  -- MOV_Q_PTR_q
  ⟨0x202008, 16, 64, 8, [⟨0, 8, .ro, 0, 0, false⟩, ⟨8, 8, .ro, 0, 0, false⟩, ⟨32, 32, .ro, 0, 0, false⟩]⟩,
  -- MOV_Q_DB_q
  ⟨0x202400, 8, 64, 8, [⟨0, 8, .wo, 0, 0, false⟩]⟩]

/-- The registers of the MOV block. -/
def mov : List RegDesc := mov0 ++ mov1

def xpt0 : List RegDesc := [
  -- XPT_CAPS
  ⟨0x400000, 8, 1, 8, [⟨0, 15, .ro, 16384, 16384, false⟩, ⟨15, 19, .ro, 262144, 262144, false⟩, ⟨34, 13, .ro, 4096, 4096, false⟩, ⟨47, 15, .ro, 16384, 16384, false⟩]⟩,
  -- XPT_STATUS
  ⟨0x400008, 8, 1, 8, [⟨0, 15, .ro, 0, 0, false⟩, ⟨15, 13, .ro, 0, 0, false⟩, ⟨28, 15, .ro, 0, 0, false⟩]⟩,
  -- XPT_CTL
  ⟨0x400010, 8, 1, 8, [⟨0, 8, .rwl, 40, 40, false⟩, ⟨8, 4, .rwl, 6, 6, false⟩, ⟨12, 16, .rwl, 1000, 1000, false⟩]⟩,
  -- XPT_KEY_STATUS
  ⟨0x400018, 8, 1, 8, [⟨0, 16, .ro, 0, 0, false⟩, ⟨16, 16, .ro, 0, 0, false⟩, ⟨32, 1, .ro, 0, 0, false⟩, ⟨33, 1, .ro, 0, 0, false⟩]⟩,
  -- XPT_ERR_FLAGS
  ⟨0x400020, 8, 1, 8, [⟨0, 1, .rw1c, 0, 0, false⟩, ⟨1, 1, .rw1c, 0, 0, false⟩, ⟨2, 1, .rw1c, 0, 0, false⟩, ⟨3, 1, .rw1c, 0, 0, false⟩, ⟨4, 1, .rw1c, 0, 0, false⟩, ⟨5, 1, .rw1c, 0, 0, false⟩]⟩,
  -- XPT_SEND_DONE_s
  ⟨0x400100, 8, 16, 8, [⟨0, 64, .ro, 0, 0, false⟩]⟩,
  -- XPT_MSG_DONE
  ⟨0x400180, 8, 1, 8, [⟨0, 64, .ro, 0, 0, false⟩]⟩,
  -- XPT_RECV_DONE
  ⟨0x400188, 8, 1, 8, [⟨0, 64, .ro, 0, 0, false⟩]⟩,
  -- XPT_BUF_POSTED
  ⟨0x400190, 8, 1, 8, [⟨0, 64, .ro, 0, 0, false⟩]⟩,
  -- XPT_BUF_COMPLETED
  ⟨0x400198, 8, 1, 8, [⟨0, 64, .ro, 0, 0, false⟩]⟩,
  -- XPT_BUF_OUTSTANDING
  ⟨0x4001A0, 8, 1, 8, [⟨0, 64, .ro, 0, 0, false⟩]⟩,
  -- XPT_BUF_WITHDRAWN
  ⟨0x4001A8, 8, 1, 8, [⟨0, 64, .ro, 0, 0, false⟩]⟩]

def xpt1 : List RegDesc := [
  -- XPT_PKT_SENT
  ⟨0x4001B0, 8, 1, 8, [⟨0, 64, .ro, 0, 0, false⟩]⟩,
  -- XPT_PKT_RETX
  ⟨0x4001B8, 8, 1, 8, [⟨0, 64, .ro, 0, 0, false⟩]⟩,
  -- XPT_DUP_DISCARD
  ⟨0x4001C0, 8, 1, 8, [⟨0, 64, .ro, 0, 0, false⟩]⟩,
  -- XPT_STALE_DISCARD
  ⟨0x4001C8, 8, 1, 8, [⟨0, 64, .ro, 0, 0, false⟩]⟩,
  -- XPT_AUTH_FAIL
  ⟨0x4001D0, 8, 1, 8, [⟨0, 64, .ro, 0, 0, false⟩]⟩,
  -- XPT_SA_MISS
  ⟨0x4001D8, 8, 1, 8, [⟨0, 64, .ro, 0, 0, false⟩]⟩,
  -- XPT_NO_CTX
  ⟨0x4001E0, 8, 1, 8, [⟨0, 64, .ro, 0, 0, false⟩]⟩,
  -- XPT_FILL_ABANDON
  ⟨0x4001E8, 8, 1, 8, [⟨0, 64, .ro, 0, 0, false⟩]⟩,
  -- XPT_ACK_ORPHAN
  ⟨0x4001F0, 8, 1, 8, [⟨0, 64, .ro, 0, 0, false⟩]⟩,
  -- XPT_BLOCK_RESEND
  ⟨0x4001F8, 8, 1, 8, [⟨0, 64, .ro, 0, 0, false⟩]⟩,
  -- XPT_ERR_EVT_f
  ⟨0x400200, 4, 6, 4, [⟨0, 32, .ro, 0, 0, false⟩]⟩,
  -- XPT_TW_DST_w
  ⟨0x400400, 8, 64, 8, [⟨0, 16, .rwl, 0, 0, false⟩, ⟨16, 16, .rwl, 0, 0, false⟩, ⟨32, 1, .rwl, 0, 0, false⟩]⟩]

def xpt2 : List RegDesc := [
  -- XPT_RCQ_BASE_r
  ⟨0x400800, 16, 64, 8, [⟨0, 48, .rwl, 0, 0, false⟩, ⟨48, 1, .rwl, 0, 0, false⟩, ⟨49, 5, .rwl, 0, 0, false⟩, ⟨54, 1, .rwl, 0, 0, false⟩, ⟨55, 2, .rwl, 0, 0, false⟩, ⟨57, 6, .rwl, 0, 0, false⟩]⟩,
  -- XPT_RCQ_PTR_r
  ⟨0x400808, 16, 64, 8, [⟨0, 16, .ro, 0, 0, false⟩, ⟨16, 16, .rw, 0, 0, false⟩, ⟨32, 17, .ro, 0, 0, false⟩]⟩,
  -- XPT_SQ_CFG_q
  ⟨0x401000, 16, 64, 8, [⟨0, 4, .rwl, 0, 0, false⟩, ⟨4, 1, .rwl, 0, 0, false⟩, ⟨5, 2, .rwl, 0, 0, false⟩, ⟨7, 6, .rwl, 0, 0, false⟩, ⟨16, 10, .rwl, 0, 0, false⟩]⟩,
  -- XPT_SQ_PTR_q
  ⟨0x401008, 16, 64, 8, [⟨0, 8, .ro, 0, 0, false⟩, ⟨8, 8, .ro, 0, 0, false⟩, ⟨32, 32, .ro, 0, 0, false⟩]⟩,
  -- XPT_SQ_DB_q
  ⟨0x401400, 8, 64, 8, [⟨0, 8, .wo, 0, 0, false⟩]⟩]

/-- The registers of the XPT block. -/
def xpt : List RegDesc := xpt0 ++ xpt1 ++ xpt2

def col0 : List RegDesc := [
  -- COL_CAPS
  ⟨0x600000, 8, 1, 8, [⟨0, 11, .ro, 1024, 1024, false⟩, ⟨11, 5, .ro, 16, 16, false⟩, ⟨16, 13, .ro, 4096, 4096, false⟩]⟩,
  -- COL_STATUS
  ⟨0x600008, 8, 1, 8, [⟨0, 13, .ro, 0, 0, false⟩, ⟨32, 17, .ro, 0, 0, false⟩]⟩,
  -- COL_CTL
  ⟨0x600010, 8, 1, 8, [⟨0, 16, .rwl, 2000, 2000, false⟩]⟩,
  -- COL_ERR_FLAGS
  ⟨0x600018, 8, 1, 8, [⟨0, 1, .rw1c, 0, 0, false⟩, ⟨1, 1, .rw1c, 0, 0, false⟩, ⟨2, 1, .rw1c, 0, 0, false⟩]⟩,
  -- COL_ENG_CFG
  ⟨0x600020, 8, 1, 8, [⟨0, 5, .rwl, 0, 0, false⟩, ⟨8, 5, .rwl, 0, 0, false⟩]⟩,
  -- COL_GRP_WEIGHT_g
  ⟨0x600100, 8, 16, 8, [⟨0, 16, .rwl, 1, 1, false⟩, ⟨16, 16, .rwl, 1, 1, false⟩]⟩,
  -- COL_GRP_VDAE_g
  ⟨0x600180, 8, 16, 8, [⟨0, 64, .ro, 0, 0, false⟩]⟩,
  -- COL_GRP_VPAE_g
  ⟨0x600200, 8, 16, 8, [⟨0, 64, .ro, 0, 0, false⟩]⟩,
  -- COL_GRANTED_k
  ⟨0x600280, 8, 2, 8, [⟨0, 64, .ro, 0, 0, false⟩]⟩,
  -- COL_SPENT_k
  ⟨0x600290, 8, 2, 8, [⟨0, 64, .ro, 0, 0, false⟩]⟩,
  -- COL_HELD_k
  ⟨0x6002A0, 8, 2, 8, [⟨0, 64, .ro, 0, 0, false⟩]⟩,
  -- COL_EXPIRED_k
  ⟨0x6002B0, 8, 2, 8, [⟨0, 64, .ro, 0, 0, false⟩]⟩]

def col1 : List RegDesc := [
  -- COL_SWITCHES
  ⟨0x6002C0, 8, 1, 8, [⟨0, 64, .ro, 0, 0, false⟩]⟩,
  -- COL_SWITCH_CYCLES
  ⟨0x6002C8, 8, 1, 8, [⟨0, 64, .ro, 0, 0, false⟩]⟩,
  -- COL_RESV_FULL
  ⟨0x6002D0, 8, 1, 8, [⟨0, 64, .ro, 0, 0, false⟩]⟩,
  -- COL_ERR_EVT_f
  ⟨0x600300, 4, 8, 4, [⟨0, 32, .ro, 0, 0, false⟩]⟩,
  -- COL_TOKCFG_t
  ⟨0x610000, 16, 1024, 8, [⟨0, 20, .rwl, 0, 0, false⟩, ⟨20, 20, .rwl, 0, 0, false⟩, ⟨40, 16, .rwl, 0, 0, false⟩, ⟨56, 1, .rwl, 0, 0, false⟩]⟩,
  -- COL_POSCFG_t
  ⟨0x610008, 16, 1024, 8, [⟨0, 20, .rwl, 0, 0, false⟩, ⟨20, 20, .rwl, 0, 0, false⟩, ⟨40, 16, .rwl, 0, 0, false⟩, ⟨56, 1, .rwl, 0, 0, false⟩]⟩]

/-- The registers of the COL block. -/
def col : List RegDesc := col0 ++ col1

def acn0 : List RegDesc := [
  -- ACN_CAPS
  ⟨0x800000, 8, 1, 8, [⟨0, 17, .ro, 65536, 65536, false⟩, ⟨17, 9, .ro, 256, 256, false⟩, ⟨26, 10, .ro, 512, 512, false⟩]⟩,
  -- ACN_STATUS
  ⟨0x800008, 8, 1, 8, [⟨0, 17, .ro, 0, 0, false⟩]⟩,
  -- ACN_ERR_FLAGS
  ⟨0x800010, 8, 1, 8, [⟨0, 1, .rw1c, 0, 0, false⟩, ⟨1, 1, .rw1c, 0, 0, false⟩, ⟨2, 1, .rw1c, 0, 0, false⟩]⟩,
  -- ACN_INCREMENTS
  ⟨0x800100, 8, 1, 8, [⟨0, 64, .ro, 0, 0, false⟩]⟩,
  -- ACN_SIGNALS
  ⟨0x800108, 8, 1, 8, [⟨0, 64, .ro, 0, 0, false⟩]⟩,
  -- ACN_EVENTS
  ⟨0x800110, 8, 1, 8, [⟨0, 64, .ro, 0, 0, false⟩]⟩,
  -- ACN_EVENT_DROP
  ⟨0x800118, 8, 1, 8, [⟨0, 64, .ro, 0, 0, false⟩]⟩,
  -- ACN_ERR_EVT_f
  ⟨0x800200, 4, 8, 4, [⟨0, 32, .ro, 0, 0, false⟩]⟩,
  -- ACN_ROUTE_CFG_r
  ⟨0x801000, 16, 256, 8, [⟨0, 2, .rwl, 0, 0, false⟩, ⟨2, 11, .rwl, 0, 0, false⟩, ⟨13, 6, .rwl, 0, 0, false⟩, ⟨19, 1, .rwl, 0, 0, false⟩]⟩,
  -- ACN_ROUTE_ADDR_r
  ⟨0x801008, 16, 256, 8, [⟨0, 64, .rwl, 0, 0, false⟩]⟩,
  -- ACN_TW_w
  ⟨0x802000, 8, 64, 8, [⟨0, 16, .rwl, 0, 0, false⟩, ⟨16, 10, .rwl, 0, 0, false⟩]⟩]

/-- The registers of the ACN block. -/
def acn : List RegDesc := acn0

end RegTab

/-- The registers of one 64 KiB page of BAR0 (R360, 12_host_interface.md). -/
def regsOfPage (page : Nat) : List RegDesc :=
  match page with
  | 0x00 => RegTab.glb | 0x01 => RegTab.mbx | 0x02 => RegTab.rqt | 0x03 => RegTab.stm
  | 0x04 => RegTab.pae | 0x05 => RegTab.dae | 0x06 => RegTab.sct | 0x07 => RegTab.trc
  | 0x08 => RegTab.fab | 0x09 => RegTab.knl | 0x0A => RegTab.brk | 0x0B => RegTab.ldg
  | 0x0C => RegTab.isl | 0x0D => RegTab.pwr | 0x0E => RegTab.sec | 0x0F => RegTab.tst
  | 0x10 => RegTab.cxl
  | 0x14 => RegTab.hrd | 0x15 => RegTab.hrd | 0x16 => RegTab.hrd
  | 0x18 => RegTab.smp
  | 0x20 => RegTab.mov
  | 0x40 => RegTab.xpt
  | 0x60 => RegTab.col | 0x61 => RegTab.col
  | 0x80 => RegTab.acn
  | _ => []

/-- Whether an address is that of one of the registers a row of the tables describes. -/
def RegDesc.has (d : RegDesc) (a : Nat) : Bool :=
  d.base ≤ a && (a - d.base) % d.stride == 0 && (a - d.base) / d.stride < d.count

/-- The register at an address, if the tables give one. -/
def regAt (a : Nat) : Option RegDesc :=
  (regsOfPage (a / 65536)).find? (·.has a)

/-- The base addresses and sizes of the 25 blocks, in the order of R360. -/
def blockMap : List (Nat × Nat) := [
  (0x000000, 0x10000), (0x010000, 0x10000), (0x020000, 0x10000), (0x030000, 0x10000), (0x040000, 0x10000),
  (0x050000, 0x10000), (0x060000, 0x10000), (0x070000, 0x10000), (0x080000, 0x10000), (0x090000, 0x10000),
  (0x0A0000, 0x10000), (0x0B0000, 0x10000), (0x0C0000, 0x10000), (0x0D0000, 0x10000), (0x0E0000, 0x10000),
  (0x0F0000, 0x10000), (0x100000, 0x10000), (0x110000, 0x20000), (0x130000, 0x10000), (0x140000, 0x40000),
  (0x180000, 0x80000), (0x200000, 0x200000), (0x400000, 0x200000), (0x600000, 0x200000), (0x800000, 0x400000)]

/-- The nominal clock of an island in MHz (R366, 13_resilience.md). -/
def nominalMhz (island : Nat) : Nat :=
  if island ≤ 3 then 2000 else if island ≤ 19 then 4000 else if island ≤ 27 then 1200
  else if island ≤ 31 then 1600 else if island = 32 then 1000 else if island = 33 then 900
  else if island = 34 then 2000 else if island ≤ 45 then 2000 else if island = 46 then 1000
  else if island ≤ 51 then 2000 else if island = 52 then 1000 else if island = 53 then 2000 else 500

/-- The limit of a power block in mW (R4, 00_scope.md, in the order of its table). -/
def blockLimitMw (b : Nat) : Nat :=
  [210000, 210000, 45000, 40000, 64000, 8000, 8000, 60000].getD b 0

/-- The spares of kind k at manufacture where R387 states a number for the device: banks, tiles, lanes, macros, cores,
management core, fabric lanes, far reserve. -/
def spareInitial (k : Nat) : Option Nat :=
  [none, some 16, some 8, some 16, some 4, some 4, some 1, some 4, some 256, none].getD k none

/-- The reset value of a field where it depends on the register's index in another way than "index 0 or not", as the
rows of R275 (HRD_Q_CFG, queue n = 64 × port + slot), R87 (SCT_LMAP, SCT_MACRO), R399 (ISL_STATE, ISL_SPARE), R4
(PWR_BLOCK) say. -/
def specialReset (a lo : Nat) : Option Nat :=
  if 0x150000 ≤ a && a < 0x154000 && (a - 0x150000) % 16 == 0 then
    let slot := (a - 0x150000) / 16 % 64
    if lo = 0 then some (if slot = 1 then 64 else 1)
    else if lo = 16 then some (if slot = 0 then 1 else 0)
    else if lo = 20 then some (if slot = 0 then 6400 else 0)
    else if lo = 40 then some (if slot = 0 then 65536 else 0)
    else none
  else if 0x060400 ≤ a && a < 0x060500 then
    let n := (a - 0x060400) / 4
    some (17 * (n / 16) + n % 16)
  else if 0x060600 ≤ a && a < 0x060820 then
    let m := (a - 0x060600) / 8
    if lo = 0 then some (if m % 17 = 16 then 1 else 0)
    else if lo = 3 then some (if m % 17 = 16 then 127 else 16 * (m / 17) + m % 17)
    else none
  else if 0x0C0100 ≤ a && a < 0x0C02C0 && lo = 4 then some (nominalMhz ((a - 0x0C0100) / 8))
  else if 0x0C0500 ≤ a && a < 0x0C0550 then spareInitial ((a - 0x0C0500) / 8)
  else if 0x0D0100 ≤ a && a < 0x0D0140 && lo = 32 then some (blockLimitMw ((a - 0x0D0100) / 8))
  else none

/-- The reset value of one field of the register at an address. -/
def fieldReset (d : RegDesc) (a : Nat) (f : RegField) : Nat :=
  if f.acc = .wo then 0
  else match specialReset a f.lo with
    | some v => v % 2 ^ f.w
    | none =>
      if f.dev then Config.perDevice a f.lo % 2 ^ f.w
      else if (a - d.base) / d.stride = 0 then f.rst0 else f.rst

/-- The reset value of the register at an address; zero at an address where the tables give none. -/
def regReset (a : Nat) : W64 :=
  match regAt a with
  | none => 0
  | some d => BitVec.ofNat 64 ((d.fields.map fun f => fieldReset d a f * 2 ^ f.lo).foldr (· + ·) 0)

end Sys2Proof.Machine
end

