-- ==== Sys2Proof/Machine/State.lean ====
section
/-! DEFINITION. The state of the block as plain data, its reset value, and the reasons a command can stop: every
register, table, queue, memory and pin the spec gives the device. Registers live in one register file by BAR0 address
(Machine/RegTable.lean says their fields and reset values); the counters of the conservation ledgers and of the Bark ring
live in structures of their own, which their named effects alone change (Machine/Ops.lean). -/

namespace Sys2Proof.Machine

/-! ### Error records (R376 to R381, 13_resilience.md) -/

/-- A Bark ring record (R377); SEQ and CRC are filled in when it is made. -/
structure BarkRec where
  seq : Nat := 0
  /-- CLASS, the block index of R360 -/
  cls : Nat
  severity : Nat
  /-- FLAG, the bit index of the flag -/
  flag : Nat
  /-- ISLAND, 63 if none -/
  island : Nat := 63
  unit : Nat := 0
  tick : Nat := 0
  handle : Nat := 0
  epoch : Nat := 0
  step : Nat := 0
  addr : Nat := 0
  detail : Nat := 0
deriving DecidableEq, Repr

/-- A class area (R379): MADE and OVF, the first slot (none since the class was last rearmed), the last slot. -/
structure ClassArea where
  made : Nat := 0
  ovf : Nat := 0
  first : Option BarkRec := none
  last : Option BarkRec := none
  /-- the first slot is open: the next overflowed record takes it -/
  armed : Bool := true
deriving DecidableEq, Repr

/-- The Bark ring (R378): BRK_MADE, BRK_STORED, BRK_HEAD, BRK_OVF_TOTAL, the 4,096 entries, the class areas, and the
interrupt window of R381 (open; a record waits for its end). -/
structure Bark where
  made : Nat := 0
  stored : Nat := 0
  head : Nat := 0
  ovf : Nat := 0
  ring : List (Nat × BarkRec) := []
  classes : List (Nat × ClassArea) := []
  winOpen : Bool := false
  winPend : Bool := false
deriving DecidableEq, Repr

/-! ### Ledgers (R389, 13_resilience.md) -/

/-- The credits of one port or of the chip: issued = returned + in flight + flushed. -/
structure Credits where
  issued : Nat := 0
  returned : Nat := 0
  inflight : Nat := 0
  flushed : Nat := 0
deriving DecidableEq, Repr

/-- A Collar's account (R278 to R282, 10_sharing_and_scheduling.md): granted = spent + (balance + reserved) + expired. -/
structure CollarAcct where
  balance : Int := 0
  reserved : Nat := 0
  granted : Nat := 0
  spent : Nat := 0
  expired : Nat := 0
deriving DecidableEq, Repr

/-- The counters of the six ledgers of R389. They move only by the effects named after their actions. -/
structure Ledger where
  /-- RQT_ADMITTED, RQT_CLOSED, RQT_FAILED, RQT_LIVE -/
  admitted : Nat := 0
  closed : Nat := 0
  failed : Nat := 0
  live : Nat := 0
  /-- XPT_BUF_POSTED, COMPLETED, OUTSTANDING, WITHDRAWN -/
  bufPosted : Nat := 0
  bufCompleted : Nat := 0
  bufOutstanding : Nat := 0
  bufWithdrawn : Nat := 0
  /-- FAB_CRED_*_p by port -/
  ports : List (Nat × Credits) := []
  /-- ISL_XCRED_* -/
  chip : Credits := {}
  /-- the Collar of tenant t and kind k under key 2t + k -/
  collars : List (Nat × CollarAcct) := []
  /-- ACN_INCREMENTS, and the operations completed: DAE_JOB_STATUS_s, SMP_DONE_s, MOV_DONE_s by status, ACN_SIGNALS,
  XPT_MSG_DONE (R233) -/
  increments : Nat := 0
  jobStatus : List (Nat × Nat) := []
  smpDone : List (Nat × Nat) := []
  movDone : List (Nat × Nat) := []
  signals : Nat := 0
  msgDone : Nat := 0
  /-- STM_REF_TAKEN, STM_REF_DROPPED, STM_REF_LIVE -/
  refTaken : Nat := 0
  refDropped : Nat := 0
  refLive : Nat := 0
deriving DecidableEq, Repr

/-! ### Host interface (R325 to R348, 12_host_interface.md) -/

/-- How far a command taken from its source has come. -/
inductive CmdStatus where
  | waiting
  | running
  /-- STATUS, DETAIL, RESULT bytes, output bytes, of a command whose completion is not yet written -/
  | done (status detail : Nat) (result out : List Byte)
deriving DecidableEq, Repr

/-- A command entry (R340) taken from a ring or from the primary mailbox, and how far it has come. -/
structure Cmd where
  /-- the number of the command in the order its source's commands were taken -/
  seq : Nat
  opcode : Nat
  cid : Nat
  inAddr : Nat := 0
  inLen : Nat := 0
  outLen : Nat := 0
  outAddr : Nat := 0
  /-- the 32 bytes of ARGS -/
  args : List Byte
  /-- a reserved field of the entry is not zero (R6) -/
  resv : Bool := false
  /-- input bytes of a command of the primary mailbox -/
  payload : List Byte := []
  status : CmdStatus := .waiting
  /-- a host-interface reset came after it was taken: its completion entry is not written (R338) -/
  lost : Bool := false
deriving DecidableEq, Repr

/-- A ring pair's state besides its registers (R339 to R344). -/
structure Ring where
  /-- commands taken and not yet completed in the ring, in ring order -/
  cmds : List Cmd := []
  /-- commands taken since enable -/
  taken : Nat := 0
  /-- completions written since enable (PHASE) -/
  written : Nat := 0
  /-- the host cleared ENABLE; the running commands drain (R343) -/
  draining : Bool := false
  /-- the minor version agreed by IFACE_OPEN (R347) -/
  iface : Option Nat := none
  /-- the coalescing window of R344 is open; entries wait for its end -/
  winOpen : Bool := false
  winPend : Bool := false
deriving DecidableEq, Repr

/-- The PF0 primary mailbox (R328): the command in the foreground, the agreed minor version, and the last output: the
CXL return code and the output payload. -/
structure Mailbox where
  cmd : Option Cmd := none
  /-- a CXL memory-device command that waits for its row (R327): its opcode and payload -/
  cxlCmd : Option (Nat × List Byte) := none
  taken : Nat := 0
  iface : Option Nat := none
  retCode : Nat := 0
  output : List Byte := []
deriving DecidableEq, Repr

/-- The CXL port and its memory-device commands (R325 to R327). -/
structure Cxl where
  /-- base of the committed HDM decoder -/
  hdmBase : Option Nat := none
  /-- PERST_N is high -/
  perst : Bool := false
  /-- the timestamp of Set Timestamp and the local counter when it was set -/
  timestamp : Option (Nat × Nat) := none
  /-- Event Interrupt Policy, one byte per event log -/
  policy : List Nat := [0, 0, 0, 0]
  /-- the four event logs: copies of Bark records of the log's severity, oldest first -/
  logs : List (List BarkRec) := [[], [], [], []]
deriving DecidableEq, Repr

/-! ### Configuration (R349 to R352, 12_host_interface.md) -/

/-- A staged item (R349): an RWL register by BAR0 address, a model record by slot, a tenant record by tenant; a record without bytes
stands for none (in a Heel). -/
inductive Item where
  | reg (addr value : Nat)
  | model (slot : Nat) (bytes : List Byte)
  | tenant (t : Nat) (bytes : List Byte)
deriving DecidableEq, Repr

/-- A commit or Heel that is running (R19): the command it answers (none for the automatic Heel), the version it brings,
its items, its confirmation ticks, whether it is a Heel. -/
structure CfgRun where
  ref : Option CmdRef
  version : Nat
  items : List Item
  confirm : Nat
  heel : Bool
  auto : Bool
deriving DecidableEq, Repr

/-- The configuration's state besides its registers. -/
structure Conf where
  /-- the first CONFIG_COMMIT since reset has taken effect: RWL fields are locked (R7) -/
  locked : Bool := false
  staged : List Item := []
  /-- the configuration the running version replaced (R352): what differed from reset then -/
  previous : Option (List Item) := none
  run : Option CfgRun := none
  /-- a deadline expired during a firmware activation (R393) -/
  heelDue : Bool := false
  models : List (Nat × List Byte) := []
  tenants : List (Nat × List Byte) := []
deriving DecidableEq, Repr
/-! ### Requests at their home (R171 to R200, 07_ownership_and_recovery.md) -/

/-- A request at its home: the record, and what the home awaits for it. -/
structure HomeReq where
  record : Rec
  /-- the REQ_HANDOFF whose hand-off is unsettled (R182) -/
  handoffCmd : Option CmdRef := none
  /-- a change of phase on an owner that is not the home, awaiting its OFFER_ACK (R12): the command and the target -/
  phaseChg : Option (CmdRef × Phase) := none
  /-- REQ_CLOSE commands that wait for the running unit (R14), and whether one was accepted -/
  closing : Bool := false
  closeCmds : List CmdRef := []
  /-- CLOSE has been sent (any hand-off has settled) -/
  closeSent : Bool := false
  /-- the replay chip in force (R190) -/
  replayChip : Nat := 0
deriving DecidableEq, Repr

/-- An action a paired home takes only once its partner has acknowledged the changes before it (R176). -/
inductive Withheld where
  | send (tgt : Nat) (type : MsgType) (m : Msg)
  | complete (ref : CmdRef) (status detail : Nat) (result out : List Byte)
  /-- the record's shadow in the host window is rewritten (R172) -/
  | shadow (r : Rec)
deriving DecidableEq, Repr

/-- The home duties of the chip. -/
structure Home where
  /-- requests homed here, by handle; terminal ones stay until their slot is used again -/
  reqs : List (Nat × HomeReq) := []
  /-- the shadows of the records as they stand in the host window, with the logs shown beside them, by handle (R10, R172) -/
  shadows : List (Nat × Rec) := []
  /-- incarnation of each slot used so far (R171) -/
  incs : List (Nat × Nat) := []
  /-- mirror updates sent and acknowledged, and the actions that wait: (update number, action), oldest first -/
  mirrorSent : Nat := 0
  mirrorAcked : Nat := 0
  withheld : List (Nat × Withheld) := []
  /-- a REQ_SET_PARTNER that waits for the new partner's copies (R197): command, partner, number of the last update -/
  setPartner : Option (CmdRef × Nat × Nat) := none
  /-- last PING_ACK of each watched chip, by local counter (R187) -/
  lastAck : List (Nat × Nat) := []
  /-- chips this home has declared failed -/
  failedChips : List Nat := []
  /-- the home this chip is mirror partner of, when it last heard from it, and the records it holds for it -/
  mirrorOf : Option Nat := none
  mirrorHeard : Nat := 0
  mirrored : List (Nat × Rec) := []
  /-- order of last use of the redirect entries (R196) -/
  redirUse : List (Nat × Nat) := []
  redirSeq : Nat := 0
deriving DecidableEq, Repr

/-! ### The Leash on this chip (R177, R181, 07_ownership_and_recovery.md) -/

/-- The Leash states of R181; e is the epoch. -/
inductive LeashSt where
  | none
  | receiving (e : Nat)
  | casing (e : Nat)
  | owner (e : Nat)
  | draining (e : Nat)
  | offering (e : Nat)
  | waiting (e : Nat)
  | holder
deriving DecidableEq, Repr

/-- What a layer's last verify step left for its acceptance (R64, R156): its STEP, its first position, its rows and the
tree bitmap. -/
structure Draft where
  step : Nat
  first : Nat
  rows : Nat
  tree : Bool
  /-- the path to each row as a bitmap: a chain's row j holds bits 0 to j -/
  bitmap : List Nat
  /-- clips of each staged row (R130) -/
  clips : List Nat
deriving DecidableEq, Repr

/-- One layer of a request's page-list table (R28): its page references in position order, and its position count, last
step number (R74), acknowledged copies at the state mirror as page index and the mirror's reference (R188), last selection (R99) and pending draft. -/
structure Layer where
  pages : List Nat := []
  count : Nat := 0
  lastStep : Nat := 0
  ackPages : List (Nat × Nat) := []
  sel : List Nat := []
  draft : Option Draft := none
  /-- the near frame of the layer's draft staging (R64) -/
  stage : Option Nat := none
  /-- bases built for this layer, by sequence: (BASIS_SEQ, frame reference) (R134) -/
  bases : List (Nat × Nat) := []
  /-- rejections since the last basis was built (R134) -/
  lrRejects : Nat := 0
deriving DecidableEq, Repr

/-- A Fetch of this chip (R183, R184): running or waiting for FETCH_MAX, its source chip, its place in the order. -/
structure FetchSt where
  running : Bool
  source : Nat
  order : Nat
  /-- a background Fetch after copy-free -/
  background : Bool := false
  /-- every page has been brought in -/
  complete : Bool := false
  /-- the chips whose frames the page list named when it was read -/
  holders : List Nat := []
deriving DecidableEq, Repr

/-- What this chip keeps for a request it owns, gives, receives, holds or mirrors (R181, R196). -/
structure Loc where
  st : LeashSt := .none
  /-- it entered RECEIVING from HOLDER (R181) -/
  wasHolder : Bool := false
  /-- it holds the request's state mirror (R188) -/
  isMirror : Bool := false
  /-- the epoch the home last showed it -/
  epoch : Nat := 0
  /-- the recorded home (R196) -/
  home : Nat := 0
  /-- the giver of a receiver, the receiver of a giver -/
  peer : Nat := 0
  phase : Phase := .admitted
  /-- the target phase of the hand-off a giver serves -/
  target : Phase := .admitted
  cls : Nat := 0
  tenant : Nat := 0
  maxPositions : Nat := 32768
  /-- HANDOFF_MODE of the hand-off, and whether this receiver chose copy-free (R184) -/
  mode : Nat := 0
  copyFree : Bool := false
  budget : Nat := 0xFFFFFFFF
  budgetTick : Nat := 0
  offers : Nat := 0
  fetch : Option FetchSt := none
  /-- the reference of its page-list table, a free value (R28) -/
  listRef : Nat := 0
  /-- the holder whose pages a full holder list makes it fetch before the compare-and-swap is resent (R181) -/
  dropping : Option Nat := none
  layers : List (Nat × Layer) := []
  /-- the reference of the sampler frame (R159): its payload is the count table, its scale slot the sampler record -/
  sampler : Option Nat := none
  /-- the paths of the rows of the last layer-0 verify job (R156) -/
  tree : List Nat := []
  /-- page references of frames on this chip kept as held frames (R177) -/
  held : List Nat := []
  /-- frames of the state mirror's copies: (layer, page index) packed as layer × 2^16 + index → page reference -/
  copies : List (Nat × Nat) := []
  /-- the state mirror the owner copies to -/
  stateMirror : Option Nat := none
  /-- replay in force: (REPLAY_FROM, REPLAY_TO) (R191) -/
  replay : Option (Nat × Nat) := none
  stepFloor : Nat := 0
  replayed : Nat := 0
  /-- CLOSE has been received (R14) -/
  closing : Bool := false
  /-- HOLD_EMPTY is owed to the home when closing ends -/
  oweEmpty : Bool := false
  prefix0 : Nat := 0
  prefix1 : Nat := 0
  prefixPos : Nat := 0
deriving DecidableEq, Repr

/-! ### Pages and frames (R23 to R53, 02_state_memory.md) -/

/-- A page header (R25), with the transcoder's part of it (R140, 05_transcoder.md). -/
structure PageHeader where
  pageRef : Nat := 0
  owner : Nat := 0
  firstPos : Nat := 0
  posCount : Nat := 0
  pLog2 : Nat := 4
  layer : Nat := 0
  rotSeedId : Nat := 0
  kFmt : Nat := 0
  vFmt : Nat := 0
  lrRank : Nat := 0
  clipCount : Nat := 0
  isSealed : Bool := false
  frozen : Bool := false
  shared : Bool := false
  lowRank : Bool := false
  lrRejected : Bool := false
  escalated : Bool := false
  migrating : Bool := false
  pinned : Bool := false
  isProtected : Bool := false
  refCount : Nat := 0
  payloadCrc : Nat := 0
  storedLen : Nat := 0
  backingRef : Nat := 0
  lrBasisRef : Nat := 0
  allocTick : Nat := 0
  tenant : Nat := 0
  group : Nat := 0
  /-- PAGE_SKETCH, 64 bytes -/
  sketch : List Byte := []
  residK : Nat := 0
  residV : Nat := 0
  srcKFmt : Nat := 0
  srcVFmt : Nat := 0
  cold : Bool := false
  basis : Bool := false
  escKind : Nat := 0
  basisNext : Nat := 0
  basisSeq : Nat := 0
  escPos : Nat := 0
deriving DecidableEq, Repr

/-- What an allocation is for (the kinds of R37). -/
inductive AllocKind where
  | prompt | generation | cache | remoteCache | sharedPrefix
deriving DecidableEq, Repr

/-- The states a frame's migration passes through (R51). -/
inductive MigSt where
  | migrating | blocked | tombstone
deriving DecidableEq, Repr

/-- An update of a migrating frame (R51): a reference change, a seal, a freeze, or a tail append. -/
inductive MigUpd where
  | refs (n : Int)
  | seal
  | freeze
  | append (count : Nat)
deriving DecidableEq, Repr

/-- A page read that waits at its frame's home: the reader, whether tracked, the reference, the reader's tag. -/
structure WaitRead where
  reader : Nat
  tracked : Bool
  ref : Nat
deriving DecidableEq, Repr

/-- A migration (R51): its destination's reference, the logged and the held updates, the page reads that wait for the flip, the
flip generation. -/
structure Mig where
  st : MigSt
  dst : Nat
  log : List MigUpd := []
  heldUpds : List MigUpd := []
  waits : List WaitRead := []
  flipGen : Nat := 0
deriving DecidableEq, Repr

/-- A frame in use: its header, the order of its last read (R38), what it was allocated for, and its states. -/
structure Frame where
  hdr : PageHeader
  kind : AllocKind := .cache
  lastRead : Nat := 0
  /-- an open store target (R207) -/
  storeTarget : Bool := false
  /-- a staging target of an unfinished read (R38) -/
  staging : Bool := false
  /-- ineligible as a victim until this local counter value (R39) -/
  holdUntil : Nat := 0
  mig : Option Mig := none
deriving DecidableEq, Repr

/-- A shared prefix homed on this chip (R33 to R35, R356). -/
structure Prefix where
  handle : Nat
  tenant : Nat
  positions : Nat
  /-- pages by layer, in position order -/
  pages : List (Nat × List Nat)
  pinned : Bool := false
  /-- the host reference of PREFIX_CREATE is held -/
  hostRef : Bool := true
  /-- requests that hold references, by handle -/
  users : List Nat := []
  /-- pages demoted to the Kennel (R304) -/
  demoted : Bool := false
deriving DecidableEq, Repr

/-- A read of a page that has not arrived (R47, R198): what it brings and for whom. -/
structure PageRead where
  /-- the page reference read, and the local frame that receives it -/
  src : Nat
  dst : Nat
  handle : Nat
  layer : Nat
  index : Nat
  /-- the Fetch, prefetch or copy-down it belongs to -/
  forFetch : Bool := false
  retried : Bool := false
  /-- a backup read of the state mirror's copy (R198) under way -/
  backup : Bool := false
  /-- a tracked read into the remote page cache (R215) -/
  tracked : Bool := false
  /-- it waits for its basis frames, read first (R135) -/
  needs : Bool := false
  /-- the COPY_PAGE it is (R226) -/
  mov : Option Nat := none
  /-- another copy of the page came first: this one is discarded when it arrives (R198) -/
  void : Bool := false
  /-- local counter when it was issued -/
  issued : Nat := 0
deriving DecidableEq, Repr

/-- The state memory (R23 to R55). -/
structure Pages where
  /-- frames in use, by tier × 2^28 + frame number -/
  frames : List (Nat × Frame) := []
  /-- frame generations that are not 0 -/
  gens : List (Nat × Nat) := []
  /-- order of reads, for the least recently read frame (R38) -/
  readSeq : Nat := 0
  prefixes : List (Nat × Prefix) := []
  /-- incarnation of each prefix number used so far -/
  prefixIncs : List (Nat × Nat) := []
  /-- reads that have not arrived, by read tag, and the next tag -/
  reads : List (Nat × PageRead) := []
  nextTag : Nat := 0
  /-- frames named by running jobs and unfinished reads, which are never evicted (R38): (job or read number, frame) -/
  busy : List (Nat × Nat) := []
  /-- order of arrival of Fetches (R184) -/
  fetchSeq : Nat := 0
  /-- prefetch reads without a frame, retried when a frame is freed (R39): (handle, layer, index) -/
  retry : List (Nat × Nat × Nat) := []
  /-- first passes that run, by (request, layer) (R134) -/
  passes : List (Nat × Nat) := []
deriving DecidableEq, Repr
/-! ### Islands, cores, repairs, power, test and management bus (R366 to R397, R404 to R444; chapters 13 to 15) -/

/-- A live firmware activation (R394): the FW_ACTIVATE or Activate FW it answers, the slot, the units still to take the
new image in order (control cores 0-19; 20 the standby management core, 21 the move of the role, 22 the former active
core), and those that have taken it. -/
structure FwAct where
  ref : Option CmdRef
  slot : Nat
  left : List Nat
  updated : List Nat := []
deriving DecidableEq, Repr

/-- A repair (R388): its spare kind and the unit it replaces. -/
structure Repair where
  kind : Nat
  unit : Nat
deriving DecidableEq, Repr

/-- The platform besides its registers. -/
structure Plat where
  /-- the security core has booted the management core (R407) -/
  booted : Bool := false
  /-- a management core is in service and takes commands (R384) -/
  mgmtUp : Bool := true
  /-- control cores mapped out -/
  coresOut : List Nat := []
  /-- the islands that hold a RESET until a reference clock returns or the limits hold again (R372, R367) -/
  heldReset : List Nat := []
  /-- reference clocks lost: 0 REFCLK_SYS, 1 REFCLK_CXL, 2 + k REFCLK_PG[k] (R432) -/
  clocksLost : List Nat := []
  /-- a fall of PERST_N or WARM_RESET_N during a flush, held until it ends (R428) -/
  heldPerst : Bool := false
  heldWarm : Bool := false
  /-- the live firmware activation under way -/
  fwAct : Option FwAct := none
  /-- repairs appended to the log, burned, and waiting for their burn (R388) -/
  repairLog : List Repair := []
  fuses : List Repair := []
  toBurn : List Repair := []
  /-- local counter at which the next periodic audit is due (R390) -/
  auditDue : Nat := 0
  /-- the TAP: boundary register (2,615 cells), bypass bit, and whether it has taken the pins (R437, R440) -/
  boundary : Nat := 0
  bypassBit : Nat := 0
  pinsTaken : Bool := false
  highZ : Bool := false
  /-- the I3C dynamic address, and an in-band interrupt raised (R435) -/
  i3cAddr : Option Nat := none
  ibi : Bool := false
deriving DecidableEq, Repr

/-- The security core's state besides its registers (chapter 14). -/
structure Sec where
  /-- boot control record in force: its SEQ and PREF_SLOT (R404) -/
  bootSeq : Nat := 0
  prefSlot : Nat := 0
  /-- an activation with MODE 1 waits for the boot into this slot, whose first FW_READY raises the anti-rollback count -/
  raiseArb : Bool := false
  /-- the slot whose images the running cores run -/
  runSlot : Nat := 0
  /-- measurements of the running security, management and control-core firmware (R407, R414), and of the staged security component -/
  measures : List (List Byte) := []
  stagedSec : List Byte := []
  /-- pod keys: (epoch, key) current and previous; the staged key with its deadline (R418) -/
  podCur : Option (Nat × List Byte) := none
  podPrev : Option (Nat × List Byte) := none
  podStaged : Option (Nat × List Byte × Nat) := none
  /-- Kennel tenant keys by tenant × 2^32 + key id (R418) -/
  knlKeys : List (Nat × List Byte) := []
  /-- refused test-unlock tokens of this boot, and the end of the unlock by local counter (R419) -/
  unlockFails : Nat := 0
  unlockUntil : Option Nat := none
  /-- the security core re-enters or restarts (R411, R383) -/
  reentering : Bool := false
deriving DecidableEq, Repr
/-! ### Coherence (R214 to R221, 08_fabric_memory_semantics.md) -/

/-- A directory entry (R216, R218): the frame's generation, the reader set, whether the frame is BLOCKED, the readers
pending, whether INVAL has been resent, the events queued, the order of its last grant, whether the frame was released. -/
structure DirEntry where
  gen : Nat
  readers : List Nat
  blocked : Bool := false
  pending : List Nat := []
  resent : Bool := false
  queue : List WaitRead := []
  granted : Nat := 0
  released : Bool := false
deriving DecidableEq, Repr

/-- The states of a remote page cache entry (R219). -/
inductive CacheSt where
  | filling (marked : Bool)
  | valid
  | doomed
deriving DecidableEq, Repr

/-- A remote page cache entry (R215, R219): its local near frame and its state. -/
structure CacheEntry where
  key : Nat
  st : CacheSt
  home : Nat
deriving DecidableEq, Repr

/-- The directory, the remote page cache and the fences of this chip. -/
structure Coh where
  dir : List (Nat × DirEntry) := []
  /-- tracked reads that wait for a way of a full set (R216) -/
  waitWay : List WaitRead := []
  grantSeq : Nat := 0
  /-- SEQ of the next INVAL to each member -/
  invalSeq : List (Nat × Nat) := []
  /-- members this chip has fenced (R221) -/
  fenced : List Nat := []
  /-- remote page cache entries by page reference -/
  cache : List (Nat × CacheEntry) := []
deriving DecidableEq, Repr
/-! ### Arrival counters (R228 to R233, 08_fabric_memory_semantics.md) -/

/-- An arrival counter: COUNT, and what the last arming store wrote. -/
structure Counter where
  count : Nat := 0
  target : Nat := 0
  route : Nat := 0
  armed : Bool := false
  fired : Bool := false
deriving DecidableEq, Repr

/-- The arrival counters that have been used, and the sequence of each route's event records (R231). -/
structure Acn where
  counters : List (Nat × Counter) := []
  routeSeq : List (Nat × Nat) := []
deriving DecidableEq, Repr

/-! ### Accesses of this chip to others (R205 to R213, 08_fabric_memory_semantics.md) -/

/-- What an access does. -/
inductive AccKind where
  | load (size : Nat)
  | store (data : List Byte)
  | atomic (op : Nat) (width : Nat) (a b : Nat)
  | pageRead (ref : Nat) (tracked : Bool)
  | hint (ref : Nat)
  /-- a page copied into a frame of another chip (COPY_PAGE, and the copies to a state mirror) -/
  | pageCopy (ref : Nat)
deriving DecidableEq, Repr

/-- An access that has not been answered. -/
structure Access where
  who : Requester
  kind : AccKind
  /-- member, aperture and offset (R202) -/
  addr : Nat
  issued : Nat
deriving DecidableEq, Repr

/-- The accesses of this chip: those that wait for an answer, by tag; those a fence holds back (R212); and the requesters
whose next fence completes with an error (R213). -/
structure Fabric where
  tag : Nat := 0
  waiting : List (Nat × Access) := []
  /-- requesters whose fence waits -/
  fences : List Requester := []
  /-- requesters of which an access to a member has timed out, until they fence -/
  failed : List (Requester × Nat) := []
  /-- accesses held back by a fence, or after a timeout, in the order of their issue -/
  held : List (Requester × AccKind × Nat) := []
deriving DecidableEq, Repr

/-! ### Step jobs (R69 to R83, 03_attention_engines.md) -/

/-- A step-job descriptor (R72). -/
structure JobDesc where
  op : Nat
  mode : Nat
  qFmt : Nat
  outFmt : Nat
  mask : Nat
  layer : Nat
  nq : Nat
  parts : Nat
  outRemote : Bool
  outMember : Nat
  handle : Nat
  qAddr : Nat
  kvAddr : Nat
  outAddr : Nat
  maskAddr : Nat
  partAddr : Nat
  arrival : Nat
  step : Nat
  epoch : Nat
  firstPage : Nat
  pageCount : Nat
  smScale : Nat
  qPos : Nat
  cls : Nat
  tenant : Nat
deriving DecidableEq, Repr

/-- How far an accepted job has come: on its tenant's deferral list (R281); waiting for Scent's evaluation (R95); waiting for
pages or ready; running; between two sub-jobs (R76); failed and waiting for its internal replay (R82); its outputs on their
way to another member; its commit held for the compare-and-swap (R181). -/
inductive JobSt where
  | deferred | evaluating | waiting | running | between | faulted | storing | held
deriving DecidableEq, Repr

/-- What a job has read from the job buffer (R71), kept for an internal replay. -/
structure JobIn where
  q : List Byte
  kv : List Byte
  bitmap : List Byte
  parts : List Byte
deriving DecidableEq, Repr

/-- A new position in stored form (R127): its formats, element bytes, scale bytes, clips. -/
structure RowBytes where
  kf : Nat
  vf : Nat
  bytes : List Byte
  scales : List Byte
  clips : Nat
deriving DecidableEq, Repr

/-- An escalation decided at intake (R131): the page index, WIDE or not, and POS_COUNT when it was decided. -/
structure Escal where
  page : Nat
  wide : Bool
  pos : Nat
deriving DecidableEq, Repr

/-- A job accepted from a queue and not ended. -/
structure Job where
  q : Nat
  slot : Nat
  qseq : Nat
  d : JobDesc
  st : JobSt
  /-- the tenant the job counts for, its tenant group, its engine class -/
  tenant : Nat
  group : Nat
  cls : Nat
  /-- page indexes of its range, and those it reads (all in exact mode, the selection in Scent mode) -/
  range : List Nat
  emit : List Nat
  /-- the pages of an audit job's selection (R104) -/
  audit : Option (List Nat) := none
  /-- groups of its engine held, tile groups of a ganged run, whether they are reserved groups -/
  groups : List Nat := []
  tiles : List Nat := []
  reserved : Bool := false
  /-- sub-jobs of this run, and how many have ended; the groups of the last one -/
  subs : Nat := 1
  subDone : Nat := 0
  lastGroups : List Nat := []
  /-- cycles of t_switch of the running sub-job -/
  switchCyc : Nat := 0
  /-- the job has started once: its intake is done -/
  begun : Bool := false
  inp : Option JobIn := none
  /-- frames taken for the append: page index and frame (R30, R131) -/
  fresh : List (Nat × Nat) := []
  /-- rows quantised at intake, escalations, and the output of a run that has ended -/
  rows : List RowBytes := []
  escs : List Escal := []
  out : List Byte := []
  /-- outputs on their way: accesses not yet answered, and whether one failed -/
  outLeft : Nat := 0
  outFail : Bool := false
  replays : Nat := 0
  /-- flags of the completion record (R78) -/
  fDeferred : Bool := false
  fReplay : Bool := false
  fSplit : Bool := false
  fGang : Bool := false
  fExact : Bool := false
  /-- the wait for pages (R49): since when, its cause, and ticks waited in all -/
  stallAt : Option (Nat × Nat) := none
  stalled : Nat := 0
  engineNs : Nat := 0
  /-- CLOSE came while it ran as sub-jobs (R14), or a cancel ended it: the status it ends with at its sub-job's end -/
  endWith : Option Nat := none
  /-- tracker generation when the run began (R51) -/
  gen : Nat := 0
  /-- order of acceptance -/
  order : Nat
deriving DecidableEq, Repr

/-- The engines and their dispatcher. -/
structure Jobs where
  next : Nat := 0
  jobs : List (Nat × Job) := []
  /-- queues whose re-enable waits for their accepted jobs (R86): the slots accepted but not yet passed by the head, ended -/
  reenable : List Nat := []
  /-- slots of a queue whose jobs have ended but that the head has not passed, as queue × 65536 + slot -/
  ended : List Nat := []
  /-- next slot to accept of each queue -/
  accept : List (Nat × Nat) := []
  /-- deferral lists by tenant, first deferred first (R281) -/
  deferred : List (Nat × List Nat) := []
  /-- last queue served of each priority, per engine: key = engine × 8 + priority (R86) -/
  robin : List (Nat × Nat) := []
  /-- the job an engine has chosen in step 2 of R284 and waits to start -/
  chosen : List (Nat × Nat) := []
  /-- V_e of each engine (R286): 0 DAE, 1 PAE; E_g stands in COL_GRP_VDAE and COL_GRP_VPAE -/
  vtime : List (Nat × Nat) := []
  /-- last tenant and high-water mark of each group (R287): key = engine × 16 + group -/
  last : List (Nat × (Nat × Nat)) := []
  /-- tenant groups that had ready jobs at the last dispatch, of which E_g needs no lift (R286): engine × 16 + group -/
  backlog : List Nat := []
  /-- groups with a unit mapped out and not replaced (R83): engine × 16 + group -/
  broken : List Nat := []
  /-- spare units in service: engine × 1024 + spare → the place it stands for (R83) -/
  spareFor : List (Nat × Nat) := []
  /-- reservations (R279): (tenant, kind, handle, step, amount, local counter when made) -/
  resv : List (Nat × Nat × Nat × Nat × Nat × Nat) := []
  /-- next refill tick of a Collar by key 2t + k -/
  refill : List (Nat × Nat) := []
deriving DecidableEq, Repr

/-- Held frames and cycles of a tenant (R288): amounts held now, their integrals so far, and since when. -/
structure Meter where
  near : Nat := 0
  far : Nat := 0
  kennel : Nat := 0
  nearInt : Nat := 0
  farInt : Nat := 0
  kennelInt : Nat := 0
  since : Nat := 0
  tokens : Nat := 0
  positions : Nat := 0
  fabBytes : Nat := 0
  daeCyc : Nat := 0
  paeCyc : Nat := 0
  deferred : Nat := 0
deriving DecidableEq, Repr

/-! ### Scent (R87 to R119, 04_scent.md) -/

/-- An octet of sketch rows (R88): request, layer, index of its first group, and its eight rows: the 64 bytes of a group
sketch where the row is loaded. -/
structure Octet where
  handle : Nat
  layer : Nat
  first : Nat
  rows : List (Option (List Byte))
deriving DecidableEq, Repr

/-- Scent besides its registers. -/
structure Scent where
  /-- octets in use by logical macro × 1024 + octet -/
  octets : List (Nat × Octet) := []
  /-- requests with a row allocation, and requests that wait for one, oldest first (R114, R117) -/
  loaded : List Nat := []
  waiting : List Nat := []
  /-- jobs of each profile that made a selection, for the audit (R104) -/
  audits : List (Nat × Nat) := []
  /-- temperature difference that made a physical macro due, in 0.125 °C units (R107) -/
  dueDiff : List (Nat × Nat) := []
  /-- groups closed without a row (R115): handle, layer, group -/
  unsketched : List (Nat × Nat × Nat) := []
  /-- logical macros removed from service (R113) -/
  gone : List Nat := []
  /-- page sketches read from other chips (R114): handle, layer, page index, sketch -/
  remote : List (Nat × Nat × Nat × List Byte) := []
deriving DecidableEq, Repr

/-! ### The sampler (R148 to R168, 06_sampler.md) -/

/-- A sample descriptor accepted and not ended (R149): it waits for the token-log acknowledgement, or its commit waits for
the compare-and-swap, or its outputs are on their way. -/
inductive SmpSt where
  | logging | held | storing | faulted
deriving DecidableEq, Repr

/-- A SAMPLE or ACCEPT that has drawn its tokens, or a GATHER whose commit or outputs wait. -/
structure Smp where
  q : Nat
  slot : Nat
  qseq : Nat
  op : Nat
  desc : List Byte
  st : SmpSt
  handle : Nat
  /-- the requests whose sampler frames it writes -/
  handles : List Nat
  step : Nat
  epoch : Nat
  /-- tokens, and accepted rows in path order -/
  tokens : List Nat := []
  path : List Nat := []
  /-- the draft and the parent of each row from 1 on -/
  drafts : List (Nat × Nat) := []
  /-- a parameter block to store -/
  params : Option (List Byte) := none
  /-- frames taken for the rows of the path: layer, page index, frame -/
  fresh : List (Nat × Nat × Nat) := []
  /-- the segments of a GATHER with its indices: handle, epoch, COUNT, indices -/
  segs : List (Nat × Nat × Bool × List Nat) := []
  adopted : Bool := false
  countSat : Bool := false
  /-- local counter when the tokens went to the log, and ticks waited for the acknowledgement -/
  sent : Nat := 0
  stalled : Nat := 0
  ns : Nat := 0
  /-- outputs on their way: accesses not yet answered, and whether one failed -/
  outLeft : Nat := 0
  outFail : Bool := false
  fReplay : Bool := false
  replays : Nat := 0
  endWith : Option Nat := none
  /-- order of acceptance -/
  order : Nat := 0
deriving DecidableEq, Repr

/-- The sampler besides its registers. -/
structure Sampling where
  next : Nat := 0
  live : List (Nat × Smp) := []
  accept : List (Nat × Nat) := []
  ended : List Nat := []
  /-- queues whose re-enable waits for their descriptors -/
  reenable : List Nat := []
  /-- rows of the embedding table in the row cache, least recently used first (R164) -/
  rowCache : List Nat := []
  /-- far-state frames of the embedding slice table by index (R164) -/
  emb : List (Nat × Nat) := []
  /-- last queue served of each priority -/
  robin : List (Nat × Nat) := []
deriving DecidableEq, Repr

/-! ### The mover (R224 to R227, 08_fabric_memory_semantics.md) -/

/-- A mover descriptor that runs. -/
structure Mov where
  q : Nat
  slot : Nat
  qseq : Nat
  desc : List Byte
  started : Nat
  /-- accesses not yet answered, the next byte to move, bytes done, and the status so far -/
  left : Nat := 0
  cursor : Nat := 0
  status : Nat := 0
  /-- tracker generation when it began (R51) -/
  gen : Nat := 0
deriving DecidableEq, Repr

/-- The mover besides its registers. -/
structure Mover where
  next : Nat := 0
  live : List (Nat × Mov) := []
  accept : List (Nat × Nat) := []
  ended : List Nat := []
  reenable : List Nat := []
deriving DecidableEq, Repr
/-! ### The Herder and the links (R238 to R247, 09_transport_and_links.md; R272 to R276, 10_sharing_and_scheduling.md) -/

/-- A packet in a traffic queue: its bytes on the link, what it is charged besides, its virtual channel, its place in the
outputs. -/
structure QItem where
  len : Nat
  extra : Nat := 0
  vc : Nat
  idx : Nat
deriving DecidableEq, Repr

/-- A traffic queue: its packets, its finish tag F_q, whether the head has its tag, whether its wait for the shaper was noted. -/
structure TQueue where
  items : List QItem := []
  finish : Nat := 0
  tagged : Bool := false
  noted : Bool := false
deriving DecidableEq, Repr

/-- The Herder besides its registers: how many outputs it has taken, traffic queues by 64 p + s, the shapers whose enable is not
that of reset, the path in use to a chip with accesses outstanding (R247), and the place in the round of paths (R254). -/
structure Herder where
  seen : Nat := 0
  queues : List (Nat × TQueue) := []
  shaped : List (Nat × Bool) := []
  paths : List (Nat × Nat) := []
  spray : Nat := 0
deriving DecidableEq, Repr

/-- One port's link (R241 to R245). -/
structure Link where
  retraining : Bool := false
  /-- next SEQ to send, oldest unacknowledged SEQ, flits unacknowledged -/
  txNext : Nat := 0
  base : Nat := 0
  unacked : Nat := 0
  /-- next SEQ expected; a NAK was sent for the present gap -/
  rxNext : Nat := 0
  nakSent : Bool := false
  /-- replays since ACK_SEQ advanced -/
  replays : Nat := 0
  /-- credits held by virtual channel -/
  credits : List Nat := [0, 0, 0, 0]
  /-- virtual channel and flits still to send of the packet begun -/
  left : Option (Nat × Nat) := none
  /-- failed lanes not replaced -/
  lanesOut : List Nat := []
deriving DecidableEq, Repr

/-! ### Transport (R248 to R264) -/

/-- A message of this chip in flight (R254). -/
structure Sent where
  q : Nat
  slot : Nat
  qseq : Nat
  desc : List Byte
  /-- the message's bytes as read at the start -/
  data : List Byte
  ordered : Bool
  dst : Nat
  /-- local counter at the start and at the last transmission; retransmissions so far; no more follow -/
  first : Nat
  last : Nat
  retx : Nat := 0
  ovr : Bool := false
deriving DecidableEq, Repr

/-- A reassembly context (R260). -/
structure Reasm where
  /-- CTX, the context's number -/
  no : Nat := 0
  src : Nat
  seq : Nat
  /-- packet numbers received, bytes received, local counter of the last one -/
  got : List Nat := []
  bytes : Nat := 0
  last : Nat := 0
deriving DecidableEq, Repr

/-- The states of a receive buffer (R257). -/
inductive BufSt where
  | free | posted | filling | complete
deriving DecidableEq, Repr

/-- A buffer descriptor (R257). -/
structure Buf where
  addr : Nat := 0
  length : Nat := 0
  gen : Nat := 0
  st : BufSt := .free
  hostwin : Bool := false
  owner : Nat := 0
  window : Nat := 0
  arrival : Nat := 0
  rcq : Nat := 0
  ctx : Option Reasm := none
  last : Option (Nat × Nat) := none
deriving DecidableEq, Repr

/-- The transport besides its registers: the next MSG_SEQ, messages in flight by MSG_SEQ, buffers by BUF_ID, entries written to
each receive completion ring, the nonce counter and its floor in the boot flash (R251), cached keys, least recently used first
(peer, epoch), and the send queues. -/
structure Xpt where
  nextSeq : Nat := 0
  sent : List (Nat × Sent) := []
  bufs : List (Nat × Buf) := []
  rcqCount : List (Nat × Nat) := []
  nonce : Nat := 0
  floor : Nat := 0
  keys : List (Nat × Nat) := []
  accept : List (Nat × Nat) := []
  ended : List Nat := []
  reenable : List Nat := []
deriving DecidableEq, Repr
/-! ### The Kennel (R294 to R324, 11_kennel.md) -/

/-- The states of an image slot (R301). -/
inductive ImgSt where
  | free | writing | durable | released
deriving DecidableEq, Repr

/-- An entry of the image table (R301): units counts the image's data units and the second copies of its log units. -/
structure Image where
  st : ImgSt := .free
  handle : Nat := 0
  tenant : Nat := 0
  units : Nat := 0
  length : Nat := 0
  /-- SEQ of the commit that made the image durable -/
  seq : Nat := 0
  keyId : Nat := 0
  exact : Bool := false
  encrypted : Bool := false
  isPrefix : Bool := false
deriving DecidableEq, Repr

/-- The states of a superblock besides erased, with its mode: pSLC or native (R299, R303). -/
inductive SbSt where
  | opened (slc : Bool)
  | closed (slc : Bool)
  | released (slc : Bool)
deriving DecidableEq, Repr

/-- A superblock in use: its state, its next unit offset, the SEQ of its first unit. -/
structure Super where
  st : SbSt
  next : Nat := 0
  seq : Nat := 0
deriving DecidableEq, Repr

/-- A journal record (R303): a map change (the last field tells the second copy of a log unit), an image table change, a
superblock's state (none: erased), a remap of a die's block to a spare. -/
inductive JRec where
  | map (slot index : Nat) (unit : Option Nat) (copy : Bool)
  | image (slot : Nat) (i : Image)
  | super (sb : Nat) (st : Option SbSt)
  | remap (die block : Nat)
deriving DecidableEq, Repr

/-- A unit tag (R297), of kinds 0 and 1. -/
structure KTag where
  seq : Nat
  slot : Nat
  index : Nat
  kind : Nat := 0
  logCopy : Bool := false
deriving DecidableEq, Repr

/-- Why units are moved (R310 to R312, R321). -/
inductive MoveFor where
  | gc | fold
  /-- into an erased superblock chosen for its wear -/
  | wear (dst : Nat)
  /-- a block of a die is retired -/
  | retire (die : Nat)
  /-- a die has failed -/
  | die (die : Nat)
deriving DecidableEq, Repr

/-- What a program under way is for: a park of a slot, a move of a superblock's unit, a stripe's parity for either. -/
inductive ProgFor where
  | park (slot : Nat)
  | move (sb : Nat) (from_ : Nat)
deriving DecidableEq, Repr

/-- A program under way: its tag, its purpose. -/
structure Prog where
  tag : KTag
  why : ProgFor
deriving DecidableEq, Repr

/-- A park or demotion under way (R304, R305): the image's bytes, the units still to be issued as (index, copy), whose command it
answers. -/
structure Park where
  slot : Nat
  ref : Option CmdRef
  handle : Nat
  bytes : List Byte
  left : List (Nat × Bool) := []
deriving DecidableEq, Repr

/-- A resume under way (R306): slot, command, the units still to be read, those lost. -/
structure Resume where
  slot : Nat
  ref : CmdRef
  /-- (index, physical unit when the read was issued) -/
  toRead : List (Nat × Nat)
  /-- the second copy of a log unit is read in place of it -/
  copyRead : List (Nat × Nat) := []
  lost : List Nat := []
deriving DecidableEq, Repr

/-- A move under way: its superblock and purpose, units not yet issued by physical number. -/
structure KMove where
  sb : Nat
  why : MoveFor
  left : List Nat
  /-- units issued and not yet written -/
  out : List Nat := []
  /-- (old, new) of the units written -/
  moved : List (Nat × Nat) := []
deriving DecidableEq, Repr

/-- An entry of the prefix page table (R304): slot, page record, REF_COUNT. -/
structure PPage where
  slot : Nat
  recNo : Nat
  refCount : Nat := 0
deriving DecidableEq, Repr

/-- What the flash holds; no reset changes it: whether it was formatted, the write sequence, programmed units of image data and parity by
physical number, committed journal records with their SEQ, the newest copy of each segment (SEQ and entries), whether the last
power loss has its FLUSH record, and by die the good blocks and the spares S_d; erase counts of blocks by die × 2^16 + block;
SPARE_INIT as applied by the format. -/
structure KFlash where
  formatted : Bool := false
  seq : Nat := 0
  units : List (Nat × KTag) := []
  journal : List (Nat × JRec) := []
  segs : List (Nat × Nat × List (Nat × Nat)) := []
  flushed : Bool := false
  lost : Bool := false
  good : List (Nat × Nat) := []
  spares : List (Nat × Nat) := []
  erases : List (Nat × Nat) := []
  spareInit : Nat := 0
  /-- superblocks given to the spares (R321) -/
  gone : List Nat := []
deriving DecidableEq, Repr

/-- The Kennel controller's tables in far state and on chip: the image table, the map and the second copies by slot × 2^16 + index, dirty
segments by 4 × slot + range, oldest first, the journal tail with the local counter of its first record, superblocks in use,
erases under way, open superblocks by 2 × group + mode, the buffer's size, dead dies, and the work under way; the prefix page
table by index; the profile's retry levels and temperature sequence. -/
structure KRam where
  images : List (Nat × Image) := []
  map : List (Nat × Nat) := []
  copies : List (Nat × Nat) := []
  dirty : List Nat := []
  tail : List (Nat × JRec) := []
  tailSince : Nat := 0
  supers : List (Nat × Super) := []
  erasing : List Nat := []
  opens : List (Nat × Nat) := []
  bufSize : Nat := 0
  dead : List Nat := []
  parks : List (Nat × Park) := []
  resumes : List (Nat × Resume) := []
  moves : List KMove := []
  progs : List (Nat × Prog) := []
  prefixPages : List (Nat × PPage) := []
  /-- stripes placed so far: the turn of the groups -/
  turn : Nat := 0
  retryLevels : List (List Byte) := []
  tempSeq : List Byte := []
deriving DecidableEq, Repr

structure Kennel where
  flash : KFlash := {}
  ram : KRam := {}
deriving DecidableEq, Repr
/-! ### The whole -/

/-- A message, event or answer that leaves the device, in the order the device sends them. -/
inductive Output where
  /-- a Leash, token or liveness message to a chip -/
  | msg (tgt : Nat) (type : MsgType) (m : Msg)
  /-- a mirror update to the partner, numbered, and an acknowledgement of one -/
  | mirror (tgt seq : Nat) (u : MirrorUpd)
  | mirrorAck (tgt seq : Nat)
  /-- a coherence message to a pod member, with the data of a PAGE_DATA: payload bytes and scale slot -/
  | coh (tgt : Nat) (m : CohMsg) (hdr : Option PageHeader) (data scale : List Byte)
  /-- a page of a chip outside the pod, asked for by transport message (R183) -/
  | pageRequest (chip ref : Nat)
  /-- the owner's report to a home that every layer has reached REPLAY_TO (R191) -/
  | replayReport (tgt handle epoch positions : Nat)
  /-- an access to another chip, with its tag (R202 to R209) -/
  | access (tag addr : Nat) (k : AccKind)
  /-- an answer to an access of another chip, of an agent or of this chip's own firmware: the requester's tag, a status (Ans)
  and data -/
  | answer (tgt tag status : Nat) (data : List Byte)
  /-- a transport packet for a queue of a port (R248): the 56 bytes of its header, the sealed payload, the tag -/
  | packet (port slot : Nat) (hdr payload tag : List Byte)
  /-- the Herder starts a packet of a port's slot: which of the outputs it is (R274) -/
  | depart (port slot idx : Nat)
  /-- a link sends n DATA flits of a virtual channel from a SEQ on; resends n flits; sends an IDLE flit that acknowledges, asks for a
  replay, or returns credits; exchanges lane maps (R239, R241, R245) -/
  | flits (port seq vc n : Nat)
  | replay (port seq n : Nat)
  | idle (port ackSeq : Nat) (nak : Bool) (vc credits : Nat)
  | laneMap (port : Nat) (lanes : List Nat)
  /-- a requester's fence is complete, without or with an error (R212, R213) -/
  | fenced (who : Requester) (ok : Bool)
  /-- a message to a control-core queue (R231) -/
  | coreQueue (q counter : Nat)
  /-- an MSI-X message of PF0 (false) or PF1 (true) -/
  | msix (pf1 : Bool) (vector : Nat)
  /-- the bytes a host read of the host window returns -/
  | hostRead (bytes : List Byte)
  /-- a response over MCTP (R415): its status and bytes -/
  | mctp (status : Nat) (bytes : List Byte)
  /-- a non-fatal uncorrectable internal error reported through AER -/
  | aer
deriving DecidableEq, Repr

/-- Everything but the register file, the memory, the ledgers, the Bark ring and the queue of commands. -/
structure Body where
  /-- the local 1 GHz counter (GLB_LOCAL_CTR) -/
  tick : Nat := 0
  /-- the MODEL'S own field: how many free values have been drawn (Config.free); no part of the spec -/
  fresh : Nat := 0
  /-- what the device has sent, oldest first -/
  out : List Output := []
  /-- ring pairs 0-143 that have been used -/
  rings : List (Nat × Ring) := []
  mbox : Mailbox := {}
  cxl : Cxl := {}
  conf : Conf := {}
  home : Home := {}
  /-- the Leash state of each request this chip knows, by handle -/
  locs : List (Nat × Loc) := []
  pages : Pages := {}
  plat : Plat := {}
  sec : Sec := {}
  coh : Coh := {}
  acn : Acn := {}
  fabric : Fabric := {}
  jobs : Jobs := {}
  /-- metering by tenant (R288) -/
  meters : List (Nat × Meter) := []
  scent : Scent := {}
  sampling : Sampling := {}
  mover : Mover := {}
  herder : Herder := {}
  /-- links by port -/
  links : List (Nat × Link) := []
  xpt : Xpt := {}
  knl : Kennel := {}
deriving DecidableEq, Repr

/-- The machine. -/
structure State where
  /-- registers that do not hold their reset value, by BAR0 address -/
  regs : List (Nat × W64)
  /-- the tenant-window counters that are not zero, by tenant × 2^16 + window offset (R332) -/
  treg : List (Nat × Nat)
  /-- bytes of memory that are not zero, by address in the map of Machine/Ops.lean -/
  mem : List Host.Cell
  led : Ledger
  bark : Bark
  body : Body
  /-- the commands that wait, first in, first out -/
  pending : List Instr
deriving DecidableEq, Repr

/-- The machine right after power-on reset, before the firmware is ready (R337). -/
def State.reset : State :=
  { regs := [], treg := [], mem := [], led := {}, bark := {}, body := {}, pending := [] }

/-- Why a command stops with a fault. -/
inductive Fault where
  /-- raised by a host access of the host window beyond its 64 GiB (R334), an address the spec says does not exist; safe -/
  | outsideHostWindow
deriving DecidableEq, Repr

/-- Why a command has no meaning. -/
inductive Refusal where
  /-- raised by an arm of exec for a command the model has no meaning for; safe -/
  | notModelled (mnemonic : String)
deriving DecidableEq, Repr

end Sys2Proof.Machine
end

