-- ==== Sys2Proof/Machine/Tables.lean ====
section
/-! DEFINITION. Tables held as data: lists of (key, entry) pairs with rising keys, and the memories and register files
kept as such lists in one canonical form, in which no entry equals what an unlisted key reads as. -/

namespace Sys2Proof.Machine

/-- The entry of a key. -/
def tget {α : Type} : List (Nat × α) → Nat → Option α
  | [], _ => none
  | (k, v) :: t, a => if k = a then some v else tget t a

/-- The table with the key's entry replaced or inserted, keys rising. -/
def tput {α : Type} : List (Nat × α) → Nat → α → List (Nat × α)
  | [], a, v => [(a, v)]
  | (k, w) :: t, a, v =>
    if a < k then (a, v) :: (k, w) :: t
    else if a = k then (a, v) :: t
    else (k, w) :: tput t a v

/-- The table without the key. -/
def tdel {α : Type} : List (Nat × α) → Nat → List (Nat × α)
  | [], _ => []
  | (k, w) :: t, a => if k = a then t else (k, w) :: tdel t a

/-- The table with a key's entry changed, if it has one. -/
def tmod {α : Type} (t : List (Nat × α)) (a : Nat) (f : α → α) : List (Nat × α) :=
  match tget t a with
  | some v => tput t a (f v)
  | none => t

/-- The keys of a table. -/
def tkeys {α : Type} (t : List (Nat × α)) : List Nat := t.map (·.1)

/-- Keys strictly rising. -/
def risingKeys {α : Type} : List (Nat × α) → Bool
  | [] => true
  | [_] => true
  | a :: b :: t => a.1 < b.1 && risingKeys (b :: t)

/-- What a key of a canonical list reads as: its entry, or the value of an unlisted key. -/
def cget {α : Type} (dflt : Nat → α) (m : List (Nat × α)) (a : Nat) : α :=
  match tget m a with
  | some v => v
  | none => dflt a

/-- The canonical list after a write: an entry equal to what the unlisted key reads as is removed. -/
def cput {α : Type} [DecidableEq α] (dflt : Nat → α) (m : List (Nat × α)) (a : Nat) (v : α) : List (Nat × α) :=
  if v = dflt a then tdel m a else tput m a v

/-- The canonical form: keys strictly rising, and no entry equal to what the unlisted key reads as. -/
def canon {α : Type} [DecidableEq α] (dflt : Nat → α) (m : List (Nat × α)) : Bool :=
  risingKeys m && m.all fun e => e.2 ≠ dflt e.1

/-- What a byte of memory that nothing has written reads as: zero. DESIGN CHOICE (log entry 1): the spec gives the
memories no contents after reset. -/
def memDefault (_ : Nat) : Byte := 0

/-- A list of numbers without repeats, the first of each kept. -/
def nub : List Nat → List Nat
  | [] => []
  | a :: l => a :: (nub l).filter (· != a)

/-- The least number from i that satisfies a test, within a number of tries. -/
def firstFrom (p : Nat → Bool) : Nat → Nat → Option Nat
  | 0, _ => none
  | n + 1, i => if p i then some i else firstFrom p n (i + 1)

/-- The least number below a bound that satisfies a test. -/
def firstBelow (n : Nat) (p : Nat → Bool) : Option Nat := firstFrom p n 0

end Sys2Proof.Machine
end

