-- ==== Sys2Proof/WellFormed.lean ====
section
/-! DEFINITION. Well-formed commands: operands that name a unit, a place or a value the spec gives the device. The device takes no other
command: there is no ring 144 and no island 56. -/

namespace Sys2Proof

/-- A source names one of the 144 ring pairs (R339) or the mailbox. -/
def Src.wf : Src → Bool
  | .ring r => r < 144
  | .mailbox => true

/-- A chip id has 16 bits, a handle 64, an epoch 32 (R171, R172, R179). -/
def chipWf (n : Nat) : Bool := n < 65536
def handleWf (h : Nat) : Bool := h < 2 ^ 64

/-- A message's fields fit their widths and its lists the places R180 gives them. -/
def Msg.wf (m : Msg) : Bool :=
  m.flags < 256 && m.status < 256 && m.epoch < 2 ^ 32 && handleWf m.handle && chipWf m.sender && chipWf m.chip && m.step < 2 ^ 32
    && m.budget < 2 ^ 32 && m.phase ≤ 9 && m.pageList < 2 ^ 64 && m.sampler < 2 ^ 64 && m.refs.length ≤ 12 && m.tokens.length ≤ 16

/-- A coherence message comes from one of the 256 members (R202, R217). -/
def CohMsg.wf (m : CohMsg) : Bool := m.sender < 256 && m.refs.all (· < 2 ^ 64)

/-- A flit's fields fit their widths (R239). -/
def Flit.wf (f : Flit) : Bool := f.type < 4 && f.seq < 4096 && f.vc < 4 && f.ackSeq < 4096 && f.crVc < 4

/-- An access comes from a member or an agent, and its address has 64 bits (R202). -/
def AccFrom.wf : AccFrom → Bool
  | .member m => m < 256
  | .agent id => id < 65536
def accWf (src : AccFrom) (addr : Nat) : Bool := src.wf && addr < 2 ^ 64
/-- Operands of an atomic of w bits (R209). -/
def atomicWf (src : AccFrom) (addr w : Nat) (ops : List Nat) : Bool := accWf src addr && ops.all (· < 2 ^ w)

/-- A unit that fails or is tested exists (R81, R83, R105, R145, R386). -/
def FaultUnit.wf : FaultUnit → Bool
  | .lane n => n < 272
  | .tile n => n < 136
  | .pipe i _ => i < 16
  | _ => true
def PatrolUnit.wf : PatrolUnit → Bool
  | .lane n => n < 272
  | .tile n => n < 136
  | .macro_ n => n < 68
  | .core n => n < 20
  | .pipe i => i < 16
  | .portLane p ln => p < 16 && ln < 68
  | _ => true

/-- A counter store names one of the tenant windows or none, and one of the 65,536 counters (R228). -/
def acnWf (window : Option Nat) (counter : Nat) : Bool := (match window with
  | some w => w < 64
  | none => true) && counter < 65536

/-- The 2,615 cells of the boundary register (R442): one bit each. -/
@[irreducible] def bsrBound : Nat := 2 ^ 2615
def bsrFits (cells : Nat) : Bool := cells < bsrBound

/-- A command names what the device has. -/
def Instr.wf : Instr → Bool
  | .ifaceOpen s => s.wf
  | .identify s => s.wf
  | .configStage s => s.wf
  | .configCommit s => s.wf
  | .configConfirm s => s.wf
  | .heel s => s.wf
  | .configRead s => s.wf
  | .configDiscard s => s.wf
  | .tenantQuery s => s.wf
  | .reqAdmit s => s.wf
  | .reqHandoff s => s.wf
  | .reqClose s => s.wf
  | .reqLogAppend s => s.wf
  | .reqReplay s => s.wf
  | .reqStatus s => s.wf
  | .reqChipDown s => s.wf
  | .reqSetPartner s => s.wf
  | .reqSetMirror s => s.wf
  | .prefixCreate s => s.wf
  | .prefixRelease s => s.wf
  | .prefixDemote s => s.wf
  | .prefixPin s => s.wf
  | .pageLoad s => s.wf
  | .embLoad s => s.wf
  | .knlPark s _ => s.wf
  | .knlResume s => s.wf
  | .knlProfileLoad s _ => s.wf
  | .knlFormat s => s.wf
  | .knlHealth s => s.wf
  | .knlKeyLoad s _ => s.wf
  | .bufPost s => s.wf
  | .bufWithdraw s => s.wf
  | .podKeyInstall s _ => s.wf
  | .health s => s.wf
  | .barkAck s => s.wf
  | .ledgerAudit s _ => s.wf
  | .spareMap s => s.wf
  | .fwInfo s => s.wf
  | .fwStage s => s.wf
  | .fwActivate s _ => s.wf
  | .attestQuote s => s.wf
  | .certRead s => s.wf
  | .testUnlock s _ => s.wf
  | .configConfirmTimeout => true
  | .personalityReassign => true
  | .fwCoreUpdateDone _ => true
  | .testRelock => true
  | .getEventRecords => true
  | .clearEventRecords => true
  | .getEventInterruptPolicy => true
  | .setEventInterruptPolicy => true
  | .getFwInfo => true
  | .transferFw => true
  | .activateFw _ => true
  | .getTimestamp => true
  | .setTimestamp => true
  | .getSupportedLogs => true
  | .getLog => true
  | .identifyMemoryDevice => true
  | .getHealthInfo => true
  | .cxlUnsupportedOpcode => true
  | .mailboxDoorbell opcode _ => opcode < 65536
  | .ringDoorbell r tail => r < 144 && tail < 4096
  | .cplHeadWrite r head => r < 144 && head < 4096
  | .ringEnable r _ _ _ => r < 144
  | .ringDisable r _ _ _ => r < 144
  | .ringDisableDone r => r < 144
  | .commandComplete r => r < 144
  | .coalesceWindowEnd r => r < 144
  | .registerWrite window _ _ _ => window.all (· < 64)
  | .sctCalReqWrite w _ => w < 2
  | .brkOvfRearm mask => mask < 2 ^ 32
  | .hdmDecoderCommit _ _ _ => true
  | .hostWindowWrite _ _ => true
  | .hostWindowRead _ _ _ => true
  | .jobQueueDoorbell q tail => q < 256 && tail < 4096
  | .jobQueueReenable q => q < 256
  | .promptChunk q => q < 256
  | .decode q => q < 256
  | .verifyChain q => q < 256
  | .verifyTree q => q < 256
  | .partial_ q => q < 256
  | .prefixPartial q => q < 256
  | .merge q => q < 256
  | .scentEval _ _ _ _ => true
  | .jobDispatch _ => true
  | .subjobEnd _ _ _ => true
  | .jobEnd _ _ _ => true
  | .stallLimit _ => true
  | .unitFault u => u.wf
  | .internalReplay _ _ => true
  | .sampleQueueDoorbell q tail => q < 16 && tail < 256
  | .sample q _ => q < 16
  | .acceptChain q _ => q < 16
  | .acceptTree q _ => q < 16
  | .gather q _ => q < 16
  | .logTimeout _ => true
  | .handoffStart m => m.wf
  | .offer m _ => m.wf
  | .offerAck m => m.wf
  | .leashCas m => m.wf
  | .casResult m => m.wf
  | .leashRelease m => m.wf
  | .leashQuery m => m.wf
  | .queryResult m => m.wf
  | .handoffCancel m => m.wf
  | .holdDrop m => m.wf
  | .holdFree m => m.wf
  | .leashGrant m _ => m.wf
  | .ping m => m.wf
  | .pingAck m => m.wf
  | .tokenAppend m => m.wf
  | .tokenResult m => m.wf
  | .homeMoved m => m.wf
  | .close m => m.wf
  | .homeReleased m => m.wf
  | .holdEmpty m => m.wf
  | .replayReport h chip _ _ => handleWf h && chipWf chip
  | .offerTimeout h => handleWf h
  | .casTimeout h => handleWf h
  | .handoffLimit h => handleWf h
  | .fetchStart => true
  | .fetchComplete h => handleWf h
  | .pingInterval => true
  | .ownerTimeout chip => chipWf chip
  | .homeFence => true
  | .partnerTakeover => true
  | .backupReadTimer _ => true
  | .farReadDone _ _ _ => true
  | .prefetchRetry => true
  | .copydownHoldExpiry _ => true
  | .migrationStart _ _ => true
  | .migrationCopyComplete _ => true
  | .migrationFlipDone _ => true
  | .migrationDestFail _ => true
  | .trackerGenAdvance => true
  | .pageRead m => m.wf
  | .pageData m _ _ _ => m.wf
  | .genStale m _ => m.wf
  | .notSealed m => m.wf
  | .inval m => m.wf
  | .invalAck m => m.wf
  | .drop m => m.wf
  | .fenceNotice m => m.wf
  | .fenced m => m.wf
  | .flushDone m => m.wf
  | .invalTimeout _ => true
  | .load_ src _ addr _ _ => accWf src addr
  | .store_ src _ addr _ => accWf src addr
  | .hintFetch src _ addr _ => accWf src addr
  | .fadd32 src _ addr value _ => atomicWf src addr 32 [value]
  | .fadd64 src _ addr value _ => atomicWf src addr 64 [value]
  | .cas32 src _ addr compare new _ => atomicWf src addr 32 [compare, new]
  | .cas64 src _ addr compare new _ => atomicWf src addr 64 [compare, new]
  | .umin32 src _ addr value _ => atomicWf src addr 32 [value]
  | .umin64 src _ addr value _ => atomicWf src addr 64 [value]
  | .umax32 src _ addr value _ => atomicWf src addr 32 [value]
  | .umax64 src _ addr value _ => atomicWf src addr 64 [value]
  | .smin32 src _ addr value _ => atomicWf src addr 32 [value]
  | .smin64 src _ addr value _ => atomicWf src addr 64 [value]
  | .smax32 src _ addr value _ => atomicWf src addr 32 [value]
  | .smax64 src _ addr value _ => atomicWf src addr 64 [value]
  | .fpadd32 src _ addr value _ => atomicWf src addr 32 [value]
  | .accessAnswer _ _ _ => true
  | .loadTimeout _ _ => true
  | .fabricFence _ => true
  | .acnArm window counter target route => acnWf window counter && target < 2 ^ 32 && route < 256
  | .acnDisarm window counter target route => acnWf window counter && target < 2 ^ 32 && route < 256
  | .acnSignal window counter value => acnWf window counter && value < 2 ^ 32
  | .movQueueDoorbell q tail => q < 64 && tail < 256
  | .copy_ q => q < 64
  | .copyPage q => q < 64
  | .fill q => q < 64
  | .barrier q => q < 64
  | .moverDescriptorEnd _ => true
  | .sendQueueDoorbell q tail => q < 64 && tail < 256
  | .send q _ => q < 64
  | .dataPacketReceive _ _ _ => true
  | .ackPacketReceive _ => true
  | .rtoExpiry _ _ => true
  | .sendGiveUp _ => true
  | .fillTimeout buf => buf < 262144
  | .flitReceive p f => p < 16 && f.wf
  | .nak p f => p < 16 && f.wf
  | .replayTimeout p => p < 16
  | .retrain p => p < 16
  | .retrainDone p => p < 16
  | .retrainTimeout p => p < 16
  | .portUp p width peer => p < 16 && width < 5 && chipWf peer
  | .laneFail p lane => p < 16 && lane < 68
  | .spareLaneTrained p => p < 16
  | .herderSelect p => p < 16
  | .shaperRefill => true
  | .collarRefill t k => t < 1024 && k < 2
  | .resvTimeout kind h _ => kind < 2 && handleWf h
  | .sctCalibrationStart macroNo => macroNo < 68
  | .sctCalibrationEnd macroNo gain offset temp _ => macroNo < 68 && gain < 256 && offset < 256 && temp < 4096
  | .knlProgramDone _ => true
  | .knlProgramFail _ => true
  | .knlReadDone _ _ => true
  | .knlEraseDone _ _ => true
  | .knlJournalTimer => true
  | .knlGcStart _ => true
  | .knlFold => true
  | .knlWlMove => true
  | .knlRestart => true
  | .knlFlushComplete _ _ => true
  | .knlTempMinute _ => true
  | .knlDieFail die => die < 512
  | .islIdleStop island => island < 56
  | .whistle island => island < 56
  | .islReset island _ _ => island < 56
  | .islResetEnd island => island < 56
  | .islThrottle island freq temp _ => island < 56 && freq < 4096 && temp < 4096
  | .limitBreach island _ => island < 56
  | .barkIrqWindowEnd => true
  | .ledgerAuditTimer _ => true
  | .patrolTest u _ => u.wf
  | .coreFault core => core < 22
  | .mgmtTakeover => true
  | .secRestart _ => true
  | .secReentry _ => true
  | .podKeyRotate => true
  | .repairBurn => true
  | .powerOnReset straps _ _ => straps < 32
  | .fwReady => true
  | .perstNFall _ _ => true
  | .perstNRise => true
  | .cxlLinkUp width rate mode => width < 32 && rate < 8 && mode < 4
  | .surpriseLinkDown => true
  | .warmResetN _ _ => true
  | .pwrfailFall => true
  | .railUv rail => rail < 11
  | .railOv rail => rail < 11
  | .thermAlert island temp => island < 56 && temp < 4096
  | .thermAlertRelease => true
  | .thermalTrip island => island < 56
  | .refclkLoss clock => clock < 6
  | .refclkRestore clock => clock < 6
  | .tapIdcode => true
  | .tapSamplePreload cells => bsrFits cells
  | .tapExtest => true
  | .tapExtestPulse => true
  | .tapExtestTrain => true
  | .tapHighz => true
  | .tapClamp => true
  | .tapBypass enc => enc < 256
  | .tapScanBist enc => enc < 256
  | .tapCoreDebug enc => enc < 256
  | .tapEfuseRead enc => enc < 256
  | .trst => true
  | .mctpCertificates => true
  | .mctpQuote nonce => nonce.length == 32
  | .mctpHealth => true
  | .mctpPowerStatus => true
  | .i3cSetdasa static dyn => static < 128 && dyn < 128
  | .i3cEntdaa dyn => dyn < 128
  | .mirrorUpdate home _ _ => chipWf home
  | .mirrorAck _ => true
  | .islandRestart island => island < 56
  | .sctRecalTemperature macroNo temp => macroNo < 68 && temp < 4096
  | .firstPassComplete h l => handleWf h && l < 65536

end Sys2Proof
end

