-- ==== Sys2Proof/Machine/Ops.lean ====
section
/-! DEFINITION. The named operations every command is made of. A meaning computes a list of effects from the state and
applies them in order; an effect is the smallest change the model makes: a register, a byte of memory, one action of a
conservation ledger (R389: each action changes two terms by the same amount at once), an error record (R378), or a change
of the remaining state. -/

namespace Sys2Proof.Machine

/-! ### The memory map of the model: one byte memory, each of the device's memories in its own range -/
namespace Mem
/-- the host window (R334), by host-window offset -/
def hostWindow : Nat := 0
def hostWindowSize : Nat := 0x1000000000
/-- payload and scale slot of a near-state frame (R24) -/
def nearPayload (n : Nat) : Nat := 0x10000000000 + 32768 * n
def nearScale (n : Nat) : Nat := 0x20000000000 + 1024 * n
/-- payload and scale slot of a far-state frame (R24) -/
def farPayload (n : Nat) : Nat := 0x40000000000 + 32768 * n
def farScale (n : Nat) : Nat := 0x80000000000 + 1024 * n
/-- the shared region (R203), the job buffer (R69) -/
def shared : Nat := 0x100000000000
def jobBuffer : Nat := 0x110000000000
/-- the 65,536 descriptor slots of the step-job pool (R69) and the completion records of queue q (R69) -/
def jobSlot (i : Nat) : Nat := 0x120000000000 + 64 * i
def jobRecord (q s : Nat) : Nat := 0x130000000000 + 0x10000 * q + 16 * s
/-- slots and completion records of the sample, mover and send queues -/
def smpSlot (q s : Nat) : Nat := 0x140000000000 + 0x4000 * q + 64 * s
def smpRecord (q s : Nat) : Nat := 0x150000000000 + 0x1000 * q + 16 * s
def movSlot (q s : Nat) : Nat := 0x160000000000 + 0x4000 * q + 64 * s
def movRecord (q s : Nat) : Nat := 0x170000000000 + 0x1000 * q + 16 * s
def xptSlot (q s : Nat) : Nat := 0x180000000000 + 0x4000 * q + 64 * s
def xptRecord (q s : Nat) : Nat := 0x190000000000 + 0x1000 * q + 16 * s
/-- the inactive and active firmware slots of the boot flash (R406) -/
def fwSlot (i : Nat) : Nat := 0x1B0000000000 + 0x10000000 * i
/-- the 64 KiB of user data of a unit of the Kennel's flash, by physical unit number (R302) -/
def flashUnit (u : Nat) : Nat := 0x1000000000000000 + 65536 * u
/-- the memory a full or warm reset keeps: the boot flash and the Kennel's flash -/
def keptByReset (a : Nat) : Bool := (0x1B0000000000 ≤ a && a < 0x1C0000000000) || 0x1000000000000000 ≤ a
/-- local memory that agents are sent embeddings and gathers into lies outside the device -/
def foreign : Nat := 0x200000000000
end Mem

/-! ### Effects -/

/-- Whose completion raises an arrival counter (R233): a step job, a sample, a mover descriptor, each with its status, a
SIGNAL store, or a completed message. -/
inductive ArriveSrc where
  | job (status : Nat)
  | smp (status : Nat)
  | mov (status : Nat)
  | signal
  | msg
deriving DecidableEq, Repr

/-- One effect. -/
inductive Eff where
  /-- a change of the state that is no register, memory, ledger or error record -/
  | body (f : Body → Body)
  /-- a register by BAR0 address -/
  | reg (a v : Nat)
  /-- a tenant-window counter -/
  | treg (k v : Nat)
  /-- one byte of memory -/
  | mem (a : Nat) (v : Byte)
  /-- n bytes of memory to the value of unwritten memory -/
  | memClear (a n : Nat)
  /-- n bytes of memory copied -/
  | memCopy (src dst n : Nat)
  /-- an error record (R377, R378) -/
  | bark (r : BarkRec)
  /-- BRK_HEAD acknowledged (R380) -/
  | barkHead (h : Nat)
  /-- classes rearmed (R379) -/
  | barkRearm (mask : Nat)
  /-- a message sent or put off by the interrupt window of the Bark ring (R381) -/
  | barkWindow (isOpen pend : Bool)
  /-- requests ledger -/
  | reqAdmit | reqClose | reqFail
  /-- posted-buffers ledger -/
  | bufPost | bufDone | bufWithdraw
  /-- link-credits ledger, of a port or on chip -/
  | credIssue (port : Option Nat) (n : Nat)
  | credReturn (port : Option Nat) (n : Nat)
  | credFlush (port : Option Nat) (n : Nat)
  /-- Collar-tokens ledger, of tenant t and kind k under key 2t + k -/
  | colGrant (key n : Nat)
  | colExpire (key n : Nat)
  | colReserve (key n : Nat)
  | colRelease (key n : Nat)
  | colExpireReserved (key n : Nat)
  | colSpendReserved (key n : Nat)
  | colSpendBalance (key n : Nat)
  /-- arrival-increments ledger -/
  | arrive (src : ArriveSrc)
  /-- shared-page references ledger -/
  | refTake (n : Nat)
  | refDrop (n : Nat)
  /-- a full or warm reset: everything to its reset value but what the function keeps of the remaining state -/
  | restart (f : Body → Body)

/-- The register file after a write, canonical. -/
def regPut (m : List (Nat × W64)) (a v : Nat) : List (Nat × W64) := cput regReset m a (BitVec.ofNat 64 v)

/-- A tenant counter after a write, canonical. -/
def tregPut (m : List (Nat × Nat)) (k v : Nat) : List (Nat × Nat) := cput (fun _ => 0) m k v

/-- Memory after a byte is written, canonical. -/
def memPut (m : List Host.Cell) (a : Nat) (v : Byte) : List Host.Cell := cput memDefault m a v

/-- Memory with a range as if never written. -/
def memDrop (m : List Host.Cell) (a n : Nat) : List Host.Cell := m.filter fun e => e.1 < a || a + n ≤ e.1

/-- Memory after a copy of n bytes. -/
def memMove (m : List Host.Cell) (src dst n : Nat) : List Host.Cell :=
  (m.filter fun e => src ≤ e.1 && e.1 < src + n).foldl (fun acc e => memPut acc (e.1 - src + dst) e.2) (memDrop m dst n)

/-- What the register at an address holds. -/
def regRead (m : List (Nat × W64)) (a : Nat) : Nat := (cget regReset m a).toNat

/-- Sets bit b of the flag register at fa and counts the event in the companion counter at ea (R374). -/
def flagPut (m : List (Nat × W64)) (fa ea b : Nat) : List (Nat × W64) :=
  let m1 := regPut m fa (withBits (regRead m fa) b 1 1)
  regPut m1 ea (wrapAdd 32 (regRead m1 ea) 1)

/-- The credits of one port or of the chip. -/
def credGet (l : Ledger) : Option Nat → Credits
  | none => l.chip
  | some p => (tget l.ports p).getD {}

/-- The ledger with the credits of one port or of the chip replaced. -/
def credPut (l : Ledger) (p : Option Nat) (c : Credits) : Ledger :=
  match p with
  | none => { l with chip := c }
  | some p => { l with ports := tput l.ports p c }

/-- The account of a Collar. -/
def acctGet (l : Ledger) (key : Nat) : CollarAcct := (tget l.collars key).getD {}

/-- The ledger with a Collar's account replaced. -/
def acctPut (l : Ledger) (key : Nat) (c : CollarAcct) : Ledger := { l with collars := tput l.collars key c }

/-- A count by status raised by one. -/
def statusUp (t : List (Nat × Nat)) (st : Nat) : List (Nat × Nat) := tput t st ((tget t st).getD 0 + 1)

/-- The class area of class c. -/
def classGet (b : Bark) (c : Nat) : ClassArea := (tget b.classes c).getD {}

/-- Whether a record of this severity finds a place in the ring, with the entries kept in reserve (R378). -/
def barkFits (b : Bark) (reserve severity : Nat) : Bool :=
  let free := 4096 - (b.stored - b.head)
  if severity ≤ 1 then reserve < free else 0 < free

/-- A record that is stored takes one of the entries kept in reserve (R378). -/
def barkReserved (b : Bark) (reserve : Nat) : Bool := 4096 - (b.stored - b.head) ≤ reserve

/-- The Bark ring after a record is made (R378, R379). -/
def barkMake (b : Bark) (reserve : Nat) (r : BarkRec) : Bark :=
  let r := { r with seq := b.made }
  let ca := classGet b r.cls
  if barkFits b reserve r.severity then
    { b with made := b.made + 1, stored := b.stored + 1, ring := tput b.ring (b.stored % 4096) r,
             classes := tput b.classes r.cls { ca with made := ca.made + 1 } }
  else
    { b with made := b.made + 1, ovf := b.ovf + 1,
             classes := tput b.classes r.cls
               { ca with made := ca.made + 1, ovf := ca.ovf + 1, last := some r,
                         first := if ca.armed then some r else ca.first, armed := false } }

/-- The state after one error record: the ring or the class area, the BRK flags (which make no record, R376), the CXL
event log of its severity, whose first record is signalled where its policy asks for MSI-X (R327; PRESUMED, log entry 4), and the interrupt
of R381. -/
def barkEff (r : BarkRec) (s : State) : State :=
  let ctl := regRead s.regs Reg.BRK_CTL
  let reserve := bitsOf ctl 0 7
  let irq := bitsOf ctl 7 1 = 1
  let r := { r with tick := s.body.tick, seq := s.bark.made }
  let stores := barkFits s.bark reserve r.severity
  let regs1 :=
    if stores then
      if 2 ≤ r.severity ∧ barkReserved s.bark reserve then flagPut s.regs Reg.BRK_ERR_FLAGS (Reg.BRK_ERR_EVT 1) 1
      else s.regs
    else flagPut s.regs Reg.BRK_ERR_FLAGS (Reg.BRK_ERR_EVT 0) 0
  let b1 := barkMake s.bark reserve r
  let sends := irq && !s.bark.winOpen
  let b2 :=
    if irq then
      if s.bark.winOpen then { b1 with winPend := true } else { b1 with winOpen := true, winPend := false }
    else b1
  let logs := s.body.cxl.logs
  let first := (logs.getD r.severity []).isEmpty && s.body.cxl.policy.getD r.severity 0 % 4 == 1
  { s with
    regs := regs1
    bark := b2
    body := { s.body with
      cxl := { s.body.cxl with logs := logs.set r.severity (logs.getD r.severity [] ++ [r]) }
      out := s.body.out ++ (if sends then [.msix false 16] else []) ++ (if first then [.msix false 17] else []) } }

/-- The state after one effect. -/
def applyEff (e : Eff) (s : State) : State :=
  match e with
  | .body f => { s with body := f s.body }
  | .reg a v => { s with regs := regPut s.regs a v }
  | .treg k v => { s with treg := tregPut s.treg k v }
  | .mem a v => { s with mem := memPut s.mem a v }
  | .memClear a n => { s with mem := memDrop s.mem a n }
  | .memCopy src dst n => { s with mem := memMove s.mem src dst n }
  | .bark r => barkEff r s
  | .barkHead h => if s.bark.head ≤ h ∧ h ≤ s.bark.stored then { s with bark := { s.bark with head := h } } else s
  | .barkRearm mask =>
    { s with bark := { s.bark with
        classes := s.bark.classes.map fun e =>
          if bitsOf mask e.1 1 = 1 then (e.1, { e.2 with armed := true, first := none }) else e } }
  | .barkWindow o p => { s with bark := { s.bark with winOpen := o, winPend := p } }
  | .reqAdmit => { s with led := { s.led with admitted := s.led.admitted + 1, live := s.led.live + 1 } }
  | .reqClose =>
    if 0 < s.led.live then { s with led := { s.led with closed := s.led.closed + 1, live := s.led.live - 1 } } else s
  | .reqFail =>
    if 0 < s.led.live then { s with led := { s.led with failed := s.led.failed + 1, live := s.led.live - 1 } } else s
  | .bufPost =>
    { s with led := { s.led with bufPosted := s.led.bufPosted + 1, bufOutstanding := s.led.bufOutstanding + 1 } }
  | .bufDone =>
    if 0 < s.led.bufOutstanding then
      { s with led := { s.led with bufCompleted := s.led.bufCompleted + 1,
                                   bufOutstanding := s.led.bufOutstanding - 1 } }
    else s
  | .bufWithdraw =>
    if 0 < s.led.bufOutstanding then
      { s with led := { s.led with bufWithdrawn := s.led.bufWithdrawn + 1,
                                   bufOutstanding := s.led.bufOutstanding - 1 } }
    else s
  | .credIssue p n =>
    let c := credGet s.led p
    { s with led := credPut s.led p { c with issued := c.issued + n, inflight := c.inflight + n } }
  | .credReturn p n =>
    let c := credGet s.led p
    let k := min n c.inflight
    { s with led := credPut s.led p { c with returned := c.returned + k, inflight := c.inflight - k } }
  | .credFlush p n =>
    let c := credGet s.led p
    let k := min n c.inflight
    { s with led := credPut s.led p { c with flushed := c.flushed + k, inflight := c.inflight - k } }
  | .colGrant key n =>
    let c := acctGet s.led key
    { s with led := acctPut s.led key { c with granted := c.granted + n, balance := c.balance + n } }
  | .colExpire key n =>
    let c := acctGet s.led key
    { s with led := acctPut s.led key { c with expired := c.expired + n, balance := c.balance - n } }
  | .colReserve key n =>
    let c := acctGet s.led key
    { s with led := acctPut s.led key { c with reserved := c.reserved + n, balance := c.balance - n } }
  | .colRelease key n =>
    let c := acctGet s.led key
    let k := min n c.reserved
    { s with led := acctPut s.led key { c with reserved := c.reserved - k, balance := c.balance + k } }
  | .colExpireReserved key n =>
    let c := acctGet s.led key
    let k := min n c.reserved
    { s with led := acctPut s.led key { c with reserved := c.reserved - k, expired := c.expired + k } }
  | .colSpendReserved key n =>
    let c := acctGet s.led key
    let k := min n c.reserved
    { s with led := acctPut s.led key { c with reserved := c.reserved - k, spent := c.spent + k } }
  | .colSpendBalance key n =>
    let c := acctGet s.led key
    { s with led := acctPut s.led key { c with spent := c.spent + n, balance := c.balance - n } }
  | .arrive src =>
    let l := { s.led with increments := s.led.increments + 1 }
    { s with led := match src with
        | .job st => { l with jobStatus := statusUp l.jobStatus st }
        | .smp st => { l with smpDone := statusUp l.smpDone st }
        | .mov st => { l with movDone := statusUp l.movDone st }
        | .signal => { l with signals := l.signals + 1 }
        | .msg => { l with msgDone := l.msgDone + 1 } }
  | .refTake n => { s with led := { s.led with refTaken := s.led.refTaken + n, refLive := s.led.refLive + n } }
  | .refDrop n =>
    let k := min n s.led.refLive
    { s with led := { s.led with refDropped := s.led.refDropped + k, refLive := s.led.refLive - k } }
  | .restart f => { State.reset with mem := s.mem.filter (fun e => Mem.keptByReset e.1), body := f s.body,
                                     pending := s.pending }

/-- Effects applied in order. -/
def applyAll : List Eff → State → State
  | [], s => s
  | e :: es, s => applyAll es (applyEff e s)

/-! ### Actions: lists of effects computed from the state -/

/-- An action: the effects it has on a state, in order. -/
abbrev Act := State → List Eff

/-- The state after an action. -/
def run (a : Act) (s : State) : State := applyAll (a s) s

/-- No effect. -/
def nop : Act := fun _ => []

/-- One action after another, the second on the state the first leaves. -/
def andThen (a b : Act) : Act := fun s => a s ++ b (run a s)

/-- Actions in order. -/
def acts : List Act → Act
  | [] => nop
  | a :: l => andThen a (acts l)

/-- An action only where a condition holds. -/
def when (c : Bool) (a : Act) : Act := fun s => if c then a s else []

/-- An action that depends on the state. -/
def look (f : State → Act) : Act := fun s => f s s

/-- An action for each element, in order. -/
def each {α : Type} (l : List α) (f : α → Act) : Act := acts (l.map f)

/-- One effect as an action. -/
def eff (e : Eff) : Act := fun _ => [e]

/-- A change of the remaining state. -/
def onBody (f : Body → Body) : Act := eff (.body f)


/-! ### Registers -/

/-- The value a register holds. -/
def State.rd (s : State) (a : Nat) : Nat := regRead s.regs a

/-- The value of a register field. -/
def State.get (s : State) (f : Fld) : Nat := bitsOf (s.rd f.addr) f.lo f.w

/-- Whether a one-bit field is set. -/
def State.is (s : State) (f : Fld) : Bool := s.get f == 1

/-- A register takes a value. -/
def setReg (a v : Nat) : Act := eff (.reg a v)

/-- A register field takes a value; the register's other bits are kept. -/
def setFld (f : Fld) (v : Nat) : Act := fun s => [.reg f.addr (withBits (s.rd f.addr) f.lo f.w v)]

/-- A 64-bit counter counts n events; it wraps at 2^64. -/
def count (a n : Nat) : Act := fun s => [.reg a (wrapAdd 64 (s.rd a) n)]

/-- A field counts n up, wrapping at its width. -/
def bumpFld (f : Fld) (n : Nat) : Act := fun s => setFld f (wrapAdd f.w (s.get f) n) s

/-- A field counts n down, stopping at zero. -/
def dropFld (f : Fld) (n : Nat) : Act := fun s => setFld f (s.get f - n) s

/-- The key of a tenant's counter at an offset of its window. -/
def tkey (tenant off : Nat) : Nat := tenant * 65536 + off

/-- A tenant's counter. -/
def State.trd (s : State) (tenant off : Nat) : Nat := cget (fun _ => 0) s.treg (tkey tenant off)

/-- A tenant's 64-bit counter counts n events. -/
def tcount (tenant off n : Nat) : Act := fun s => [.treg (tkey tenant off) (wrapAdd 64 (s.trd tenant off) n)]

/-! ### Memory -/

/-- One byte of memory. -/
def State.byte (s : State) (a : Nat) : Byte := cget memDefault s.mem a

/-- n bytes of memory from an address. -/
def State.bytes (s : State) : Nat → Nat → List Byte
  | _, 0 => []
  | a, n + 1 => s.byte a :: State.bytes s (a + 1) n

/-- A little-endian number of n bytes in memory (R5). -/
def State.num (s : State) (a n : Nat) : Nat := leNat (s.bytes a n)

/-- The effects of writing bytes from an address on. -/
def byteEffs : Nat → List Byte → List Eff
  | _, [] => []
  | a, b :: bs => .mem a b :: byteEffs (a + 1) bs

/-- Bytes are written to memory. -/
def store (a : Nat) (bs : List Byte) : Act := fun _ => byteEffs a bs

/-- A number is written to memory in n bytes, little-endian (R5). -/
def storeNum (a n v : Nat) : Act := store a (leBytes n v)

/-- Memory is copied. -/
def copyMem (src dst n : Nat) : Act := eff (.memCopy src dst n)

/-- Memory reads as never written. -/
def clearMem (a n : Nat) : Act := eff (.memClear a n)

/-! ### Outcomes -/

/-- The device works: no power-fail flush or POWER_LOSS (R428), no thermal trip (R430), no test instruction that has taken
the pins (R440). Otherwise every unit but the Kennel, the always-on island and the test island is stopped. -/
def State.works (s : State) : Bool :=
  s.get Fld.PWR_STATUS_PF_STATE == 0 && !s.is Fld.PWR_STATUS_TRIP && !s.body.plat.pinsTaken

/-- The outcome of a meaning: the state after its action where the device works, and no change where its units are
stopped. -/
def done (a : Act) (s : State) : Host.Outcome State Fault Refusal := .next (if s.works then run a s else s)

/-- The outcome of a meaning that the stopped device has too. A meaning with operands that could name a unit or a value the device does not have
goes through `when` first: such a command, which nothing can send, changes nothing. -/
def doneAlways (a : Act) (s : State) : Host.Outcome State Fault Refusal := .next (run a s)

/-! ### What leaves the device -/

/-- The device sends something. -/
def emit (o : Output) : Act := onBody fun b => { b with out := b.out ++ [o] }

/-- A message to a chip (R179). -/
def sendMsg (tgt : Nat) (t : MsgType) (m : Msg) : Act := emit (.msg tgt t m)

/-! ### Free values -/

/-- The number of free values drawn goes up by one (Config.free is applied to it). -/
def drawFree : Act := onBody fun b => { b with fresh := b.fresh + 1 }

/-! ### Metering (R288, 10_sharing_and_scheduling.md) -/

/-- A tenant's meter. -/
def State.meter (s : State) (t : Nat) : Meter := (tget s.body.meters t).getD {}

/-- A meter brought up to a tick: the amounts held times the ticks elapsed are added to their integrals. -/
def Meter.upTo (m : Meter) (tick : Nat) : Meter :=
  let d := tick - m.since
  { m with nearInt := m.nearInt + m.near * d, farInt := m.farInt + m.far * d, kennelInt := m.kennelInt + m.kennel * d, since := tick }

/-- A tenant's meter changes. -/
def meterMod (t : Nat) (f : Meter → Meter) : Act := onBody fun b =>
  { b with meters := tput b.meters t (f (((tget b.meters t).getD {}).upTo b.tick)) }

/-! ### Error flags (R374, R376) -/

/-! The unit blocks that have error flags, as the classes of the Bark ring (R360). -/
namespace Blk
def glb : Nat := 0
def mbx : Nat := 1
def rqt : Nat := 2
def stm : Nat := 3
def pae : Nat := 4
def dae : Nat := 5
def sct : Nat := 6
def trc : Nat := 7
def fab : Nat := 8
def knl : Nat := 9
def brk : Nat := 10
def ldg : Nat := 11
def isl : Nat := 12
def pwr : Nat := 13
def sec : Nat := 14
def tst : Nat := 15
def cxl : Nat := 16
def hrd : Nat := 19
def smp : Nat := 20
def mov : Nat := 21
def xpt : Nat := 22
def col : Nat := 23
def acn : Nat := 24
end Blk

/-- The flag register and the first companion counter of a block. -/
def flagAddrs (blk : Nat) : Nat × Nat :=
  match blk with
  | 0 => (Reg.GLB_ERR_FLAGS, Reg.GLB_ERR_EVT 0) | 1 => (Reg.MBX_ERR_FLAGS, Reg.MBX_ERR_EVT 0)
  | 2 => (Reg.RQT_ERR_FLAGS, Reg.RQT_ERR_EVT 0) | 3 => (Reg.STM_ERR_FLAGS, Reg.STM_ERR_EVT 0)
  | 4 => (Reg.PAE_ERR_FLAGS, Reg.PAE_ERR_EVT 0) | 5 => (Reg.DAE_ERR_FLAGS, Reg.DAE_ERR_EVT 0)
  | 6 => (Reg.SCT_ERR_FLAGS, Reg.SCT_ERR_EVT 0) | 7 => (Reg.TRC_ERR_FLAGS, Reg.TRC_ERR_EVT 0)
  | 8 => (Reg.FAB_ERR_FLAGS, Reg.FAB_ERR_EVT 0) | 9 => (Reg.KNL_ERR_FLAGS, Reg.KNL_ERR_EVT 0)
  | 10 => (Reg.BRK_ERR_FLAGS, Reg.BRK_ERR_EVT 0) | 11 => (Reg.LDG_ERR_FLAGS, Reg.LDG_ERR_EVT 0)
  | 12 => (Reg.ISL_ERR_FLAGS, Reg.ISL_ERR_EVT 0) | 13 => (Reg.PWR_ERR_FLAGS, Reg.PWR_ERR_EVT 0)
  | 14 => (Reg.SEC_ERR_FLAGS, Reg.SEC_ERR_EVT 0) | 15 => (Reg.TST_ERR_FLAGS, Reg.TST_ERR_EVT 0)
  | 16 => (Reg.CXL_ERR_FLAGS, Reg.CXL_ERR_EVT 0) | 19 => (Reg.HRD_ERR_FLAGS, Reg.HRD_ERR_EVT 0)
  | 20 => (Reg.SMP_ERR_FLAGS, Reg.SMP_ERR_EVT 0) | 21 => (Reg.MOV_ERR_FLAGS, Reg.MOV_ERR_EVT 0)
  | 22 => (Reg.XPT_ERR_FLAGS, Reg.XPT_ERR_EVT 0) | 23 => (Reg.COL_ERR_FLAGS, Reg.COL_ERR_EVT 0)
  | _ => (Reg.ACN_ERR_FLAGS, Reg.ACN_ERR_EVT 0)

/-- The severity of a flag's record (R376): the rows of its table of flags, and for every other flag the class of outcome
its own description names (DEDUCED, log entry 2): 0 information, 1 corrected, 2 recovered, 3 unrecovered. -/
def flagSeverity (blk bit : Nat) : Nat :=
  match blk, bit with
  | 0, _ => 0                                   -- HEEL_AUTO, HEEL_CMD, CFG_REJECT, HOSTIF_RESET
  | 1, _ => 0                                   -- DB_RANGE, RING_CFG, VERSION (table of R376)
  | 2, 6 => 3                                   -- REQ_FAILED
  | 2, _ => 2                                   -- OWNER_LOST .. HOLDER_FULL
  | 3, 0 => 1                                   -- NEAR_CE
  | 3, 7 => 0                                   -- SPARE_LOW
  | 3, _ => 2
  | 4, 2 => 0 | 4, 3 => 3 | 4, _ => 2           -- SPARE_LOW; SPARE_EXHAUSTED
  | 5, 2 => 0 | 5, 3 => 3 | 5, 6 => 0 | 5, _ => 2
  | 6, 4 => 0 | 6, 5 => 3 | 6, 6 => 1 | 6, _ => 2
  | 7, 1 => 0 | 7, 2 => 3 | 7, 3 => 3 | 7, _ => 2
  | 8, 0 => 2 | 8, 5 => 0 | 8, 6 => 3 | 8, 7 => 3 | 8, _ => 2
  | 9, 0 => 0 | 9, 1 => 0 | 9, 5 => 3 | 9, 6 => 0 | 9, 7 => 3 | 9, 8 => 0 | 9, 9 => 0 | 9, 10 => 3 | 9, _ => 2
  | 11, _ => 3                                  -- a ledger identity failed (R392)
  | 12, 2 => 1 | 12, 10 => 0 | 12, 11 => 0 | 12, 12 => 0 | 12, 13 => 3 | 12, 15 => 0 | 12, _ => 2
  | 13, 0 => 0 | 13, 4 => 2 | 13, 5 => 1 | 13, 6 => 0 | 13, 7 => 0 | 13, _ => 3
  | 14, 1 => 2 | 14, _ => 0
  | 15, _ => 0
  | 16, 0 => 3 | 16, 2 => 2 | 16, _ => 0
  | 19, _ => 0
  | 20, 2 => 3 | 20, 4 => 0 | 20, _ => 2
  | 21, 0 => 0 | 21, 1 => 0 | 21, 2 => 0 | 21, 7 => 0 | 21, _ => 2
  | 22, 3 => 3 | 22, 5 => 0 | 22, _ => 2
  | 23, _ => 0
  | 24, 0 => 2 | 24, _ => 0
  | _, _ => 2

/-- What an error record tells besides its flag. -/
structure Ctx where
  island : Nat := 63
  unit : Nat := 0
  handle : Nat := 0
  epoch : Nat := 0
  step : Nat := 0
  addr : Nat := 0
  detail : Nat := 0
deriving DecidableEq, Repr

/-- An error flag is set: the bit, its companion counter (R374), and one record (R376). -/
def raiseWith (blk bit : Nat) (c : Ctx) : Act := fun s =>
  let fa := (flagAddrs blk).1
  let ea := (flagAddrs blk).2 + 4 * bit
  [.reg fa (withBits (s.rd fa) bit 1 1), .reg ea (wrapAdd 32 (s.rd ea) 1),
   .bark { cls := blk, severity := flagSeverity blk bit, flag := bit, island := c.island, unit := c.unit,
           handle := c.handle, epoch := c.epoch, step := c.step, addr := c.addr, detail := c.detail }]

/-- An error flag is set with nothing more to tell. -/
def raise (blk bit : Nat) : Act := raiseWith blk bit {}

/-- An error record that another chapter calls for without a flag of its own. -/
def note (blk severity bit : Nat) (c : Ctx) : Act :=
  eff (.bark { cls := blk, severity := severity, flag := bit, island := c.island, unit := c.unit, handle := c.handle,
               epoch := c.epoch, step := c.step, addr := c.addr, detail := c.detail })

/-! ### Status codes (R348) -/
namespace St
def ok : Nat := 0
def busyRetry : Nat := 1
def invalid : Nat := 2
def denied : Nat := 3
def noResource : Nat := 4
def staleEpoch : Nat := 5
def kennelFull : Nat := 6
def notOwner : Nat := 7
def replayed : Nat := 8
def versionMismatch : Nat := 9
def deferred : Nat := 10
def replayPending : Nat := 11
end St

/-! ### The configuration as the other units read it -/

/-- The chip id, and whether a commit has set it (R362). -/
def State.chipId (s : State) : Nat := s.get Fld.GLB_CHIP_CHIP_ID

/-- The tenant record of a tenant (R351), its 16 bytes as one number. -/
def State.tenantRec (s : State) (t : Nat) : Option Nat := (tget s.body.conf.tenants t).map leNat

/-- The model record of a slot (R350), its 64 bytes. -/
def State.modelRec (s : State) (slot : Nat) : Option (List Byte) := tget s.body.conf.models slot

/-- Fields of a tenant record (R351). -/
def tenantEnabled (r : Nat) : Bool := bitsOf r 10 1 == 1
def tenantProtected (r : Nat) : Bool := bitsOf r 11 1 == 1
def tenantGroup (r : Nat) : Nat := bitsOf r 12 4
def tenantModel (r : Nat) : Nat := bitsOf r 16 4
def tenantScent (r : Nat) : Nat := bitsOf r 20 4
def tenantTrc (r : Nat) : Nat := bitsOf r 24 4
def tenantWindow (r : Nat) : Option Nat := if bitsOf r 38 1 = 1 then some (bitsOf r 32 6) else none
def tenantKey (r : Nat) : Nat := bitsOf r 64 32

/-- A model record's fields (R350). -/
structure Model where
  modelId : Nat
  slot : Nat
  seedSlot : Nat
  layers : Nat
  headDim : Nat
  queryHeads : Nat
  kvhLog2 : Nat
  latent : Bool
  kFmt : Nat
  vFmt : Nat
  lrRank : Nat
  groupLog2 : Nat
  kexp : Nat
  gainShift : Nat
  rotLog2 : Nat
  vocab : Nat
  rotSeed : Nat
deriving DecidableEq, Repr

/-- The fields of the 64 bytes of a model record. -/
def modelOf (bs : List Byte) : Model :=
  let v := leNat bs
  { modelId := bitsOf v 0 32, slot := bitsOf v 32 4, seedSlot := bitsOf v 40 8, layers := bitsOf v 48 16,
    headDim := bitsOf v 64 16, queryHeads := bitsOf v 80 9, kvhLog2 := bitsOf v 96 4, latent := bitsOf v 100 1 == 1,
    kFmt := bitsOf v 104 4, vFmt := bitsOf v 108 4, lrRank := bitsOf v 112 6, groupLog2 := bitsOf v 120 2,
    kexp := bitsOf v 128 8, gainShift := bitsOf v 136 3, rotLog2 := bitsOf v 144 4, vocab := bitsOf v 160 21,
    rotSeed := bitsOf v 256 128 }

/-- H, the KV heads of a model. -/
def Model.heads (m : Model) : Nat := 2 ^ m.kvhLog2

/-- b, the bytes each position needs in one layer: H × d × m with m = 1 for a shared latent (R350). -/
def Model.bytesPerPos (m : Model) : Nat := m.heads * m.headDim * (if m.latent then 1 else 2)

/-- P, the positions of a page: the largest power of two with P × b ≤ 32,768, within 16 to 256 (R23). -/
def pageLog2 (b : Nat) : Nat :=
  if 256 * b ≤ 32768 then 8 else if 128 * b ≤ 32768 then 7 else if 64 * b ≤ 32768 then 6
  else if 32 * b ≤ 32768 then 5 else 4

/-- log2 P of a model. -/
def Model.pLog2 (m : Model) : Nat := pageLog2 m.bytesPerPos

/-- The model of a tenant's requests. -/
def State.modelOfTenant (s : State) (t : Nat) : Option Model :=
  match s.tenantRec t with
  | none => none
  | some r => (s.modelRec (tenantModel r)).map modelOf

/-- The tenant whose record names a window (R332). -/
def State.windowTenant (s : State) (w : Nat) : Option Nat :=
  (s.body.conf.tenants.find? fun e => tenantWindow (leNat e.2) == some w).map (·.1)

/-- The fields of a handle (R171). -/
def handleHome (h : Nat) : Nat := h / 2 ^ 48
def handleSlot (h : Nat) : Nat := h / 2 ^ 32 % 65536
def handleInc (h : Nat) : Nat := h % 2 ^ 32
def mkHandle (home slot inc : Nat) : Nat := home * 2 ^ 48 + slot * 2 ^ 32 + inc

/-- Personality shares (R362): whether prompt, generation and cache work have a non-zero share. -/
def State.hasPrompt (s : State) : Bool := s.get Fld.GLB_PERS_PAE_PROMPT != 0
def State.hasGen (s : State) : Bool := s.get Fld.GLB_PERS_DAE_GEN != 0
def State.hasCache (s : State) : Bool := s.get Fld.GLB_PERS_CACHE != 0

/-- Whether the chip has a share of the work a phase needs (R12, R190). -/
def State.hasShare (s : State) (p : Phase) : Bool :=
  match p with
  | .prompting | .admitted => s.hasPrompt
  | .generating => s.hasGen
  | _ => s.hasCache

/-- The codes of R9. -/
def phaseCode : Phase → Nat
  | .admitted => 0 | .prompting => 1 | .handoff => 2 | .generating => 3 | .listening => 4 | .parking => 5
  | .parked => 6 | .resuming => 7 | .closed => 8 | .failed => 9

/-- The phase of a code. -/
def phaseOf (n : Nat) : Option Phase :=
  [Phase.admitted, .prompting, .handoff, .generating, .listening, .parking, .parked, .resuming, .closed, .failed][n]?

/-- The live phases are 0 to 7 (R11). -/
def phaseLive (p : Phase) : Bool := phaseCode p ≤ 7

end Sys2Proof.Machine
end

