-- ==== Sys2Proof/Machine/KnlCore.lean ====
section
/-! DEFINITION. The Kennel's tables (R297 to R303, R319, 11_kennel.md): geometry, journal, map segments, the image table, capacity. -/

namespace Sys2Proof.Machine

def onFlash (f : KFlash → KFlash) : Act := onBody fun b => { b with knl := { b.knl with flash := f b.knl.flash } }
def onRam (f : KRam → KRam) : Act := onBody fun b => { b with knl := { b.knl with ram := f b.knl.ram } }
def State.kf (s : State) : KFlash := s.body.knl.flash
def State.kr (s : State) : KRam := s.body.knl.ram

/-! The states of KNL_STATUS.STATE. -/
namespace KnlSt
def off : Nat := 0
def recovering : Nat := 1
def normal : Nat := 2
def readOnly : Nat := 3
def powerLoss : Nat := 4
end KnlSt
def State.knlState (s : State) : Nat := s.get Fld.KNL_STATUS_STATE

/-! ### Geometry (R295 to R299) -/
def knlGroups (s : State) : Nat := s.get Fld.KNL_NAND_CFG_TARGETS * s.get Fld.KNL_NAND_CFG_LUNS
/-- Bits per cell of the native mode. -/
def knlBits (s : State) : Nat := if s.get Fld.KNL_NAND_CFG_BPC = 2 then 4 else 3
/-- Units of a die block in native mode: one page on each of 4 planes, or two on each of 2. -/
def blockUnits (s : State) : Nat :=
  s.get Fld.KNL_NAND_CFG_PAGES_PER_BLOCK / (if s.get Fld.KNL_NAND_CFG_PLANES = 2 then 1 else 2)
/-- Units of a die block in a mode; the stripes of a superblock. -/
def modeUnits (s : State) (slc : Bool) : Nat := if slc then blockUnits s / knlBits s else blockUnits s
/-- The dies of a group: group × 16 + channel. -/
def groupDies (g : Nat) : List Nat := (List.range 16).map (16 * g + ·)
/-- A superblock by group and block, and the physical unit number of one of its units (R302). -/
def sbKey (g b : Nat) : Nat := g * 65536 + b
def sbGroup (k : Nat) : Nat := k / 65536
def sbBlock (k : Nat) : Nat := k % 65536
def physOf (s : State) (sb ch off : Nat) : Nat := (16 * sbGroup sb + ch) * 2 ^ 23 + sbBlock sb * blockUnits s + off
def physDie (u : Nat) : Nat := u / 2 ^ 23
def physSb (s : State) (u : Nat) : Nat := sbKey (physDie u / 16) (u % 2 ^ 23 / max 1 (blockUnits s))

/-- Good blocks and spares S_d of a die; a dead die's blocks count as retired (R321). -/
def dieGood (s : State) (d : Nat) : Nat := if s.kr.dead.contains d then 0 else (tget s.kf.good d).getD 0
def dieSpares (s : State) (d : Nat) : Nat := if s.kr.dead.contains d then 0 else (tget s.kf.spares d).getD 0
/-- B_g (R319). -/
def groupBlocks (s : State) (g : Nat) : Nat :=
  match (groupDies g).map fun d => dieGood s d - dieSpares s d with
  | [] => 0
  | x :: l => l.foldl min x

/-- The superblocks kept from data in each group: three of the system and one of the flush (R299). -/
def systemBlocks : Nat := 4
/-- Capacity of a superblock in units: 15 of each stripe's 16. -/
def sbUnits (s : State) (slc : Bool) : Nat := 15 * modeUnits s slc
/-- N_buf, the superblocks of the buffer's floor of 16 GiB. -/
def bufFloor (s : State) : Nat := ceilDiv 262144 (sbUnits s true)
/-- C in units (R319). -/
def capacity (s : State) : Nat :=
  if !s.kf.formatted then 0
  else (((List.range (knlGroups s)).map fun g => groupBlocks s g - systemBlocks).foldl (· + ·) 0 - bufFloor s) * sbUnits s false

/-! ### The image table and the map (R300 to R302) -/
def State.image (s : State) (slot : Nat) : Image := (tget s.kr.images slot).getD {}
/-- Units of DURABLE and WRITING images; a park's reservation is its WRITING image's (R320). -/
def usedUnits (s : State) : Nat :=
  ((s.kr.images.filter fun e => e.2.st == .durable || e.2.st == .writing).map (·.2.units)).foldl (· + ·) 0
/-- KNL_CAPACITY and KNL_FREE follow. -/
def syncFree : Act := look fun s => acts [setReg Reg.KNL_CAPACITY (capacity s), setReg Reg.KNL_FREE (capacity s - usedUnits s)]

/-- A logical unit. -/
def lunit (slot index : Nat) : Nat := slot * 65536 + index
/-- The segment of a logical unit. -/
def segOf (slot index : Nat) : Nat := 4 * slot + index / 16384

/-- The next Kennel write sequence number (R297). -/
def nextSeq (s : State) : Nat := s.kf.seq + 1
def takeSeq : Act := onFlash fun f => { f with seq := f.seq + 1 }

/-- A system unit is programmed: a journal page, a segment or a flush unit (R302, R303, R314). -/
def systemUnit : Act := acts [takeSeq, count Reg.KNL_NAND_UNITS 1]

/-! ### The journal (R303) -/

/-- The records of the tail are committed: their page's program has reported success. -/
def jcommit : Act := look fun s =>
  when (!s.kr.tail.isEmpty)
    (acts [systemUnit, onFlash (fun f => { f with journal := f.journal ++ s.kr.tail }), onRam fun r => { r with tail := [] }])

/-- A record is appended; a full page of 2,047 records is committed. -/
def jappend (j : JRec) : Act := acts [look fun s =>
  acts [takeSeq, onRam fun r => { r with tail := r.tail ++ [(nextSeq s, j)]
                                         tailSince := if r.tail.isEmpty then s.body.tick else r.tailSince }],
  look fun s => when (2047 ≤ s.kr.tail.length) jcommit]

/-! ### Segments -/

/-- A dirty segment is written to a system superblock (R302). -/
def writeSegment (g : Nat) : Act := look fun s =>
  let entries := s.kr.map.filter fun e => segOf (e.1 / 65536) (e.1 % 65536) == g
  acts [onFlash (fun f => { f with segs := tput f.segs g (nextSeq s, entries) }), systemUnit,
        onRam fun r => { r with dirty := r.dirty.filter (· != g) }]

/-- A segment becomes dirty; beyond DIRTY_LIMIT the oldest dirty one is written first. -/
def markDirty (g : Nat) : Act := look fun s =>
  if s.kr.dirty.contains g then nop
  else acts [when (s.get Fld.KNL_STATUS_DIRTY_LIMIT ≤ s.kr.dirty.length) (match s.kr.dirty with
               | o :: _ => writeSegment o
               | [] => nop),
             onRam fun r => { r with dirty := r.dirty ++ [g] }]

/-- A map change: the unit of a logical unit, or the second copy of a log unit. -/
def mapUnit (slot index u : Nat) (copy : Bool) : Act :=
  acts [jappend (.map slot index (some u) copy),
        if copy then onRam fun r => { r with copies := tput r.copies (lunit slot index) u }
        else acts [markDirty (segOf slot index), onRam fun r => { r with map := tput r.map (lunit slot index) u }]]

/-- An image table entry changes (R301). -/
def putImage (slot : Nat) (i : Image) : Act :=
  acts [onRam (fun r => { r with images := tput r.images slot i }), jappend (.image slot i), syncFree]

/-- A slot's map is dropped: segments exist only while their image does. -/
def dropMap (slot : Nat) : Act := onRam fun r =>
  { r with map := r.map.filter (fun e => e.1 / 65536 != slot), copies := r.copies.filter (fun e => e.1 / 65536 != slot),
           dirty := r.dirty.filter fun g => g / 4 != slot }

/-- A tenant's count goes down. -/
def tcountBack (tenant off n : Nat) : Act := fun s => [.treg (tkey tenant off) (s.trd tenant off - n)]

/-- An image is no longer wanted: RELEASED, its units reclaimable (R301). -/
def releaseImage (slot : Nat) : Act := look fun s =>
  let i := s.image slot
  acts [when (i.st == .durable) (acts [tcountBack i.tenant TReg.KNL_TIMAGES 1, tcountBack i.tenant TReg.KNL_TUNITS i.units,
                                       meterMod i.tenant fun m => { m with kennel := m.kennel - 16 * i.units }]),
        when (i.st == .durable || i.st == .writing) (acts [putImage slot { i with st := .released }, dropMap slot])]

/-- The durable image of a request on this chip. -/
def imageOf (s : State) (h : Nat) : Option Nat := (s.kr.images.find? fun e => e.2.handle == h && e.2.st == .durable && !e.2.isPrefix).map (·.1)
def prefixImage (s : State) (h : Nat) : Option Nat := (s.kr.images.find? fun e => e.2.handle == h && e.2.st == .durable && e.2.isPrefix).map (·.1)

/-- A park or resume of a request runs (R14). -/
def kennelRuns (s : State) (h : Nat) : Bool := (s.kr.parks.any fun e => e.2.handle == h) || s.kr.resumes.any fun e => (s.image e.1).handle == h

/-- The request's images are released at its close (R313). -/
def releaseOf (h : Nat) : Act := look fun s => match imageOf s h with
  | some slot => releaseImage slot
  | none => nop

end Sys2Proof.Machine
end

