-- ==== Sys2Proof/Machine/Float.lean ====
section
/-! DEFINITION. The number formats of the datapaths: IEEE binary32 and BF16 (R5), the 8-bit and 4-bit element formats of R26
with their E8M0 block scales (R127), and the 12-bit probability operand (R59). A finite number is exact: an integer times
a power of two. -/

namespace Sys2Proof.Machine

/-- An exact number m × 2^e. -/
structure Dy where
  m : Int
  e : Int
deriving DecidableEq, Repr

namespace Dy
def zero : Dy := ⟨0, 0⟩
/-- The integer m at exponent lo ≤ e. -/
def at_ (d : Dy) (lo : Int) : Int := d.m * (2 ^ (d.e - lo).toNat : Nat)
def add (a b : Dy) : Dy := let lo := min a.e b.e; ⟨a.at_ lo + b.at_ lo, lo⟩
def mul (a b : Dy) : Dy := ⟨a.m * b.m, a.e + b.e⟩
def neg (a : Dy) : Dy := ⟨-a.m, a.e⟩
def sub (a b : Dy) : Dy := add a (neg b)
def abs (a : Dy) : Dy := ⟨a.m.natAbs, a.e⟩
/-- Times a power of two. -/
def scale (a : Dy) (k : Int) : Dy := ⟨a.m, a.e + k⟩
def le (a b : Dy) : Bool := let lo := min a.e b.e; a.at_ lo ≤ b.at_ lo
def lt (a b : Dy) : Bool := !le b a
def eq (a b : Dy) : Bool := le a b && le b a
def isZero (a : Dy) : Bool := a.m == 0
def sum (l : List Dy) : Dy := l.foldl add zero
def max_ (a b : Dy) : Dy := if le a b then b else a
end Dy

/-- The bits of a natural number: 0 for 0, ⌊log2⌋ + 1 otherwise. -/
def bitLen (n : Nat) : Nat := if n = 0 then 0 else Nat.log2 n + 1

/-- ⌊log2 |d|⌋ of a number that is not zero. -/
def Dy.log2 (d : Dy) : Int := (bitLen d.m.natAbs : Int) - 1 + d.e

/-- A natural number divided by 2^k, to nearest, ties to even; sticky says that a part below it is not zero. -/
def roundShift (n k : Nat) (sticky : Bool) : Nat :=
  let q := n / 2 ^ k
  let r := 2 * (n % 2 ^ k)
  if r > 2 ^ k || (r == 2 ^ k && (sticky || q % 2 == 1)) then q + 1 else q

/-- Rounded to nearest, ties to even, to a precision of p bits and no unit below 2^emin; sticky for magnitudes that go on
below the given bits. -/
def Dy.round (d : Dy) (p : Nat) (emin : Int) (sticky : Bool) : Dy :=
  if d.m = 0 then d
  else
    let q := max emin (d.log2 - (p - 1 : Nat))
    if q ≤ d.e then d
    else
      let n := roundShift d.m.natAbs (q - d.e).toNat sticky
      ⟨if d.m < 0 then -(n : Int) else n, q⟩

/-! ### binary32 -/

def f32Nan : Nat := 0x7FC00000
def f32NegInf : Nat := 0xFF800000
def f32One : Nat := 0x3F800000

def f32Neg (a : Nat) : Bool := bitsOf a 31 1 == 1
def f32IsNan (a : Nat) : Bool := bitsOf a 23 8 == 255 && bitsOf a 0 23 != 0
def f32IsInf (a : Nat) : Bool := bitsOf a 23 8 == 255 && bitsOf a 0 23 == 0
def f32IsZero (a : Nat) : Bool := bitsOf a 0 31 == 0
def f32Finite (a : Nat) : Bool := bitsOf a 23 8 != 255

/-- The exact value of a finite binary32. -/
def f32Val (a : Nat) : Dy :=
  let e := bitsOf a 23 8
  let f := bitsOf a 0 23
  let m : Int := if e = 0 then f else 2 ^ 23 + f
  ⟨if f32Neg a then -m else m, (if e = 0 then 1 else (e : Int)) - 150⟩

/-- The binary32 nearest an exact number; a zero takes the given sign. -/
def f32Of (d : Dy) (sticky zeroNeg : Bool) : Nat :=
  let r := d.round 24 (-149) sticky
  if r.m = 0 then (if d.m < 0 || (d.m == 0 && zeroNeg) then 2 ^ 31 else 0)
  else
    let s : Nat := if r.m < 0 then 2 ^ 31 else 0
    if 128 ≤ r.log2 then s + 0x7F800000
    else
      -- the significand at its place: hidden bit at 2^23 for normal numbers
      let q := max (-149) (r.log2 - 23)
      let n := (Dy.at_ ⟨r.m.natAbs, r.e⟩ (min q r.e)).toNat / 2 ^ (q - min q r.e).toNat
      if n < 2 ^ 23 then s + n else s + ((q + 150).toNat) * 2 ^ 23 + (n - 2 ^ 23)

/-- Addition. -/
def f32Add (a b : Nat) : Nat :=
  if f32IsNan a || f32IsNan b then f32Nan
  else if f32IsInf a then (if f32IsInf b && f32Neg a != f32Neg b then f32Nan else a)
  else if f32IsInf b then b
  else f32Of (Dy.add (f32Val a) (f32Val b)) false (f32Neg a && f32Neg b)

/-- The sign changed. -/
def f32Negate (a : Nat) : Nat := if f32Neg a then a - 2 ^ 31 else a + 2 ^ 31

def f32Sub (a b : Nat) : Nat := f32Add a (f32Negate b)

/-- Multiplication. -/
def f32Mul (a b : Nat) : Nat :=
  let neg := f32Neg a != f32Neg b
  if f32IsNan a || f32IsNan b then f32Nan
  else if f32IsInf a || f32IsInf b then
    if f32IsZero a || f32IsZero b then f32Nan else (if neg then 2 ^ 31 else 0) + 0x7F800000
  else f32Of (Dy.mul (f32Val a) (f32Val b)) false neg

/-- Division. -/
def f32Div (a b : Nat) : Nat :=
  let neg := f32Neg a != f32Neg b
  let s : Nat := if neg then 2 ^ 31 else 0
  if f32IsNan a || f32IsNan b || (f32IsInf a && f32IsInf b) || (f32IsZero a && f32IsZero b) then f32Nan
  else if f32IsInf a || f32IsZero b then s + 0x7F800000
  else if f32IsInf b || f32IsZero a then s
  else
    let x := f32Val a
    let y := f32Val b
    let n := x.m.natAbs * 2 ^ 60
    let q := n / y.m.natAbs
    f32Of ⟨if neg then -(q : Int) else q, x.e - y.e - 60⟩ (n % y.m.natAbs != 0) neg

/-- a < b of numbers that are not NaN. -/
def f32Lt (a b : Nat) : Bool :=
  if f32IsInf a then f32Neg a && !(f32IsInf b && f32Neg b)
  else if f32IsInf b then !f32Neg b
  else Dy.lt (f32Val a) (f32Val b)

def f32Max (a b : Nat) : Nat := if f32Lt a b then b else a
def f32Sum (l : List Nat) : Nat := l.foldl f32Add 0

/-- Times 2^k, rounded where the result is subnormal. -/
def f32Scale (a : Nat) (k : Int) : Nat := if f32Finite a then f32Of ((f32Val a).scale k) false (f32Neg a) else a

/-- A natural number as binary32. -/
def f32OfNat (n : Nat) : Nat := f32Of ⟨n, 0⟩ false false

/-! ### BF16 -/

/-- A BF16 widened to binary32, exactly. -/
def bf16Up (b : Nat) : Nat := b * 65536

/-- The BF16 nearest a binary32. -/
def bf16Of (a : Nat) : Nat :=
  if f32IsNan a then 0x7FC0
  else if f32IsInf a then a / 65536
  else f32Of ((f32Val a).round 8 (-133) false) false (f32Neg a) / 65536

def bf16Finite (b : Nat) : Bool := bitsOf b 7 8 != 255

/-! ### Element formats (R26) -/

/-- The magnitude of an element's code without its sign. -/
def elemMag (fmt c : Nat) : Dy :=
  match fmt with
  | 0 => let e := bitsOf c 3 4; let m := bitsOf c 0 3   -- E4M3
         if e = 0 then ⟨m, -9⟩ else ⟨8 + m, (e : Int) - 10⟩
  | 1 => let e := bitsOf c 2 5; let m := bitsOf c 0 2   -- E5M2
         if e = 0 then ⟨m, -16⟩ else ⟨4 + m, (e : Int) - 17⟩
  | 2 => let e := bitsOf c 1 2; let m := bitsOf c 0 1   -- FP4 E2M1
         if e = 0 then ⟨m, -1⟩ else ⟨2 + m, (e : Int) - 2⟩
  | _ => ⟨c, 0⟩

/-- Bits of an element. -/
def elemBits (fmt : Nat) : Nat := if fmt ≤ 1 then 8 else 4

/-- The value of an element's code. -/
def elemVal (fmt c : Nat) : Dy :=
  if fmt = 3 then ⟨signedOf 4 c, 0⟩
  else
    let s := elemBits fmt - 1
    let d := elemMag fmt (c % 2 ^ s)
    if bitsOf c s 1 = 1 then d.neg else d

/-- e_max and the largest magnitude (R127). -/
def elemEmax (fmt : Nat) : Int := match fmt with
  | 0 => 8 | 1 => 15 | _ => 2
def elemTop (fmt : Nat) : Dy := match fmt with
  | 0 => ⟨448, 0⟩ | 1 => ⟨57344, 0⟩ | 2 => ⟨6, 0⟩ | _ => ⟨7, 0⟩

/-- A quotient rounded to nearest, ties to even, in the element format, before clipping. -/
def elemRound (fmt : Nat) (d : Dy) : Dy :=
  match fmt with
  | 0 => d.round 4 (-9) false
  | 1 => d.round 3 (-16) false
  | 2 => d.round 2 (-1) false
  | _ => d.round 64 0 false

/-- An element's code and whether it clipped (R127). -/
def elemEnc (fmt : Nat) (d : Dy) : Nat × Bool :=
  let r := elemRound fmt d
  let clip := Dy.lt (elemTop fmt) r.abs
  let a := if clip then elemTop fmt else r.abs
  let neg := decide (d.m < 0)
  let s := elemBits fmt - 1
  let top := if fmt = 0 then 127 else if fmt = 1 then 124 else 8
  let c := ((List.range top).find? fun c => Dy.eq (elemMag fmt c) a).getD 0
  (if fmt = 3 then (if neg then (16 - c) % 16 else c) else (if neg then 2 ^ s + c else c), clip)

/-- The standard exponent of a block (R127). -/
def stdExp (fmt : Nat) (blk : List Dy) : Int :=
  let a := (blk.map Dy.abs).foldl Dy.max_ Dy.zero
  if a.isZero then -127 else max (-127) (min 127 (a.log2 - elemEmax fmt))

/-- A block's codes under exponent e, and the clips. -/
def encWith (fmt : Nat) (e : Int) (blk : List Dy) : List Nat × Nat :=
  let l := blk.map fun d => elemEnc fmt (d.scale (-e))
  (l.map (·.1), (l.filter (·.2)).length)

/-- A quantised block: its scale byte (E8M0), its codes, and how many elements clipped; by the standard rule (R127) or the
no-clip rule (R128). -/
def quantBlock (fmt : Nat) (noClip : Bool) (blk : List Dy) : Nat × List Nat × Nat :=
  let e := stdExp fmt blk
  let (codes, clips) := encWith fmt e blk
  if noClip && clips != 0 && e < 127 then
    let (codes', clips') := encWith fmt (e + 1) blk
    ((e + 1 + 127).toNat, codes', clips')
  else ((e + 127).toNat, codes, clips)

/-- Blocks of n. -/
def chunks {α : Type} (n : Nat) : Nat → List α → List (List α)
  | 0, _ => []
  | k + 1, l => if l.isEmpty then [] else l.take n :: chunks n k (l.drop n)

/-- A vector quantised in blocks of 32: scale bytes, codes, clips. -/
def quantVec (fmt : Nat) (noClip : Bool) (v : List Dy) : List Nat × List Nat × Nat :=
  (chunks 32 v.length v).foldl (fun acc b =>
    let q := quantBlock fmt noClip b
    (acc.1 ++ [q.1], acc.2.1 ++ q.2.1, acc.2.2 + q.2.2)) ([], [], 0)

/-- Codes packed into bytes: 4-bit elements two per byte, low nibble first (R26). -/
def packCodes (fmt : Nat) (l : List Nat) : List Byte :=
  if fmt ≤ 1 then l.map fun c => BitVec.ofNat 8 c
  else (chunks 2 l.length l).map fun p => BitVec.ofNat 8 (p.getD 0 0 + 16 * p.getD 1 0)

/-- Element i of packed bytes. -/
def codeAt (fmt : Nat) (bs : List Byte) (i : Nat) : Nat :=
  if fmt ≤ 1 then (bs.getD i 0).toNat else bitsOf (bs.getD (i / 2) 0).toNat (4 * (i % 2)) 4

/-- Element i of packed bytes and scale bytes, with its block scale. -/
def elemAt (fmt : Nat) (bs scales : List Byte) (i : Nat) : Dy :=
  (elemVal fmt (codeAt fmt bs i)).scale ((scales.getD (i / 32) 0).toNat - 127)

/-! ### The probability operand (R59) -/

/-- p12: 8 significant bits, exponents 0 to −30; below 2^−30.5 zero. -/
def p12 (p : Nat) : Dy :=
  let d := f32Val p
  if Dy.lt (Dy.mul d d) ⟨1, -61⟩ then Dy.zero
  else if Dy.lt d ⟨1, -30⟩ then ⟨1, -30⟩
  else d.round 8 (-37) false

end Sys2Proof.Machine
end

