-- ==== Sys2Proof/Machine/Attn.lean ====
section
/-! DEFINITION. The arithmetic of the attention engines and of the transcoder on operands already read: rotation (R125,
R126), masks (R62, R63), scores, page partials, their fold and the merging of partial triples (R59, R65, R67, R68), as
functions of numbers. -/

namespace Sys2Proof.Machine

/-! ### Rotation (R125, R126) -/

/-- The sign of element t of a rotated block: bit t of SHA-384(ROT_SEED ‖ k). -/
def rotSign (digest : List Byte) (t : Nat) : Bool := bitsOf (digest.getD (t / 8) 0).toNat (t % 8) 1 == 1

/-- The sign vector's digest of a model. -/
def rotDigest (m : Model) : List Byte := sha384 (leBytes 16 m.rotSeed ++ [BitVec.ofNat 8 m.rotLog2])

/-- Parity of the ones of a AND b, over n bits. -/
def hadSign : Nat → Nat → Nat → Bool
  | 0, _, _ => false
  | n + 1, a, b => (a % 2 == 1 && b % 2 == 1) != hadSign n (a / 2) (b / 2)

/-- Element i of x · H_n exactly. -/
def hadExact (k : Nat) (x : List Dy) (i : Nat) : Dy :=
  Dy.sum (x.zipIdx.map fun p => if hadSign k i p.2 then p.1.neg else p.1)

/-- Element i of the device's transform: a free value within the error bound of R126. -/
def hadElem (k : Nat) (x : List Nat) (i : Nat) : Nat :=
  let xs := x.map f32Val
  let exact := hadExact k xs i
  let v := Config.hadamard k x i % 2 ^ 32
  let bound := (Dy.mul ⟨k, -24⟩ (Dy.sum (xs.map Dy.abs)))
  if f32Finite v && Dy.le (Dy.sub (f32Val v) exact).abs bound then v else f32Of exact false false

/-- A block of binary32 numbers with its signs changed where σ is −1. -/
def applySigns (digest : List Byte) (x : List Nat) : List Nat :=
  x.zipIdx.map fun p => if rotSign digest p.2 then f32Negate p.1 else p.1

/-- A vector rotated block by block with scale 2^−c. -/
def rotateBy (m : Model) (c : Nat) (x : List Nat) : List Nat :=
  let n := 2 ^ m.rotLog2
  let dg := rotDigest m
  (chunks n x.length x).flatMap fun b =>
    let y := applySigns dg b
    (List.range n).map fun i => f32Scale (hadElem m.rotLog2 y i) (-(c : Int))

/-- Keys and values: c = ⌈k ÷ 2⌉; queries: c = ⌊k ÷ 2⌋. -/
def rotateKv (m : Model) (x : List Nat) : List Nat := rotateBy m ((m.rotLog2 + 1) / 2) x
def rotateQ (m : Model) (x : List Nat) : List Nat := rotateBy m (m.rotLog2 / 2) x

/-- An output returned to the model's domain: (o′ · H_n) ⊙ σ × 2^−⌊k/2⌋. -/
def unrotate (m : Model) (x : List Nat) : List Nat :=
  let n := 2 ^ m.rotLog2
  let dg := rotDigest m
  (chunks n x.length x).flatMap fun b =>
    applySigns dg ((List.range n).map fun i => f32Scale (hadElem m.rotLog2 b i) (-((m.rotLog2 / 2 : Nat) : Int)))

/-! ### Positions and pages as the engines see them -/

/-- One position's key and value vectors by KV head (equal for a shared latent), exact; coefficients for a low-rank page. -/
structure PosKV where
  k : List (List Dy)
  v : List (List Dy)
deriving DecidableEq, Repr

/-- The bases of a low-rank page by KV head: the rows of B_K and of B_V (R65). -/
structure Basis where
  bk : List (List (List Dy))
  bv : List (List (List Dy))
deriving DecidableEq, Repr

/-- A page as read: its positions, each with its number, and its basis if it is low-rank. -/
structure PageView where
  pos : List (Nat × PosKV)
  basis : Option Basis := none
deriving DecidableEq, Repr

/-- The vectors a model keeps per head and position: keys and values, or one latent. -/
def Model.kinds (m : Model) : Nat := if m.latent then 1 else 2

/-- One vector of n elements from element `at_` on. -/
def vecAt (fmt : Nat) (bs scales : List Byte) (at_ n : Nat) : List Dy :=
  (List.range n).map fun t => elemAt fmt bs scales (at_ + t)

/-- Position i of a page's bytes, its vectors n elements long: position by position, head by head, K before V (R58). -/
def posAt (m : Model) (kf vf n : Nat) (bs scales : List Byte) (i : Nat) : PosKV :=
  let at_ (g kind : Nat) : Nat := ((i * m.heads + g) * m.kinds + kind) * n
  let k := (List.range m.heads).map fun g => vecAt kf bs scales (at_ g 0) n
  { k := k, v := if m.latent then k else (List.range m.heads).map fun g => vecAt vf bs scales (at_ g 1) n }

/-- The basis rows in a basis frame's bytes (R135): head by head, r rows of B_K then r rows of B_V, E4M3. -/
def basisOf (m : Model) (r : Nat) (bs scales : List Byte) : Basis :=
  let row (g kind c : Nat) : List Dy := vecAt 0 bs scales (((g * m.kinds + kind) * r + c) * m.headDim) m.headDim
  let bk := (List.range m.heads).map fun g => (List.range r).map (row g 0)
  { bk := bk, bv := if m.latent then bk else (List.range m.heads).map fun g => (List.range r).map (row g 1) }

/-! ### Scores (R59) -/

/-- A dot product: each block of 32 exactly, rounded once to binary32; the block sums added in ascending order. -/
def blockDot (q k : List Dy) : Nat :=
  let prods := (q.zip k).map fun p => Dy.mul p.1 p.2
  f32Sum ((chunks 32 prods.length prods).map fun b => f32Of (Dy.sum b) false false)

/-- A partial triple (R67): m, l and o. -/
structure Triple where
  m : Nat
  l : Nat
  o : List Nat
deriving DecidableEq, Repr

/-- The empty triple. -/
def emptyTriple (d : Nat) : Triple := { m := f32NegInf, l := 0, o := List.replicate d 0 }

/-- exp, with exp(−∞) = 0. -/
def expE (x : Nat) : Nat := if x = f32NegInf then 0 else Config.expF32 x % 2 ^ 32

/-- One page's partial for a row and head: maximum, sum, and unnormalised accumulation over the positions that are visible. -/
def pagePartial (d sm : Nat) (q : List Dy) (g : Nat) (visible : Nat → Bool) (pg : PageView) : Triple :=
  let ps := pg.pos.filter fun p => visible p.1
  match ps with
  | [] => emptyTriple d
  | _ =>
    let q' : List Dy := match pg.basis with
      | none => q
      | some b => (b.bk.getD g []).map fun row => f32Val (blockDot q row)
    let s := ps.map fun p => f32Mul (blockDot q' (p.2.k.getD g [])) sm
    let mp := s.foldl f32Max f32NegInf
    let w := s.map fun x => p12 (expE (f32Sub x mp))
    let lp := f32Sum (w.map fun x => f32Of x false false)
    let acc (len : Nat) : List Nat := (List.range len).map fun t =>
      f32Sum ((w.zip ps).map fun x => f32Of (Dy.mul x.1 ((x.2.2.v.getD g []).getD t Dy.zero)) false false)
    let ap : List Nat := match pg.basis with
      | none => acc d
      | some b =>
        let rows := b.bv.getD g []
        let c := acc rows.length
        (List.range d).map fun t => f32Sum ((c.zip rows).map fun x => f32Mul x.1 (f32Of (x.2.getD t Dy.zero) false false))
    { m := mp, l := lp, o := ap }

/-- The fold of page partials, on unnormalised accumulations (R59). -/
def foldPart (a b : Triple) : Triple :=
  if f32IsZero b.l then a else if f32IsZero a.l then b
  else
    let m := f32Max a.m b.m
    let c1 := expE (f32Sub a.m m)
    let c2 := expE (f32Sub b.m m)
    { m := m, l := f32Add (f32Mul a.l c1) (f32Mul b.l c2),
      o := (a.o.zip b.o).map fun p => f32Add (f32Mul p.1 c1) (f32Mul p.2 c2) }

/-- The merge of two partial triples (R68). -/
def mergeTriple (a b : Triple) : Triple :=
  if f32IsZero b.l then a else if f32IsZero a.l then b
  else
    let m := f32Max a.m b.m
    let c1 := expE (f32Sub a.m m)
    let c2 := expE (f32Sub b.m m)
    let w1 := f32Mul a.l c1
    let w2 := f32Mul b.l c2
    let l := f32Add w1 w2
    { m := m, l := l, o := (a.o.zip b.o).map fun p => f32Div (f32Add (f32Mul (f32Mul p.1 a.l) c1) (f32Mul (f32Mul p.2 b.l) c2)) l }

/-- A fold's result as a triple with normalised output; the empty partial for a fully masked row. -/
def normTriple (d : Nat) (t : Triple) : Triple :=
  if f32IsZero t.l then emptyTriple d else { t with o := t.o.map fun x => f32Div x t.l }

/-- One row and head over a range of pages, in page-list order. -/
def attendRange (d sm : Nat) (q : List Dy) (g : Nat) (visible : Nat → Bool) (pages : List PageView) : Triple :=
  normTriple d ((pages.map (pagePartial d sm q g visible)).foldl foldPart (emptyTriple d))

/-- The log-sum-exp of a triple: −∞ for a fully masked row. -/
def lseOf (t : Triple) : Nat := if f32IsZero t.l then f32NegInf else f32Add t.m (Config.lnF32 t.l % 2 ^ 32)

/-! ### Masks (R62, R63) -/

/-- Bit i of row j of a bitmap whose rows of n bits are padded to 512. -/
def maskBit (bs : List Byte) (n j i : Nat) : Bool :=
  let rowBytes := (n + 511) / 512 * 64
  bitsOf (bs.getD (j * rowBytes + i / 8) 0).toNat (i % 8) 1 == 1

/-- Whether row j sees a position. -/
def sees (kind qPos nq : Nat) (bitmap : List Byte) (j pos : Nat) : Bool :=
  match kind with
  | 0 => pos ≤ qPos + j
  | 1 => pos < qPos || (pos < qPos + nq && maskBit bitmap nq j (pos - qPos))
  | _ => pos < qPos + nq && maskBit bitmap (qPos + nq) j pos

/-- A LOCAL bitmap of a verify job names a tree (R63). -/
def treeOk (bitmap : List Byte) (n : Nat) : Bool :=
  (List.range n).all fun j =>
    maskBit bitmap n j 0 && maskBit bitmap n j j &&
    (List.range n).all fun i =>
      !maskBit bitmap n j i || (i ≤ j && (List.range n).all fun t => !maskBit bitmap n i t || maskBit bitmap n j t)

/-- The bitmap's rows as numbers, for the comparison of R156. -/
def treeRows (bitmap : List Byte) (n : Nat) : List Nat :=
  (List.range n).map fun j => (List.range n).foldl (fun a i => if maskBit bitmap n j i then a + 2 ^ i else a) 0

/-! ### Operands in the job buffer -/

/-- BF16 numbers of a range of bytes. -/
def bf16s (bs : List Byte) : List Nat := (chunks 2 bs.length bs).map leNat

/-- Little-endian binary32 numbers of a range of bytes. -/
def f32s (bs : List Byte) : List Nat := (chunks 4 bs.length bs).map leNat

/-- The bytes of the query rows: elements, and block scales for FP8 rows after all of them (R57). -/
def queryBytes (m : Model) (fmt n : Nat) : Nat :=
  if fmt = 0 then n * m.queryHeads * m.headDim * 2 else n * m.queryHeads * (m.headDim + m.headDim / 32)

/-- A query vector as delivered, binary32: row j, head h. -/
def queryRaw (m : Model) (fmt n : Nat) (bs : List Byte) (j h : Nat) : List Nat :=
  let i := j * m.queryHeads + h
  if fmt = 0 then (bf16s ((bs.drop (2 * i * m.headDim)).take (2 * m.headDim))).map bf16Up
  else
    let els := (bs.drop (i * m.headDim)).take m.headDim
    let scs := (bs.drop (n * m.queryHeads * m.headDim + i * (m.headDim / 32))).take (m.headDim / 32)
    (List.range m.headDim).map fun t => f32Of (elemAt (fmt - 1) els scs t) false false

/-- A query vector as the engine takes it: rotated, then BF16, or re-quantised by the no-clip rule (R58, R126). -/
def queryVec (m : Model) (fmt : Nat) (raw : List Nat) : List Dy :=
  let r := rotateQ m raw
  if fmt = 0 then r.map fun x => f32Val (bf16Up (bf16Of x))
  else
    let (scs, codes, _) := quantVec (fmt - 1) true (r.map f32Val)
    codes.zipIdx.map fun c => (elemVal (fmt - 1) c.1).scale ((scs.getD (c.2 / 32) 0 : Int) - 127)

/-- The new keys and values of n positions, BF16, by position, head, K before V. -/
def kvBytes (m : Model) (n : Nat) : Nat := n * m.bytesPerPos * 2

/-- The vectors of one new position, rotated: by head, then kind. -/
def kvRotated (m : Model) (bs : List Byte) (i : Nat) : List (List Nat) :=
  (List.range (m.heads * m.kinds)).map fun x =>
    let at_ := 2 * (i * m.bytesPerPos + x * m.headDim)
    rotateKv m ((bf16s ((bs.drop at_).take (2 * m.headDim))).map bf16Up)

/-- A BF16 NaN or infinity among the new keys, values or BF16 queries, or an FP8 query NaN (R129). -/
def nonFinite (fmt : Nat) (q kv : List Byte) (elems : Nat) : Bool :=
  (bf16s kv).any (!bf16Finite ·) ||
  (match fmt with
   | 0 => (bf16s q).any (!bf16Finite ·)
   | 1 => (q.take elems).any fun b => b.toNat % 128 == 127
   | _ => (q.take elems).any fun b => 124 < b.toNat % 128)

/-- One stored position: its element bytes, its scale bytes, and the clips (R127, R128, R130). -/
structure NewPos where
  bytes : List Byte
  scales : List Byte
  clips : Nat
deriving DecidableEq, Repr

/-- A new position quantised into key and value formats. -/
def quantPos (m : Model) (kf vf : Nat) (noClip : Bool) (rot : List (List Nat)) : NewPos :=
  rot.zipIdx.foldl (fun acc p =>
    let fmt := if m.latent || p.2 % 2 == 0 then kf else vf
    let q := quantVec fmt noClip (p.1.map f32Val)
    { bytes := acc.bytes ++ packCodes fmt q.2.1, scales := acc.scales ++ q.1.map (fun x => BitVec.ofNat 8 x),
      clips := acc.clips + q.2.2 }) { bytes := [], scales := [], clips := 0 }

/-- A stored position as the engine reads it. -/
def NewPos.view (m : Model) (kf vf : Nat) (p : NewPos) : PosKV := posAt m kf vf m.headDim p.bytes p.scales 0

/-! ### Outputs (R67, R77) -/

/-- The bytes of one output element. -/
def outElem (fmt x : Nat) : List Byte := if fmt = 0 then leBytes 2 (bf16Of x) else leBytes 4 x

/-- Padded with zeros to a multiple of 64 bytes. -/
def pad64 (bs : List Byte) : List Byte := bs ++ List.replicate ((64 - bs.length % 64) % 64) 0

/-- Output and lse of triples in row and head order. -/
def outBytes (fmt : Nat) (ts : List Triple) : List Byte :=
  pad64 (ts.flatMap fun t => t.o.flatMap (outElem fmt)) ++ ts.flatMap fun t => leBytes 4 (lseOf t)

/-- The size of a partial entry. -/
def partSize (d : Nat) : Nat := (8 + 4 * d + 63) / 64 * 64

/-- A partial set. -/
def partBytes (ts : List Triple) : List Byte :=
  ts.flatMap fun t => pad64 (leBytes 4 t.m ++ leBytes 4 t.l ++ t.o.flatMap (leBytes 4))

/-- Entry i of a partial set. -/
def partAt (d : Nat) (bs : List Byte) (i : Nat) : Triple :=
  let e := bs.drop (i * partSize d)
  { m := leNat (e.take 4), l := leNat ((e.drop 4).take 4), o := f32s ((e.drop 8).take (4 * d)) }

end Sys2Proof.Machine
end

