-- ==== Sys2Proof/Machine/Transcoder.lean ====
section
/-! DEFINITION. The transcoder's and Scent's arithmetic on pages already read (R89 to R93, 04_scent.md; R132, R133, R137,
05_transcoder.md): page and group sketches, query sketches and ideal codes, bases, low-rank projection with its residual
test, conversion to 4-bit elements. -/

namespace Sys2Proof.Machine

/-! ### Sketches (R89, R90) -/

/-- C and F: components per head, and the fold. -/
def Model.comps (m : Model) : Nat := 128 / m.heads
def Model.fold (m : Model) : Nat := m.headDim / m.comps

/-- KEXP, −16 to +15. -/
def Model.keyExp (m : Model) : Int := signedOf 8 m.kexp

/-- The fold of a vector: component c is the sum of its elements c, c + C, c + 2C, ... -/
def foldVec (c : Nat) (v : List Dy) : List Dy :=
  (List.range c).map fun i => Dy.sum ((v.zipIdx.filter fun p => p.2 % c == i).map (·.1))

/-- |x| ÷ √f rounded to nearest, ties to even, up to 9. -/
def roundOverRoot (x : Dy) (f : Nat) : Nat :=
  let x4 := Dy.mul ⟨4, 0⟩ (Dy.mul x x)
  ((List.range 9).filter fun j =>
    let b : Dy := ⟨((2 * j + 1) ^ 2 * f : Nat), 0⟩
    Dy.lt b x4 || (Dy.eq b x4 && j % 2 == 1)).length

/-- A component clamped to −8..7, and whether the clamp changed it. -/
def clamp4 (neg : Bool) (r : Nat) : Int × Bool :=
  if neg then (if 8 < r then (-8, true) else (-(r : Int), false)) else (if 7 < r then (7, true) else ((r : Int), false))

/-- Signed 4-bit numbers packed two per byte, low nibble first. -/
def packNibbles (l : List Int) : List Byte :=
  (chunks 2 l.length l).map fun p => BitVec.ofNat 8 (wordOf 4 (p.getD 0 0) + 16 * wordOf 4 (p.getD 1 0))

/-- The signed 4-bit numbers of packed bytes. -/
def nibblesOf (bs : List Byte) : List Int := bs.flatMap fun b => [signedOf 4 (b.toNat % 16), signedOf 4 (b.toNat / 16)]

/-- The page sketch of a page's keys in stored form, and how many components the clamp changed (R89). -/
def pageSketch (m : Model) (ps : List PosKV) : List Byte × Nat :=
  let comps := (List.range m.heads).flatMap fun g =>
    let sums := ps.map fun p => foldVec m.comps (p.k.getD g [])
    (List.range m.comps).map fun c =>
      -- the mean over the page's positions, P a power of two, times 2^−KEXP
      let x := (Dy.sum (sums.map fun s => s.getD c Dy.zero)).scale (-(m.pLog2 : Int) - m.keyExp)
      clamp4 (x.m < 0) (roundOverRoot x m.fold)
  (packNibbles (comps.map (·.1)), (comps.filter (·.2)).length)

/-- An integer divided by n, to nearest, ties toward zero (R90). -/
def roundTowardZero (a : Int) (n : Nat) : Int :=
  let q := (2 * a.natAbs + n - 1) / (2 * n)
  if a < 0 then -(q : Int) else q

/-- A group's sketch: the mean of its page sketches. -/
def groupSketch (l : List (List Byte)) : List Byte :=
  let cs := l.map nibblesOf
  packNibbles ((List.range 128).map fun i => roundTowardZero ((cs.map fun c => c.getD i 0).foldl (· + ·) 0) l.length)

/-! ### Query sketch and codes (R92, R93) -/

/-- A rational p/q rounded to nearest, ties to even. -/
def roundEvenDiv (p : Int) (q : Nat) : Int :=
  let n := p.natAbs
  let f := n / q
  let r := 2 * (n % q)
  let k := if q < r || (r == q && f % 2 == 1) then f + 1 else f
  if p < 0 then -(k : Int) else k

/-- The query sketch of rotated query vectors by head (all rows). -/
def querySketch (m : Model) (qs : List (Nat × List Dy)) : List Int :=
  let g := m.queryHeads / m.heads
  let y := (List.range m.heads).flatMap fun h =>
    let vs := (qs.filter fun q => q.1 / g == h).map fun q => foldVec m.comps q.2
    (List.range m.comps).map fun c => Dy.sum (vs.map fun v => v.getD c Dy.zero)
  let lo := y.foldl (fun a d => min a d.e) 0
  let ys := y.map fun d => d.at_ lo
  let top := (ys.map Int.natAbs).foldl max 0
  if top = 0 then ys.map fun _ => 0
  else ys.map fun v => max (-8) (min 7 (roundEvenDiv (7 * v) top))

/-- The ideal code of a row. -/
def idealCode (gainShift : Nat) (q : List Int) (row : List Byte) : Int :=
  let dot := ((q.zip (nibblesOf row)).map fun p => p.1 * p.2).foldl (· + ·) 0
  max 0 (min 255 (128 + roundEvenDiv dot (2 ^ gainShift)))

/-! ### Conversion and projection (R128, R133, R137) -/

/-- A page's stored content: formats, rank (0 for full rank), element bytes, scale bytes, residuals. -/
structure Stored where
  kFmt : Nat
  vFmt : Nat
  rank : Nat
  bytes : List Byte
  scales : List Byte
  residK : Nat := 0
  residV : Nat := 0
deriving DecidableEq, Repr

/-- A sequence of numbers as stored content in one format by the no-clip rule. -/
def storeVec (fmt rank : Nat) (v : List Dy) : Stored :=
  let q := quantVec fmt true v
  { kFmt := fmt, vFmt := fmt, rank := rank, bytes := packCodes fmt q.2.1, scales := q.1.map fun x => BitVec.ofNat 8 x }

/-- The elements of a page's positions in stored order. -/
def flatPos (m : Model) (ps : List PosKV) : List Dy :=
  ps.flatMap fun p => (List.range m.heads).flatMap fun g =>
    p.k.getD g [] ++ (if m.latent then [] else p.v.getD g [])

/-- Stored content re-encoded in a format by the no-clip rule (R131 WIDE, R137, R141). -/
def convert (m : Model) (fmt rank : Nat) (ps : List PosKV) : Stored := storeVec fmt rank (flatPos m ps)

/-- The squared length of a vector. -/
def normSq (v : List Dy) : Dy := Dy.sum (v.map fun x => Dy.mul x x)

/-- The coefficients of a vector over basis rows: a = x · bᵀ. -/
def coeffs (rows : List (List Dy)) (x : List Dy) : List Dy :=
  rows.map fun b => Dy.sum ((x.zip b).map fun p => Dy.mul p.1 p.2)

/-- The vector a set of coefficients stands for. -/
def rebuild (d : Nat) (rows : List (List Dy)) (a : List Dy) : List Dy :=
  (List.range d).map fun t => Dy.sum ((a.zip rows).map fun p => Dy.mul p.1 (p.2.getD t Dy.zero))

/-- ρ in units of 2^−16, saturating: the square root of num ÷ den. -/
def residUnits (num den : Dy) : Nat :=
  if den.isZero then 0
  else
    let lo := min num.e den.e
    min 65535 (Nat.sqrt ((num.at_ lo).natAbs * 2 ^ 32 / (den.at_ lo).natAbs))

/-- Positions that hold coefficients, from flat ones: r per vector. -/
def posOfFlat (m : Model) (n : Nat) (flat : List Dy) (count : Nat) : List PosKV :=
  (List.range count).map fun i =>
    let vec (g kind : Nat) : List Dy := (flat.drop (((i * m.heads + g) * m.kinds + kind) * n)).take n
    let k := (List.range m.heads).map fun g => vec g 0
    { k := k, v := if m.latent then k else (List.range m.heads).map fun g => vec g 1 }

/-- The flat values of stored content. -/
def Stored.flat (st : Stored) (m : Model) (n count : Nat) : List Dy :=
  (List.range (count * m.heads * m.kinds * n)).map fun i =>
    let fmt := if m.latent || (i / n) % 2 == 0 then st.kFmt else st.vFmt
    elemAt fmt st.bytes st.scales i

/-- The second pass (R133): the page's coefficients in a format, where both residuals are at most 2^−thresh. -/
def project (m : Model) (fmt thresh : Nat) (ps : List PosKV) (b : Basis) : Option Stored :=
  let r := (b.bk.getD 0 []).length
  let a := ps.flatMap fun p => (List.range m.heads).flatMap fun g =>
    coeffs (b.bk.getD g []) (p.k.getD g []) ++ (if m.latent then [] else coeffs (b.bv.getD g []) (p.v.getD g []))
  let st := storeVec fmt r a
  let back := posOfFlat m r (st.flat m r ps.length) ps.length
  let pairs (sel : PosKV → List (List Dy)) (rows : List (List (List Dy))) : List (Dy × Dy) :=
    (ps.zip back).flatMap fun pb => (List.range m.heads).map fun g =>
      let x := (sel pb.1).getD g []
      let xh := rebuild m.headDim (rows.getD g []) ((sel pb.2).getD g [])
      (normSq ((x.zip xh).map fun q => Dy.sub q.1 q.2), normSq x)
  let total (l : List (Dy × Dy)) : Dy × Dy := (Dy.sum (l.map (·.1)), Dy.sum (l.map (·.2)))
  let k := total (pairs (·.k) b.bk)
  let v := if m.latent then k else total (pairs (·.v) b.bv)
  let ok (t : Dy × Dy) : Bool := t.2.isZero || Dy.le (t.1.scale (2 * thresh)) t.2
  if ok k && ok v then some { st with residK := residUnits k.1 k.2, residV := residUnits v.1 v.2 } else none

/-- The positions a first pass samples of n: 2^log2 of them, evenly spaced from the first (R132). -/
def samplePoints (n log2 : Nat) : List Nat :=
  let k := min n (2 ^ log2)
  (List.range k).map fun i => i * n / k

/-- The basis a first pass builds from sampled positions: codes and scale bytes in basis-frame order, a free value (R132). -/
def buildBasis (m : Model) (samples : List PosKV) : Stored :=
  let xs : List (List Int) := samples.map fun p => (flatPos m [p]).map fun d => d.at_ (-300)
  let n := m.heads * m.kinds * m.lrRank * m.headDim
  { kFmt := 0, vFmt := 0, rank := m.lrRank,
    bytes := (List.range n).map fun i => BitVec.ofNat 8 (Config.basisCode xs m.lrRank i),
    scales := (List.range (n / 32)).map fun i => BitVec.ofNat 8 (Config.basisScale xs m.lrRank i) }

end Sys2Proof.Machine
end

