-- ==== Sys2Proof/Machine/Pages.lean ====
section
/-! DEFINITION. Frames of state memory (R23 to R46, 02_state_memory.md): page references, allocation and eviction in near
and far state, reference counts, sealing and freezing, freeing; what the transcoder makes of a page written into far state
(R132 to R139, 05_transcoder.md); and what a frame's directory entry does when the frame changes (R217,
08_fabric_memory_semantics.md). -/

namespace Sys2Proof.Machine

/-! ### Page references (R25, R27) -/
def refChip (r : Nat) : Nat := r / 2 ^ 48
def refTier (r : Nat) : Nat := r / 2 ^ 44 % 16
def refFrame (r : Nat) : Nat := r / 2 ^ 16 % 2 ^ 28
def refGen (r : Nat) : Nat := r % 2 ^ 16
def mkRef (chip tier frame gen : Nat) : Nat := chip * 2 ^ 48 + tier * 2 ^ 44 + frame * 2 ^ 16 + gen

/-- The key of a frame: tier × 2^28 + frame number. -/
def fkey (tier frame : Nat) : Nat := tier * 2 ^ 28 + frame
def keyTier (k : Nat) : Nat := k / 2 ^ 28
def keyFrame (k : Nat) : Nat := k % 2 ^ 28

/-- Where a frame's payload slot and scale slot lie (R24). -/
def payloadAt (k : Nat) : Nat := if keyTier k = 0 then Mem.nearPayload (keyFrame k) else Mem.farPayload (keyFrame k)
def scaleAt (k : Nat) : Nat := if keyTier k = 0 then Mem.nearScale (keyFrame k) else Mem.farScale (keyFrame k)

/-- A frame's generation. -/
def State.gen (s : State) (k : Nat) : Nat := (tget s.body.pages.gens k).getD 0

/-- The reference of a frame of this chip. -/
def State.refOf (s : State) (k : Nat) : Nat := mkRef s.chipId (keyTier k) (keyFrame k) (s.gen k)

/-- A frame in use. -/
def State.frame (s : State) (k : Nat) : Option Frame := tget s.body.pages.frames k

/-- The frame of this chip whose reference a near or far reference is. -/
def State.exact (s : State) (r : Nat) : Option Nat :=
  let k := fkey (refTier r) (refFrame r)
  if refChip r = s.chipId ∧ refTier r ≤ 1 ∧ refGen r = s.gen k ∧ (s.frame k).isSome then some k else none

/-- The frame of this chip that a near or far reference names; a tombstone forwards to its destination (R51). -/
def State.resolve (s : State) (r : Nat) : Option Nat :=
  match s.exact r with
  | none => none
  | some k => match (s.frame k).bind (·.mig) with
    | some m => if m.st = .tombstone then s.exact m.dst else some k
    | none => some k

/-- Changes of the page store. -/
def onPages (f : Pages → Pages) : Act := onBody fun b => { b with pages := f b.pages }

/-- A frame's entry is replaced. -/
def putFrame (k : Nat) (f : Frame) : Act := onPages fun p => { p with frames := tput p.frames k f }

/-- A frame's entry is changed. -/
def modFrame (k : Nat) (g : Frame → Frame) : Act := onPages fun p => { p with frames := tmod p.frames k g }

/-- A frame's header is changed. -/
def modHdr (k : Nat) (g : PageHeader → PageHeader) : Act := modFrame k fun f => { f with hdr := g f.hdr }

/-- Every page list, prefix and header that names a reference names another in its place. -/
def renameRef (old new : Nat) : Act :=
  let sub (r : Nat) : Nat := if r = old then new else r
  onBody fun b => { b with
    locs := b.locs.map fun e => (e.1, { e.2 with
      layers := e.2.layers.map fun l => (l.1, { l.2 with pages := l.2.pages.map sub })
      sampler := e.2.sampler.map sub
      held := e.2.held.map sub })
    pages := { b.pages with
      prefixes := b.pages.prefixes.map fun e => (e.1, { e.2 with
        pages := e.2.pages.map fun l => (l.1, l.2.map sub) }) } }

/-! ### The header as bytes (R25, R140) -/

/-- The 256 bytes of a page header. -/
def hdrBytes (h : PageHeader) : List Byte :=
  let b (x : Bool) (i : Nat) : Nat := if x then 2 ^ i else 0
  let flags := b h.isSealed 0 + b h.frozen 1 + b h.shared 2 + b h.lowRank 3 + b h.lrRejected 4 + b h.escalated 5 + b h.migrating 6
    + b h.pinned 7 + b h.isProtected 8
  leBytes 8 h.pageRef ++ leBytes 8 h.owner ++ leBytes 4 h.firstPos ++ leBytes 4 (h.posCount % 65536 + 65536 * h.pLog2)
  ++ leBytes 4 (h.layer % 65536 + 65536 * (h.rotSeedId % 256)) ++ leBytes 4 (h.kFmt % 16 + 16 * (h.vFmt % 16) + 65536 * (h.lrRank % 64))
  ++ leBytes 4 (h.clipCount % 65536) ++ leBytes 4 flags ++ leBytes 4 h.refCount ++ leBytes 4 h.payloadCrc ++ leBytes 8 (h.storedLen % 65536)
  ++ leBytes 8 h.backingRef ++ leBytes 8 h.lrBasisRef ++ leBytes 8 h.allocTick ++ leBytes 4 (h.tenant % 1024 + 65536 * (h.group % 16))
  ++ List.replicate 44 0
  ++ (if h.sketch.isEmpty then List.replicate 64 0 else h.sketch)
  ++ leBytes 4 (h.residK % 65536 + 65536 * (h.residV % 65536))
  ++ leBytes 4 (h.srcKFmt % 16 + 16 * (h.srcVFmt % 16) + b h.cold 8 + b h.basis 9 + 1024 * (h.escKind % 4))
  ++ leBytes 8 h.basisNext ++ leBytes 4 (h.basisSeq % 65536) ++ leBytes 4 h.escPos ++ List.replicate 40 0

/-- The header that 256 bytes hold. -/
def hdrOf (bs : List Byte) : PageHeader :=
  let n (off w : Nat) : Nat := leNat ((bs.drop off).take w)
  let f (i : Nat) : Bool := bitsOf (n 0x24 4) i 1 == 1
  { pageRef := n 0 8, owner := n 8 8, firstPos := n 0x10 4, posCount := n 0x14 2, pLog2 := bitsOf (n 0x14 4) 16 4, layer := n 0x18 2,
    rotSeedId := n 0x1A 1, kFmt := bitsOf (n 0x1C 4) 0 4, vFmt := bitsOf (n 0x1C 4) 4 4, lrRank := bitsOf (n 0x1C 4) 16 6,
    clipCount := n 0x20 2, isSealed := f 0, frozen := f 1, shared := f 2, lowRank := f 3, lrRejected := f 4, escalated := f 5,
    migrating := f 6, pinned := f 7, isProtected := f 8, refCount := n 0x28 4, payloadCrc := n 0x2C 4, storedLen := n 0x30 2,
    backingRef := n 0x38 8, lrBasisRef := n 0x40 8, allocTick := n 0x48 8, tenant := bitsOf (n 0x50 4) 0 10,
    group := bitsOf (n 0x50 4) 16 4, sketch := (bs.drop 0x80).take 64, residK := n 0xC0 2, residV := n 0xC2 2,
    srcKFmt := bitsOf (n 0xC4 4) 0 4, srcVFmt := bitsOf (n 0xC4 4) 4 4, cold := bitsOf (n 0xC4 4) 8 1 == 1,
    basis := bitsOf (n 0xC4 4) 9 1 == 1, escKind := bitsOf (n 0xC4 4) 10 2, basisNext := n 0xC8 8, basisSeq := n 0xD0 2,
    escPos := n 0xD4 4 }

/-! ### Coherence messages -/

/-- This chip's member number in its pod (R204). -/
def State.member (s : State) : Nat := s.get Fld.MOV_CTL_SELF_MEMBER

/-- The chip of a pod member, if its entry is valid; this chip's own entry always is (R204, R235). -/
def State.memberChip (s : State) (m : Nat) : Option Nat :=
  if m = s.member then some s.chipId
  else if s.is (Fld.MOV_MEMBER_VALID m) then some (s.get (Fld.MOV_MEMBER_CHIP_ID m)) else none

/-- The pod member that is a chip. -/
def State.chipMember (s : State) (c : Nat) : Option Nat := firstBelow 256 fun m => s.memberChip m == some c

/-- Whether a chip is a valid member of this chip's pod (R188, R204). -/
def State.inPod (s : State) (c : Nat) : Bool := c == s.chipId || (s.chipMember c).isSome

/-- A coherence message without page data goes to a member. -/
def sendCoh (tgt : Nat) (t : CohType) (seq : Nat) (refs : List Nat) : Act := look fun s =>
  emit (.coh tgt { type := t, sender := s.member, seq := seq, refs := refs } none [] [])

/-- Changes of the coherence state. -/
def onCoh (f : Coh → Coh) : Act := onBody fun b => { b with coh := f b.coh }

/-- INVAL for one reference goes to a reader, under the next SEQ of the pair (R217). -/
def sendInval (ref : Nat) (r : Nat) : Act := look fun s =>
  let q := (tget s.body.coh.invalSeq r).getD 0
  acts [sendCoh r .inval q [ref], onCoh fun c => { c with invalSeq := tput c.invalSeq r (wrapAdd 32 q 1) },
        count Reg.MOV_INVAL_SENT 1]

/-- An event of R217 on a frame: INVAL goes to every reader of its directory entry, which becomes BLOCKED. A frame whose
entry is already BLOCKED keeps its pending readers. -/
def dirEvent (k : Nat) (released : Bool) : Act := look fun s =>
  match tget s.body.coh.dir k with
  | none => nop
  | some d =>
    if d.blocked then onCoh fun c => { c with dir := tput c.dir k { d with released := d.released || released } }
    else
      let ref := mkRef s.chipId (keyTier k) (keyFrame k) d.gen
      acts [each d.readers (sendInval ref),
            onCoh fun c => { c with dir := (tput c.dir k
              { d with blocked := true, pending := d.readers, resent := false, released := released }) }]

/-- Whether a frame number may be allocated: free, not a tombstone, and not waiting for its readers (R217, R52). -/
def State.mayAlloc (s : State) (k : Nat) : Bool :=
  (s.frame k).isNone && match tget s.body.coh.dir k with
    | some d => !d.blocked
    | none => true

/-- The counter of free frames of a tier. -/
def freeReg (k : Nat) : Nat := if keyTier k = 0 then Reg.STM_FREE_NEAR else Reg.STM_FREE_FAR

/-- A frame is taken: its entry is made with its own reference and the present tick. -/
def takeFrame (k : Nat) (f : Frame) : Act := fun s =>
  acts [setReg (freeReg k) (s.rd (freeReg k) - 1),
        onPages (fun p => { p with readSeq := p.readSeq + 1 }),
        putFrame k { f with lastRead := s.body.pages.readSeq + 1,
                            hdr := { f.hdr with pageRef := s.refOf k, allocTick := s.body.tick } },
        meterMod f.hdr.tenant fun m => if keyTier k = 0 then { m with near := m.near + 1 } else { m with far := m.far + 1 }] s

/-- A frame's entry goes: its generation goes up at once; readers are invalidated, and the number waits for them (R34, R217). -/
def freeEntry (k : Nat) : Act := look fun s =>
  match s.frame k with
  | none => nop
  | some f =>
    acts [dirEvent k true,
          when (0 < f.hdr.refCount) (eff (.refDrop f.hdr.refCount)),
          onPages fun p => { p with frames := tdel p.frames k, gens := tput p.gens k (wrapAdd 16 ((tget p.gens k).getD 0) 1) },
          setReg (freeReg k) (s.rd (freeReg k) + 1),
          meterMod f.hdr.tenant fun m => if keyTier k = 0 then { m with near := m.near - 1 } else { m with far := m.far - 1 }]

/-- A frame is freed. A migration of it is abandoned, its destination with it; a frame whose content has moved stays until no
holder needs it (R51, R52). -/
def freeOne (k : Nat) : Act := look fun s =>
  match (s.frame k).bind (·.mig) with
  | none => freeEntry k
  | some m => match m.st with
    | .migrating => acts [count Reg.STM_MIG_ABORT 1, dropFld Fld.STM_STATUS_MIG_ACTIVE 1,
                          match s.exact m.dst with | some d => freeEntry d | none => nop, freeEntry k]
    | _ => nop

/-- A low-rank page's reference on its basis is dropped; the basis frames go with the last one (R135). -/
def dropBasis (r : Nat) : Act := look fun s =>
  match s.resolve r with
  | none => nop
  | some k => match s.frame k with
    | none => nop
    | some f =>
      if f.hdr.refCount = 0 then nop
      else acts [modHdr k (fun h => { h with refCount := h.refCount - 1 }), eff (.refDrop 1),
                 when (f.hdr.refCount == 1) (acts [match s.resolve f.hdr.basisNext with
                                                    | some n => freeOne n
                                                    | none => nop, freeOne k])]

/-- A frame is freed, and a low-rank page's reference on its basis dropped. -/
def freeFrame (k : Nat) : Act := look fun s =>
  match s.frame k with
  | none => nop
  | some f => acts [freeOne k, when (f.hdr.lowRank && f.hdr.lrBasisRef != 0) (dropBasis f.hdr.lrBasisRef)]

/-! ### Sealing and freezing (R29, R30) -/

/-- PAYLOAD_CRC: CRC-32C over STORED_LEN payload bytes and the scale slot (R25). -/
def pageCrc (s : State) (k stored : Nat) : Nat := crc32c (s.bytes (payloadAt k) stored ++ s.bytes (scaleAt k) 1024)

/-- STORED_LEN of a page of n positions of b bytes (R24, R214). -/
def storedLen (n b : Nat) : Nat := n * b

/-- An update of a frame is held until the flip: its migration's log is full, or the frame is BLOCKED (R51). -/
def migHolds (s : State) (k : Nat) : Bool :=
  match (s.frame k).bind (·.mig) with
  | some m => match m.st with
    | .migrating => s.get Fld.STM_MIG_CTL_LOG_DEPTH ≤ m.log.length
    | .blocked => true
    | .tombstone => false
  | none => false

/-- An update of a frame: applied, and logged where the frame migrates; or held (R51). -/
def update (k : Nat) (u : MigUpd) (a : Act) : Act := look fun s =>
  match (s.frame k).bind (·.mig) with
  | none => a
  | some m =>
    if migHolds s k then
      acts [modFrame k (fun f => { f with mig := some { m with heldUpds := m.heldUpds ++ [u] } }),
            when (m.st == .migrating) (count Reg.STM_MIG_HOLD 1)]
    else acts [modFrame k (fun f => { f with mig := some { m with log := m.log ++ [u] } }), a]

/-- The positions of a page as stored: coefficients for a low-rank page. -/
def pagePos (s : State) (m : Model) (k : Nat) (f : Frame) : List PosKV :=
  let n := if f.hdr.lowRank then f.hdr.lrRank else m.headDim
  let bs := s.bytes (payloadAt k) f.hdr.storedLen
  let sc := s.bytes (scaleAt k) 1024
  (List.range f.hdr.posCount).map fun i => posAt m f.hdr.kFmt f.hdr.vFmt n bs sc i

/-- A full page is sealed: SEALED set, PAYLOAD_CRC and the page sketch computed (R29, R89); readers of the tail are
invalidated (R217). -/
def sealPage (k : Nat) : Act := look fun s =>
  match s.frame k with
  | none => nop
  | some f =>
    let sk : List Byte × Nat := match s.modelOfTenant f.hdr.tenant with
      | some m => pageSketch m (pagePos s m k f)
      | none => ([], 0)
    update k .seal (acts [
          modHdr k (fun h => { h with isSealed := true, payloadCrc := pageCrc s k f.hdr.storedLen, sketch := sk.1 }),
          count Reg.SCT_SKETCH_SAT sk.2, dirEvent k false])

/-- A partial page is frozen: FROZEN set, PAYLOAD_CRC computed (R30). -/
def freezePage (k : Nat) : Act := look fun s =>
  match s.frame k with
  | none => nop
  | some f =>
    if f.hdr.isSealed || f.hdr.frozen then nop
    else update k .freeze (acts [
               modHdr k (fun h => { h with frozen := true, payloadCrc := pageCrc s k f.hdr.storedLen }), dirEvent k false])

/-! ### Allocation (R36 to R43) -/

/-- The bit of an allocation kind in KIND_MASK (R55). -/
def kindBit : AllocKind → Nat
  | .prompt => 0 | .generation => 1 | .cache => 2 | .remoteCache => 3 | .sharedPrefix => 4

/-- The ways a kind and tenant group may be allocated in: the union of the matching enabled partitions (R37). -/
def permittedWays (s : State) (kind : AllocKind) (group : Nat) : Nat :=
  (List.range 16).foldl (fun acc n =>
    let km := s.get (Fld.STM_NPART_KIND_MASK n)
    let gm := s.get (Fld.STM_NPART_GROUP_MASK n)
    if bitsOf km (kindBit kind) 1 = 1 ∧ bitsOf gm group 1 = 1 then acc ||| s.get (Fld.STM_NPART_WAY_MASK n) else acc) 0

/-- Whether some enabled way partition matches. -/
def wayMatches (s : State) (kind : AllocKind) (group : Nat) : Bool :=
  (List.range 16).any fun n =>
    bitsOf (s.get (Fld.STM_NPART_KIND_MASK n)) (kindBit kind) 1 == 1 && bitsOf (s.get (Fld.STM_NPART_GROUP_MASK n)) group 1 == 1

/-- The channels of a channel partition, and the frames it owns: the first number and the count (R42). A partition's
range starts at its first channel's share (DESIGN CHOICE, log entry 5). -/
def fpartChannels (s : State) (n : Nat) : Nat := 8 * 2 ^ s.get (Fld.STM_FPART_CHAN_SIZE n)
def fpartRange (s : State) (n : Nat) : Nat × Nat :=
  (458752 * s.get (Fld.STM_FPART_CHAN_BASE n), 458752 * fpartChannels s n)

/-- The first enabled channel partition that matches a kind and tenant group (R43). -/
def fpartFor (s : State) (kind : AllocKind) (group : Nat) : Option Nat :=
  firstBelow 8 fun n =>
    bitsOf (s.get (Fld.STM_FPART_KIND_MASK n)) (kindBit kind) 1 == 1 && bitsOf (s.get (Fld.STM_FPART_GROUP_MASK n)) group 1 == 1

/-- A far frame to take, and what taking it does first: freeing a backing copy, oldest first, where the partition has no
free frame (R43, R44). The lowest free number is taken (DESIGN CHOICE, log entry 5). -/
def placeFar (s : State) (kind : AllocKind) (group : Nat) : Option (Nat × Act) :=
  match fpartFor s kind group with
  | none => none
  | some n =>
    let (base, cnt) := fpartRange s n
    let used := s.body.pages.frames.length + s.body.coh.dir.length + 1
    match firstFrom (fun i => s.mayAlloc (fkey 1 i)) (min cnt used) base with
    | some i => some (fkey 1 i, nop)
    | none =>
      -- backing copies in the partition, oldest first
      let backing := s.body.pages.frames.filterMap fun e =>
        if keyTier e.1 = 0 ∧ e.2.hdr.backingRef ≠ 0 then
          match s.resolve e.2.hdr.backingRef with
          | some fk =>
            if base ≤ keyFrame fk ∧ keyFrame fk < base + cnt ∧ (tget s.body.coh.dir fk).isNone then
              (s.frame fk).map fun g => (g.hdr.allocTick, e.1, fk)
            else none
          | none => none
        else none
      match backing with
      | [] => none
      | b :: l =>
        let (_, nk, fk) := l.foldl (fun m x => if x.1 < m.1 then x else m) b
        some (fk, acts [modHdr nk (fun h => { h with backingRef := 0 }), freeFrame fk])

/-! ### Bases and far-state forms (R132 to R139, 05_transcoder.md) -/

/-- The transcoder profile of a tenant, and whether the tenant is protected (R139). -/
def State.trcProf (s : State) (t : Nat) : Nat := ((s.tenantRec t).map tenantTrc).getD 0
def State.isProt (s : State) (t : Nat) : Bool := ((s.tenantRec t).map tenantProtected).getD false

/-- The position count of a request's layer on this chip. -/
def State.layerCount (s : State) (h l : Nat) : Nat :=
  match tget s.body.locs h with
  | some c => ((tget c.layers l).map (·.count)).getD 0
  | none => 0

/-- Pipes in service; below 12 pages are written in stored form (R145). -/
def State.pipesOk (s : State) : Nat := ((List.range 16).filter fun i => bitsOf (s.get Fld.TRC_STATUS_PIPES_OK) i 1 == 1).length

/-- A page may be projected or converted: sealed, of no prefix, no basis, not rejected, full pipes (R123, R145), and outside
the exact window (R136). -/
def compressible (s : State) (f : Frame) : Bool :=
  let h := f.hdr
  h.isSealed && !h.shared && !h.basis && !h.lrRejected && 12 ≤ s.pipesOk && !s.isProt h.tenant
  && h.firstPos + h.posCount ≤ s.layerCount h.owner h.layer - 64 * s.get (Fld.TRC_PROF_EXACT_WIN (s.trcProf h.tenant))

/-- A page written into far state needs a basis (R136). -/
def needsBasis (s : State) (f : Frame) : Bool :=
  compressible s f && !f.hdr.lowRank && s.is (Fld.TRC_PROF_LR_FAR (s.trcProf f.hdr.tenant))

/-- The first basis frame of a (request, layer, sequence) in a tier of this chip (R135). -/
def basisCopy (s : State) (h l seq tier : Nat) : Option Nat :=
  let all := s.body.pages.frames.filter fun e =>
    e.2.hdr.basis && e.2.hdr.owner == h && e.2.hdr.layer == l && e.2.hdr.basisSeq == seq && keyTier e.1 == tier && !e.2.staging
  (all.find? fun e => !all.any fun o => o.2.hdr.basisNext == s.refOf e.1).map (·.1)

/-- The bases of a (request, layer) in far state: sequence and reference of the first frame. -/
def farBases (s : State) (h l : Nat) : List (Nat × Nat) :=
  let all := s.body.pages.frames.filter fun e =>
    e.2.hdr.basis && e.2.hdr.owner == h && e.2.hdr.layer == l && keyTier e.1 == 1 && !e.2.staging
  (all.filter fun e => !all.any fun o => o.2.hdr.basisNext == s.refOf e.1).map fun e => (e.2.hdr.basisSeq, s.refOf e.1)

/-- The latest far basis of a (request, layer). -/
def latestBasis (s : State) (h l : Nat) : Option (Nat × Nat) :=
  match tget s.body.locs h with
  | some c => match tget c.layers l with
    | some y => match y.bases.reverse with
      | (seq, _) :: _ => (basisCopy s h l seq 1).map fun k => (seq, k)
      | [] => none
    | none => none
  | none => none

/-- The bytes and scales of a basis, both frames. -/
def basisBytes (s : State) (k : Nat) : List Byte × List Byte :=
  match s.frame k with
  | none => ([], [])
  | some f =>
    let a := (s.bytes (payloadAt k) f.hdr.storedLen, s.bytes (scaleAt k) (f.hdr.storedLen / 32))
    match s.resolve f.hdr.basisNext with
    | some n => match s.frame n with
      | some g => (a.1 ++ s.bytes (payloadAt n) g.hdr.storedLen, a.2 ++ s.bytes (scaleAt n) (g.hdr.storedLen / 32))
      | none => a
    | none => a

/-- A basis as the transcoder and the engines read it. -/
def readBasis (s : State) (m : Model) (k : Nat) : Basis :=
  let b := basisBytes s k
  basisOf m (((s.frame k).map (·.hdr.lrRank)).getD 0) b.1 b.2

/-- A page's content and header after it is written. -/
structure FarForm where
  hdr : PageHeader
  bytes : List Byte
  scales : List Byte
deriving DecidableEq, Repr

/-- The form a page takes in far state (R136, R137): projected over a basis where it must be and the residual test passes,
4-bit where COLD_FMT asks for it; a page that fails the test keeps its form with LR_REJECTED set (R133). -/
def farForm (s : State) (k : Nat) (f : Frame) : FarForm :=
  let same : FarForm := { hdr := f.hdr, bytes := s.bytes (payloadAt k) 32768, scales := s.bytes (scaleAt k) 1024 }
  match s.modelOfTenant f.hdr.tenant with
  | none => same
  | some m =>
    let p := s.trcProf f.hdr.tenant
    let projected : FarForm := if !needsBasis s f then same else
      match latestBasis s f.hdr.owner f.hdr.layer with
      | none => same
      | some (seq, bk) =>
        match project m 0 (s.get (Fld.TRC_PROF_LR_THRESH p)) (pagePos s m k f) (readBasis s m bk) with
        | some st => { hdr := { f.hdr with lowRank := true, lrRank := st.rank, kFmt := 0, vFmt := 0, lrBasisRef := s.refOf bk,
                                           basisSeq := seq, residK := st.residK, residV := st.residV,
                                           srcKFmt := f.hdr.kFmt, srcVFmt := f.hdr.vFmt, storedLen := st.bytes.length },
                       bytes := st.bytes, scales := st.scales }
        | none => { same with hdr := { f.hdr with lrRejected := true } }
    let cf := s.get (Fld.TRC_PROF_COLD_FMT p)
    let h := projected.hdr
    if cf = 0 ∨ compressible s f = false ∨ h.lrRejected = true ∨ h.cold = true then projected
    else
      let n := if h.lowRank then h.lrRank else m.headDim
      let ps := (List.range h.posCount).map fun i => posAt m h.kFmt h.vFmt n projected.bytes projected.scales i
      let st := convert m (cf + 1) h.lrRank ps
      { hdr := { h with kFmt := cf + 1, vFmt := cf + 1, cold := true, storedLen := st.bytes.length,
                        srcKFmt := if h.lowRank then h.srcKFmt else h.kFmt, srcVFmt := if h.lowRank then h.srcVFmt else h.vFmt },
        bytes := st.bytes, scales := st.scales }

/-- The far-state form of a page, its basis named by another copy of it where one is given. -/
def farFormOver (s : State) (k : Nat) (f : Frame) (bk : Option Nat) : FarForm :=
  let w := farForm s k f
  match bk with
  | some b => { w with hdr := { w.hdr with lrBasisRef := s.refOf b } }
  | none => w

/-- A far frame's content becomes a page's far-state form, counted (R133, R134, R137); a low-rank page takes its reference on
the basis. -/
def putForm (fk : Nat) (f : Frame) (w : FarForm) : Act := look fun s =>
  let low := w.hdr.lowRank && !f.hdr.lowRank
  let rej := w.hdr.lrRejected && !f.hdr.lrRejected
  let t := f.hdr.tenant
  acts [clearMem (payloadAt fk) 32768, clearMem (scaleAt fk) 1024, store (payloadAt fk) w.bytes, store (scaleAt fk) w.scales,
        modFrame fk (fun x => { x with staging := false, hdr := { w.hdr with
          pageRef := s.refOf fk, allocTick := x.hdr.allocTick, backingRef := 0, refCount := x.hdr.refCount } }),
        look (fun s => modHdr fk fun h => { h with payloadCrc := pageCrc s fk w.hdr.storedLen }),
        count Reg.TRC_PAGES_ENC 1,
        when low (acts [count Reg.TRC_LR_PAGES 1, tcount t TReg.TRC_TLR_PAGES 1]),
        when rej (acts [count Reg.TRC_LR_REJECTED 1, tcount t TReg.TRC_TLR_REJ 1,
          onBody fun b => { b with locs := tmod b.locs f.hdr.owner fun c => { c with
            layers := tmod c.layers f.hdr.layer fun y => { y with lrRejects := y.lrRejects + 1 } } }]),
        when (w.hdr.cold && !f.hdr.cold) (count Reg.TRC_COLD_PAGES 1),
        when (w.hdr.lowRank && w.hdr.lrBasisRef != 0) (look fun s => match s.resolve w.hdr.lrBasisRef with
          | some b => acts [modHdr b (fun h => { h with refCount := h.refCount + 1 }), eff (.refTake 1)]
          | none => nop)]

/-- A far frame is taken for a page and takes its far-state form. -/
def writeFar (fk : Nat) (k : Nat) (f : Frame) (bk : Option Nat) : Act := fun s =>
  acts [takeFrame fk { f with mig := none, staging := true, hdr := { f.hdr with refCount := 0 } },
        putForm fk f (farFormOver s k f bk)] s

/-- A first pass starts for a (request, layer), one at a time (R134). -/
def startPass (h l : Nat) : Act := look fun s =>
  if s.body.pages.passes.contains (h, l) then nop
  else acts [onPages (fun p => { p with passes := p.passes ++ [(h, l)] }), bumpFld Fld.TRC_STATUS_PASSES_ACTIVE 1]

/-- A write of the layer needs a new basis: none yet, or LR_REBUILD rejections since the last (R134); a rebuild at MAX_BASES
is refused. -/
def passDue (s : State) (h l : Nat) : Option Bool :=
  match tget s.body.locs h with
  | none => none
  | some c => match tget c.layers l with
    | none => none
    | some y =>
      let reb := s.get Fld.TRC_CTL_LR_REBUILD
      if y.bases.isEmpty then some true
      else if reb ≠ 0 ∧ reb ≤ y.lrRejects then
        some ((y.bases.filter fun b => (basisCopy s h l b.1 1).isSome).length < s.get Fld.TRC_CTL_MAX_BASES)
      else none

/-- A page may be written into far state now; otherwise a first pass is due or running, and the write waits for it. -/
def basisReady (s : State) (f : Frame) : Bool :=
  !needsBasis s f || (!s.body.pages.passes.contains (f.hdr.owner, f.hdr.layer) && passDue s f.hdr.owner f.hdr.layer != some true)

/-- What a write that needs a basis does first: the pass it waits for, or the refusal of a rebuild, counted (R134). -/
def askBasis (f : Frame) : Act := look fun s =>
  if !needsBasis s f then nop
  else match passDue s f.hdr.owner f.hdr.layer with
    | some true => startPass f.hdr.owner f.hdr.layer
    | some false => acts [count Reg.TRC_BASIS_LIMIT 1, onBody fun b => { b with locs := tmod b.locs f.hdr.owner fun c => { c with
        layers := tmod c.layers f.hdr.layer fun y => { y with lrRejects := 0 } } }]
    | none => nop

/-- The header of a basis frame's copy, its backing copy named. -/
def basisHdr (h : PageHeader) (backing : Nat) : PageHeader := { h with refCount := 0, basisNext := 0, backingRef := backing }

/-- A copy of a basis in another tier, where there is none yet: the key of its first frame and what makes it (R135). Frames
are placed by a function of the state and of which of the two frames it is. -/
def copyBasis (s : State) (src tier : Nat) (place : State → Nat → Option (Nat × Act)) : Option (Nat × Act) :=
  match s.frame src with
  | none => none
  | some f =>
    match basisCopy s f.hdr.owner f.hdr.layer f.hdr.basisSeq tier with
    | some k => some (k, nop)
    | none =>
      let one (s : State) (from_ i : Nat) (g : Frame) : Option (Nat × Act) :=
        (place s i).map fun p => (p.1, acts [p.2,
          takeFrame p.1 { g with hdr := basisHdr g.hdr (if tier = 0 then s.refOf from_ else 0) },
          copyMem (payloadAt from_) (payloadAt p.1) 32768, copyMem (scaleAt from_) (scaleAt p.1) 1024])
      match one s src 0 f with
      | none => none
      | some (a, act) =>
        match s.resolve f.hdr.basisNext with
        | none => some (a, act)
        | some n => match s.frame n with
          | none => none
          | some g => (one (run act s) n 1 g).map fun q =>
              (a, acts [act, q.2, look fun s' => modHdr a fun h => { h with basisNext := s'.refOf q.1 }])

/-- A page is written into far state: its basis first where it is low-rank, then its own frame (R135, R136). None where
far state has no room or the write waits for a first pass. -/
def farWrite (s : State) (kind : AllocKind) (k : Nat) (f : Frame) : Option (Nat × Act) :=
  if !basisReady s f then none
  else
    let b : Option (Option Nat × Act) :=
      if f.hdr.lowRank then match s.resolve f.hdr.lrBasisRef with
        | some src => (copyBasis s src 1 fun s _ => placeFar s kind f.hdr.group).map fun p => (some p.1, p.2)
        | none => none
      else some (none, askBasis f)
    match b with
    | none => none
    | some (bk, a1) => (placeFar (run a1 s) kind f.hdr.group).map fun p => (p.1, acts [a1, p.2, writeFar p.1 k f bk])

/-- A near frame is copied down to far state as its page's far copy, through the transcoder, and the page lists name it
(R38 classes 3 and 4). The near frame is freed. -/
def copyDown (s : State) (kind : AllocKind) (k : Nat) (f : Frame) : Option Act :=
  (farWrite s kind k f).map fun p =>
    acts [p.2, look (fun s' => renameRef (s'.refOf k) (s'.refOf p.1)),
          modHdr p.1 (fun h => { h with refCount := f.hdr.refCount }),
          modHdr k (fun h => { h with refCount := 0 }), freeFrame k, count Reg.STM_EVICT_COPY 1]

/-- The eviction class of a near frame (R38); none where the frame is never evicted. -/
def evictClass (s : State) (k : Nat) (f : Frame) : Option Nat :=
  let listening : Bool := match tget s.body.locs f.hdr.owner with
    | some l => l.phase == .listening
    | none => false
  if f.hdr.pinned || f.hdr.basis || f.mig.isSome || f.staging || s.body.pages.busy.any (fun e => e.2 == k) || s.body.tick < f.holdUntil then none
  else if f.kind == .remoteCache then some 1
  else if f.hdr.isSealed && f.hdr.backingRef != 0 then some 2
  else if f.hdr.frozen && listening then some 3
  else if f.hdr.isSealed then some 4
  else none

/-- A remote page cache entry whose near frame is evicted: the entry goes and its home is sent DROP (R219). -/
def dropCached (k : Nat) : Act := look fun s =>
  match s.body.coh.cache.find? fun e => e.2.key == k with
  | none => nop
  | some (ref, c) => acts [onCoh (fun x => { x with cache := tdel x.cache ref }), sendCoh c.home .drop 0 [ref]]

/-- The eviction of a near frame (R38), where it can be made: its effects. A copy-down that finds far state full makes none. -/
def evict (s : State) (k : Nat) (f : Frame) : Option Act :=
  match evictClass s k f with
  | some 1 => some (acts [dropCached k, freeFrame k, count Reg.STM_EVICT_DROP 1])
  | some 2 => some (acts [renameRef (s.refOf k) f.hdr.backingRef, freeFrame k, count Reg.STM_EVICT_DROP 1])
  | some _ =>
    if f.hdr.backingRef ≠ 0 then
      some (acts [renameRef (s.refOf k) f.hdr.backingRef, freeFrame k, count Reg.STM_EVICT_DROP 1])
    else copyDown s .cache k f
  | none => none

/-- The two candidate places of a page in near state (R36): the keys of their way 0. -/
def nearPlaces (h l i : Nat) : List Nat :=
  [fkey 0 ((i + l) % 16 * 16384 + Config.nearHash h l i % 512 * 32),
   fkey 0 ((i + l + 8) % 16 * 16384 + Config.nearHash2 h l i % 512 * 32)]

/-- The victim of one set: the lowest class, and within it the least recently read frame (R38); only classes up to a
limit (R223). -/
def victim (s : State) (ways base maxClass : Nat) : Option (Nat × Frame) :=
  let cands := (List.range 32).filterMap fun w =>
    if bitsOf ways w 1 = 1 then
      match s.frame (base + w) with
      | some f => match evictClass s (base + w) f with
        | some c => if c ≤ maxClass then some (c, f.lastRead, base + w, f) else none
        | none => none
      | none => none
    else none
  match cands with
  | [] => none
  | c :: l =>
    let b := l.foldl (fun m x => if x.1 < m.1 ∨ (x.1 = m.1 ∧ x.2.1 < m.2.1) then x else m) c
    some (b.2.2.1, b.2.2.2)

/-- A near frame of one set to take, and what taking it does first; the lowest free permitted way (DESIGN CHOICE, log
entry 5), else an eviction. -/
def placeInSet (s : State) (ways base maxClass : Nat) : Option (Nat × Act) :=
  match firstBelow 32 (fun w => bitsOf ways w 1 == 1 && s.mayAlloc (base + w)) with
  | some w => some (base + w, nop)
  | none => match victim s ways base maxClass with
    | some (k, f) =>
      -- the frame's number waits for its readers where it has any (R217)
      if (tget s.body.coh.dir k).isSome then none else (evict s k f).map fun a => (k, a)
    | none => none

/-- A near frame for page i of layer l of a request: the first candidate place that has a free or evictable frame in a
permitted way (R36, R37). -/
def placeNear (s : State) (h l i : Nat) (kind : AllocKind) (group maxClass : Nat) : Option (Nat × Act) :=
  let ways := permittedWays s kind group
  match nearPlaces h l i with
  | [a, b] => match placeInSet s ways a maxClass with
    | some p => some p
    | none => placeInSet s ways b maxClass
  | _ => none

/-- A failed allocation is counted; a near frame whose copy-down found far state full is ineligible as a victim for 1 ms
(R39). -/
def allocFailed (h l i : Nat) (kind : AllocKind) (group : Nat) : Act := look fun s =>
  let ways := permittedWays s kind group
  acts [count Reg.STM_ALLOC_FAIL 1,
        each (nearPlaces h l i) fun base => match victim s ways base 4 with
          | some (k, f) =>
            if !basisReady s f then askBasis f
            else if (evict s k f).isNone then modFrame k (fun x => { x with holdUntil := s.body.tick + 1000000 }) else nop
          | none => nop]

/-! ### Copies between tiers -/

/-- Where the basis frames of a request's layer are placed in near state: by page indexes beyond every page's (DESIGN
CHOICE, log entry 5). -/
def nearBasisPlace (h l seq group : Nat) (kind : AllocKind) (s : State) (i : Nat) : Option (Nat × Act) :=
  placeNear s h l (65536 + 2 * seq + i) kind group 4

/-- A page read into a near frame takes its content: from a far frame of this chip as its near copy, with BACKING_REF naming
the far frame, the page lists naming the near one (R44); a low-rank page's near header names the near copy of its basis. -/
def promote (fk k : Nat) (kind : AllocKind) : Act := look fun s =>
  match s.frame fk with
  | none => nop
  | some f =>
    let nb := if f.hdr.lowRank then basisCopy s f.hdr.owner f.hdr.layer f.hdr.basisSeq 0 else none
    acts [onPages (fun p => { p with readSeq := p.readSeq + 1 }),
          putFrame k { hdr := { f.hdr with pageRef := s.refOf k, allocTick := s.body.tick, backingRef := s.refOf fk,
                                           refCount := f.hdr.refCount,
                                           lrBasisRef := match nb with | some b => s.refOf b | none => f.hdr.lrBasisRef },
                       kind := kind, lastRead := s.body.pages.readSeq + 1 },
          copyMem (payloadAt fk) (payloadAt k) 32768, copyMem (scaleAt fk) (scaleAt k) 1024,
          modHdr fk (fun h => { h with refCount := 0 }),
          match nb with
          | some b => acts [modHdr b (fun h => { h with refCount := h.refCount + 1 }), eff (.refTake 1)]
          | none => nop,
          renameRef (s.refOf fk) (s.refOf k)]

/-! ### References (R34) -/

/-- An entry of the prefix page table changes. -/
def modPPage (i : Nat) (f : PPage → PPage) : Act := onRam fun r => { r with prefixPages := tmod r.prefixPages i f }

/-- REF_COUNT of a page in the Kennel of this chip. -/
def ppageRefs (s : State) (r : Nat) : Option Nat :=
  if refChip r = s.chipId then (tget s.kr.prefixPages (refFrame r)).map (·.refCount) else none

/-- One reference on a page is taken: REF_COUNT and the ledger go up together (R54). -/
def takeRef (r : Nat) : Act := look fun s =>
  if refTier r = 2 then when (ppageRefs s r).isSome (acts [modPPage (refFrame r) fun e => { e with refCount := e.refCount + 1 }, eff (.refTake 1)])
  else match s.resolve r with
  | none => nop
  | some k => update k (.refs 1) (acts [modHdr k (fun h => { h with refCount := h.refCount + 1 }), eff (.refTake 1)])

/-- The backing copy of a near frame. -/
def backingOf (s : State) (k : Nat) : Option Nat :=
  match s.frame k with
  | some f => if f.hdr.backingRef = 0 then none else s.resolve f.hdr.backingRef
  | none => none

/-- A near copy and its backing copy are freed together (R44). -/
def freePage (k : Nat) : Act := look fun s =>
  match backingOf s k with
  | some fk => acts [freeFrame k, freeFrame fk]
  | none => freeFrame k

/-- One reference on a page is dropped; at zero the frame is freed in the same operation, and its generation goes up; a
migration of the frame is abandoned (R34, R51). -/
def dropRef (r : Nat) : Act := look fun s =>
  if refTier r = 2 then when (0 < (ppageRefs s r).getD 0) (acts [modPPage (refFrame r) fun e => { e with refCount := e.refCount - 1 }, eff (.refDrop 1)])
  else match s.resolve r with
  | none => nop
  | some k => match s.frame k with
    | none => nop
    | some f =>
      if f.hdr.refCount = 0 then nop
      else update k (.refs (-1)) (acts [modHdr k (fun h => { h with refCount := h.refCount - 1 }), eff (.refDrop 1),
        when (f.hdr.refCount == 1) (freePage k)])

/-- Every page reference of a prefix, in layer and page order. -/
def Prefix.refs (p : Prefix) : List Nat := (p.pages.map (·.2)).foldr (· ++ ·) []

/-- The prefix of a handle, its incarnation current. -/
def State.prefixOf (s : State) (h : Nat) : Option Prefix :=
  match tget s.body.pages.prefixes (handleSlot h) with
  | some p => if p.handle = h ∧ handleHome h = s.chipId then some p else none
  | none => none

/-- A prefix's entry is changed. -/
def putPrefix (h : Nat) (p : Prefix) : Act := onPages fun x => { x with prefixes := tput x.prefixes (handleSlot h) p }

/-- The entry a prefix has at this point is changed. -/
def modPrefix (h : Nat) (f : Prefix → Prefix) : Act := look fun s =>
  match s.prefixOf h with
  | some p => putPrefix h (f p)
  | none => nop

/-- A prefix without references goes (R34). -/
def reapPrefix (h : Nat) : Act := look fun s =>
  match s.prefixOf h with
  | some p => if !p.hostRef && p.users.isEmpty then
      acts [onPages fun x => { x with prefixes := tdel x.prefixes (handleSlot h) },
            match prefixImage s h with
            | some slot => acts [releaseImage slot, onRam fun r => { r with prefixPages := r.prefixPages.filter fun e => e.2.slot != slot }]
            | none => nop]
    else nop
  | none => nop

/-- A request takes its references on a prefix homed here. -/
def joinPrefix (req h : Nat) : Act := look fun s =>
  match s.prefixOf h with
  | some p => acts [each p.refs takeRef, putPrefix h { p with users := p.users ++ [req] }]
  | none => nop

/-- A request drops its references on a prefix homed here. -/
def leavePrefix (req h : Nat) : Act := look fun s =>
  match s.prefixOf h with
  | some p =>
    if p.users.contains req then
      acts [each p.refs dropRef, putPrefix h { p with users := p.users.erase req }, reapPrefix h]
    else nop
  | none => nop

end Sys2Proof.Machine
end

