-- ==== Sys2Proof/Machine/Fabric.lean ====
section
/-! DEFINITION. Accesses over the fabric from this chip's side (R202 to R213, 08_fabric_memory_semantics.md): fabric addresses,
the window check, issuing an access, and the memory that plain accesses reach on this chip. -/

namespace Sys2Proof.Machine

/-! ### Fabric addresses (R202, R203) -/
def faMember (a : Nat) : Nat := a / 2 ^ 56 % 256
def faAperture (a : Nat) : Nat := a / 2 ^ 52 % 16
def faOffset (a : Nat) : Nat := a % 2 ^ 52
def mkFa (member aperture off : Nat) : Nat := member * 2 ^ 56 + aperture * 2 ^ 52 + off

/-- The region of an offset in apertures 0 and 1, and the offset within it. -/
def faRegion (a : Nat) : Nat := faOffset a / 2 ^ 48
def faInner (a : Nat) : Nat := faOffset a % 2 ^ 48

/-- The context of an access (R205): firmware, or a tenant. -/
inductive AccCtx where
  | firmware
  | tenant (t : Nat)
deriving DecidableEq, Repr

/-- The bytes an access touches. -/
def AccKind.size : AccKind → Nat
  | .load n => n
  | .store d => d.length
  | .atomic _ w _ _ => w
  | .pageRead _ _ => 0
  | .hint _ => 16
  | .pageCopy _ => 0

/-- Whether a window entry grants a kind (R235). -/
def winGrants (s : State) (n : Nat) : AccKind → Bool
  | .load _ => s.is (Fld.MOV_WIN_LO_LOAD n)
  | .store _ => s.is (Fld.MOV_WIN_LO_STORE n)
  | .atomic _ _ _ _ => s.is (Fld.MOV_WIN_LO_ATOMIC n)
  | .pageRead _ _ => s.is (Fld.MOV_WIN_LO_PAGE_READ n)
  | .hint _ => s.is (Fld.MOV_WIN_LO_HINT n)
  | .pageCopy _ => s.is (Fld.MOV_WIN_LO_STORE n)

/-- A window entry covers aperture and bytes. -/
def winCovers (s : State) (n aperture off size : Nat) : Bool :=
  bitsOf (s.get (Fld.MOV_WIN_LO_APERTURES n)) aperture 1 == 1 &&
  s.get (Fld.MOV_WIN_HI_BASE n) * 4096 ≤ off &&
  off + size ≤ s.get (Fld.MOV_WIN_HI_BASE n) * 4096 + 2 ^ s.get (Fld.MOV_WIN_HI_SIZE_LOG2 n)

/-- The window check of an access this chip sends (R205). -/
def winPass (s : State) (ctx : AccCtx) (addr : Nat) (k : AccKind) : Bool :=
  let m := faMember addr
  (List.range 256).any fun n =>
    s.is (Fld.MOV_WIN_LO_ENABLE n) && !s.is (Fld.MOV_WIN_LO_AGENT n)
    && s.get (Fld.MOV_WIN_LO_MEMBER_FIRST n) ≤ m && m ≤ s.get (Fld.MOV_WIN_LO_MEMBER_LAST n)
    && winCovers s n (faAperture addr) (faOffset addr) k.size && winGrants s n k
    && match ctx with
       | .firmware => s.is (Fld.MOV_WIN_LO_FW n)
       | .tenant t => s.is (Fld.MOV_WIN_LO_ANY_TENANT n) || s.get (Fld.MOV_WIN_LO_TENANT n) == t

/-- The check of an access an agent sends (R206). -/
def agentPass (s : State) (agent addr : Nat) (k : AccKind) : Bool :=
  (List.range 256).any fun n =>
    s.is (Fld.MOV_WIN_LO_ENABLE n) && s.is (Fld.MOV_WIN_LO_AGENT n) && s.get (Fld.MOV_WIN_LO_AGENT_ID n) == agent
    && winCovers s n (faAperture addr) (faOffset addr) k.size && winGrants s n k

/-- The sizes, alignments and apertures of R208; a 16-byte store is the event store of R231 only. -/
def accShape (addr : Nat) (k : AccKind) (event : Bool) : Bool :=
  let ap := faAperture addr
  let off := faOffset addr
  let sized (n : Nat) : Bool :=
    ((n == 4 || n == 8) && off % n == 0) || (64 ≤ n && n ≤ 4096 && n % 64 == 0 && off % 64 == 0 && off % 4096 + n ≤ 4096)
  match k with
  | .load n => ap ≤ 4 && sized n
  | .store d =>
    let region := ap ≤ 1 && (faRegion addr == 0 || faRegion addr == 1 || (ap == 1 && faRegion addr == 4))
    (sized d.length || (event && d.length == 16)) && (region || ap == 2 || ap == 3 || (ap == 4 && (d.length == 4 || d.length == 8)))
  | .atomic _ w _ _ => (w == 4 || w == 8) && off % w == 0 && ((ap == 1 && faRegion addr == 4) || ap == 2)
  | .pageRead _ _ => true
  | .hint _ => ap == 1 && faRegion addr == 5
  | .pageCopy _ => ap ≤ 1

/-- A window fault (R205): the flag, which its companion counter and MOV_WIN_FAULT count. -/
def windowFault : Act := acts [count Reg.MOV_WIN_FAULT 1, raise Blk.mov 0]

/-- Changes of the fabric's state. -/
def onFabric (f : Fabric → Fabric) : Act := onBody fun b => { b with fabric := f b.fabric }

/-- An access goes out and waits for its answer; behind a fence of its requester, or to a member of which an access of the requester
has timed out, it is held back (R212, R247). -/
def sendAccess (who : Requester) (addr : Nat) (k : AccKind) : Act := look fun s =>
  let fb := s.body.fabric
  if fb.fences.contains who || fb.failed.contains (who, faMember addr) then
    onFabric fun f => { f with held := f.held ++ [(who, k, addr)] }
  else
    acts [onFabric (fun f => { f with tag := f.tag + 1,
                                      waiting := tput f.waiting f.tag { who := who, kind := k, addr := addr, issued := s.body.tick } }),
          emit (.access fb.tag addr k)]

/-- Whether an access may leave: its shape, its member's entry and its window (R204, R205, R208). -/
def mayIssue (s : State) (ctx : AccCtx) (addr : Nat) (k : AccKind) (event : Bool) : Bool :=
  accShape addr k event && (s.memberChip (faMember addr)).isSome && winPass s ctx addr k

/-! ### Memory of this chip that plain loads and stores reach (R69, R203) -/

/-- The pool slot of slot i of job queue q. -/
def jobPool (s : State) (q i : Nat) : Nat := s.get (Fld.DAE_JQ_CFG_SLOT_BASE q) + i

/-- A job queue takes descriptors: it is enabled, or disabled with jobs it had accepted still to end (R86). -/
def jqOpen (s : State) (q : Nat) : Bool := s.is (Fld.DAE_JQ_CFG_ENABLE q) || s.body.jobs.jobs.any fun e => e.2.q == q

/-- Whether a job-queue slot is one an access may reach (R69). -/
def jobSlotOk (s : State) (q i : Nat) : Bool := jqOpen s q && i < 2 ^ s.get (Fld.DAE_JQ_CFG_DEPTH_LOG2 q)

/-- An access to a disabled queue or beyond its depth is counted (R69). -/
def jobRange : Act := raise Blk.dae 6

/-- A store cut at the 64-byte slots it covers. -/
def slotPieces : Nat → Nat → List Byte → List (Nat × List Byte)
  | 0, _, _ => []
  | n + 1, o, d => if d.isEmpty then [] else
      let k := 64 - o % 64
      (o, d.take k) :: slotPieces n (o + k) (d.drop k)

/-- A plain store to this chip's own memory: the effect, or none where the store is refused (R207). Aperture 2's doorbells and
apertures 3 and 4 are not plain memory. -/
def plainStore (s : State) (addr : Nat) (d : List Byte) : Option Act :=
  let off := faInner addr
  match faAperture addr with
  | 2 =>
    let o := faOffset addr
    if o < 0x4000000 then
      -- descriptor slots: what lies beyond an enabled queue's depth is ignored and counted
      let ps := (slotPieces d.length o d).map fun p => (p, p.1 / 0x40000, p.1 % 0x40000 / 64)
      some (acts [each (ps.filter fun p => jobSlotOk s p.2.1 p.2.2) fun p =>
                    store (Mem.jobSlot (jobPool s p.2.1 p.2.2) + p.1.1 % 64) p.1.2,
                  when (ps.any fun p => !jobSlotOk s p.2.1 p.2.2) jobRange])
    else if 0x10000000 ≤ o && o + d.length ≤ 0x14000000 then some (store (Mem.jobBuffer + (o - 0x10000000)) d)
    else if o < 0x14000000 then some nop
    else none
  | 0 | 1 =>
    let tier := faAperture addr
    let lim := if tier = 0 then s.get Fld.STM_CAPS_NEAR_FRAMES else s.get Fld.STM_CAPS_FAR_FRAMES
    let isOpen (frame : Nat) : Bool :=
      frame < lim && match s.frame (fkey tier frame) with
        | some f => f.storeTarget && !f.hdr.isSealed && !f.hdr.frozen
        | none => false
    let target (size at_ : Nat) : Option Act :=
      let first := off / size
      let frames := (List.range ((off + d.length - 1) / size - first + 1)).map (first + ·)
      if frames.all isOpen then some (acts [store at_ d, each frames fun n => dirEvent (fkey tier n) false]) else none
    match faRegion addr with
    | 0 => target 32768 (payloadAt (fkey tier (off / 32768)) + off % 32768)
    | 1 => target 1024 (scaleAt (fkey tier (off / 1024)) + off % 1024)
    | 4 =>
      if tier = 1 && off + d.length ≤ s.get Fld.MOV_CTL_SHARED_MIB * 2 ^ 20 then some (store (Mem.shared + off) d) else none
    | _ => none
  | _ => none

/-- Whether a store goes to plain memory of this chip. One to a doorbell, an arrival counter or a register of this chip goes out like one
to another member, and comes back to this chip as a command. -/
def plainHere (s : State) (addr : Nat) : Bool :=
  faMember addr == s.member && (faAperture addr ≤ 1 || (faAperture addr == 2 && !(0x4000000 ≤ faOffset addr && faOffset addr < 0x4000800)))

/-- A store of this chip: to its own memory performed under the same rules, to another member sent. Its window check (R205)
has passed. -/
def issueStore (who : Requester) (addr : Nat) (d : List Byte) : Act := look fun s =>
  if plainHere s addr then
    match plainStore s addr d with
    | some a => a
    | none => acts [count Reg.MOV_TGT_DISCARD 1, raise Blk.mov 2, count Reg.MOV_REJECTED 1, raise Blk.mov 1]
  else sendAccess who addr (.store d)

end Sys2Proof.Machine
end

