-- ==== Sys2Proof/Machine/Acn.lean ====
section
/-! DEFINITION. Arrival counters (R228 to R233, 08_fabric_memory_semantics.md): increments, arming, firing, and the events of
their routes. -/

namespace Sys2Proof.Machine

/-- An arrival counter. -/
def State.counter (s : State) (n : Nat) : Counter := (tget s.body.acn.counters n).getD {}

/-- A counter is replaced. -/
def setCounter (n : Nat) (c : Counter) : Act := onBody fun b => { b with acn := { b.acn with counters := tput b.acn.counters n c } }

/-- The event record of R231: counter, route, COUNT, TARGET, sequence. -/
def eventRecord (n : Nat) (c : Counter) (seq : Nat) : List Byte :=
  leBytes 2 n ++ leBytes 1 c.route ++ leBytes 1 0 ++ leBytes 4 c.count ++ leBytes 4 c.target ++ leBytes 4 seq

/-- An event store that fails: EVENT_FAIL, ACN_EVENT_DROP (R231). -/
def eventFail : Act := acts [count Reg.ACN_EVENT_DROP 1, raise Blk.acn 0]

/-- The event of a counter's route (R231). -/
def raiseEvent (n : Nat) (c : Counter) : Act := look fun s =>
  let r := c.route
  let seq := (tget s.body.acn.routeSeq r).getD 0
  let addr := s.get (Fld.ACN_ROUTE_ADDR_ADDR r)
  let vec := s.get (Fld.ACN_ROUTE_CFG_VECTOR r)
  let d := eventRecord n c seq
  acts [count Reg.ACN_EVENTS 1,
    match s.get (Fld.ACN_ROUTE_CFG_KIND r) with
    | 1 =>
      acts [onBody (fun b => { b with acn := { b.acn with routeSeq := tput b.acn.routeSeq r (wrapAdd 32 seq 1) } }),
        if !mayIssue s .firmware addr (.store d) true then acts [windowFault, eventFail]
        else if plainHere s addr then
          match plainStore s addr d with
          | some a => a
          | none => eventFail
        else sendAccess (.event n) addr (.store d)]
    | 2 => emit (if s.is (Fld.ACN_ROUTE_CFG_IN_WINDOW r) then .msix true (8 * s.get (Fld.ACN_ROUTE_CFG_WINDOW r) + vec) else .msix false vec)
    | 3 => emit (.coreQueue vec n)
    | _ => raise Blk.acn 1]

/-- The test of R230, at the arming store and after every increment. -/
def reached (c : Counter) : Bool := (c.count + 2 ^ 32 - c.target % 2 ^ 32) % 2 ^ 32 < 2 ^ 31

/-- A counter that is armed and has reached its target fires: ARMED clears, FIRED is set, its event is raised. -/
def fireCheck (n : Nat) : Act := look fun s =>
  let c := s.counter n
  if c.armed && reached c then
    let c' := { c with armed := false, fired := true }
    acts [setCounter n c', dropFld Fld.ACN_STATUS_ARMED 1, raiseEvent n c']
  else nop

/-- COUNT goes up by exactly 1, in the same action as the ledger's counters (R229, R233). -/
def arrive (n : Nat) (src : ArriveSrc) : Act := look fun s =>
  let c := s.counter n
  acts [eff (.arrive src), setCounter n { c with count := wrapAdd 32 c.count 1 }, fireCheck n]

/-- An arming or disarming store of 8 bytes at offset 0x08 (R228). TARGET and ROUTE stay as the last arming store wrote them
(DEDUCED, log entry 9). -/
def armStore (n v : Nat) : Act := look fun s =>
  let c := s.counter n
  let arm := bitsOf v 40 1 == 1
  let c' := if arm then { c with target := bitsOf v 0 32, route := bitsOf v 32 8, armed := true, fired := false }
            else { c with armed := false }
  acts [setCounter n c',
        match c.armed, arm with
        | false, true => bumpFld Fld.ACN_STATUS_ARMED 1
        | true, false => dropFld Fld.ACN_STATUS_ARMED 1
        | _, _ => nop,
        fireCheck n]

/-- Whether a tenant window's range holds a counter (R232). -/
def inAcnRange (s : State) (w n : Nat) : Bool :=
  s.get (Fld.ACN_TW_BASE w) ≤ n && n < s.get (Fld.ACN_TW_BASE w) + s.get (Fld.ACN_TW_COUNT w)

/-- A store to the counters, from aperture 3 or a tenant window's ACN area (`off` counts from counter 0): an 8-byte store at
0x08 arms or disarms, a 4-byte store at 0x10 adds 1, every other store is performed as nothing (R228). A window's store that
touches a counter outside its range is ignored and sets RANGE (R232). -/
def acnStore (window : Option Nat) (off : Nat) (d : List Byte) : Act := look fun s =>
  let n := off / 32
  let outside := match window with
    | none => false
    | some w => !inAcnRange s w n || !inAcnRange s w ((off + d.length - 1) / 32)
  if outside then raise Blk.acn 2
  else if 65535 < n then nop
  else if off % 32 = 8 ∧ d.length = 8 then armStore n (leNat d)
  else if off % 32 = 16 ∧ d.length = 4 then arrive n .signal
  else nop

/-- The 32 bytes of a counter as loads see them (R228). -/
def acnBytes (c : Counter) : List Byte :=
  leBytes 4 c.count ++ leBytes 4 ((if c.armed then 1 else 0) + (if c.fired then 2 else 0))
    ++ leBytes 8 (c.target + c.route * 2 ^ 32 + (if c.armed then 2 ^ 40 else 0)) ++ List.replicate 16 0

/-- ACN_ARM, ACN_DISARM, ACN_SIGNAL: the stores, by whom: none for aperture 3, a tenant window otherwise. -/
def execAcnArm (window : Option Nat) (n target route : Nat) (s : State) :=
  done (when (acnWf window n && target < 2 ^ 32 && route < 256) (acnStore window (32 * n + 8) (leBytes 8 (target % 2 ^ 32 + route % 256 * 2 ^ 32 + 2 ^ 40)))) s
def execAcnDisarm (window : Option Nat) (n target route : Nat) (s : State) :=
  done (when (acnWf window n && target < 2 ^ 32 && route < 256) (acnStore window (32 * n + 8) (leBytes 8 (target % 2 ^ 32 + route % 256 * 2 ^ 32)))) s
def execAcnSignal (window : Option Nat) (n value : Nat) (s : State) :=
  done (when (acnWf window n && value < 2 ^ 32) (acnStore window (32 * n + 16) (leBytes 4 value))) s

end Sys2Proof.Machine
end

