-- ==== Sys2Proof/Machine/HostRings.lean ====
section
/-! DEFINITION. Command rings and the primary mailbox (R328, R339 to R348, 12_host_interface.md): taking commands, the
common checks, completing them, and the rows of the table that are the rings' own. A row named after an Onaraef command
carries out the first command of that opcode that its source has taken and that may start. -/

namespace Sys2Proof.Machine

/-! ### Ring geometry -/

/-- N, the entries of a ring (R339). -/
def State.ringSize (s : State) (r : Nat) : Nat := 2 ^ s.get (Fld.MBX_RING_CFG_SIZE_LOG2 r)

/-- The host-window offset of command entry i and of completion entry i of a ring (R334). -/
def cmdEntryAt (r i : Nat) : Nat := Mem.hostWindow + 0x1000000 + r * 0x80000 + 64 * i
def cplEntryAt (r i : Nat) : Nat := Mem.hostWindow + 0x1000000 + r * 0x80000 + 0x40000 + 32 * i

/-- The tenant window a ring belongs to (R339); none for PF0's rings. -/
def ringWindow (r : Nat) : Option Nat := if r < 16 then none else some ((r - 16) / 2)

/-- The MSI-X message of a ring (R339). -/
def ringVector (r : Nat) : Output :=
  if r < 16 then .msix false r else .msix true (8 * ((r - 16) / 2) + (r - 16) % 2)

/-- A ring's state besides its registers. -/
def State.ring (s : State) (r : Nat) : Ring := (tget s.body.rings r).getD {}

/-- A ring's state is replaced. -/
def setRing (r : Nat) (v : Ring) : Act := onBody fun b => { b with rings := tput b.rings r v }

/-- The primary mailbox is replaced. -/
def setMbox (m : Mailbox) : Act := onBody fun b => { b with mbox := m }

/-- The rings are served: firmware ready, CXL mode, host window active (R326, R337). -/
def State.ringsServed (s : State) : Bool :=
  s.is Fld.GLB_STATUS_FW_READY && s.get Fld.GLB_STATUS_HOST_MODE == 1 && s.is Fld.GLB_STATUS_MEM_ACTIVE

/-! ### Commands -/

/-- An inline argument of w bits at an ARGS offset (R345). -/
def Cmd.arg (c : Cmd) (off w : Nat) : Nat := leNat ((c.args.drop off).take (w / 8))

/-- The bytes of ARGS that the arguments of an opcode take, and whether the opcode is PF0's alone (R354). The opcodes of
minor version 0 are those listed. -/
def opcodeSpec (op : Nat) : Option (Nat × Bool) :=
  match op with
  | 0x0101 => some (2, false) | 0x0102 => some (0, false) | 0x0103 => some (0, true) | 0x0104 => some (16, true)
  | 0x0105 => some (4, true) | 0x0106 => some (0, true) | 0x0107 => some (1, true) | 0x0108 => some (0, true)
  | 0x0201 => some (2, false)
  | 0x0301 => some (32, false) | 0x0302 => some (16, false) | 0x0303 => some (8, false) | 0x0304 => some (15, false)
  | 0x0305 => some (10, false) | 0x0306 => some (8, false) | 0x0307 => some (2, true) | 0x0308 => some (2, true)
  | 0x0309 => some (10, false)
  | 0x0401 => some (12, false) | 0x0402 => some (8, false) | 0x0403 => some (8, true) | 0x0404 => some (9, true)
  | 0x0405 => some (12, true) | 0x0406 => some (8, true)
  | 0x0501 => some (8, false) | 0x0502 => some (8, false) | 0x0503 => some (0, true) | 0x0504 => some (0, true)
  | 0x0505 => some (0, false) | 0x0506 => some (8, true)
  | 0x0601 => some (20, false) | 0x0602 => some (4, false) | 0x0603 => some (2, true)
  | 0x0701 => some (0, false) | 0x0702 => some (4, true) | 0x0703 => some (0, true) | 0x0704 => some (0, true)
  | 0x0801 => some (0, false) | 0x0802 => some (8, true) | 0x0803 => some (2, true) | 0x0804 => some (32, false)
  | 0x0805 => some (0, false) | 0x0806 => some (0, true)
  | _ => none

/-- The reserved gaps between the arguments of an opcode are not zero, or bytes after its last argument are not (R6; that
unused bytes of ARGS are reserved is DEDUCED, log entry 3). -/
def argsReserved (c : Cmd) : Bool :=
  let used := ((opcodeSpec c.opcode).map (·.1)).getD 0
  let gaps : List Nat := match c.opcode with
    | 0x0104 => [4, 5, 6, 7]
    | 0x0301 => [14, 15]
    | 0x0506 => [2, 3]
    | 0x0802 => [1, 2, 3]
    | _ => []
  (c.args.drop used).any (· != 0) || gaps.any fun g => c.args.getD g 0 != 0

/-- The first argument of a command that lies outside its form (R345, R354), by its index. -/
def argFault (c : Cmd) : Option Nat :=
  match c.opcode with
  | 0x0107 => if 2 < c.arg 0 8 then some 0 else none
  | 0x0201 => if 1023 < c.arg 0 16 then some 0 else none
  | 0x0301 =>
    if 1023 < c.arg 0 16 then some 0
    else if 7 < c.arg 2 8 then some 1
    else if 1 < c.arg 3 8 then some 2
    else none
  | 0x0302 => if 9 < c.arg 10 8 then some 2 else if 2 < c.arg 11 8 then some 3 else none
  | 0x0304 => if 1 < c.arg 14 8 then some 3 else none
  | 0x0404 => if 1 < c.arg 8 8 then some 1 else none
  | 0x0506 => if 1023 < c.arg 0 16 then some 0 else none
  | 0x0601 => if 262143 < c.arg 0 32 then some 0 else if 63 < c.arg 18 8 then some 4
              else if 1 < c.arg 19 8 then some 5 else none
  | 0x0602 => if 262143 < c.arg 0 32 then some 0 else none
  | 0x0802 => if 1 < c.arg 0 8 then some 0 else none
  | 0x0803 => if 1 < c.arg 0 8 then some 0 else if 1 < c.arg 1 8 then some 1 else none
  | _ => none

/-- Whether a host-window range lies in the areas a ring may name (R346). -/
def inArea (r a n : Nat) : Bool :=
  let within (base size : Nat) : Bool := base ≤ a && a + n ≤ base + size
  (match ringWindow r with
    | none => within 0x10000000 0xF0000000
    | some w => within (0x8000000 + w * 0x100000) 0x100000)
  || within 0xE00000000 0x200000000

/-- IN_ADDR and OUT_ADDR lie, with their lengths, in the permitted areas and are 64-aligned (R340, R346); the mailbox
names none (R328). -/
def addressesOk (src : Src) (c : Cmd) : Bool :=
  match src with
  | .mailbox => c.inAddr == 0 && c.outAddr == 0
  | .ring r =>
    (if c.inAddr == 0 && c.inLen == 0 then true else c.inAddr % 64 == 0 && inArea r c.inAddr c.inLen) &&
    (if c.outAddr == 0 && c.outLen == 0 then true else c.outAddr % 64 == 0 && inArea r c.outAddr c.outLen)

/-- The objects a command names (R342), as kind × 2^64 + number: 1 a request, 2 a prefix, 3 a buffer, 4 a tenant,
5 the configuration. -/
def cmdObjects (c : Cmd) : List Nat :=
  let k (kind n : Nat) : Nat := kind * 2 ^ 64 + n
  match c.opcode with
  | 0x0103 | 0x0104 | 0x0105 | 0x0106 | 0x0107 | 0x0108 => [k 5 0]
  | 0x0201 => [k 4 (c.arg 0 16)]
  | 0x0301 => [k 4 (c.arg 0 16)] ++ (if c.arg 16 64 = 0 then [] else [k 2 (c.arg 16 64)])
                ++ (if c.arg 24 64 = 0 then [] else [k 2 (c.arg 24 64)])
  | 0x0302 | 0x0303 | 0x0304 | 0x0305 | 0x0306 | 0x0309 | 0x0401 | 0x0405 | 0x0501 | 0x0502 => [k 1 (c.arg 0 64)]
  | 0x0402 | 0x0403 | 0x0404 => [k 2 (c.arg 0 64)]
  | 0x0506 => [k 4 (c.arg 0 16)]
  | 0x0601 | 0x0602 => [k 3 (c.arg 0 32)]
  | _ => []

/-- The tenants of the objects a command names, where this chip knows them. -/
def cmdTenants (s : State) (c : Cmd) : List Nat :=
  let req (h : Nat) : List Nat := match tget s.body.home.reqs h with
    | some q => [q.record.tenant]
    | none => []
  let pfx (h : Nat) : List Nat := match tget s.body.pages.prefixes (handleSlot h) with
    | some p => if p.handle = h then [p.tenant] else []
    | none => []
  match c.opcode with
  | 0x0201 | 0x0506 => [c.arg 0 16]
  | 0x0301 => [c.arg 0 16] ++ pfx (c.arg 16 64) ++ pfx (c.arg 24 64)
  | 0x0302 | 0x0303 | 0x0304 | 0x0305 | 0x0306 | 0x0309 | 0x0401 | 0x0405 | 0x0501 | 0x0502 => req (c.arg 0 64)
  | 0x0402 | 0x0403 | 0x0404 => pfx (c.arg 0 64)
  | _ => []

/-- Whether a source has negotiated the interface (R347). -/
def State.negotiated (s : State) : Src → Bool
  | .ring r => (s.ring r).iface.isSome
  | .mailbox => s.body.mbox.iface.isSome

/-- The tenant window of a source. -/
def srcWindow : Src → Option Nat
  | .ring r => ringWindow r
  | .mailbox => none

/-- The common checks of R348, in its order: the status and DETAIL of the first that fails. -/
def commonCheck (s : State) (src : Src) (c : Cmd) : Option (Nat × Nat) :=
  if !s.negotiated src && c.opcode != 0x0101 && c.opcode != 0x0102 then some (St.versionMismatch, 0)
  else match opcodeSpec c.opcode with
    | none => some (St.invalid, 0)
    | some (_, pf0) =>
      if pf0 && (srcWindow src).isSome then some (St.denied, 0)
      else if c.resv || argsReserved c then some (St.invalid, 0)
      else match argFault c with
        | some i => some (St.invalid, i)
        | none =>
          if !addressesOk src c then some (St.invalid, 0)
          else match srcWindow src with
            | none => none
            | some w => if (cmdTenants s c).any fun t => s.windowTenant w != some t then some (St.denied, 0) else none

/-! ### Taking commands -/

/-- The command entry at an index of a ring (R340). -/
def readEntry (s : State) (r i seq : Nat) : Cmd :=
  let a := cmdEntryAt r i
  { seq := seq, opcode := s.num a 2, cid := s.num (a + 2) 2, inAddr := s.num (a + 8) 8, inLen := s.num (a + 0x10) 4,
    outLen := s.num (a + 0x14) 4, outAddr := s.num (a + 0x18) 8, args := s.bytes (a + 0x20) 32,
    resv := s.num (a + 4) 4 != 0 }

/-- Whether a command of a ring has not completed. -/
def Cmd.isDone (c : Cmd) : Bool := match c.status with
  | .done _ _ _ _ => true
  | _ => false

/-- Whether the device takes the next command of a ring: there is one, the ring is not draining, a completion entry is
free for it with one more kept free, fewer than 64 commands of the ring run (R342), and a management core takes commands
(R384, R394). -/
def mayTake (s : State) (r : Nat) : Bool :=
  let g := s.ring r
  let n := s.ringSize r
  let live := g.cmds.filter (!·.lost)
  s.is (Fld.MBX_RING_CFG_ENABLE r) && !g.draining && s.body.plat.mgmtUp
  && s.get (Fld.MBX_RING_PTR_CMD_HEAD r) != s.get (Fld.MBX_RING_PTR_CMD_TAIL r)
  && (live.filter (!·.isDone)).length < 64
  && (s.get (Fld.MBX_RING_PTR_CPL_TAIL r) + n - s.get (Fld.MBX_CPL_HEAD_HEAD r)) % n + live.length + 1 ≤ n - 1

/-- The device takes one command of a ring. -/
def takeOne (r : Nat) : Act := fun s =>
  let g := s.ring r
  let i := s.get (Fld.MBX_RING_PTR_CMD_HEAD r)
  let c := readEntry s r i g.taken
  acts [setRing r { g with cmds := g.cmds ++ [c], taken := g.taken + 1 },
        setFld (Fld.MBX_RING_PTR_CMD_HEAD r) ((i + 1) % s.ringSize r)] s

/-- The device takes commands of a ring while it may, at most so many. -/
def takeCmds (r : Nat) : Nat → Act
  | 0 => nop
  | k + 1 => look fun s => if mayTake s r then andThen (takeOne r) (takeCmds r k) else nop

/-- The commands of a source that have been taken. -/
def State.cmdsOf (s : State) : Src → List Cmd
  | .ring r => (s.ring r).cmds
  | .mailbox => s.body.mbox.cmd.toList

/-- The commands of a source are replaced. -/
def setCmds (src : Src) (l : List Cmd) : Act := fun s =>
  match src with
  | .ring r => setRing r { s.ring r with cmds := l } s
  | .mailbox => setMbox { s.body.mbox with cmd := l.head? } s

/-- Whether a command may start: no earlier command of its ring that has not completed names an object it names (R342). -/
def mayStart : List Cmd → Cmd → Bool
  | [], _ => true
  | e :: l, c =>
    if e.seq = c.seq then true
    else if !e.isDone && (cmdObjects e).any (cmdObjects c).contains then false
    else mayStart l c

/-- The first command of an opcode that a source has taken, that waits, and that may start. -/
def pickCmd (s : State) (src : Src) (op : Nat) : Option Cmd :=
  if src.wf then (s.cmdsOf src).find? fun c => c.opcode == op && c.status == .waiting && mayStart (s.cmdsOf src) c else none

/-- The command a reference names. -/
def State.cmd (s : State) (ref : CmdRef) : Option Cmd := (s.cmdsOf ref.src).find? (·.seq == ref.seq)

/-- A command's progress is recorded. -/
def setCmdStatus (ref : CmdRef) (st : CmdStatus) : Act := fun s =>
  setCmds ref.src ((s.cmdsOf ref.src).map fun c => if c.seq = ref.seq then { c with status := st } else c) s

/-- The input bytes of a command: at IN_ADDR in the host window, or in the mailbox payload. -/
def cmdInput (s : State) (src : Src) (c : Cmd) : List Byte :=
  match src with
  | .ring _ => s.bytes (Mem.hostWindow + c.inAddr) c.inLen
  | .mailbox => c.payload.take c.inLen

/-! ### Completing commands -/

/-- The result of a command as its completion entry's 16 RESULT bytes. -/
def pad16 (bs : List Byte) : List Byte := (bs ++ List.replicate 16 0).take 16

/-- A completion entry (R341). -/
def cplBytes (status phase cid opcode detail outWritten head : Nat) (result : List Byte) : List Byte :=
  leBytes 1 status ++ leBytes 1 phase ++ leBytes 2 cid ++ leBytes 2 opcode ++ leBytes 2 detail
    ++ leBytes 4 outWritten ++ leBytes 4 head ++ pad16 result

/-- A completed command is counted (MBX_DONE_s, R363) and a VERSION_MISMATCH flagged (R364). -/
def countCpl (status : Nat) : Act :=
  acts [count (Reg.MBX_DONE status) 1, when (status == St.versionMismatch) (raise Blk.mbx 2)]

/-- A command completes: on a ring its output is written at OUT_ADDR and its completion waits for its place in ring order
(R342), unless a host-interface reset came in between (R338); on the mailbox the output payload is a completion entry and
the output bytes, the return code is Success, and the doorbell clears (R328). A CONFIG_COMMIT with INVALID sets CFG_REJECT
(R362). -/
def finish (ref : CmdRef) (status detail : Nat) (result out : List Byte) : Act := look fun s =>
  match s.cmd ref with
  | none => nop
  | some c =>
    if c.isDone then nop else andThen (when (c.opcode == 0x0104 && status == St.invalid) (raise Blk.glb 2)) <|
    match ref.src with
    | .ring r =>
      if c.lost then acts [store (Mem.hostWindow + c.outAddr) out, setCmds (.ring r) ((s.ring r).cmds.filter (·.seq != c.seq))]
      else acts [store (Mem.hostWindow + c.outAddr) out, setCmdStatus ref (.done status detail result out)]
    | .mailbox =>
      acts [setMbox { s.body.mbox with
              cmd := none, retCode := 0,
              output := cplBytes status 0 c.cid c.opcode detail out.length 0 result ++ out },
            countCpl status]

/-- A command completes with a status and nothing else. -/
def fin (ref : CmdRef) (status : Nat) : Act := finish ref status 0 [] []

/-- A command completes with INVALID, DETAIL naming its first faulty argument or item. -/
def finInvalid (ref : CmdRef) (i : Nat) : Act := finish ref St.invalid i [] []

/-- A command completes with OK and RESULT bytes. -/
def finOk (ref : CmdRef) (result : List Byte) : Act := finish ref St.ok 0 result []

/-- A command completes with OK and output bytes, or with NO_RESOURCE where OUT_LEN is shorter (R345). -/
def finOut (ref : CmdRef) (c : Cmd) (result out : List Byte) (also : Act) : Act :=
  if c.outLen < out.length then fin ref St.noResource else acts [also, finish ref St.ok 0 result out]

/-- A row named after an Onaraef command: the first command of the opcode that the source has taken and that may start
goes through the common checks of R348, runs, and completes at once or when what it waits for has happened; with no such
command nothing happens. -/
def runOp (op : Nat) (src : Src) (f : CmdRef → Cmd → Act) : Act := look fun s =>
  match pickCmd s src op with
  | none => nop
  | some c =>
    let ref : CmdRef := { src := src, seq := c.seq }
    match commonCheck s src c with
    | some (st, d) => finish ref st d [] []
    | none => andThen (setCmdStatus ref .running) (f ref c)

/-! ### The rows of the rings -/

/-- MBX flags DB_RANGE and RING_CFG (R364). -/
def mbxRange : Act := raise Blk.mbx 0

/-- RING_DOORBELL: a command tail is written (R342). A doorbell to a disabled ring or a tail beyond N sets DB_RANGE. -/
def actRingDoorbell (r tail : Nat) : Act := look fun s =>
  if !s.is Fld.GLB_STATUS_FW_READY then nop
  else if !s.is (Fld.MBX_RING_CFG_ENABLE r) || s.ringSize r ≤ tail then mbxRange
  else acts [setFld (Fld.MBX_RING_PTR_CMD_TAIL r) tail, takeCmds r (s.ringSize r)]

/-- CPL_HEAD_WRITE: the host frees completion entries (R342). A head outside the present head up to CPL_TAIL, counted
modulo N, is ignored and sets DB_RANGE. -/
def actCplHeadWrite (r head : Nat) : Act := look fun s =>
  let n := s.ringSize r
  let h := s.get (Fld.MBX_CPL_HEAD_HEAD r)
  let t := s.get (Fld.MBX_RING_PTR_CPL_TAIL r)
  if !s.is Fld.GLB_STATUS_FW_READY then nop
  else if n ≤ head || (t + n - h) % n < (head + n - h) % n then mbxRange
  else acts [setFld (Fld.MBX_CPL_HEAD_HEAD r) head, takeCmds r n]

/-- The bytes of n completion entries with PHASE 1 and nothing else (R343). -/
def freshCpl (r : Nat) : Nat → Act
  | 0 => nop
  | n + 1 => acts [freshCpl r n, clearMem (cplEntryAt r n) 32, store (cplEntryAt r n + 1) [1]]

/-- A write to MBX_RING_CFG_r (R343, R364): the interrupt fields take the value at once; SIZE_LOG2 is ignored while ENABLE
is set; setting ENABLE with a SIZE_LOG2 in 4 to 12 starts the ring afresh, and outside it sets RING_CFG; clearing ENABLE
starts the drain, during which ENABLE and SIZE_LOG2 are not written. -/
def ringCfgWrite (r v : Nat) : Act := look fun s =>
  let en := s.is (Fld.MBX_RING_CFG_ENABLE r)
  let irq := acts [setFld (Fld.MBX_RING_CFG_IRQ_EN r) (bitsOf v 5 1), setFld (Fld.MBX_RING_CFG_COALESCE_US r) (bitsOf v 8 8)]
  let g := s.ring r
  if !s.is Fld.GLB_STATUS_FW_READY then nop
  else if en then
    acts [irq, when (bitsOf v 4 1 == 0 && !g.draining) (setRing r { g with draining := true })]
  else
    let n := bitsOf v 0 4
    acts [irq, setFld (Fld.MBX_RING_CFG_SIZE_LOG2 r) n,
      when (bitsOf v 4 1 == 1)
        (if n < 4 || 12 < n || !s.ringsServed then when (n < 4 || 12 < n) (raise Blk.mbx 1)
         else acts [setReg (Reg.MBX_RING_PTR r) 0, setReg (Reg.MBX_CPL_HEAD r) 0,
                    setRing r { cmds := g.cmds.filter (·.lost), taken := g.taken },
                    freshCpl r (2 ^ n), setFld (Fld.MBX_RING_CFG_ENABLE r) 1])]

/-- RING_ENABLE: a write to MBX_RING_CFG_r that sets ENABLE. -/
def actRingEnable (r sizeLog2 irqEn coalesce : Nat) : Act :=
  ringCfgWrite r (sizeLog2 % 16 + 16 + 32 * (irqEn % 2) + 256 * (coalesce % 256))

/-- RING_DISABLE: a write to MBX_RING_CFG_r that clears ENABLE. -/
def actRingDisable (r sizeLog2 irqEn coalesce : Nat) : Act :=
  ringCfgWrite r (sizeLog2 % 16 + 32 * (irqEn % 2) + 256 * (coalesce % 256))

/-- RING_DISABLE_DONE: the drain of a ring ends: its running commands have completed and their entries have been written;
the device clears ENABLE (R343). -/
def actRingDisableDone (r : Nat) : Act := look fun s =>
  let g := s.ring r
  if s.is (Fld.MBX_RING_CFG_ENABLE r) && g.draining && (g.cmds.filter (!·.lost)).isEmpty then
    acts [setFld (Fld.MBX_RING_CFG_ENABLE r) 0, setRing r { g with draining := false }]
  else nop

/-- One completion entry is written at CPL_TAIL (R341). -/
def writeCpl (r : Nat) (c : Cmd) (status detail : Nat) (result out : List Byte) : Act := look fun s =>
  let g := s.ring r
  let n := s.ringSize r
  let t := s.get (Fld.MBX_RING_PTR_CPL_TAIL r)
  acts [store (cplEntryAt r t)
          (cplBytes status (g.written / n % 2) c.cid c.opcode detail out.length (s.get (Fld.MBX_RING_PTR_CMD_HEAD r)) result),
        setFld (Fld.MBX_RING_PTR_CPL_TAIL r) ((t + 1) % n),
        setRing r { g with cmds := g.cmds.filter (·.seq != c.seq), written := g.written + 1 },
        countCpl status]

/-- The completed commands at the front of a ring, in ring order; a command of an undefined opcode completes here by the
common checks. -/
def frontDone (s : State) (src : Src) : List Cmd → List (Cmd × (Nat × Nat × List Byte × List Byte))
  | [] => []
  | c :: l =>
    match c.status with
    | .done st d res out => (c, st, d, res, out) :: frontDone s src l
    | .waiting =>
      match opcodeSpec c.opcode, commonCheck s src c with
      | none, some (st, d) => (c, st, d, [], []) :: frontDone s src l
      | _, _ => []
    | .running => []

/-- The MSI-X message after completion entries were written, under the windows of R344. -/
def signalRing (r : Nat) : Act := look fun s =>
  let g := s.ring r
  let coal := s.get (Fld.MBX_RING_CFG_COALESCE_US r)
  if !s.is (Fld.MBX_RING_CFG_IRQ_EN r) then nop
  else if coal = 0 then emit (ringVector r)
  else if g.winOpen then setRing r { g with winPend := true }
  else acts [emit (ringVector r), setRing r { g with winOpen := true, winPend := false }]

/-- COMMAND_COMPLETE: the completions at the front of a ring are written in ring order, signalled together, and the device
takes further commands (R341, R342, R344). -/
def actCommandComplete (r : Nat) : Act := look fun s =>
  let l := frontDone s (.ring r) ((s.ring r).cmds.filter (!·.lost))
  if l.isEmpty || !s.body.plat.mgmtUp || !s.ringsServed then nop
  else acts [each l (fun e => writeCpl r e.1 e.2.1 e.2.2.1 e.2.2.2.1 e.2.2.2.2), signalRing r,
             look fun s => takeCmds r (s.ringSize r)]

/-- COALESCE_WINDOW_END: the window of a ring ends; entries written in it are signalled by one message, which opens the
next window (R344). -/
def actCoalesceWindowEnd (r : Nat) : Act := look fun s =>
  let g := s.ring r
  if !g.winOpen then nop
  else if g.winPend then acts [emit (ringVector r), setRing r { g with winOpen := true, winPend := false }]
  else setRing r { g with winOpen := false }

/-- The Onaraef command of a mailbox payload (R328, R340); an OPCODE field that differs from the CXL opcode's counts as a
reserved field that is not zero. -/
def mailboxEntry (seq op : Nat) (p : List Byte) : Cmd :=
  let n (off w : Nat) : Nat := leNat ((p.drop off).take w)
  { seq := seq, opcode := op, cid := n 2 2, inAddr := n 8 8, inLen := n 0x10 4, outLen := n 0x14 4, outAddr := n 0x18 8,
    args := (p.drop 0x20).take 32, resv := n 4 4 != 0 || n 0 2 != op, payload := p.drop 64 }

/-- CXL return codes Success, Invalid Input, Unsupported, Busy, Invalid Slot, Invalid Handle, Invalid Payload Length (CXL 2.0; PRESUMED, log entry 4). -/
def cxlSuccess : Nat := 0
def cxlInvalidInput : Nat := 2
def cxlUnsupported : Nat := 3
def cxlBusy : Nat := 6
def cxlInvalidSlot : Nat := 0xB
def cxlInvalidHandle : Nat := 0xE
def cxlInvalidLength : Nat := 0x16

/-- The opcodes recovery accepts (R408). -/
def recoveryAllows (c : Cmd) : Bool :=
  c.opcode == 0x0101 || c.opcode == 0x0102 || c.opcode == 0x0801 || c.opcode == 0x0805 || c.opcode == 0x0802 ||
    (c.opcode == 0x0803 && c.arg 1 8 == 1)

/-- PRIMARY_MAILBOX_DOORBELL: the host rings the doorbell of the primary mailbox with a CXL opcode and an input payload
(R328). A CXL opcode below 0xC000 waits for the row of its command (R327); a payload too short for the entry and its input
returns Invalid Input; otherwise the Onaraef command waits for its row, in the foreground, one at a time. In recovery every
command but those of R408 completes with BUSY_RETRY. A doorbell while a command is in the foreground does nothing. -/
def actMailboxDoorbell (op : Nat) (payload : List Byte) : Act := look fun s =>
  let m := s.body.mbox
  let ready := s.is Fld.GLB_STATUS_FW_READY || s.is Fld.SEC_STATUS_RECOVERY
  if !ready || m.cmd.isSome || m.cxlCmd.isSome || !s.body.plat.mgmtUp then nop
  else if op < 0xC000 then setMbox { m with cxlCmd := some (op, payload) }
  else
    let c := mailboxEntry m.taken (op - 0xC000) payload
    if payload.length < 64 || 65536 < payload.length || payload.length < 64 + c.inLen then
      setMbox { m with retCode := cxlInvalidInput, output := [] }
    else
      let ref : CmdRef := { src := .mailbox, seq := m.taken }
      acts [setMbox { m with cmd := some c, taken := m.taken + 1 },
        if s.is Fld.SEC_STATUS_RECOVERY && !recoveryAllows c then fin ref St.busyRetry
        else match opcodeSpec c.opcode, commonCheck s .mailbox c with
          | none, some (st, d) => finish ref st d [] []
          | _, _ => nop]

/-- Execution of RING_DOORBELL. -/
def execRingDoorbell (r tail : Nat) (s : State) :=
  done (when (r < 144 && tail < 4096) (actRingDoorbell r tail)) s
/-- Execution of CPL_HEAD_WRITE. -/
def execCplHeadWrite (r head : Nat) (s : State) :=
  done (when (r < 144 && head < 4096) (actCplHeadWrite r head)) s
/-- Execution of RING_ENABLE. -/
def execRingEnable (r size irq coal : Nat) (s : State) :=
  done (when (r < 144) (actRingEnable r size irq coal)) s
/-- Execution of RING_DISABLE. -/
def execRingDisable (r size irq coal : Nat) (s : State) :=
  done (when (r < 144) (actRingDisable r size irq coal)) s
/-- Execution of RING_DISABLE_DONE. -/
def execRingDisableDone (r : Nat) (s : State) :=
  done (when (r < 144) (actRingDisableDone r)) s
/-- Execution of COMMAND_COMPLETE. -/
def execCommandComplete (r : Nat) (s : State) :=
  done (when (r < 144) (actCommandComplete r)) s
/-- Execution of COALESCE_WINDOW_END. -/
def execCoalesceWindowEnd (r : Nat) (s : State) :=
  done (when (r < 144) (actCoalesceWindowEnd r)) s
/-- Execution of PRIMARY_MAILBOX_DOORBELL. -/
def execMailboxDoorbell (op : Nat) (payload : List Byte) (s : State) :=
  done (when (op < 65536) (actMailboxDoorbell op payload)) s

end Sys2Proof.Machine
end

