-- ==== Sys2Proof/Machine/Home.lean ====
section
/-! DEFINITION. The home of a request (R9 to R15, R171 to R197; 01_request_life.md, 07_ownership_and_recovery.md): its
record and token log, mirroring to the partner, the Leash events the home decides, liveness, failover, replay, takeover. -/

namespace Sys2Proof.Machine

/-! ### Records -/

/-- A request homed here. -/
def State.req (s : State) (h : Nat) : Option HomeReq := tget s.body.home.reqs h

/-- Changes of the home's state. -/
def onHome (f : Home → Home) : Act := onBody fun b => { b with home := f b.home }

/-- A request's entry is replaced, nothing else. -/
def setReq (h : Nat) (q : HomeReq) : Act := onHome fun x => { x with reqs := tput x.reqs h q }

/-- HOME_MODE: 0 solo, 1 paired, 2 fenced (R201). -/
def State.homeMode (s : State) : Nat := s.get Fld.RQT_STATUS_HOME_MODE

/-- A record's shadow is rewritten; a slot's former incarnation shows no more. -/
def showRec (r : Rec) : Act := onHome fun x => { x with
  shadows := tput (x.shadows.filter fun e => e.1 / 2 ^ 32 != r.handle / 2 ^ 32) r.handle r }

/-- An action withheld for the partner's acknowledgement is taken. -/
def takeWithheld : Withheld → Act
  | .send tgt t m => sendMsg tgt t m
  | .complete ref st d res out => finish ref st d res out
  | .shadow r => showRec r

/-- An action another chip or the host can observe: a paired home takes it once its partner has acknowledged every change
before it; a fenced home takes none (R176, R193). -/
def observe (w : Withheld) : Act := look fun s =>
  let x := s.body.home
  if s.homeMode = 2 ∨ (s.homeMode = 1 ∧ x.mirrorAcked < x.mirrorSent) then
    onHome fun x => { x with withheld := x.withheld ++ [(x.mirrorSent, w)] }
  else takeWithheld w

/-- A request's record changes: the entry is replaced, a paired home sends the change to its partner (R176), and the shadow is
rewritten once the partner has acknowledged it (R172). -/
def putReq (h : Nat) (q : HomeReq) : Act := look fun s =>
  acts [setReq h q,
        when (s.homeMode == 1)
          (acts [onHome (fun x => { x with mirrorSent := x.mirrorSent + 1 }),
                 emit (.mirror (s.get Fld.RQT_PARTNER_PARTNER) (s.body.home.mirrorSent + 1) (.record q.record))]),
        observe (.shadow q.record)]

/-- A message of the home that waits for the partner. -/
def homeSend (tgt : Nat) (t : MsgType) (m : Msg) : Act := look fun s => observe (.send tgt t { m with sender := s.chipId })

/-- A completion of the home that waits for the partner. -/
def homeFin (ref : CmdRef) (status : Nat) (result : List Byte) : Act := observe (.complete ref status 0 result [])

/-- Completions of several commands with one status. -/
def homeFinAll (refs : List CmdRef) (status : Nat) : Act := each refs fun r => homeFin r status []

/-- RECORD_CRC and the 128 bytes of a record (R172). -/
def recordBytes (r : Rec) : List Byte :=
  let b (x : Bool) : Nat := if x then 1 else 0
  let w08 := phaseCode r.phase + 16 * phaseCode r.prePhase + 256 * phaseCode r.targetPhase + 4096 * (r.cls % 8)
    + 65536 * (r.tenant % 1024) + 2 ^ 26 * b r.mirrored + 2 ^ 27 * b r.replayPending + 2 ^ 28 * b r.replaying
    + 2 ^ 29 * b r.late + 2 ^ 30 * (r.mode % 4)
  let holder (i : Nat) : List Byte := leBytes 2 (r.holders.getD i 0)
  let body := leBytes 8 r.handle ++ leBytes 4 w08 ++ leBytes 4 r.epoch ++ leBytes 2 (r.owner.getD 0) ++ leBytes 2 r.receiver
    ++ leBytes 2 r.stateMirror ++ leBytes 2 0 ++ leBytes 8 r.pageListRef ++ leBytes 4 r.positions ++ leBytes 4 r.maxPositions
    ++ leBytes 4 r.budgetUs ++ leBytes 4 0 ++ leBytes 8 r.budgetTick ++ leBytes 8 r.logPtr ++ leBytes 4 r.log.length
    ++ leBytes 2 r.turns ++ leBytes 2 0 ++ leBytes 4 r.logStep ++ leBytes 4 (r.logCount % 32)
    ++ holder 0 ++ holder 1 ++ holder 2 ++ holder 3 ++ leBytes 4 r.replayFrom ++ leBytes 4 r.replayTo ++ leBytes 4 r.mirrorPos
    ++ leBytes 4 0 ++ leBytes 8 r.prefix0 ++ leBytes 8 r.prefix1 ++ leBytes 4 r.prefixPos
  body ++ leBytes 4 (crc32c body)

/-- A turn record is opened at a change of phase into PROMPTING or GENERATING (R174); the 257th overwrites the oldest. -/
def openTurn (tick : Nat) (p : Phase) (r : Rec) : Rec :=
  let kind := if p = .generating then 1 else 0
  if p = .prompting ∨ p = .generating then
    let t : TurnRec := { num := r.turns % 65536, kind := kind, first := r.log.length, count := 0,
                         startTick := tick / 1024 % 2 ^ 32, note := List.replicate 16 0 }
    { r with turnRecs := (r.turnRecs ++ [t]).drop (r.turnRecs.length + 1 - 256), turns := r.turns + 1 }
  else r

/-- The current turn record grows by n positions (R174). -/
def growTurn (n : Nat) (l : List TurnRec) : List TurnRec :=
  match l.reverse with
  | [] => []
  | t :: l' => ({ t with count := t.count + n } :: l').reverse

/-- A request's phase changes into a target phase. -/
def enterPhase (tick : Nat) (p : Phase) (r : Rec) : Rec := openTurn tick p { r with phase := p }

/-- The remaining budget of a record, in µs, rounded down to what the home's counter leaves (R173). -/
def budgetLeft (tick : Nat) (r : Rec) : Nat :=
  if r.budgetUs = 0xFFFFFFFF then 0xFFFFFFFF else r.budgetUs - (tick - r.budgetTick + 999) / 1000

/-- LATE is set, and counted, when a budget has reached zero (R173); the home looks whenever it handles an event of the
request (DESIGN CHOICE, log entry 6). -/
def lateCheck (h : Nat) : Act := look fun s =>
  match s.req h with
  | some q =>
    if !q.record.late && budgetLeft s.body.tick q.record == 0 then
      acts [putReq h { q with record := { q.record with late := true } }, count Reg.RQT_LATE 1, tcount q.record.tenant TReg.RQT_TLATE 1]
    else nop
  | none => nop

/-! ### Routing (R195, R196) -/

/-- The redirect entry of a home chip id. -/
def State.redirOf (s : State) (c : Nat) : Option Nat :=
  firstBelow 64 fun n => s.is (Fld.RQT_REDIR_VALID n) && s.get (Fld.RQT_REDIR_FROM_CHIP n) == c

/-- A message discarded as stale (R180). -/
def staleMsg : Act := count Reg.RQT_STALE_MSG 1

/-- A message that arrives at a chip that is not home for its handle is forwarded through the redirect table, or dropped
(R195); one whose handle is this chip's with another incarnation is stale (R180). -/
def forward (t : MsgType) (m : Msg) : Act := look fun s =>
  match s.redirOf (handleHome m.handle) with
  | some n => acts [onHome (fun x => { x with redirUse := tput x.redirUse n x.redirSeq, redirSeq := x.redirSeq + 1 }),
                    sendMsg (s.get (Fld.RQT_REDIR_TO_CHIP n)) t m]
  | none => staleMsg

/-- A home-bound message: handled for a request homed here, else forwarded. -/
def atHome (t : MsgType) (m : Msg) (f : HomeReq → Act) : Act := look fun s =>
  match s.req m.handle with
  | some q => if phaseLive q.record.phase then acts [lateCheck m.handle, look fun s => match s.req m.handle with
                | some q => f q
                | none => nop] else staleMsg
  | none => forward t m

/-! ### Commands that name a request -/

/-- A command that names a request (R13, R193, R353): NOT_OWNER where the request is not homed here, INVALID for another
incarnation, BUSY_RETRY at a fenced home. -/
def withReq (ref : CmdRef) (h : Nat) (f : HomeReq → Act) : Act := look fun s =>
  match s.req h with
  | none =>
    if handleHome h = s.chipId then fin ref St.invalid
    else
      let home := match s.redirOf (handleHome h) with
        | some n => s.get (Fld.RQT_REDIR_TO_CHIP n)
        | none => handleHome h
      finish ref St.notOwner home [] []
  | some q => if s.homeMode = 2 then fin ref St.busyRetry else acts [lateCheck h, look fun s => match s.req h with
      | some q' => f q'
      | none => f q]

/-- A command other than REQ_CLOSE, REQ_STATUS and REQ_REPLAY: INVALID on a terminal or closing request (R13, R14; a close waits for the
end of a hand-off before it is accepted),
FAILED_REPLAY_PENDING while a replay is pending or under way. -/
def withLive (ref : CmdRef) (h : Nat) (f : HomeReq → Act) : Act :=
  withReq ref h fun q =>
    if !phaseLive q.record.phase || (q.closing && q.record.phase != .handoff) then fin ref St.invalid
    else if q.record.replayPending || q.record.replaying then fin ref St.replayPending
    else f q

/-! ### Closing and failing (R11, R14) -/

/-- A former home's id that no live request homed here carries any more is released to the pod (R196). -/
def releaseHome (h : Nat) : Act := look fun s =>
  let c := handleHome h
  if c = s.chipId ∨ (s.body.home.reqs.any fun e => handleHome e.1 == c && phaseLive e.2.record.phase) then nop
  else each ((List.range 256).filterMap fun m => s.memberChip m) fun tgt =>
    if tgt = s.chipId then nop else sendMsg tgt .homeReleased { sender := s.chipId, chip := c }

/-- The references the request took on shared prefixes homed here are dropped (R34). -/
def dropPrefixes (h : Nat) (r : Rec) : Act :=
  acts [when (r.prefix0 != 0) (leavePrefix h r.prefix0), when (r.prefix1 != 0) (leavePrefix h r.prefix1)]

/-- REQ_CLOSE completes: the request is CLOSED, its log and references are released, and it leaves the ledger's live
requests (R14, R335, R389). -/
def closeDone (h : Nat) : Act := look fun s =>
  match s.req h with
  | none => nop
  | some q =>
    if !phaseLive q.record.phase then nop
    else acts [putReq h { q with record := { q.record with phase := .closed, owner := none, receiver := 0, holders := [] },
                                 closing := false, closeCmds := [], handoffCmd := none },
               dropPrefixes h q.record, eff .reqClose, tcountDown q.record.tenant TReg.RQT_TLIVE,
               homeFinAll q.closeCmds St.ok, releaseHome h]
where
  /-- a tenant's count goes down by one -/
  tcountDown (tenant off : Nat) : Act := fun s => [.treg (tkey tenant off) (s.trd tenant off - 1)]

/-- A request whose token log is lost at home and partner is FAILED: frames and references are released, with CLOSE to the
owner, the holders and the state mirror (R11, R180). -/
def failReq (h : Nat) : Act := look fun s =>
  match s.req h with
  | none => nop
  | some q =>
    let r := q.record
    if !phaseLive r.phase then nop
    else acts [putReq h { q with record := { r with phase := .failed, owner := none, receiver := 0, holders := [] },
                                 closing := false, closeCmds := [], handoffCmd := none },
               each (nub (r.owner.toList ++ r.holders ++ (if r.mirrored then [r.stateMirror] else []))) (fun c =>
                 homeSend c .close { handle := h, epoch := r.epoch + 1, flags := 1 }),
               dropPrefixes h r, eff .reqFail, closeDone.tcountDown r.tenant TReg.RQT_TLIVE,
               raiseWith Blk.rqt 6 { handle := h, epoch := r.epoch },
               homeFinAll (q.handoffCmd.toList) St.busyRetry, homeFinAll q.closeCmds St.ok, releaseHome h]

/-- CLOSE goes to the owner, the holders and the state mirror once any hand-off has settled (R14); with no owner the
request is closed at once. -/
def sendClose (h : Nat) : Act := look fun s =>
  match s.req h with
  | none => nop
  | some q =>
    let r := q.record
    if !q.closing || q.closeSent || r.phase == .handoff then nop
    else acts [setReq h { q with closeSent := true },
               each (nub (r.owner.toList ++ r.holders ++ (if r.mirrored then [r.stateMirror] else []))) (fun c =>
                 homeSend c .close { handle := h, epoch := r.epoch + 1 }),
               when r.owner.isNone (closeDone h)]

/-! ### Leash events at the home (R182) -/

/-- A result to a chip that asked, carrying the home epoch. -/
def result (q : HomeReq) (tgt : Nat) (t : MsgType) (status flags : Nat) : Act :=
  homeSend tgt t { handle := q.record.handle, epoch := q.record.epoch, status := status, flags := flags }

/-- LEASH_CAS: the compare-and-swap on the owner epoch. -/
def actLeashCas (m : Msg) : Act := atHome .leashCas m fun q => look fun s =>
  let r := q.record
  let h := m.handle
  if s.homeMode = 2 then sendMsg m.sender .casResult { handle := h, sender := s.chipId, epoch := r.epoch, status := St.busyRetry }
  else
    let giver := r.owner.getD 0
    let others := r.holders.filter (· != m.sender)
    if r.phase = .handoff ∧ m.sender = r.receiver ∧ m.epoch = r.epoch then
      if others.contains giver ∨ others.length < 4 then
        let toMirror := r.mirrored && r.stateMirror == m.sender
        let r1 := { r with epoch := wrapAdd 32 r.epoch 1, owner := some m.sender, receiver := 0,
                           holders := if others.contains giver then others else others ++ [giver],
                           pageListRef := m.pageList, positions := m.positions,
                           mirrored := r.mirrored && !toMirror, stateMirror := if toMirror then 0 else r.stateMirror }
        let r2 := enterPhase s.body.tick r.targetPhase r1
        let q2 := { q with record := r2, handoffCmd := none }
        acts [putReq h q2, count Reg.RQT_HANDOFFS 1,
              result q2 m.sender .casResult St.ok 0,
              homeSend giver .leashRelease { handle := h, epoch := r2.epoch, flags := 1 },
              each q.handoffCmd.toList (fun c => homeFin c St.ok (leBytes 4 r2.epoch)), sendClose h]
      else acts [raiseWith Blk.rqt 7 { handle := h, epoch := r.epoch }, result q m.sender .casResult St.noResource 0]
    else if r.phase = .handoff ∧ m.epoch = r.epoch then result q m.sender .casResult St.notOwner 0
    else if r.owner = some m.sender ∧ wrapAdd 32 m.epoch 1 = r.epoch then
      acts [count Reg.RQT_CAS_REPEAT 1, result q m.sender .casResult St.ok 0]
    else if r.epoch < m.epoch then result q m.sender .casResult St.notOwner 0
    else if m.epoch < r.epoch then result q m.sender .casResult St.staleEpoch 0
    else result q m.sender .casResult St.notOwner 0

/-- A hand-off is cancelled: PRE_PHASE is restored, the receiver is told, and REQ_HANDOFF completes with BUSY_RETRY. No
turn record is opened (R174, R182). -/
def cancelHandoff (h : Nat) (q : HomeReq) : Act :=
  let r := q.record
  acts [putReq h { q with record := { r with phase := r.prePhase, receiver := 0 }, handoffCmd := none },
        count Reg.RQT_CANCELLED 1,
        homeSend r.receiver .handoffCancel { handle := h, epoch := r.epoch },
        each q.handoffCmd.toList (fun c => homeFin c St.busyRetry [])]

/-- LEASH_QUERY: a giver asks for its standing. -/
def actLeashQuery (m : Msg) : Act := atHome .leashQuery m fun q => look fun s =>
  let r := q.record
  if s.homeMode = 2 then sendMsg m.sender .queryResult { handle := m.handle, sender := s.chipId, epoch := r.epoch, status := St.busyRetry }
  else if r.owner = some m.sender ∧ m.epoch = r.epoch then
    if r.phase = .handoff then
      acts [cancelHandoff m.handle q, result q m.sender .queryResult St.ok 1, sendClose m.handle]
    else result q m.sender .queryResult St.ok 1
  else result q m.sender .queryResult St.ok (if r.holders.contains m.sender then 2 else 4)

/-- HOLD_DROP: forwarded to the holder as HOLD_FREE when it comes from the owner at the home epoch outside a hand-off;
otherwise ignored and counted (R178). -/
def actHoldDrop (m : Msg) : Act := atHome .holdDrop m fun q =>
  let r := q.record
  if r.owner = some m.sender ∧ m.epoch = r.epoch ∧ r.phase ≠ .handoff then
    homeSend m.chip .holdFree { handle := m.handle, epoch := r.epoch, chip := m.chip, flags := m.flags, refs := m.refs }
  else staleMsg

/-- HOLD_EMPTY: the sender leaves HOLDER; the owner's answer to CLOSE completes REQ_CLOSE (R182, R14). -/
def actHoldEmpty (m : Msg) : Act := atHome .holdEmpty m fun q =>
  let r := q.record
  acts [putReq m.handle { q with record := { r with holders := r.holders.filter (· != m.sender) } },
        when (q.closing && q.closeSent && r.owner == some m.sender) (closeDone m.handle)]

/-- TOKEN_APPEND: tokens of a sample are appended once per STEP (R160, R162, R174). -/
def actTokenAppend (m : Msg) : Act := atHome .tokenAppend m fun q => look fun s =>
  let r := q.record
  let reply (st : Nat) (toks : List Nat) : Msg :=
    { handle := m.handle, epoch := r.epoch, status := st, step := m.step, tokens := toks }
  let answer (st : Nat) (toks : List Nat) : Act := homeSend m.sender .tokenResult (reply st toks)
  if s.homeMode = 2 then sendMsg m.sender .tokenResult { reply St.busyRetry [] with sender := s.chipId }
  else if m.epoch < r.epoch then answer St.staleEpoch []
  else if ¬ ((r.owner = some m.sender ∧ m.epoch = r.epoch) ∨
             (r.phase = .handoff ∧ r.receiver = m.sender ∧ m.epoch ≤ r.epoch + 1)) then answer St.notOwner []
  else if r.replayPending || r.replaying then answer St.replayPending []
  else if m.step = r.logStep ∧ r.logCount ≠ 0 then answer St.ok r.lastTokens
  else if m.step ≤ r.logStep then answer St.replayed []
  else if r.maxPositions + 16 < r.log.length + m.tokens.length then answer St.invalid []
  else
    let r1 := { r with log := r.log ++ m.tokens, logStep := m.step, logCount := m.tokens.length, lastTokens := m.tokens,
                       turnRecs := growTurn m.tokens.length r.turnRecs,
                       mirrorPos := max r.mirrorPos m.mirrorPos, positions := max r.positions m.positions }
    acts [putReq m.handle { q with record := r1 }, answer St.ok []]

/-! ### REQ_HANDOFF (R11, R12, R173, R182, R184) -/

/-- The target phases a hand-off may name (R12). -/
def handoffAllowed (from_ target : Phase) : Bool :=
  match from_, target with
  | .admitted, .prompting | .admitted, .listening | .prompting, .generating | .prompting, .listening
  | .generating, .listening | .generating, .prompting | .listening, .prompting | .listening, .generating => true
  | _, _ => false

/-- REQ_HANDOFF. `localPhase` is what a change of phase does on this chip as the owner. -/
def opReqHandoff (localPhase : Nat → Phase → Act) (ref : CmdRef) (c : Cmd) : Act :=
  let h := c.arg 0 64
  let chip := c.arg 8 16
  let mode := c.arg 11 8
  let budget := c.arg 12 32
  withLive ref h fun q => look fun s =>
    let r := q.record
    match r.phase with
    | .handoff | .parking | .resuming => fin ref St.busyRetry
    | .parked => fin ref St.invalid
    | _ => match phaseOf (c.arg 10 8) with
      | none => finInvalid ref 2
      | some target =>
        if r.owner = some chip ∧ r.phase = target then homeFin ref St.ok (leBytes 4 r.epoch)
        else if !handoffAllowed r.phase target then finInvalid ref 2
        else if q.phaseChg.isSome then fin ref St.busyRetry
        else if r.owner = some chip then
          if chip = s.chipId then
            if s.hasShare target then
              acts [putReq h { q with record := { enterPhase s.body.tick target r with budgetUs := budget, budgetTick := s.body.tick } },
                    localPhase h target,
                    homeFin ref St.ok (leBytes 4 r.epoch)]
            else finInvalid ref 2
          else acts [setReq h { q with phaseChg := some (ref, target) },
                     homeSend chip .handoffStart { handle := h, epoch := r.epoch, chip := chip, phase := phaseCode target,
                                                   flags := mode, budget := budget }]
        else if mode = 2 ∧ ¬ (s.inPod chip ∧ s.inPod (r.owner.getD s.chipId)) then finInvalid ref 3
        else
          let r1 := { r with phase := .handoff, prePhase := r.phase, targetPhase := target, receiver := chip, mode := mode,
                             budgetUs := budget, budgetTick := s.body.tick }
          acts [putReq h { q with record := r1, handoffCmd := some ref },
                homeSend (r.owner.getD 0) .handoffStart
                  { handle := h, epoch := r.epoch, chip := chip, phase := phaseCode target, flags := mode, budget := budget }]

/-- OFFER_ACK at the home, the owner's answer to a HANDOFF_START that named it (R12): on OK the phase changes and REQ_HANDOFF
completes with OK, on NO_RESOURCE it completes with INVALID. -/
def homeOfferAck (m : Msg) (q : HomeReq) : Act := look fun s =>
  match q.phaseChg with
  | none => staleMsg
  | some (ref, target) =>
    if q.record.owner ≠ some m.sender then staleMsg
    else if m.status = St.ok then
      acts [putReq m.handle { q with record := enterPhase s.body.tick target q.record, phaseChg := none },
            homeFin ref St.ok (leBytes 4 q.record.epoch)]
    else acts [setReq m.handle { q with phaseChg := none }, homeFin ref St.invalid []]

/-! ### Token log and status commands -/

/-- REQ_LOG_APPEND (R355). -/
def opReqLogAppend (ref : CmdRef) (c : Cmd) : Act :=
  let h := c.arg 0 64
  let first := c.arg 8 32
  let n := c.arg 12 16
  let hasNote := c.arg 14 8 == 1
  withLive ref h fun q => look fun s =>
    let r := q.record
    let inp := cmdInput s ref.src c
    let toks := (List.range n).map fun i => leNat ((inp.drop (4 * i)).take 4)
    let noteBytes := (inp.drop (4 * n)).take 16
    if inp.length < 4 * n + (if hasNote then 16 else 0) then fin ref St.invalid
    else if toks.any fun t => t / 2 ^ 20 != 0 then fin ref St.invalid
    else if first < r.log.length then
      if (r.log.drop first).take n = toks ∧ first + n ≤ r.log.length then finOk ref (leBytes 4 r.log.length)
      else finInvalid ref 1
    else if first ≠ r.log.length then finInvalid ref 1
    else if hasNote && r.turnRecs.isEmpty then finInvalid ref 3
    else if r.maxPositions + 16 < r.log.length + n then finInvalid ref 2
    else
      let turns1 := growTurn n r.turnRecs
      let turns2 := if hasNote then match turns1.reverse with
        | [] => []
        | t :: l => ({ t with note := noteBytes } :: l).reverse
        else turns1
      let r1 := { r with log := r.log ++ toks, turnRecs := turns2 }
      acts [putReq h { q with record := r1 }, homeFin ref St.ok (leBytes 4 r1.log.length)]

/-- REQ_STATUS: the authoritative record (R354). -/
def opReqStatus (ref : CmdRef) (c : Cmd) : Act :=
  withReq ref (c.arg 0 64) fun q => finOut ref c [] (recordBytes q.record) nop

/-! ### Mirroring (R176, R188, R197) -/

/-- Actions that waited for mirror updates up to a number are taken, in order. -/
def releaseWithheld (n : Nat) : Act := look fun s =>
  let ready := s.body.home.withheld.filter fun e => e.1 ≤ n
  acts [onHome (fun x => { x with withheld := x.withheld.filter fun e => n < e.1 }), each ready fun e => takeWithheld e.2]

/-- MIRROR_ACK: the partner has recorded every update up to a number; what waited for them is taken, and a REQ_SET_PARTNER
whose copies are all there completes: the home is paired from then on (R197). -/
def actMirrorAck (n : Nat) : Act := look fun s =>
  let x := s.body.home
  if n ≤ x.mirrorAcked ∨ x.mirrorSent < n then nop
  else acts [onHome (fun x => { x with mirrorAcked := n }),
    when (s.homeMode != 2) (releaseWithheld n),
    match x.setPartner with
    | some (ref, p, last) =>
      if last ≤ n then acts [onHome (fun x => { x with setPartner := none }), setFld Fld.RQT_PARTNER_PARTNER p,
                             setFld Fld.RQT_PARTNER_VALID 1, setFld Fld.RQT_STATUS_HOME_MODE 1, fin ref St.ok]
      else nop
    | none => nop]

/-- MIRROR_UPDATE: this chip, as mirror partner, applies an update of its home and acknowledges it (R176). -/
def actMirrorUpdate (home n : Nat) (u : MirrorUpd) : Act := look fun s =>
  acts [onHome fun x => { x with
          mirrorOf := some home, mirrorHeard := s.body.tick
          mirrored := match u with
            | .record r => tput x.mirrored r.handle r
            | .remove h => tdel x.mirrored h },
        emit (.mirrorAck home n)]

/-- REQ_SET_PARTNER (R197): a solo home sends the new partner copies of all its records and logs. A home that has a partner
first gives it up with PARTNER 0 (DESIGN CHOICE, log entry 7). -/
def opReqSetPartner (ref : CmdRef) (c : Cmd) : Act := look fun s =>
  let p := c.arg 0 16
  let x := s.body.home
  if s.homeMode = 2 ∨ x.setPartner.isSome then fin ref St.busyRetry
  else if p = 0 then
    acts [setFld Fld.RQT_PARTNER_PARTNER 0, setFld Fld.RQT_PARTNER_VALID 0, setFld Fld.RQT_STATUS_HOME_MODE 0,
          onHome (fun x => { x with mirrorAcked := x.mirrorSent }), releaseWithheld x.mirrorSent, fin ref St.ok]
  else if p = s.chipId ∨ (s.homeMode = 1 ∧ s.get Fld.RQT_PARTNER_PARTNER ≠ p) then finInvalid ref 0
  else if s.homeMode = 1 then fin ref St.ok
  else
    let n := x.mirrorSent
    let us := x.reqs.zipIdx.map fun e => Output.mirror p (n + e.2 + 1) (.record e.1.2.record)
    if us.isEmpty then
      acts [setFld Fld.RQT_PARTNER_PARTNER p, setFld Fld.RQT_PARTNER_VALID 1, setFld Fld.RQT_STATUS_HOME_MODE 1, fin ref St.ok]
    else acts [each us emit,
               onHome fun x => { x with mirrorSent := n + us.length, setPartner := some (ref, p, n + us.length) }]

/-- REQ_SET_MIRROR (R13, R188). `tell` is what a new mirror does on this chip as the owner. A mirror that is one no longer frees its
copies on a HOLD_FREE that names no frame (DESIGN CHOICE, log entry 20). -/
def opReqSetMirror (tell : Nat → Option Nat → Act) (ref : CmdRef) (c : Cmd) : Act :=
  let h := c.arg 0 64
  let chip := c.arg 8 16
  withLive ref h fun q => look fun s =>
    let r := q.record
    match r.phase with
    | .handoff | .parking | .resuming => fin ref St.busyRetry
    | _ =>
      let leaveOld := when (r.mirrored && r.stateMirror != chip)
        (homeSend r.stateMirror .holdFree { handle := h, epoch := r.epoch, chip := r.stateMirror })
      if chip = 0 then
        acts [putReq h { q with record := { r with mirrored := false, stateMirror := 0, mirrorPos := 0 } }, tell h none, leaveOld,
              homeFin ref St.ok []]
      else if !s.inPod chip || r.owner == some chip then finInvalid ref 1
      else acts [putReq h { q with record := { r with mirrored := true, stateMirror := chip, mirrorPos := 0 } }, tell h (some chip),
                 leaveOld, homeFin ref St.ok []]

/-! ### Liveness, failover and replay (R187 to R191) -/

/-- PING arrives: it is answered with PING_ACK, with TAKEN where this chip has taken over the sender's requests (R194). -/
def actPing (m : Msg) : Act := look fun s =>
  let taken := s.is Fld.RQT_PARTNER_TAKEN && s.get Fld.RQT_PARTNER_TAKEN_FROM == m.sender
  acts [onBody (fun b => { b with
          home := if b.home.mirrorOf = some m.sender then { b.home with mirrorHeard := b.tick } else b.home
          locs := tmod b.locs m.handle fun l => { l with home := m.sender } }),
        sendMsg m.sender .pingAck { sender := s.chipId, handle := m.handle, flags := if taken then 1 else 0 }]

/-- PING_ACK arrives: the chip is alive; a fenced home whose partner answers without TAKEN resumes as paired (R193). -/
def actPingAck (m : Msg) : Act := look fun s =>
  acts [onHome (fun x => { x with lastAck := tput x.lastAck m.sender s.body.tick }),
        when (s.homeMode == 2 && m.sender == s.get Fld.RQT_PARTNER_PARTNER && bitsOf m.flags 0 1 == 0)
          (acts [setFld Fld.RQT_STATUS_HOME_MODE 1, releaseWithheld s.body.home.mirrorAcked])]

/-- The chips a home pings: those that own or hold any of its live requests, and its partner (R187). -/
def pingTargets (s : State) : List Nat :=
  let owners := s.body.home.reqs.foldr (fun e acc =>
    if phaseLive e.2.record.phase then e.2.record.owner.toList ++ e.2.record.holders ++ acc else acc) []
  let partner := if s.is Fld.RQT_PARTNER_VALID then [s.get Fld.RQT_PARTNER_PARTNER] else []
  nub ((owners ++ partner).filter (· != s.chipId))

/-- PING_INTERVAL: the home pings. -/
def actPingInterval : Act := look fun s => each (pingTargets s) fun c => sendMsg c .ping { sender := s.chipId }

/-- Where a replay of the request's log ends (R175, R189). -/
def replayEnd (r : Rec) : Nat :=
  match r.log.getLast? with
  | some t => if t / 2 ^ 20 % 4 = 1 then r.log.length - 1 else r.log.length
  | none => 0

/-- OWNER_FAILOVER: the owner of a request has failed (R189). A hand-off under way is cancelled first (R185). -/
def failover (h : Nat) : Act := look fun s =>
  match s.req h with
  | none => nop
  | some q0 =>
    let inHandoff := q0.record.phase == .handoff
    acts [when inHandoff (cancelHandoff h q0), look fun s =>
      match s.req h with
      | none => nop
      | some q =>
        let r := q.record
        let e := wrapAdd 32 r.epoch 1
        let imageLost := r.phase == .parked || r.phase == .resuming
        let mirrorAlive := r.mirrored && !s.body.home.failedChips.contains r.stateMirror && !imageLost
        let tgt := replayEnd r
        if mirrorAlive then
          let pend := decide (r.mirrorPos < r.positions) && r.mirrorPos != tgt
          let r1 := { r with epoch := e, owner := some r.stateMirror, mirrored := false, stateMirror := 0,
                             replayPending := pend, replaying := false, replayFrom := if pend then r.mirrorPos else tgt, replayTo := tgt }
          acts [putReq h { q with record := r1 }, count Reg.RQT_FAILOVER 1,
                note Blk.rqt 2 0 { handle := h, epoch := e },
                when pend (raiseWith Blk.rqt 4 { handle := h, epoch := e }),
                homeSend r.stateMirror .leashGrant
                  { handle := h, epoch := e, source := r.stateMirror, stepFloor := r.logStep, phase := phaseCode r.phase,
                    replayFrom := r1.replayFrom, replayTo := tgt }]
        else
          let prefixHomesAlive := ([r.prefix0, r.prefix1].filter (· != 0)).all fun p =>
            !s.body.home.failedChips.contains (handleHome p)
          let r1 := { r with epoch := e, owner := none, mirrored := false, stateMirror := 0, replayPending := true, replaying := false,
                             replayFrom := if prefixHomesAlive then r.prefixPos else 0, replayTo := tgt }
          acts [putReq h { q with record := r1 }, count Reg.RQT_REPLAY_REQ 1,
                note Blk.rqt 2 0 { handle := h, epoch := e },
                raiseWith Blk.rqt 4 { handle := h, epoch := e },
                each r.holders (fun c => homeSend c .holdFree { handle := h, epoch := e, chip := c, flags := 1 })],
      look fun s => match s.req h with
        | some q => when q.closing (closeDone h)
        | none => nop]

/-- A home declares a chip failed (R187): it leaves every HOLDER list and is sent HOLD_FREE ALL; requests it owns are
recovered (R189). -/
def declareFailed (chip : Nat) : Act := look fun s =>
  let live := s.body.home.reqs.filter fun e => phaseLive e.2.record.phase
  let held := live.filter fun e => e.2.record.holders.contains chip
  let owned := live.filter fun e => e.2.record.owner == some chip
  acts [onHome (fun x => { x with failedChips := if x.failedChips.contains chip then x.failedChips else x.failedChips ++ [chip] }),
        each held (fun e => look fun s => match s.req e.1 with
          | some q => acts [putReq e.1 { q with record := { q.record with holders := q.record.holders.filter (· != chip) } },
                            homeSend chip .holdFree { handle := e.1, epoch := q.record.epoch, chip := chip, flags := 1 }]
          | none => nop),
        when (!owned.isEmpty) (raiseWith Blk.rqt 0 { addr := chip }),
        each owned (fun e => failover e.1)]

/-- OWNER_TIMEOUT: no PING_ACK of a watched chip for OWNER_TIMEOUT (R187). A partner declared failed sets PARTNER_LOST (R201); it is
given up only on REQ_CHIP_DOWN (R197). -/
def actOwnerTimeout (chip : Nat) : Act := look fun s =>
  if chip ≠ s.chipId ∧ (pingTargets s).contains chip ∧ ¬ s.body.home.failedChips.contains chip ∧ s.homeMode ≠ 2 then
    acts [when (s.is Fld.RQT_PARTNER_VALID && s.get Fld.RQT_PARTNER_PARTNER == chip) (raise Blk.rqt 3), declareFailed chip]
  else nop

/-- Redirect entries (R196): entries that lead to the former home lead to the new one; then the former home's own entry is
added or updated, in a free entry or in the least recently used. -/
def redirect (former new : Nat) : Act := look fun s =>
  let rewrite := each ((List.range 64).filter fun n =>
      s.is (Fld.RQT_REDIR_VALID n) && s.get (Fld.RQT_REDIR_TO_CHIP n) == former) fun n => setFld (Fld.RQT_REDIR_TO_CHIP n) new
  let use (n : Nat) : Nat := (tget s.body.home.redirUse n).getD 0
  let (slot, replaced) := match s.redirOf former with
    | some n => (n, false)
    | none => match firstBelow 64 fun n => !s.is (Fld.RQT_REDIR_VALID n) with
      | some n => (n, false)
      | none => ((List.range 64).foldl (fun m n => if use n < use m then n else m) 0, true)
  acts [rewrite, setFld (Fld.RQT_REDIR_FROM_CHIP slot) former, setFld (Fld.RQT_REDIR_TO_CHIP slot) new,
        setFld (Fld.RQT_REDIR_VALID slot) 1, when replaced (count Reg.RQT_REDIR_REPLACED 1),
        onHome fun x => { x with redirUse := tput x.redirUse slot x.redirSeq, redirSeq := x.redirSeq + 1 }]

/-- HOME_MOVED: the sender is home for the former home's handles (R195, R196). -/
def actHomeMoved (m : Msg) : Act :=
  acts [redirect m.chip m.sender,
        onBody fun b => { b with locs := b.locs.map fun e => if e.2.home = m.chip then (e.1, { e.2 with home := m.sender }) else e }]

/-- HOME_RELEASED: the redirect entry of a former home goes (R196). -/
def actHomeReleased (m : Msg) : Act := look fun s =>
  match s.redirOf m.chip with
  | some n => setReg (Reg.RQT_REDIR n) 0
  | none => nop

/-- The partner takes over its home's requests (R194). -/
def takeover : Act := look fun s =>
  match s.body.home.mirrorOf with
  | none => nop
  | some home =>
    let recs := s.body.home.mirrored
    let adopt (r : Rec) : Act :=
      let r1 := { r with epoch := wrapAdd 32 r.epoch 1 }
      acts [setReq r.handle { record := r1 }, showRec r1,
            when (phaseLive r.phase) (acts [eff .reqAdmit, count Reg.RQT_ADOPTED 1, tcount r.tenant TReg.RQT_TLIVE 1,
              match r.owner with
              | some o => acts [sendMsg o .leashGrant { handle := r.handle, sender := s.chipId, epoch := r1.epoch, source := o,
                                                        stepFloor := r.logStep, phase := phaseCode r.phase,
                                                        replayFrom := r.replayFrom, replayTo := r.replayTo },
                                when (r.phase == .handoff)
                                  (sendMsg o .handoffStart { handle := r.handle, sender := s.chipId, epoch := r1.epoch, chip := r.receiver,
                                                             phase := phaseCode r.targetPhase, flags := r.mode,
                                                             budget := budgetLeft s.body.tick r })]
              | none => nop])]
    acts [setFld Fld.RQT_PARTNER_TAKEN 1, setFld Fld.RQT_PARTNER_TAKEN_FROM home, each recs (fun e => adopt e.2),
          onHome (fun x => { x with mirrored := [], mirrorOf := none, setPartner := none }),
          setFld Fld.RQT_STATUS_HOME_MODE 0, setFld Fld.RQT_PARTNER_VALID 0,
          releaseWithheld s.body.home.mirrorSent, onHome (fun x => { x with mirrorAcked := x.mirrorSent }),
          count Reg.RQT_TAKEOVERS 1, raiseWith Blk.rqt 1 { addr := home },
          each ((List.range 256).filterMap fun m => s.memberChip m) fun tgt =>
            if tgt = s.chipId then nop else sendMsg tgt .homeMoved { sender := s.chipId, chip := home }]

/-- PARTNER_TAKEOVER: nothing received from the home for 2 × HOME_FENCE (R194). -/
def actPartnerTakeover : Act := takeover

/-- HOME_FENCE: a paired home has received nothing from its partner for HOME_FENCE; it fences itself (R193). -/
def actHomeFence : Act := look fun s =>
  if s.homeMode = 1 then acts [setFld Fld.RQT_STATUS_HOME_MODE 2, raise Blk.rqt 2] else nop

/-- REQ_CHIP_DOWN (R187, R194, R197). -/
def opReqChipDown (ref : CmdRef) (c : Cmd) : Act := look fun s =>
  let chip := c.arg 0 16
  if chip = s.chipId then finInvalid ref 0
  else
    let isPartner := s.is Fld.RQT_PARTNER_VALID && s.get Fld.RQT_PARTNER_PARTNER == chip
    acts [when isPartner (acts [raise Blk.rqt 3, setFld Fld.RQT_STATUS_HOME_MODE 0, setFld Fld.RQT_PARTNER_VALID 0,
                                setFld Fld.RQT_PARTNER_PARTNER 0, onHome (fun x => { x with mirrorAcked := x.mirrorSent }),
                                releaseWithheld s.body.home.mirrorSent]),
          when (s.body.home.mirrorOf == some chip) takeover,
          declareFailed chip, homeFin ref St.ok []]

/-- REQ_REPLAY (R190). Shares of another chip are not known to the home: they are checked where the replay chip is this
chip (log entry 8). -/
def opReqReplay (ref : CmdRef) (c : Cmd) : Act :=
  let h := c.arg 0 64
  let chip := c.arg 8 16
  withReq ref h fun q => look fun s =>
    let r := q.record
    if !phaseLive r.phase || q.closing then fin ref St.invalid
    else if !r.replayPending && !r.replaying then fin ref St.invalid
    else if s.body.home.failedChips.contains chip then finInvalid ref 1
    else if r.replaying then
      if q.replayChip = chip then homeFin ref St.ok [] else fin ref St.replayPending
    else if chip = s.chipId ∧ ¬ (s.hasPrompt ∧ s.hasShare r.phase) then finInvalid ref 1
    else
      let former := match r.owner with
        | some o => if o = chip then none else some o
        | none => none
      let room := match former with
        | some o => r.holders.contains o || r.holders.length < 4
        | none => true
      if !room then fin ref St.busyRetry
      else
        let need := r.replayFrom != r.replayTo
        let e := wrapAdd 32 r.epoch 1
        let hold := r.holders.filter (· != chip)
        let r1 := { r with epoch := e, owner := some chip, replayPending := false, replaying := need,
                           holders := match former with
                             | some o => if hold.contains o then hold else hold ++ [o]
                             | none => hold,
                           phase := if !need && (r.phase == .parked || r.phase == .resuming) then .listening else r.phase }
        acts [putReq h { q with record := r1, replayChip := chip },
              homeSend chip .leashGrant { handle := h, epoch := e, flags := if need then 1 else 0, source := (r.owner.getD 0),
                                          replayFrom := r.replayFrom, replayTo := r.replayTo, stepFloor := r.logStep,
                                          phase := phaseCode r1.phase },
              each former.toList (fun o => homeSend o .leashRelease { handle := h, epoch := e, flags := 1 }),
              homeFin ref St.ok []]

/-- REPLAY_REPORT: the owner reports that every layer's count has reached REPLAY_TO; REPLAYING is cleared, and a request
whose image was lost with its chip becomes LISTENING (R191). -/
def actReplayReport (h chip epoch positions : Nat) : Act := look fun s =>
  match s.req h with
  | none => staleMsg
  | some q =>
    let r := q.record
    if r.owner = some chip ∧ r.epoch = epoch ∧ r.replaying = true ∧ r.replayTo ≤ positions then
      putReq h { q with record := { r with replaying := false, positions := positions,
                                           phase := if r.phase = .parked ∨ r.phase = .resuming then .listening else r.phase } }
    else staleMsg

/-! ### Executions -/
def execLeashCas (m : Msg) (s : State) :=
  done (when (m.wf) (actLeashCas m)) s
def execLeashQuery (m : Msg) (s : State) :=
  done (when (m.wf) (actLeashQuery m)) s
def execHoldDrop (m : Msg) (s : State) :=
  done (when (m.wf) (actHoldDrop m)) s
def execHoldEmpty (m : Msg) (s : State) :=
  done (when (m.wf) (actHoldEmpty m)) s
def execTokenAppend (m : Msg) (s : State) :=
  done (when (m.wf) (actTokenAppend m)) s
def execReqLogAppend (src : Src) (s : State) := done (runOp 0x0304 src opReqLogAppend) s
def execReqReplay (src : Src) (s : State) := done (runOp 0x0305 src opReqReplay) s
def execReqStatus (src : Src) (s : State) := done (runOp 0x0306 src opReqStatus) s
def execReqChipDown (src : Src) (s : State) := done (runOp 0x0307 src opReqChipDown) s
def execReqSetPartner (src : Src) (s : State) := done (runOp 0x0308 src opReqSetPartner) s
def execMirrorAck (n : Nat) (s : State) := done (actMirrorAck n) s
def execMirrorUpdate (home n : Nat) (u : MirrorUpd) (s : State) :=
  done (when (chipWf home) (actMirrorUpdate home n u)) s
def execPing (m : Msg) (s : State) :=
  done (when (m.wf) (actPing m)) s
def execPingAck (m : Msg) (s : State) :=
  done (when (m.wf) (actPingAck m)) s
def execPingInterval (s : State) := done actPingInterval s
def execOwnerTimeout (chip : Nat) (s : State) :=
  done (when (chipWf chip) (actOwnerTimeout chip)) s
def execHomeMoved (m : Msg) (s : State) :=
  done (when (m.wf) (actHomeMoved m)) s
def execHomeReleased (m : Msg) (s : State) :=
  done (when (m.wf) (actHomeReleased m)) s
def execPartnerTakeover (s : State) := done actPartnerTakeover s
def execHomeFence (s : State) := done actHomeFence s
def execReplayReport (h chip epoch positions : Nat) (s : State) :=
  done (when (handleWf h && chipWf chip) (actReplayReport h chip epoch positions)) s

end Sys2Proof.Machine
end

