-- ==== Sys2Proof/Machine/JobCore.lean ====
section
/-! DEFINITION. What every step job is made of (R69 to R80, 03_attention_engines.md): the Leash state of its request, its
descriptor, its completion record, the end of a job; and the Collar accounts it draws on (R278 to R280,
10_sharing_and_scheduling.md). -/

namespace Sys2Proof.Machine

/-! ### Requests on this chip -/

/-- The Leash state of a request on this chip (R181). -/
def State.loc (s : State) (h : Nat) : Option Loc := tget s.body.locs h
def setLoc (h : Nat) (l : Loc) : Act := onBody fun b => { b with locs := tput b.locs h l }
def modLoc (h : Nat) (f : Loc → Loc) : Act := onBody fun b => { b with locs := tmod b.locs h f }
/-- The layer of a page-list table; an entry never written names no page. -/
def Loc.layer (c : Loc) (l : Nat) : Layer := (tget c.layers l).getD {}
def modLayer (h l : Nat) (f : Layer → Layer) : Act := modLoc h fun c => { c with layers := tput c.layers l (f (c.layer l)) }

/-- The model of a request on this chip. -/
def State.locModel (s : State) (c : Loc) : Option Model := s.modelOfTenant c.tenant

/-- The tenant group of a tenant. -/
def State.group (s : State) (t : Nat) : Nat := ((s.tenantRec t).map tenantGroup).getD 0

/-- Where a chip sends its messages for the home of a request: the recorded home, or through the redirect table by the chip
id in the handle (R195, R196). -/
def State.homeOf (s : State) (h : Nat) : Nat :=
  match s.loc h with
  | some c => c.home
  | none => match s.redirOf (handleHome h) with
    | some n => s.get (Fld.RQT_REDIR_TO_CHIP n)
    | none => handleHome h

/-- A message to the home of a request. -/
def toHome (h : Nat) (t : MsgType) (m : Msg) : Act := look fun s => sendMsg (s.homeOf h) t { m with handle := h, sender := s.chipId }

/-- The epoch a chip holds a Leash state at. -/
def leashEpoch : LeashSt → Nat
  | .receiving e | .casing e | .owner e | .draining e | .offering e | .waiting e => e
  | _ => 0

/-! ### Collars (R278 to R283) -/

/-- RATE, CAP, INTERVAL, ENABLE of a Collar: kind 0 tokens, 1 positions. -/
def colRate (s : State) (t k : Nat) : Nat := if k = 0 then s.get (Fld.COL_TOKCFG_RATE t) else s.get (Fld.COL_POSCFG_RATE t)
def colCap (s : State) (t k : Nat) : Nat := if k = 0 then s.get (Fld.COL_TOKCFG_CAP t) else s.get (Fld.COL_POSCFG_CAP t)
def colInterval (s : State) (t k : Nat) : Nat := if k = 0 then s.get (Fld.COL_TOKCFG_INTERVAL t) else s.get (Fld.COL_POSCFG_INTERVAL t)
def colOn (s : State) (t k : Nat) : Bool := if k = 0 then s.is (Fld.COL_TOKCFG_ENABLE t) else s.is (Fld.COL_POSCFG_ENABLE t)

/-- BALANCE of a Collar. -/
def colBalance (s : State) (t k : Nat) : Int := (acctGet s.led (2 * t + k)).balance

/-- Changes of the engines' state. -/
def onJobs (f : Jobs → Jobs) : Act := onBody fun b => { b with jobs := f b.jobs }

/-- A reservation: tenant, kind, handle, STEP, amount, when made. -/
abbrev Resv := Nat × Nat × Nat × Nat × Nat × Nat

/-- The reservation of a handle and STEP. -/
def resvOf (s : State) (kind h step : Nat) : Option Resv :=
  s.body.jobs.resv.find? fun r => r.2.1 == kind && r.2.2.1 == h && r.2.2.2.1 == step

/-- A reservation leaves the table. -/
def dropResv (r : Resv) : Act :=
  acts [onJobs (fun j => { j with resv := j.resv.filter (· != r) }), dropFld Fld.COL_STATUS_RESV_USED 1]

/-- A released amount returns to BALANCE while the Collar is enabled and goes to EXPIRED while it is not (R280). -/
def giveBack (t k n : Nat) : Act := look fun s => eff (if colOn s t k then .colRelease (2 * t + k) n else .colExpireReserved (2 * t + k) n)

/-- A reservation is released. -/
def releaseResv (r : Resv) : Act := acts [giveBack r.1 r.2.1 r.2.2.2.2.1, dropResv r]

/-- Every reservation of a request is released: it leaves PROMPTING or GENERATING here, or ends (R280). -/
def releaseAll (h : Nat) : Act := look fun s => each (s.body.jobs.resv.filter fun r => r.2.2.1 == h) releaseResv

/-- n tokens or positions are drawn from BALANCE, with DEBT where it goes below zero (R280); a disabled Collar is not
charged (R283). -/
def drawBalance (t k n : Nat) : Act := look fun s =>
  if !colOn s t k || n == 0 then nop
  else acts [eff (.colSpendBalance (2 * t + k) n), look fun s' => when (decide (colBalance s' t k < 0)) (raise Blk.col 2)]

/-- A commit of n units under a reservation of handle and STEP: n spent, the rest released, an excess drawn; without one, all
drawn (R280). -/
def spend (t k h step n : Nat) : Act := look fun s =>
  match resvOf s k h step with
  | some r =>
    let a := r.2.2.2.2.1
    acts [eff (.colSpendReserved (2 * t + k) (min n a)), when (n < a) (giveBack t k (a - n)), dropResv r, drawBalance t k (n - a)]
  | none => drawBalance t k n

/-! ### Step-job descriptors (R72, R73) -/

namespace Op
def promptChunk : Nat := 0x10
def decode : Nat := 0x20
def verifyChain : Nat := 0x21
def verifyTree : Nat := 0x22
def partial_ : Nat := 0x30
def prefixPartial : Nat := 0x31
def merge : Nat := 0x40
end Op

/-- The opcode of R73. -/
def knownOp (op : Nat) : Bool := [Op.promptChunk, Op.decode, Op.verifyChain, Op.verifyTree, Op.partial_, Op.prefixPartial, Op.merge].contains op
def isVerify (op : Nat) : Bool := op == Op.verifyChain || op == Op.verifyTree
/-- Opcodes that append, that name a request, and that run in the PAE. -/
def appending (op : Nat) : Bool := op == Op.promptChunk || op == Op.decode || isVerify op
def ofRequest (op : Nat) : Bool := appending op || op == Op.partial_
def onPae (op : Nat) : Bool := op == Op.promptChunk
/-- Rows appended at the job's own commit: all of a prompt chunk, row 0 of a decode or verify step (R64). -/
def appendRows (d : JobDesc) : Nat := if d.op = Op.promptChunk then d.nq else if appending d.op then 1 else 0

/-- A descriptor from its 64 bytes. -/
def jobDescOf (bs : List Byte) : JobDesc :=
  let v := leNat bs
  { op := bitsOf v 0 8, mode := bitsOf v 8 2, qFmt := bitsOf v 10 2, outFmt := bitsOf v 12 2, mask := bitsOf v 14 2,
    layer := bitsOf v 16 16, nq := bitsOf v 32 11, parts := bitsOf v 43 4, outRemote := bitsOf v 47 1 == 1,
    outMember := bitsOf v 48 8, handle := bitsOf v 64 64, qAddr := bitsOf v 128 32, kvAddr := bitsOf v 160 32,
    outAddr := bitsOf v 192 32, maskAddr := bitsOf v 224 32, partAddr := bitsOf v 256 32, arrival := bitsOf v 288 16,
    step := bitsOf v 320 32, epoch := bitsOf v 352 32, firstPage := bitsOf v 384 16, pageCount := bitsOf v 400 16,
    smScale := bitsOf v 416 32, qPos := bitsOf v 448 32, cls := bitsOf v 480 3, tenant := bitsOf v 496 10 }

/-- A reserved field of a descriptor is not zero (R6, R72). -/
def jobResv (bs : List Byte) (op : Nat) : Bool :=
  let v := leNat bs
  bitsOf v 56 8 != 0 || bitsOf v 304 16 != 0 || bitsOf v 483 13 != 0 || bitsOf v 506 6 != 0
  || (bitsOf v 480 3 != 0 && op != Op.prefixPartial && op != Op.merge) || (bitsOf v 496 10 != 0 && op != Op.merge)

/-- The size of the job buffer. -/
def jbufSize : Nat := 0x4000000

/-- A range of the job buffer: 64-aligned, within its 64 MiB. -/
def inJbuf (a n : Nat) : Bool := a % 64 == 0 && a + n ≤ jbufSize

/-- A finite positive binary32 value. -/
def f32PosFinite (x : Nat) : Bool := f32Finite x && x / 2 ^ 31 == 0 && !f32IsZero x

/-- Bytes of a job's outputs (R77). -/
def outSize (m : Model) (d : JobDesc) : Nat :=
  let n := d.nq * m.queryHeads
  if d.op = Op.partial_ ∨ d.op = Op.prefixPartial then n * partSize m.headDim
  else (n * m.headDim * (if d.outFmt = 0 then 2 else 4) + 63) / 64 * 64 + 4 * n

/-- Bytes of the mask bitmap (R62). -/
def maskSize (d : JobDesc) : Nat :=
  match d.mask with
  | 1 => d.nq * ((d.nq + 511) / 512 * 64)
  | 2 => d.nq * ((d.qPos + d.nq + 511) / 512 * 64)
  | _ => 0

/-- The partial sets a job reads (R72). -/
def partSets (d : JobDesc) : Nat := if d.op = Op.merge then d.parts + 1 else d.parts

/-- A job-buffer range of a descriptor. -/
def jbytes (s : State) (a n : Nat) : List Byte := s.bytes (Mem.jobBuffer + a) n

/-- Check 1 of R74: opcode, mode, formats, counts, reserved fields, alignment, ranges, SM_SCALE, the mask's bitmap. The ranges
that depend on the model are checked where the chip knows it. -/
def formOk (s : State) (bs : List Byte) (d : JobDesc) (m : Option Model) : Bool :=
  let op := d.op
  let scent := d.mode == 1 || d.mode == 3
  let nOk := if op = Op.promptChunk ∨ op = Op.merge then 1 ≤ d.nq && d.nq ≤ 1024
    else if op = Op.decode then d.nq == 1
    else if isVerify op then 2 ≤ d.nq && d.nq ≤ 16
    else 1 ≤ d.nq && d.nq ≤ 16
  let modeOk := if isVerify op then true else if op = Op.decode ∨ op = Op.partial_ then d.mode ≤ 1 else d.mode == 0
  let maskOk := if op = Op.verifyChain then d.mask == 0 else if op = Op.verifyTree then d.mask == 1
    else d.mask ≤ 2 && !(d.mask == 2 && scent)
  let part := op == Op.partial_ || op == Op.prefixPartial
  knownOp op && nOk && modeOk && maskOk && d.qFmt ≤ 2 && d.outFmt ≤ 1 && (!part || d.outFmt == 1) && !jobResv bs op
  && f32PosFinite d.smScale
  && [d.qAddr, d.kvAddr, d.outAddr, d.maskAddr, d.partAddr].all (fun a => a % 64 == 0 && a < jbufSize)
  && (appending op || d.kvAddr == 0) && (d.mask != 0 || d.maskAddr == 0) && (op == Op.merge || d.parts != 0 || d.partAddr == 0)
  && (op != Op.merge || (d.handle == 0 && d.epoch == 0 && ((s.tenantRec d.tenant).map tenantEnabled).getD false))
  && (op != Op.prefixPartial || d.epoch == 0)
  && inJbuf d.maskAddr (maskSize d)
  && (match m with
      | none => true
      | some m =>
        (op == Op.merge || inJbuf d.qAddr (queryBytes m d.qFmt d.nq)) && (!appending op || inJbuf d.kvAddr (kvBytes m d.nq))
        && inJbuf d.outAddr (outSize m d)
        && inJbuf d.partAddr (partSets d * d.nq * m.queryHeads * partSize m.headDim))
  && (op != Op.verifyTree || treeOk (jbytes s d.maskAddr (maskSize d)) d.nq)

/-! ### Live jobs -/

def State.job (s : State) (id : Nat) : Option Job := tget s.body.jobs.jobs id
def putJob (id : Nat) (j : Job) : Act := onJobs fun x => { x with jobs := tput x.jobs id j }
def modJob (id : Nat) (f : Job → Job) : Act := onJobs fun x => { x with jobs := tmod x.jobs id f }

/-- The depth of a job queue. -/
def State.jqDepth (s : State) (q : Nat) : Nat := 2 ^ s.get (Fld.DAE_JQ_CFG_DEPTH_LOG2 q)

/-- A completion record (R78). -/
def completionRecord (status flags phase step qseq ns us : Nat) : List Byte :=
  leBytes 4 (status + 256 * (phase % 2) + flags) ++ leBytes 4 step ++ leBytes 4 (qseq % 2 ^ 32) ++ leBytes 2 (min ns 65535)
    ++ leBytes 2 (min us 65535)

/-- The flags of a job's record: DEFERRED, INT_REPLAY, SPLIT, GANG_FALLBACK, EXACT_FALLBACK at bits 9 to 13. -/
def jobFlags (j : Job) : Nat :=
  let b (x : Bool) (i : Nat) : Nat := if x then 2 ^ i else 0
  b j.fDeferred 9 + b j.fReplay 10 + b j.fSplit 11 + b j.fGang 12 + b j.fExact 13

/-- The head of a queue after slots have ended: it passes every slot that has, in order (R70). -/
def headAfter (ended : Nat → Bool) (depth : Nat) : Nat → Nat → Nat × List Nat
  | 0, h => (h, [])
  | n + 1, h => if ended h then
      let r := headAfter ended depth n ((h + 1) % depth)
      (r.1, h :: r.2)
    else (h, [])

/-- The head of job queue q passes the slots whose jobs have ended. -/
def advanceHead (q : Nat) : Act := look fun s =>
  let depth := s.jqDepth q
  let r := headAfter (fun i => s.body.jobs.ended.contains (q * 65536 + i)) depth depth (s.get (Fld.DAE_JQ_PTR_HEAD q))
  acts [setFld (Fld.DAE_JQ_PTR_HEAD q) r.1,
        onJobs fun x => { x with ended := x.ended.filter fun e => !(e / 65536 == q && r.2.contains (e % 65536)) }]

/-- Groups held by a job are given back. -/
def freeGroups (j : Job) : Act := fun s =>
  let clear (v : Nat) (gs : List Nat) : Nat := gs.foldl (fun a g => withBits a g 1 0) v
  let dae := if onPae j.d.op then [] else j.groups
  let pae := if onPae j.d.op then j.groups else j.tiles
  acts [setFld Fld.DAE_STATUS_GROUPS_BUSY (clear (s.get Fld.DAE_STATUS_GROUPS_BUSY) dae),
        setFld Fld.PAE_STATUS_GROUPS_BUSY (clear (s.get Fld.PAE_STATUS_GROUPS_BUSY) pae)] s

/-- A DOOMED remote page cache entry goes when the last job that names it ends (R219). -/
def reapDoomed : Act := look fun s =>
  each (s.body.coh.cache.filter fun e => e.2.st == .doomed && !s.body.pages.busy.any fun b => b.2 == e.2.key) fun e =>
    acts [onCoh (fun c => { c with cache := tdel c.cache e.1 }), freeFrame e.2.key]

/-- The end of a job: its completion record is written and its arrival counter raised (R77); its groups, its frames' names and
its place in its queue are given back. A deferred job leaves its tenant's list. -/
def endPlain (id status : Nat) : Act := look fun s =>
  match s.job id with
  | none => nop
  | some j =>
    let depth := s.jqDepth j.q
    acts [store (Mem.jobRecord j.q j.slot)
            (completionRecord status (jobFlags j) (j.qseq / depth) j.d.step j.qseq j.engineNs (j.stalled / 1000)),
          freeGroups j,
          onJobs (fun x => { x with jobs := tdel x.jobs id, ended := x.ended ++ [j.q * 65536 + j.slot],
                                    deferred := x.deferred.map fun e => (e.1, e.2.filter (· != id)),
                                    chosen := x.chosen.filter fun e => e.2 != id }),
          onPages (fun p => { p with busy := p.busy.filter fun b => b.1 != id }),
          when (j.st == .deferred) (dropFld Fld.COL_STATUS_DEFERRED 1),
          reapDoomed, dropFld Fld.DAE_STATUS_JOBS_LIVE 1, advanceHead j.q,
          arrive j.d.arrival (.job status)]

/-- The reservation a job made: the job of layer 0 of a step (R279). -/
def jobKind (d : JobDesc) : Nat := if onPae d.op then 1 else 0
def ownResv (s : State) (j : Job) : Option Resv :=
  if j.d.layer = 0 ∧ appending j.d.op = true then resvOf s (jobKind j.d) j.d.handle j.d.step else none

end Sys2Proof.Machine
end

