-- ==== Sys2Proof/Machine/Reads.lean ====
section
/-! DEFINITION. Reading pages into near state (R44 to R50, 02_state_memory.md; R183, R198, 07_ownership_and_recovery.md; R215,
R219, 08_fabric_memory_semantics.md): where a page lies, the reads of the prefetch schedule and of jobs, stalls, and the
landing of a page. -/

namespace Sys2Proof.Machine

/-! ### Where a page lies -/

/-- The holder's reference that a tier-3 entry stands for, and the tier-3 entry of a holder's reference (R27, R28). -/
def holderRef (r : Nat) : Nat := mkRef (refChip r) (refFrame r / 2 ^ 27 % 2) (refFrame r % 2 ^ 25) (refGen r)
def holdRef (r : Nat) : Nat := mkRef (refChip r) 3 (refTier r % 2 * 2 ^ 27 + refFrame r % 2 ^ 25) (refGen r)

/-- Where the page of a page-list entry lies. -/
inductive PagePlace where
  | near (k : Nat)
  | far (k : Nat)
  /-- on another chip, under the reference its home knows -/
  | remote (ref : Nat)
  /-- only in the Kennel -/
  | kennel (ref : Nat)
  | lost
deriving DecidableEq, Repr

def placeOf (s : State) (r : Nat) : PagePlace :=
  let here (r : Nat) : PagePlace :=
    if refChip r ≠ s.chipId then .remote r
    else match s.resolve r with
      | some k => if keyTier k = 0 then .near k else .far k
      | none => .lost
  match refTier r with
  | 0 | 1 => here r
  | 2 => .kennel r
  | 3 => here (holderRef r)
  | _ => .lost

/-- The near frame in which a page is resident with a verified CRC (R49). A remote page cache entry that an INVAL has hidden
serves the jobs that name it until the last has ended (R219). -/
def residentKey (s : State) (r : Nat) : Option Nat :=
  match placeOf s r with
  | .near k => match s.frame k with
    | some f => if f.staging then none else some k
    | none => none
  | .remote x => match tget s.body.coh.cache x with
    | some c => if c.st = .valid ∨ (c.st = .doomed ∧ s.body.pages.busy.any (fun b => b.2 == c.key) = true) then some c.key else none
    | none => none
  | _ => none

/-- The reference a read of a page-list entry names. -/
def readRef (s : State) (r : Nat) : Nat :=
  match placeOf s r with
  | .remote x => x
  | _ => r

/-- A read of the page that has not arrived. -/
def readOf (s : State) (r : Nat) : Option (Nat × PageRead) := s.body.pages.reads.find? fun e => e.2.src == readRef s r && e.2.mov.isNone

/-! ### Issuing reads -/

/-- A page read goes out to another chip (R217). -/
def sendRead (ref : Nat) (tracked : Bool) : Act := look fun s =>
  match s.chipMember (refChip ref) with
  | none => nop
  | some m => emit (.coh m { type := .pageRead, tracked := tracked, sender := s.member, refs := [ref] } none [] [])

/-- The window check of a page read of the device's own, in the firmware context (R205). -/
def pageReadOk (s : State) (ref : Nat) : Bool :=
  match s.chipMember (refChip ref) with
  | none => false
  | some m => winPass s .firmware (mkFa m (refTier ref) (refFrame ref * 32768)) (.pageRead ref true)

/-- The header of a staging target. -/
def stagingHdr (s : State) (h l tenant : Nat) : PageHeader :=
  { owner := h, layer := l, tenant := tenant, group := s.group tenant, isProtected := s.isProt tenant }

/-- A read is registered under the next tag. -/
def newRead (r : PageRead) : Act := onPages fun p => { p with reads := tput p.reads p.nextTag r, nextTag := p.nextTag + 1 }

/-- The allocation kind of a request's pages on this chip: of its phase, or of a shared prefix. -/
def pageKind (p : Phase) : AllocKind :=
  match p with
  | .prompting => .prompt
  | .generating => .generation
  | _ => .cache

/-- A read of a page that is neither resident nor being read, into near state (R47): its effects; none where no near frame
can be had. Evictions go up to a class (R223). A low-rank page's basis is copied to near state with it (R135). -/
def issueRead (s : State) (h l i tenant : Nat) (kind : AllocKind) (r maxClass : Nat) : Option Act :=
  let group := s.group tenant
  match placeOf s r with
  | .near _ | .lost => some nop
  | .far fk =>
    match s.frame fk with
    | none => some nop
    | some f =>
      let basis : Option Act :=
        if f.hdr.lowRank then match s.resolve f.hdr.lrBasisRef with
          | some b => (copyBasis s b 0 (nearBasisPlace h l f.hdr.basisSeq group kind)).map (·.2)
          | none => some nop
        else some nop
      match basis with
      | none => none
      | some a1 => (placeNear (run a1 s) h l i kind group maxClass).map fun p =>
          acts [a1, p.2, takeFrame p.1 { hdr := stagingHdr s h l tenant, kind := kind, staging := true },
                newRead { src := r, dst := p.1, handle := h, layer := l, index := i }]
  | .remote x =>
    if !pageReadOk s x then some windowFault
    else (placeNear s h l i .remoteCache group maxClass).map fun p =>
      acts [p.2, takeFrame p.1 { hdr := stagingHdr s h l tenant, kind := .remoteCache, staging := true },
            newRead { src := x, dst := p.1, handle := h, layer := l, index := i, tracked := true },
            onCoh (fun c => { c with cache := tput c.cache x { key := p.1, st := .filling false, home := (s.chipMember (refChip x)).getD 0 } }),
            sendRead x true]
  | .kennel x =>
    (placeNear s h l i kind group maxClass).map fun p =>
      acts [p.2, takeFrame p.1 { hdr := stagingHdr s h l tenant, kind := kind, staging := true },
            newRead { src := x, dst := p.1, handle := h, layer := l, index := i }]

/-- A prefetch read without a frame is retried when one is freed (R39). -/
def addRetry (h l i : Nat) : Act := onPages fun p =>
  { p with retry := if p.retry.contains (h, l, i) then p.retry else p.retry ++ [(h, l, i)] }

/-- One page is prefetched where it is wanted (R47). -/
def prefetchPage (h l i tenant : Nat) (kind : AllocKind) (r : Nat) : Act := look fun s =>
  if (residentKey s r).isSome || (readOf s r).isSome then nop
  else match issueRead s h l i tenant kind r 4 with
    | some a => a
    | none => acts [allocFailed h l i kind (s.group tenant), addRetry h l i]

/-! ### The pages of a job -/

/-- The page list a job walks. -/
def jobList (s : State) (d : JobDesc) : List Nat :=
  if d.op = Op.prefixPartial then match s.prefixOf d.handle with
    | some p => (tget p.pages d.layer).getD []
    | none => []
  else if d.op = Op.merge then []
  else match s.loc d.handle with
    | some c => (c.layer d.layer).pages
    | none => []

/-- The page indexes a job needs: those it reads, and the tail page that its new positions join (R30). -/
def jobNeeds (s : State) (j : Job) : List Nat :=
  let n := (jobList s j.d).length
  let tail : List Nat := match s.loc j.d.handle, appending j.d.op with
    | some c, true => match s.locModel c with
      | some m => if j.d.qPos % 2 ^ m.pLog2 = 0 ∨ n = 0 then [] else [n - 1]
      | none => []
    | _, _ => []
  nub (j.emit ++ tail)

/-- The pages a job waits for: index and entry. -/
def jobPages (s : State) (j : Job) : List (Nat × Nat) :=
  let l := jobList s j.d
  (jobNeeds s j).filterMap fun i => (l[i]?).map fun r => (i, r)

/-- The allocation kind of a job's reads. -/
def jobKindOf (d : JobDesc) : AllocKind :=
  if d.op = Op.prefixPartial then .sharedPrefix else if onPae d.op then .prompt else .generation

/-- The frames of a job's pages count as named by it (R38). -/
def nameFrames (id : Nat) : Act := look fun s =>
  match s.job id with
  | none => nop
  | some j =>
    let ks := (jobPages s j).filterMap fun p => residentKey s p.2
    let basis := ks.filterMap fun k => match s.frame k with
      | some f => if f.hdr.lowRank then s.resolve f.hdr.lrBasisRef else none
      | none => none
    onPages fun p => { p with busy := p.busy.filter (fun b => b.1 != id) ++ (nub (ks ++ basis ++ j.fresh.map (·.2))).map fun k => (id, k) }

/-- A job's missing pages are read; a page without a frame ends the job with NO_RESOURCE (R39). -/
def feedJob (id : Nat) : Act := look fun s =>
  match s.job id with
  | none => nop
  | some j => acts [nameFrames id, each (jobPages s j) fun p => look fun s =>
      match s.job id with
      | none => nop
      | some j' =>
        if j'.endWith.isSome || (residentKey s p.2).isSome || (readOf s p.2).isSome then nop
        else if placeOf s p.2 = .lost then modJob id fun x => { x with endWith := some St.invalid }
        else match issueRead s j.d.handle j.d.layer p.1 j.tenant (jobKindOf j.d) p.2 4 with
          | some a => a
          | none => acts [allocFailed j.d.handle j.d.layer p.1 (jobKindOf j.d) (s.group j.tenant),
                          modJob id fun x => { x with endWith := some St.noResource }]]

/-- Every page a job names is resident. -/
def jobResident (s : State) (j : Job) : Bool := (jobPages s j).all fun p => (residentKey s p.2).isSome

/-! ### Stalls (R49) -/

/-- The cause of the wait for a missing page. -/
def missCause (s : State) (r : Nat) : Nat :=
  match readOf s r with
  | some (_, p) => if p.forFetch then 4 else match placeOf s r with
      | .kennel _ => 3
      | .remote _ => 4
      | _ => if p.retried then 2 else 0
  | none => match placeOf s r with
      | .kennel _ => 3
      | .remote _ => 4
      | _ => 0

/-- The cause of the oldest missing page of a job, if it waits. -/
def jobStall (s : State) (j : Job) : Option Nat :=
  match j.st with
  | .waiting => ((jobPages s j).find? fun p => (residentKey s p.2).isNone).map fun p => missCause s p.2
  | _ => none

/-- Ticks a job waited are added to a cause, globally and for its tenant. -/
def addStall (tenant cause ticks : Nat) : Act :=
  when (0 < ticks) (acts [count (Reg.STM_STALL_TICKS cause) ticks, tcount tenant (TReg.STM_TSTALL_TICKS cause) ticks])

/-- One waiting job's stall is brought up to now; `refresh` of the ticks of cause 0 were behind refresh. -/
def stallJob (refresh : Nat) (id : Nat) : Act := look fun s =>
  match s.job id with
  | none => nop
  | some j =>
    let next := (jobStall s j).map fun c => (s.body.tick, c)
    match j.stallAt with
    | none => modJob id fun x => { x with stallAt := next }
    | some (since, c) =>
      let d := s.body.tick - since
      let r := if c = 0 then min refresh d else 0
      acts [addStall j.tenant c (d - r), addStall j.tenant 1 r,
            when (0 < d && j.stalled == 0) (let c1 := if r = d then 1 else c
              acts [count (Reg.STM_STALL_EVT c1) 1, tcount j.tenant (TReg.STM_TSTALL_EVT c1) 1]),
            modJob id fun x => { x with stallAt := next, stalled := x.stalled + d }]

/-- Every job's stall is brought up to now. -/
def stallSync (refresh : Nat) : Act := look fun s => each (tkeys s.body.jobs.jobs) (stallJob refresh)

/-! ### The landing of a page -/

/-- A read is over. -/
def dropRead (tag : Nat) : Act := onPages fun p => { p with reads := tdel p.reads tag }

/-- Waiting jobs take note of a page that has come: their frames are named, their stalls brought up to now. -/
def afterLand (refresh : Nat) : Act := look fun s => acts [each (tkeys s.body.jobs.jobs) nameFrames, stallSync refresh]

/-- The content a page brings: its header, its payload bytes, its scale slot. -/
def fillFrame (k : Nat) (f : Frame) (hdr : PageHeader) (data scale : List Byte) : Act := look fun s =>
  acts [onPages (fun p => { p with readSeq := p.readSeq + 1 }),
        putFrame k { f with staging := false, lastRead := s.body.pages.readSeq + 1,
                            hdr := { hdr with pageRef := s.refOf k, allocTick := f.hdr.allocTick, backingRef := 0, refCount := 0 } },
        clearMem (payloadAt k) 32768, clearMem (scaleAt k) 1024, store (payloadAt k) data, store (scaleAt k) scale]

/-- The CRC of page data as it arrives (R32). -/
def dataCrcOk (hdr : PageHeader) (data scale : List Byte) : Bool :=
  hdr.payloadCrc == crc32c (data.take hdr.storedLen ++ (scale ++ List.replicate 1024 0).take 1024)

/-- One entry of a request's page list changes. -/
def setEntry (h l i r : Nat) : Act := modLayer h l fun y => { y with pages := y.pages.set i r }

/-- A page held by another chip has left the page list: the owner drops it through the home (R178, R183). -/
def dropHeld (h : Nat) (r : Nat) : Act := look fun s =>
  if refTier r ≠ 3 then nop
  else match s.loc h with
    | some c => match c.st with
      | .owner e => toHome h .holdDrop { epoch := e, chip := refChip r, refs := [holderRef r] }
      | _ => nop
    | none => nop

/-- A page that a Fetch has brought in stands in the page list in place of the giver's (R183). -/
def fetchedPage (h l i k : Nat) (bytes : Nat) : Act := look fun s =>
  match s.loc h with
  | none => nop
  | some c =>
    let old := ((c.layer l).pages.getD i 0)
    acts [setEntry h l i (s.refOf k), count Reg.RQT_FETCH_PAGES 1, count Reg.RQT_FETCH_BYTES bytes, dropHeld h old]

/-- A page some job waits for is placed in near state as well as in a Fetch's far frame, in one operation (R47, R223). -/
def placeNearToo (h l i fk : Nat) : Act := look fun s =>
  match s.loc h with
  | none => nop
  | some c =>
    let wanted := s.body.jobs.jobs.any fun e => e.2.d.handle == h && e.2.d.layer == l && e.2.emit.contains i
    if !wanted then nop
    else match placeNear s h l i (pageKind c.phase) (s.group c.tenant) 4 with
      | some (k, a) => acts [a, takeFrame k { hdr := stagingHdr s h l c.tenant, kind := pageKind c.phase }, promote fk k (pageKind c.phase)]
      | none => nop

/-- A page fetched into far state takes its far-state form where its basis is ready; otherwise it waits for the first pass
(R134, R136). -/
def settleFar (k : Nat) : Act := look fun s =>
  match s.frame k with
  | none => nop
  | some f =>
    if !basisReady s f then acts [askBasis f, modFrame k fun x => { x with staging := true }]
    else acts [askBasis f, look fun s => putForm k f (farFormOver s k f none),
               look fun s => match s.loc f.hdr.owner with
                 | some c =>
                   let i := f.hdr.firstPos / 2 ^ f.hdr.pLog2
                   acts [fetchedPage f.hdr.owner f.hdr.layer i k f.hdr.storedLen,
                         when (c.layers.length != 0) (placeNearToo f.hdr.owner f.hdr.layer i k)]
                 | none => nop]

end Sys2Proof.Machine
end

