-- ==== Sys2Proof/Machine/ScentRows.lean ====
section
/-! DEFINITION. Sketch rows of Scent (R88, R90, R114 to R117, 04_scent.md): octets of the generation macros, the rows of a
request's closed groups, allocation, waiting, and freeing. -/

namespace Sys2Proof.Machine

def onScent (f : Scent → Scent) : Act := onBody fun b => { b with scent := f b.scent }

/-- The logical macros given to generation: the lowest in service, as many as the count in force (R88, R113). -/
def genMacros (s : State) : List Nat :=
  ((List.range 64).filter fun n => !s.body.scent.gone.contains n).take (s.get Fld.SCT_STATUS_GEN_MACROS)

/-- Pages per group of a model. -/
def Model.groupPages (m : Model) : Nat := 2 ^ m.groupLog2

/-- The page sketch of a page of a request, where this chip has it: in the header of its frame, or read from the holder. -/
def sketchOf (s : State) (h l i r : Nat) : Option (List Byte) :=
  let ofKey (k : Nat) : Option (List Byte) := match s.frame k with
    | some f => if f.hdr.isSealed && !f.staging && f.hdr.sketch.length == 64 then some f.hdr.sketch else none
    | none => none
  match placeOf s r with
  | .near k | .far k => ofKey k
  | .remote x => match (tget s.body.coh.cache x).bind fun c => ofKey c.key with
    | some b => some b
    | none => (s.body.scent.remote.find? fun e => e.1 == h && e.2.1 == l && e.2.2.1 == i).map (·.2.2.2)
  | _ => none

/-- A page of a request is sealed: every page but the last is, and the last where its frame says so (R28). -/
def pageSealed (s : State) (y : Layer) (i : Nat) : Bool :=
  if i + 1 < y.pages.length then true
  else match y.pages[i]? with
    | none => false
    | some r => match placeOf s r with
      | .near k | .far k => ((s.frame k).map (·.hdr.isSealed)).getD false
      | .remote x => match (tget s.body.coh.cache x).bind fun c => s.frame c.key with
        | some f => f.hdr.isSealed
        | none => false
      | _ => true

/-- The closed groups of a layer (R90). -/
def closedGroups (s : State) (m : Model) (y : Layer) : Nat :=
  let n := ((List.range y.pages.length).filter fun i => pageSealed s y i).length
  n / m.groupPages

/-- The octet that holds a group's row. -/
def octetOf (s : State) (h l g : Nat) : Option (Nat × Octet) :=
  s.body.scent.octets.find? fun e => e.2.handle == h && e.2.layer == l && e.2.first == g / 8 * 8

/-- The row of a group, if it is loaded. -/
def rowOf (s : State) (h l g : Nat) : Option (List Byte) :=
  match octetOf s h l g with
  | some (_, o) => (o.rows.getD (g % 8) none)
  | none => none

/-- The lowest free octet of the generation macros (DESIGN CHOICE, log entry 5). -/
def freeOctet (s : State) : Option Nat :=
  (genMacros s).findSome? fun n => (firstBelow 1024 fun o => (tget s.body.scent.octets (n * 1024 + o)).isNone).map fun o => n * 1024 + o

/-- An octet is taken for eight groups from a multiple of 8. -/
def takeOctet (o h l first : Nat) : Act :=
  acts [onScent (fun x => { x with octets := tput x.octets o { handle := h, layer := l, first := first, rows := List.replicate 8 none } }),
        dropFld Fld.SCT_STATUS_ROWS_FREE 8]

/-- The row of a closed group is loaded where every page sketch of the group is at hand; a sketch held on another chip is read
by fabric load (R114). -/
def loadRow (h l g : Nat) : Act := look fun s =>
  match s.loc h with
  | none => nop
  | some c => match s.locModel c with
    | none => nop
    | some m =>
      let y := c.layer l
      let idx := (List.range m.groupPages).map fun i => g * m.groupPages + i
      let sk := idx.map fun i => (y.pages[i]?).bind fun r => sketchOf s h l i r
      match octetOf s h l g with
      | none => nop
      | some (o, e) =>
        if sk.all Option.isSome then
          onScent fun x => { x with octets := tput x.octets o { e with rows := e.rows.set (g % 8) (some (groupSketch (sk.filterMap id))) } }
        else each idx fun i => look fun s =>
          match y.pages[i]? with
          | none => nop
          | some r => match placeOf s r, sketchOf s h l i r with
            | .remote x, none => match s.chipMember (refChip x) with
              | some mb =>
                let addr := mkFa mb (refTier x) (2 * 2 ^ 48 + refFrame x * 256 + 0x80)
                if mayIssue s .firmware addr (.load 64) false then sendAccess (.sketch h l i) addr (.load 64) else windowFault
              | none => nop
            | _, _ => nop

/-- A closed group of a loaded request gets a row: in its octet, or in a new one; without a free octet it stays unsketched
(R115). -/
def addGroup (h l g : Nat) : Act := look fun s =>
  if !s.body.scent.loaded.contains h then nop
  else match octetOf s h l g with
    | some _ => loadRow h l g
    | none => match freeOctet s with
      | some o => acts [takeOctet o h l (g / 8 * 8), loadRow h l g]
      | none => acts [count Reg.SCT_UNSKETCHED 1, onScent fun x => { x with unsketched := x.unsketched ++ [(h, l, g)] }]

/-- A request's rows for every layer, all or nothing (R114). -/
def tryAlloc (h : Nat) : Act := look fun s =>
  match s.loc h with
  | none => nop
  | some c => match s.locModel c with
    | none => nop
    | some m =>
      if s.body.scent.loaded.contains h then nop
      else
        let need := (List.range m.layers).map fun l => (l, closedGroups s m (c.layer l))
        let octs := (need.map fun e => (e.2 + 7) / 8).foldl (· + ·) 0
        if s.get Fld.SCT_STATUS_GEN_MACROS = 0 ∨ s.get Fld.SCT_STATUS_ROWS_FREE < 8 * octs then
          when (!s.body.scent.waiting.contains h) (acts [onScent (fun x => { x with waiting := x.waiting ++ [h] }), count Reg.SCT_ALLOC_WAIT 1])
        else acts [onScent (fun x => { x with loaded := x.loaded ++ [h], waiting := x.waiting.filter (· != h) }),
                   bumpFld Fld.SCT_STATUS_REQ_LOADED 1,
                   each need fun e => each (List.range e.2) fun g => addGroup h e.1 g]

/-- After octets were freed: waiting requests in order of class and arrival, then groups left without a row (R115, R117). -/
def afterFree : Act := look fun s =>
  let cls (h : Nat) : Nat := ((s.loc h).map (·.cls)).getD 7
  let w := s.body.scent.waiting
  match (List.range 8).findSome? fun c => w.find? fun h => cls h == c with
  | some h => acts [tryAlloc h, fill]
  | none => fill
where
  /-- unsketched groups get octets while there are any -/
  fill : Act := look fun s =>
    let u := s.body.scent.unsketched
    if u.isEmpty || (freeOctet s).isNone then nop
    else acts [onScent (fun x => { x with unsketched := [] }), each u fun e => look fun s =>
      match freeOctet s, octetOf s e.1 e.2.1 e.2.2 with
      | none, none => onScent fun x => { x with unsketched := x.unsketched ++ [e] }
      | _, _ => addGroup e.1 e.2.1 e.2.2]

/-- A request's octets are freed (R116). -/
def freeRows (h : Nat) : Act := look fun s =>
  let mine := s.body.scent.octets.filter fun e => e.2.handle == h
  let was := s.body.scent.loaded.contains h
  acts [onScent (fun x => { x with octets := x.octets.filter (fun e => e.2.handle != h), loaded := x.loaded.filter (· != h),
                                   waiting := x.waiting.filter (· != h), unsketched := x.unsketched.filter (·.1 != h),
                                   remote := x.remote.filter (·.1 != h) }),
        bumpFld Fld.SCT_STATUS_ROWS_FREE (8 * mine.length), when was (dropFld Fld.SCT_STATUS_REQ_LOADED 1),
        when (!mine.isEmpty) afterFree]

/-- The octets of logical macros that leave generation or service are dropped: only their rows go (R116); rows of a macro
that leaves are no longer counted as free. -/
def dropMacroRows (ms : List Nat) : Act := look fun s =>
  let gone := s.body.scent.octets.filter fun e => ms.contains (e.1 / 1024)
  acts [onScent (fun x => { x with
          octets := x.octets.filter (fun e => !ms.contains (e.1 / 1024))
          unsketched := x.unsketched ++ gone.flatMap fun e => (List.range 8).filterMap fun j =>
            if (e.2.rows.getD j none).isSome then some (e.2.handle, e.2.layer, e.2.first + j) else none }),
        dropFld Fld.SCT_STATUS_ROWS_FREE (8192 * ms.length - 8 * gone.length)]

end Sys2Proof.Machine
end

