-- ==== Sys2Proof/Machine/LeashCore.lean ====
section
/-! DEFINITION. What the Leash does on a chip apart from its messages (R15, R30, R173, R177 to R188, 07_ownership_and_recovery.md):
the end of a request's running unit, freezing and mirroring its pages, offers and compare-and-swaps, giving up frames,
Fetches. -/

namespace Sys2Proof.Machine

/-! ### What runs for a request -/

/-- A job has begun to run and has not ended. -/
def jobRuns (j : Job) : Bool := j.begun || match j.st with
  | .deferred | .evaluating | .waiting => false
  | _ => true

/-- A step job or sample of the request is running (R14, R15). -/
def unitRuns (s : State) (h : Nat) : Bool :=
  s.body.jobs.jobs.any (fun e => e.2.d.handle == h && ofRequest e.2.d.op && jobRuns e.2)
  || (s.body.sampling.live.any fun e => e.2.handles.contains h) || kennelRuns s h

/-- The epoch a chip holds for a request. -/
def locEpoch (c : Loc) : Nat := match c.st with
  | .none | .holder => c.epoch
  | st => leashEpoch st

/-- The position count of every layer: the smallest. -/
def locPositions (c : Loc) : Nat := match c.layers with
  | [] => 0
  | y :: l => l.foldl (fun a e => min a e.2.count) y.2.count

/-- The budget a chip passes on: what it received less its residence, in whole µs rounded up (R173). -/
def budgetPass (tick : Nat) (c : Loc) : Nat :=
  if c.budget = 0xFFFFFFFF then 0xFFFFFFFF else c.budget - (tick - c.budgetTick + 999) / 1000

/-! ### The state mirror (R188) -/

/-- The keys of a state mirror's copies from which basis frames stand, by frame. -/
def basisCopies : Nat := 2 ^ 41

/-- The index under which the sampler frame is copied to the state mirror. -/
def samplerIndex : Nat := 65535

/-- The copying of one frame of the request to its state mirror, under an access whose tag stands in the SEQ of the data; the
mirror's firmware opens the frame (R207), so the data name none. -/
def mirrorOne (m h l i r : Nat) : Act := look fun s =>
  acts [sendAccess (.mirror h l i) (mkFa m 1 0) (.pageCopy r),
    match placeOf s r with
    | .near k | .far k => match s.frame k with
      | some f => emit (.coh m { type := .pageData, sender := s.member, seq := s.body.fabric.tag, refs := [0] } (some f.hdr)
                    (s.bytes (payloadAt k) f.hdr.storedLen) (s.bytes (scaleAt k) 1024))
      | none => nop
    | _ => nop]

/-- The index under which a basis frame of a layer travels: sequence and part. -/
def basisIndex (seq part : Nat) : Nat := 65536 + 2 * seq + part

/-- A sealed or frozen page of the request is copied to its state mirror, by the mover in the firmware context (R188); the basis
frames of a low-rank page go first, the second before the first (R135). -/
def mirrorRef (h l i r : Nat) : Act := look fun s =>
  match ((s.loc h).bind (·.stateMirror)).bind s.chipMember with
  | none => nop
  | some m =>
    if !winPass s .firmware (mkFa m 1 0) (.pageCopy r) then windowFault
    else
      let f := match placeOf s r with
        | .near k | .far k => s.frame k
        | _ => none
      let basis := (f.filter (·.hdr.lowRank)).bind fun f => (s.resolve f.hdr.lrBasisRef).bind fun k => (s.frame k).map fun b => (f, b)
      acts [match basis with
        | some (g, b) =>
          let sent (p : Nat) : Bool := (((s.loc h).map fun c => (c.layer l).ackPages).getD []).any fun a => a.1 == basisIndex g.hdr.basisSeq p
          if sent 0 then nop
          else acts [when (b.hdr.basisNext != 0) (mirrorOne m h l (basisIndex g.hdr.basisSeq 1) b.hdr.basisNext),
                     mirrorOne m h l (basisIndex g.hdr.basisSeq 0) g.hdr.lrBasisRef]
        | none => nop,
        mirrorOne m h l i r]

/-- Page i of a layer goes to the state mirror. -/
def mirrorPage (h l i : Nat) : Act := look fun s =>
  match (s.loc h).bind fun c => (c.layer l).pages[i]? with
  | some r => mirrorRef h l i r
  | none => nop

/-- The positions of a layer that the mirror has acknowledged: those below which every page is. -/
def ackedPositions (m : Model) (y : Layer) : Nat :=
  let n := y.pages.length
  let k := ((List.range n).takeWhile fun i => y.ackPages.any fun a => a.1 == i).length
  if k = n then y.count else k * 2 ^ m.pLog2

/-- MIRROR_POS as the owner reports it. -/
def mirrorPositions (s : State) (c : Loc) : Nat :=
  match s.locModel c, c.stateMirror with
  | some m, some _ => (c.layers.map fun y => ackedPositions m y.2).foldl min (locPositions c)
  | _, _ => 0

/-! ### Freezing (R30, R159) -/

/-- The sampler frame is frozen. -/
def freezeSampler (h : Nat) : Act := look fun s =>
  match ((s.loc h).bind (·.sampler)).bind s.resolve with
  | some k => match s.frame k with
    | some f => if f.hdr.frozen then nop else acts [freezePage k, mirrorRef h samplerIndex 0 (s.refOf k)]
    | none => nop
  | none => nop

/-- The draft staging frames are freed and every staged row discarded (R64). -/
def freeStages (h : Nat) : Act := look fun s =>
  match s.loc h with
  | none => nop
  | some c => acts [each (c.layers.filterMap (·.2.stage)) freeFrame,
                    modLoc h fun c => { c with layers := c.layers.map fun e => (e.1, { e.2 with stage := none, draft := none }) }]

/-- The request leaves GENERATING or PROMPTING here: its reservations, its sketch rows, its draft staging (R64, R116, R280). -/
def leaveWork (h : Nat) : Act := acts [releaseAll h, freeRows h, freeStages h]

/-- The tails of every layer, and the sampler frame, are frozen. -/
def freezeTails (h : Nat) : Act := look fun s =>
  match s.loc h with
  | none => nop
  | some c =>
    acts [each c.layers (fun e => look fun s =>
            match e.2.pages.getLast? with
            | some r => match placeOf s r with
              | .near k => match s.frame k with
                | some f => if f.hdr.isSealed || f.hdr.frozen then nop
                            else acts [freezePage k, mirrorPage h e.1 (e.2.pages.length - 1)]
                | none => nop
              | _ => nop
            | none => nop),
          freezeSampler h]

/-! ### Offers, queries and the compare-and-swap (R181) -/

/-- The giver's OFFER. The message carries the mode and the target of HANDOFF_START (DEDUCED, log entry 16). -/
def sendOffer (h e : Nat) : Act := look fun s =>
  match s.loc h with
  | none => nop
  | some c => sendMsg c.peer .offer
      { handle := h, sender := s.chipId, chip := c.peer, epoch := e, phase := phaseCode c.target, flags := c.mode,
        budget := budgetPass s.body.tick c, pageList := c.listRef,
        sampler := c.sampler.getD 0, positions := locPositions c }

/-- LEASH_QUERY to the home. -/
def sendQuery (h e : Nat) : Act := toHome h .leashQuery { epoch := e }

/-- The receiver's LEASH_CAS. -/
def sendCas (h e : Nat) : Act := look fun s =>
  match s.loc h with
  | none => nop
  | some c => acts [toHome h .leashCas { epoch := e, pageList := c.listRef, positions := locPositions c },
                    modLoc h fun c => { c with st := .casing e }]

/-- The first commit of a receiver is held and sends the one LEASH_CAS. -/
def casOnce (h : Nat) : Act := look fun s =>
  match s.loc h with
  | some c => match c.st with
    | .receiving e => sendCas h e
    | _ => nop
  | none => nop

/-! ### Giving frames up -/

/-- The frames of this chip that hold pages of a request, the remote page cache apart. -/
def framesOf (s : State) (h : Nat) : List Nat :=
  (s.body.pages.frames.filter fun e => e.2.hdr.owner == h && e.2.kind != .remoteCache).map (·.1)

/-- The remote page cache gives up what it holds of a request. -/
def dropCache (h : Nat) : Act := look fun s =>
  each (s.body.coh.cache.filter fun e => e.2.st == .valid && ((s.frame e.2.key).map (·.hdr.owner)) == some h) fun e =>
    acts [onCoh (fun c => { c with cache := tdel c.cache e.1 }), sendCoh e.2.home .drop 0 [e.1], freeFrame e.2.key]

/-- Reads, retries and first passes of a request end; tracked reads complete into the remote page cache. -/
def dropReads (h : Nat) : Act := onPages fun p =>
  { p with reads := p.reads.filter fun e => !(e.2.handle == h && !e.2.tracked)
           retry := p.retry.filter (·.1 != h), passes := p.passes.filter (·.1 != h) }

/-- First passes of a request that run are given up. -/
def dropPasses (h : Nat) : Act := look fun s =>
  dropFld Fld.TRC_STATUS_PASSES_ACTIVE (s.body.pages.passes.filter (·.1 == h)).length

/-- References of this chip's frames that a request's page list names, and its sampler frame's. -/
def namedHere (s : State) (c : Loc) : List Nat :=
  (c.layers.flatMap fun e => e.2.pages.filter fun r => match placeOf s r with
    | .near k | .far k => ((s.frame k).map fun f => !f.hdr.shared) == some true
    | _ => false) ++ c.sampler.toList

/-- A receiver discards its copies; held frames and the state mirror's copies stay (R177, R181). -/
def discardCopies (h : Nat) : Act := look fun s =>
  match s.loc h with
  | none => nop
  | some c =>
    let kept := c.held ++ c.copies.map (·.2)
    acts [dropPasses h, dropReads h,
          each ((framesOf s h).filter fun k => !kept.contains (s.refOf k) && !(backingNamed s kept k)) freeFrame,
          dropCache h, leaveWork h,
          modLoc h fun c => { c with st := if c.wasHolder then .holder else .none, wasHolder := false, layers := [], fetch := none,
                                     sampler := none, dropping := none, copyFree := false, replay := none }]
where
  /-- a backing copy of a kept frame -/
  backingNamed (s : State) (kept : List Nat) (k : Nat) : Bool := kept.any fun r => match s.resolve r with
    | some n => ((s.frame n).map (·.hdr.backingRef)) == some (s.refOf k)
    | none => false

/-- A former owner keeps the frames its page list named as held frames (R177). -/
def becomeHolder (h e : Nat) : Act := look fun s =>
  match s.loc h with
  | none => nop
  | some c => acts [dropPasses h, dropReads h, when (!unitRuns s h) (freezeTails h), dropCache h, leaveWork h,
                    modLoc h fun x => { x with st := .holder, epoch := e, held := c.held ++ namedHere s c, layers := [], fetch := none,
                                               sampler := none, dropping := none, replay := none }]

/-- Every frame and copy of the request is freed. -/
def freeAllOf (h : Nat) : Act := look fun s =>
  acts [dropPasses h, dropReads h, each (framesOf s h) freeFrame, dropCache h, leaveWork h, releaseOf h,
        modLoc h fun c => { c with st := .none, wasHolder := false, layers := [], fetch := none, sampler := none, held := [], copies := [],
                                   isMirror := false, dropping := none, copyFree := false, replay := none, stateMirror := none }]

/-- The request is closed here: all is freed, and an owner or holder answers HOLD_EMPTY (R14, R181). -/
def finishClose (h : Nat) : Act := look fun s =>
  match s.loc h with
  | none => nop
  | some c =>
    let answers := match c.st with
      | .none => c.oweEmpty
      | .receiving _ | .casing _ => c.wasHolder
      | _ => true
    acts [freeAllOf h, modLoc h (fun c => { c with closing := true, oweEmpty := answers }),
          when answers (toHome h .holdEmpty { epoch := c.epoch })]

/-- The running unit of a request has ended: a drain goes on to its offer, a close to its end, and the tails of a request
that has entered LISTENING or PARKING are frozen (R14, R15, R30, R181). -/
def unitEnded (h : Nat) : Act := look fun s =>
  match s.loc h with
  | none => nop
  | some c =>
    if unitRuns s h then nop
    else if c.closing then finishClose h
    else match c.st with
      | .draining e => acts [freeStages h, freezeTails h, modLoc h (fun c => { c with st := .offering e, offers := 1 }), sendOffer h e]
      | .owner _ => when (c.phase == .listening || c.phase == .parking) (freezeTails h)
      | .holder => acts [each c.held fun r => match s.resolve r with
          | some k => match s.frame k with
            | some f => when (!f.hdr.isSealed && !f.hdr.frozen) (freezePage k)
            | none => nop
          | none => nop]
      | _ => nop

/-! ### Fetches (R183, R184) -/

/-- A page read that a Fetch issues: untracked, or by transport message to a chip outside the pod. -/
def sendFetch (ref : Nat) : Act := look fun s =>
  match s.chipMember (refChip ref) with
  | none => emit (.pageRequest (refChip ref) ref)
  | some m =>
    if winPass s .firmware (mkFa m (refTier ref) (refFrame ref * 32768)) (.pageRead ref false) then sendRead ref false else windowFault

/-- A page of a page list that another chip holds is brought in, into the tier of the target phase (R45). -/
def fetchPage (h l i : Nat) : Act := look fun s =>
  match s.loc h with
  | none => nop
  | some c =>
    let r := (c.layer l).pages.getD i 0
    let x := holderRef r
    -- a page that has come and waits for its basis (R134)
    let waits := s.body.pages.frames.any fun e =>
      e.2.staging && e.2.hdr.owner == h && e.2.hdr.layer == l && e.2.hdr.isSealed && e.2.hdr.firstPos / 2 ^ e.2.hdr.pLog2 == i
    if refTier r ≠ 3 ∨ refChip r = s.chipId ∨ waits = true ∨ (s.body.pages.reads.any fun e => e.2.src == x && e.2.forFetch && !e.2.void) then nop
    else
      let kind := pageKind c.phase
      let group := s.group c.tenant
      match if c.phase = .listening then placeFar s kind group else placeNear s h l i kind group 4 with
      | some (k, a) =>
        acts [a, takeFrame k { hdr := stagingHdr s h l c.tenant, kind := kind, staging := true },
              newRead { src := x, dst := k, handle := h, layer := l, index := i, forFetch := true, issued := s.body.tick }, sendFetch x]
      | none => acts [allocFailed h l i kind group, addRetry h l i]

/-- Whether a page-list entry is one the Fetch under way brings in. -/
def fetchWants (s : State) (c : Loc) (r : Nat) : Bool :=
  refTier r == 3 && refChip r != s.chipId && match c.dropping with
    | some x => refChip r == x
    | none => true

/-- A Fetch issues its reads, layer by layer and page by page. -/
def issueFetch (h : Nat) : Act := look fun s =>
  match s.loc h with
  | none => nop
  | some c => each c.layers fun e => each (List.range e.2.pages.length) fun i =>
      if fetchWants s c (e.2.pages.getD i 0) then fetchPage h e.1 i else nop

/-- Every page the Fetch was to bring in is here. -/
def fetchDone (s : State) (h : Nat) (c : Loc) : Bool :=
  c.layers.all (fun e => e.2.pages.all fun r => !fetchWants s c r)
  && !s.body.pages.reads.any fun e => e.2.handle == h && e.2.forFetch && !e.2.void

/-- Fetches that run. -/
def fetchesRunning (s : State) : Nat :=
  (s.body.locs.filter fun e => match e.2.fetch with | some f => f.running | none => false).length

/-- Waiting Fetches start while fewer than FETCH_MAX run: in order of class, and within a class of arrival. -/
def startFetches : Nat → Act
  | 0 => nop
  | n + 1 => look fun s =>
    let waiting := s.body.locs.filterMap fun e => match e.2.fetch with
      | some f => if !f.running && !f.complete then some (e.2.cls, f.order, e.1) else none
      | none => none
    match waiting with
    | [] => nop
    | w :: l =>
      if s.get Fld.RQT_FETCH_CFG_FETCH_MAX ≤ fetchesRunning s then nop
      else
        let b := l.foldl (fun m x => if x.1 < m.1 ∨ (x.1 = m.1 ∧ x.2.1 < m.2.1) then x else m) w
        acts [modLoc b.2.2 (fun c => { c with fetch := c.fetch.map fun f => { f with running := true } }), issueFetch b.2.2,
              startFetches n]

/-- A Fetch joins the order of arrival and starts as soon as there is room. -/
def addFetch (h source : Nat) (background : Bool) : Act := look fun s =>
  match s.loc h with
  | none => nop
  | some c =>
    let hs := nub (source :: (c.layers.flatMap fun e => (e.2.pages.filter fun r => refTier r == 3).map refChip))
    acts [onPages (fun p => { p with fetchSeq := p.fetchSeq + 1 }),
          modLoc h (fun c => { c with fetch := some { running := false, source := source, order := s.body.pages.fetchSeq, background := background,
                                                      holders := hs.filter fun x => x != s.chipId && x != 0 } }),
          startFetches (s.body.locs.length + 1)]

/-- The frames of other chips that the page list no longer names are dropped through the home (R183). -/
def dropHolders (h e : Nat) (hs : List Nat) : Act := each hs fun x => toHome h .holdDrop { epoch := e, chip := x, flags := 1 }

/-- The end of a Fetch that has brought in every page, by the state of the chip. -/
def endFetch (h : Nat) (c : Loc) (f : FetchSt) : Act := look fun s =>
  let ended := modLoc h fun c => { c with fetch := c.fetch.map fun f => { f with running := false, complete := true } }
  let gone := modLoc h fun c => { c with fetch := none }
  match c.st, c.dropping with
  | .casing e, some x =>
    acts [toHome h .holdDrop { epoch := e, chip := x, flags := 1 }, modLoc h (fun c => { c with dropping := none }),
          if c.copyFree then gone
          else if fetchDone s h { c with dropping := none } then ended
          else issueFetch h, sendCas h e]
  | .receiving e, _ => acts [ended, when (c.phase == .listening) (sendCas h e)]
  | .owner e, _ => acts [dropHolders h e f.holders, gone]
  | _, _ => ended

/-- FETCH_COMPLETE: a Fetch that has brought in every page: a LISTENING receiver sends its compare-and-swap, an owner drops the
giver, one that had to free a holder's place drops that holder and resends (R181, R183). -/
def fetchComplete (h : Nat) : Act := look fun s =>
  match s.loc h with
  | none => nop
  | some c => match c.fetch with
    | none => nop
    | some f =>
      if !f.running || !fetchDone s h c then nop else endFetch h c f

end Sys2Proof.Machine
end

