-- ==== Sys2Proof/Machine/JobAccept.lean ====
section
/-! DEFINITION. Acceptance of step jobs (R69, R70, R74, R79, R86, 03_attention_engines.md; R47, R48, 02_state_memory.md; R96,
R118, 04_scent.md; R279, R281, 10_sharing_and_scheduling.md): the checks in their order, deferral and its walk, the page range
of a job, its prefetches, and the doorbells of job queues. -/

namespace Sys2Proof.Machine

/-! ### The checks of R74 -/

/-- The tenant a job counts for, where this chip knows it (R56). -/
def jobTenant (s : State) (d : JobDesc) : Option Nat :=
  if d.op = Op.merge then some d.tenant
  else if d.op = Op.prefixPartial then (s.prefixOf d.handle).map (·.tenant)
  else match s.loc d.handle with
    | some c => some c.tenant
    | none => (s.req d.handle).map (·.record.tenant)

/-- The class of a job (R56). -/
def jobClass (s : State) (d : JobDesc) : Nat :=
  if ofRequest d.op then match s.loc d.handle with
    | some c => c.cls
    | none => ((s.req d.handle).map (·.record.cls)).getD 7
  else d.cls

/-- The model a job is computed with. -/
def jobModel (s : State) (d : JobDesc) : Option Model := (jobTenant s d).bind s.modelOfTenant

/-- A replay chunk (R191). -/
def replayChunk (s : State) (d : JobDesc) : Bool :=
  match s.loc d.handle with
  | none => false
  | some c => match c.replay with
    | some (_, tgt) => d.op == Op.promptChunk && d.epoch == c.epoch && d.qPos == (c.layer d.layer).count && d.qPos + d.nq ≤ tgt
    | none => false

/-- Whether the chip holds Leash state for a request (R181). -/
def hasLeash (c : Loc) : Bool := c.st != .none

/-- Check 2 for a handle: who knows the request, its incarnation, a pending replay (R13, R74). -/
def knownCheck (s : State) (h : Nat) (chunk : Bool) : Option Nat :=
  let leash : Option Loc := match s.loc h with
    | some c => if hasLeash c then some c else none
    | none => none
  match s.req h, leash with
  | none, none =>
    if handleHome h = s.chipId ∧ (s.redirOf (handleHome h)).isNone then some St.invalid
    else if s.body.locs.any fun e => e.1 / 2 ^ 32 == h / 2 ^ 32 && hasLeash e.2 then some St.invalid
    else some St.notOwner
  | some q, l =>
    if !phaseLive q.record.phase then some St.invalid
    else if (l.map (·.closing)).getD false then some St.invalid
    else if q.record.replayPending || (q.record.replaying && !chunk) then some St.replayPending
    else none
  | none, some c =>
    if c.closing then some St.invalid
    else if c.replay.isSome && !chunk then some St.replayPending
    else none

/-- The home epoch as this chip knows it. -/
def knownEpoch (s : State) (h : Nat) : Nat :=
  match s.req h with
  | some q => q.record.epoch
  | none => ((s.loc h).map (·.epoch)).getD 0

/-- Check 3: a stale epoch, or a chip that may not write under it (R13, R74). -/
def epochCheck (s : State) (h epoch : Nat) : Option Nat :=
  if epoch < knownEpoch s h then some St.staleEpoch
  else match s.loc h with
    | none => some St.notOwner
    | some c => match c.st with
      | .owner e =>
        let leaving := ((s.req h).map fun q => q.record.phase == .handoff).getD false
        if epoch = e ∧ ¬ leaving then none else some St.notOwner
      | .receiving e | .casing e => if epoch = e + 1 then none else some St.notOwner
      | _ => some St.notOwner

/-- Check 4: the phases in which an opcode runs (R13). -/
def phaseCheck (p : Phase) (op : Nat) : Option Nat :=
  match p with
  | .prompting => if op = Op.promptChunk then none else some St.invalid
  | .generating => if op ≠ Op.promptChunk then none else some St.invalid
  | _ => some St.invalid

/-- Checks 5 and 7 for a job of a request. -/
def layerCheck (m : Option Model) (c : Loc) (d : JobDesc) : Option Nat :=
  let y := c.layer d.layer
  if d.step ≤ y.lastStep then some St.replayed
  else match m with
    | none => some St.invalid
    | some m =>
      if m.layers ≤ d.layer then some St.invalid
      else if appending d.op ∧ d.qPos ≠ y.count then some St.invalid
      else if d.op = Op.partial_ ∧ y.count < d.qPos then some St.invalid
      else if appending d.op ∧ c.maxPositions < d.qPos + appendRows d then some St.invalid
      else none

/-- The first check of 2 to 7 that fails (R74). -/
def checkTurn (s : State) (d : JobDesc) : Option Nat :=
  let m := jobModel s d
  if d.op = Op.merge then (if s.hasGen then none else some St.noResource)
  else if d.op = Op.prefixPartial then
    if handleHome d.handle ≠ s.chipId then some St.notOwner
    else if (s.prefixOf d.handle).isNone then some St.invalid
    else if !s.hasGen then some St.noResource
    else match m with
      | some m => if m.layers ≤ d.layer then some St.invalid else none
      | none => some St.invalid
  else
    let chunk := replayChunk s d
    match knownCheck s d.handle chunk with
    | some st => some st
    | none => match epochCheck s d.handle d.epoch with
      | some st => some st
      | none => match s.loc d.handle with
        | none => some St.notOwner
        | some c =>
          match if chunk then none else phaseCheck c.phase d.op with
          | some st => some st
          | none =>
            if d.step ≤ (c.layer d.layer).lastStep then some St.replayed
            else if !(if onPae d.op then s.hasPrompt else s.hasGen) then some St.noResource
            else layerCheck m c d

/-- The first check of 1 to 7 that fails (R74). -/
def checkJob (s : State) (bs : List Byte) (d : JobDesc) : Option Nat :=
  if !formOk s bs d (jobModel s d) then some St.invalid else checkTurn s d

/-! ### Check 8 (R279, R281) -/

/-- The job is charged: of layer 0 of a step, appending, no replay chunk. -/
def charged (s : State) (d : JobDesc) : Bool := d.layer == 0 && appending d.op && !replayChunk s d

/-- The Collar covers the step. -/
def covers (s : State) (t : Nat) (d : JobDesc) : Bool :=
  let k := jobKind d
  !charged s d || !colOn s t k || (resvOf s k d.handle d.step).isSome
  || (decide ((d.nq : Int) ≤ colBalance s t k) && s.get Fld.COL_STATUS_RESV_USED < s.get Fld.COL_CAPS_RESV_ENTRIES)

/-- The charge moves from BALANCE to RESERVED (R279). -/
def reserve (t : Nat) (d : JobDesc) : Act := look fun s =>
  let k := jobKind d
  if !charged s d || !colOn s t k || (resvOf s k d.handle d.step).isSome then nop
  else acts [eff (.colReserve (2 * t + k) d.nq), bumpFld Fld.COL_STATUS_RESV_USED 1,
             onJobs fun x => { x with resv := x.resv ++ [(t, k, d.handle, d.step, d.nq, s.body.tick)] }]

/-- A job joins its tenant's deferral list: counted once, its lack of a table entry flagged (R279, R281). -/
def defer (id t : Nat) (d : JobDesc) : Act := look fun s =>
  let k := jobKind d
  let list := (tget s.body.jobs.deferred t).getD []
  let full := list.isEmpty && decide ((d.nq : Int) ≤ colBalance s t k)
  acts [onJobs (fun x => { x with deferred := tput x.deferred t (list ++ [id]) }),
        modJob id (fun x => { x with st := .deferred, fDeferred := true }),
        bumpFld Fld.COL_STATUS_DEFERRED 1, count Reg.DAE_DEFERRED 1, meterMod t (fun m => { m with deferred := m.deferred + 1 }),
        when full (acts [count Reg.COL_RESV_FULL 1, raise Blk.col 0])]

/-! ### The range of a job and what it reads (R72, R96, R48) -/

/-- Page indexes of a job's range; appended positions open pages beyond the list. -/
def jobRange_ (s : State) (m : Model) (d : JobDesc) : List Nat :=
  let n := (jobList s d).length
  let total := if appending d.op then max n ((d.qPos + appendRows d + 2 ^ m.pLog2 - 1) / 2 ^ m.pLog2) else n
  let last := if d.pageCount = 0 then total else min total (d.firstPage + d.pageCount)
  if d.op = Op.merge then [] else (List.range (last - d.firstPage)).map (· + d.firstPage)

/-- The Scent profile of a tenant. -/
def State.scentProf (s : State) (t : Nat) : Nat := ((s.tenantRec t).map tenantScent).getD 0

/-- The guaranteed groups of a range (R96). -/
def guaranteed (s : State) (m : Model) (prof h l qPos : Nat) (y : Layer) (range : List Nat) : List Nat :=
  let gp := m.groupPages
  let closed := closedGroups s m y
  let wg := (qPos - 1) / 2 ^ m.pLog2 / gp
  (nub (range.map (· / gp))).filter fun g =>
    g < s.get (Fld.SCT_PROF_SINK_GROUPS prof)
    || (qPos != 0 && g ≤ wg && wg < g + s.get (Fld.SCT_PROF_WIN_GROUPS prof))
    || closed ≤ g || (rowOf s h l g).isNone

/-- The pages of a range that lie in groups. -/
def pagesIn (m : Model) (range groups : List Nat) : List Nat := range.filter fun i => groups.contains (i / m.groupPages)

/-- The pages of a layer that the prefetch schedule wants (R48). -/
def wantedPages (s : State) (m : Model) (j : Job) (l : Nat) (y : Layer) : List Nat :=
  let all := List.range y.pages.length
  if j.d.mode = 0 ∨ j.d.mode = 2 ∨ j.fExact = true then all
  else pagesIn m all (guaranteed s m (s.scentProf j.tenant) j.d.handle l j.d.qPos y all ++ y.sel)

/-- The reads that the acceptance of a job causes for its own and the next layers, in layer order (R47). -/
def prefetchFor (id : Nat) : Act := look fun s =>
  match s.job id with
  | none => nop
  | some j =>
    if !ofRequest j.d.op then nop
    else match s.loc j.d.handle, jobModel s j.d with
      | some c, some m =>
        let top := min (j.d.layer + s.get Fld.STM_PREFETCH_CTL_DEPTH) (m.layers - 1)
        each ((List.range (top + 1)).filter (j.d.layer ≤ ·)) fun l =>
          let y := c.layer l
          each (wantedPages s m j l y) fun i => match y.pages[i]? with
            | some r => prefetchPage j.d.handle l i j.tenant (jobKindOf j.d) r
            | none => nop
      | _, _ => nop

/-- A Scent-mode job runs exact, counted under its cause (R118). -/
def runExact (id cause : Nat) : Act := look fun s =>
  match s.job id with
  | none => nop
  | some j => acts [modJob id (fun x => { x with fExact := true, st := .waiting, emit := x.range }),
                    count (Reg.SCT_EXACT cause) 1, tcount j.tenant (TReg.SCT_TEXACT cause) 1]

/-! ### The end of a job, and the walk of a deferral list -/

/-- An accepted job begins: its pages are read, or Scent is asked first (R47, R74, R114, R118). -/
def beginJob (id : Nat) : Act := look fun s =>
  match s.job id with
  | none => nop
  | some j =>
    let scent := j.d.mode = 1 ∨ j.d.mode = 3
    let off := s.is Fld.DAE_CTL_SCENT_DISABLE || !s.is (Fld.SCT_PROF_ENABLE (s.scentProf j.tenant))
    acts [if !scent then modJob id fun x => { x with st := .waiting, emit := x.range }
          else if off then runExact id 1
          else acts [tryAlloc j.d.handle, look fun s =>
            if s.body.scent.loaded.contains j.d.handle then modJob id fun x => { x with st := .evaluating }
            else runExact id 0],
          feedJob id, prefetchFor id, nameFrames id, stallSync 0]

/-- The walk of a tenant's deferral list (R281): each job through the checks from the first; it stops at the first job that
check 8 defers again. -/
def walk (t : Nat) : List Nat → Act
  | [] => nop
  | id :: l => look fun s =>
    match s.job id with
    | none => walk t l
    | some j =>
      match checkJob s (s.bytes (Mem.jobSlot (jobPool s j.q j.slot)) 64) j.d with
      | some st => andThen (endPlain id st) (walk t l)
      | none =>
        if covers s t j.d then
          andThen (acts [reserve t j.d, dropFld Fld.COL_STATUS_DEFERRED 1, modJob id (fun x => { x with st := .waiting }),
                         onJobs (fun x => { x with deferred := tput x.deferred t (((tget x.deferred t).getD []).filter (· != id)) }),
                         beginJob id]) (walk t l)
        else nop

/-- The deferral list of a tenant is walked. -/
def walkTenant (t : Nat) : Act := look fun s => walk t ((tget s.body.jobs.deferred t).getD [])

/-- A job ends: other than with OK its reservation is released, and its tenant's list is walked (R280, R281). -/
def endJob (id status : Nat) : Act := look fun s =>
  match s.job id with
  | none => nop
  | some j =>
    acts [each (j.fresh.map (·.2)) (fun k => when (status != St.ok) (freeFrame k)), endPlain id status,
          match if status = St.ok then none else ownResv s j with
          | some r => acts [releaseResv r, walkTenant r.1]
          | none => nop,
          when (ofRequest j.d.op) (unitEnded j.d.handle)]

/-- A job whose pages could not be had ends (R39, R52). -/
def endFailed (id : Nat) : Act := look fun s =>
  match s.job id with
  | some j => match j.endWith, j.st with
    | some st, .waiting | some st, .evaluating => endJob id st
    | _, _ => nop
  | none => nop

/-! ### Accepting descriptors -/

/-- The last verify step of the request has not had its acceptance commit, and the job is of another step (R64). -/
def awaitsCommit (s : State) (d : JobDesc) : Bool :=
  ofRequest d.op &&
  (s.body.jobs.jobs.any (fun e => e.2.d.handle == d.handle && isVerify e.2.d.op && e.2.d.step != d.step)
   || match s.loc d.handle with
      | some c => c.layers.any fun y => match y.2.draft with
          | some r => r.step != d.step
          | none => false
      | none => false)

/-- A queue's next slot to accept, if a valid one waits. -/
def nextSlot (s : State) (q : Nat) : Option Nat :=
  let i := (tget s.body.jobs.accept q).getD 0
  if jqOpen s q && !s.body.jobs.reenable.contains q && i != s.get (Fld.DAE_JQ_PTR_TAIL q) then some i else none

/-- The bytes of a descriptor slot, and the descriptor they spell. -/
def slotBytes (s : State) (q i : Nat) : List Byte := s.bytes (Mem.jobSlot (jobPool s q i)) 64
def slotDesc (s : State) (q i : Nat) : JobDesc := jobDescOf (slotBytes s q i)

/-- The job that a slot's descriptor becomes. -/
def newJob (s : State) (q i : Nat) : Job :=
  let d := slotDesc s q i
  let t := (jobTenant s d).getD 0
  let range := match jobModel s d with
    | some m => jobRange_ s m d
    | none => []
  { q := q, slot := i, qseq := s.get (Fld.DAE_JQ_PTR_QSEQ q), d := d, st := .waiting, tenant := t, group := s.group t, cls := jobClass s d,
    range := range, emit := [], order := s.body.jobs.next }

/-- A slot is taken: its job joins the table, and is counted (R70, R74). -/
def takeSlot (q i : Nat) : Act := look fun s =>
  acts [onJobs (fun x => { x with next := s.body.jobs.next + 1, jobs := tput x.jobs s.body.jobs.next (newJob s q i),
                                  accept := tput x.accept q ((i + 1) % s.jqDepth q) }),
        bumpFld (Fld.DAE_JQ_PTR_QSEQ q) 1, count Reg.DAE_JOBS_ACCEPTED 1, bumpFld Fld.DAE_STATUS_JOBS_LIVE 1]

/-- A tenant's step that must wait behind those its Collar has deferred (R281). -/
def behindDeferred (s : State) (t : Nat) (d : JobDesc) : Bool := charged s d && !((tget s.body.jobs.deferred t).getD []).isEmpty

/-- A descriptor of a job queue is accepted by the row of its opcode; one of no opcode of R73, by any of the rows (R73, R74). -/
def acceptJob (q op : Nat) : Act := look fun s =>
  match nextSlot s q with
  | none => nop
  | some i =>
    let d := slotDesc s q i
    if (d.op ≠ op ∧ knownOp d.op) ∨ awaitsCommit s d then nop
    else
      let id := s.body.jobs.next
      let t := (jobTenant s d).getD 0
      acts [takeSlot q i,
            match checkJob s (slotBytes s q i) d with
            | some st => endPlain id st
            | none => if behindDeferred s t d || !covers s t d then defer id t d
                      else acts [reserve t d, beginJob id, endFailed id]]

/-! ### Doorbells -/

/-- JOB_QUEUE_DOORBELL: slots up to a new tail become valid; a queue that is not enabled, or that waits for its re-enable, takes
none (R69, R70, R86). -/
def actJobDoorbell (q tail : Nat) : Act := look fun s =>
  if q < 256 && jqOpen s q && !s.body.jobs.reenable.contains q && tail < s.jqDepth q then
    setFld (Fld.DAE_JQ_PTR_TAIL q) tail
  else jobRange

/-- n completion records with PHASE 1 and every other field zero (R79). -/
def freshRecords (at_ : Nat) : Nat → Act
  | 0 => nop
  | n + 1 => acts [freshRecords at_ n, clearMem (at_ + 16 * n) 16, store (at_ + 16 * n + 1) [1]]

/-- A job queue starts: head, tail and QSEQ at zero, fresh records (R79, R86). -/
def startJobQueue (q : Nat) : Act := look fun s =>
  acts [setReg (Reg.DAE_JQ_PTR q) 0, freshRecords (Mem.jobRecord q 0) (s.jqDepth q),
        onJobs fun x => { x with accept := tput x.accept q 0, ended := x.ended.filter fun e => e / 65536 != q,
                                 reenable := x.reenable.filter (· != q) }]

/-- JOB_QUEUE_REENABLE: the accepted jobs of a queue whose geometry changed have ended; it takes doorbells again (R86). -/
def actJobReenable (q : Nat) : Act := look fun s =>
  if s.body.jobs.reenable.contains q && !s.body.jobs.jobs.any (fun e => e.2.q == q) then startJobQueue q else nop

/-- COLLAR_REFILL: a Collar's refill, and the walk (R278, R281). The kinds are 0 tokens and 1 positions. -/
def refill (t k : Nat) : Act := look fun s =>
  if !colOn s t k then nop
  else acts [eff (.colGrant (2 * t + k) (colRate s t k)), look fun s =>
        let ovr := colBalance s t k - (colCap s t k : Int)
        when (decide (0 < ovr)) (eff (.colExpire (2 * t + k) ovr.toNat)),
      onJobs (fun x => { x with refill := tput x.refill (2 * t + k) ((tget x.refill (2 * t + k)).getD s.body.tick + colInterval s t k * 1024) }),
      walkTenant t]

/-- RESV_TIMEOUT: a reservation older than COL_CTL.RESV_TIMEOUT is released (R280). -/
def actResvTimeout (kind h step : Nat) : Act := look fun s =>
  match resvOf s kind h step with
  | none => nop
  | some r => acts [releaseResv r, raise Blk.col 1, walkTenant r.1]

/-! ### Executions: the rows of R73, each the acceptance of the next descriptor of a queue -/
def execJobDoorbell (q tail : Nat) (s : State) :=
  done (when (q < 256 && tail < 4096) (actJobDoorbell q tail)) s
def execJobReenable (q : Nat) (s : State) :=
  done (when (q < 256) (actJobReenable q)) s
def execPromptChunk (q : Nat) (s : State) :=
  done (when (q < 256) (acceptJob q Op.promptChunk)) s
def execDecode (q : Nat) (s : State) :=
  done (when (q < 256) (acceptJob q Op.decode)) s
def execVerifyChain (q : Nat) (s : State) :=
  done (when (q < 256) (acceptJob q Op.verifyChain)) s
def execVerifyTree (q : Nat) (s : State) :=
  done (when (q < 256) (acceptJob q Op.verifyTree)) s
def execPartial (q : Nat) (s : State) :=
  done (when (q < 256) (acceptJob q Op.partial_)) s
def execPrefixPartial (q : Nat) (s : State) :=
  done (when (q < 256) (acceptJob q Op.prefixPartial)) s
def execMerge (q : Nat) (s : State) :=
  done (when (q < 256) (acceptJob q Op.merge)) s
def execCollarRefill (t k : Nat) (s : State) :=
  done (when (t < 1024 && k < 2) (refill t k)) s
def execResvTimeout (kind h step : Nat) (s : State) :=
  done (when (kind < 2 && handleWf h) (actResvTimeout kind h step)) s

end Sys2Proof.Machine
end

