-- ==== Sys2Proof/Machine/Platform.lean ====
section
/-! DEFINITION. Islands, spares and repairs, cores, the Bark ring's own commands, ledger audits, power and test access
(R366 to R397, 13_resilience.md; R422 to R444, 15_package_power_test.md), as far as they touch no other unit's work. -/

namespace Sys2Proof.Machine

def onPlat (f : Plat → Plat) : Act := onBody fun b => { b with plat := f b.plat }

/-! ### Spares and repairs (R387, R388) -/

/-- The flag of the unit that owns a spare kind when a spare comes in, when the kind is low, when it is exhausted. -/
def spareFlags (kind : Nat) : Option (Nat × Nat) × Option (Nat × Nat) × Option (Nat × Nat) :=
  match kind with
  | 0 => (some (Blk.stm, 4), some (Blk.stm, 7), none)
  | 1 => (some (Blk.stm, 5), some (Blk.stm, 7), none)
  | 2 => (some (Blk.pae, 1), some (Blk.pae, 2), some (Blk.pae, 3))
  | 3 => (some (Blk.dae, 1), some (Blk.dae, 2), some (Blk.dae, 3))
  | 4 => (some (Blk.sct, 3), some (Blk.sct, 4), some (Blk.sct, 5))
  | 5 => (some (Blk.isl, 6), none, none)
  | 7 => (some (Blk.fab, 4), some (Blk.fab, 5), some (Blk.fab, 6))
  | 8 => (some (Blk.stm, 6), some (Blk.stm, 7), none)
  | 9 => (none, some (Blk.knl, 6), none)
  | _ => (none, none, none)

/-- A flag, if there is one. -/
def raiseOpt (f : Option (Nat × Nat)) : Act := match f with
  | some (b, i) => raise b i
  | none => nop

/-- Spares of a kind remaining. -/
def State.sparesLeft (s : State) (kind : Nat) : Nat := s.get (Fld.ISL_SPARE_LEFT kind)

/-- One spare of a kind leaves the count: SPARE_LOW of the owning unit and of ISL at 25 % of the initial count or below,
SPARE_EXHAUSTED at zero (R387). -/
def loseSpare (kind : Nat) : Act := look fun s =>
  let n := s.sparesLeft kind - 1
  let f := spareFlags kind
  acts [setFld (Fld.ISL_SPARE_LEFT kind) n,
        when (4 * n ≤ s.get (Fld.ISL_SPARE_INITIAL kind)) (acts [raiseOpt f.2.1, raiseWith Blk.isl 12 { unit := kind }]),
        when (n == 0) (acts [raiseOpt f.2.2, raiseWith Blk.isl 13 { unit := kind }])]

/-- A repair is appended to the repair log in the boot flash (4,096 entries), and waits for its eFuse (R388). -/
def logRepair (kind unit : Nat) : Act := look fun s =>
  let r : Repair := { kind := kind, unit := unit }
  when (s.body.plat.repairLog.length < 4096)
    (acts [onPlat (fun p => { p with repairLog := p.repairLog ++ [r], toBurn := p.toBurn ++ [r] }), bumpFld Fld.ISL_EFUSE_LOG_USED 1])

/-- A unit is mapped out and a spare of its kind brought in where one remains; the repair is recorded (R382, R388). -/
def useSpare (kind unit : Nat) : Act := look fun s =>
  if s.sparesLeft kind = 0 then nop
  else acts [loseSpare kind, raiseOpt (spareFlags kind).1, logRepair kind unit]

/-- REPAIR_BURN: the oldest repair that waits is burned into an eFuse entry; when the 512 are full it stays in the log. -/
def actRepairBurn : Act := look fun s =>
  match s.body.plat.toBurn with
  | [] => nop
  | r :: l =>
    if s.body.plat.fuses.length < 512 then
      acts [onPlat (fun p => { p with toBurn := l, fuses := p.fuses ++ [r] }), bumpFld Fld.ISL_EFUSE_FUSE_USED 1,
            raiseWith Blk.isl 10 { unit := r.unit }]
    else acts [onPlat (fun p => { p with toBurn := l }), raise Blk.isl 11]

/-! ### Islands (R366 to R372) -/

/-- The data-plane islands (R366). -/
def dataPlane (n : Nat) : Bool := n ≤ 31 || n == 33 || (35 ≤ n && n ≤ 38) || (47 ≤ n && n ≤ 53)

/-- The islands that stop when idle (R370). -/
def mayStopIsland (n : Nat) : Bool := (4 ≤ n && n ≤ 19) || (35 ≤ n && n ≤ 38) || n == 47 || n == 53

/-- An island holds a group of the real-time reserve (R285): the lowest RT_PAE_GROUPS tile groups and RT_DAE_GROUPS lane
groups, two groups to an island. -/
def rtIsland (s : State) (n : Nat) : Bool :=
  (4 ≤ n && n ≤ 11 && 2 * (n - 4) < s.get Fld.COL_ENG_CFG_RT_PAE_GROUPS) ||
  (12 ≤ n && n ≤ 19 && 2 * (n - 12) < s.get Fld.COL_ENG_CFG_RT_DAE_GROUPS)

/-! The states of ISL_STATE_n (R399). -/

namespace IslSt
def run : Nat := 0
def stopping : Nat := 1
def stopped : Nat := 2
def waking : Nat := 3
def reset : Nat := 4
def halted : Nat := 5
end IslSt

def State.isl (s : State) (n : Nat) : Nat := s.get (Fld.ISL_STATE_STATE n)
def setIsl (n v : Nat) : Act := setFld (Fld.ISL_STATE_STATE n) v

/-- ISL_IDLE_STOP: the units of an island have been idle for IDLE_US: it starts to stop, and at the event's next occurrence
its clock has stopped (R370). -/
def actIslIdleStop (n : Nat) : Act := look fun s =>
  if !mayStopIsland n || rtIsland s n || s.get Fld.ISL_CTL_IDLE_US == 0 then nop
  else if s.isl n = IslSt.run then setIsl n IslSt.stopping
  else if s.isl n = IslSt.stopping then setIsl n IslSt.stopped
  else nop

/-- WHISTLE: a sender wakes a stopped island; a stop under way is abandoned; in RESET the whistle is answered when the
reset ends (R370). -/
def actWhistle (n : Nat) : Act := look fun s =>
  if s.isl n = IslSt.stopped ∨ s.isl n = IslSt.waking then acts [setIsl n IslSt.run, count Reg.ISL_WHISTLES 1]
  else if s.isl n = IslSt.stopping then setIsl n IslSt.run
  else nop

/-- The registers of an island reset: RESET, the flag of its cause, ISL_RESETS; the credits of its crossings are flushed
(R369, R371). -/
def islandReset (n st credits : Nat) (flag : Option Nat) : Act :=
  acts [setIsl n st, eff (.credFlush none credits), count Reg.ISL_RESETS 1,
        match flag with | some f => raiseWith Blk.isl f { island := n } | none => nop,
        raiseWith Blk.isl 1 { island := n }]

/-- The flag of a reset cause. -/
def causeFlag : ResetCause → Option Nat
  | .clock => some 4 | .crossing => some 0 | .parity => none | .core => some 5

/-- ISL_RESET_END: every neighbour has acknowledged; the island runs again, unless its clock is still lost (R371, R432). -/
def actIslResetEnd (n : Nat) : Act := look fun s =>
  if s.isl n = IslSt.reset ∧ ¬ s.body.plat.heldReset.contains n then setIsl n IslSt.run else nop

/-- ISLAND_RESTART: a halted island is back within its limits (R367). -/
def actIslandRestart (n : Nat) : Act := look fun s => if s.isl n = IslSt.halted then setIsl n IslSt.run else nop

/-- The running neighbours of an island. -/
def neighbours (s : State) (n : Nat) : List Nat :=
  (List.range 56).filter fun m => bitsOf (s.rd (Reg.ISL_NEIGH n)) m 1 == 1 && s.isl m == IslSt.run

/-- A frequency within 1/8 to 8 times that of every running neighbour (R367). -/
def clampFreq (s : State) (n f : Nat) : Nat :=
  (neighbours s n).foldl (fun g m =>
    let q := s.get (Fld.ISL_STATE_FREQ_MHZ m)
    min (max g ((q + 7) / 8)) (8 * q)) f

/-- ISL_THROTTLE: an island's power manager lowers its frequency, or restores it (R367, R425, R430). The frequency is the
power manager's choice, kept within the limits of its neighbours; the temperature is in units of 0.125 °C. -/
def actIslThrottle (n freq temp : Nat) (cause : ThrottleCause) : Act := look fun s =>
  let common := acts [setFld (Fld.ISL_STATE_TEMP n) temp, setFld (Fld.ISL_STATE_FREQ_MHZ n) (clampFreq s n freq)]
  match cause with
  | .release => acts [common, setFld (Fld.ISL_STATE_THROTTLED n) 0]
  | .block b mw => acts [common, setFld (Fld.ISL_STATE_THROTTLED n) 1, setFld (Fld.PWR_BLOCK_POWER_MW b) mw,
                         count Reg.ISL_THROTTLES 1, raiseWith Blk.isl 2 { island := n }, raiseWith Blk.pwr 5 { island := n, unit := b }]
  | _ => acts [common, setFld (Fld.ISL_STATE_THROTTLED n) 1, count Reg.ISL_THROTTLES 1, raiseWith Blk.isl 2 { island := n }]

/-! ### Cores (R383, R384) -/

/-- CORE_FAULT: control core 0-19 is mapped out and a spare brought in where one remains; 20 and 21 are management cores 0
and 1: the standby's fault leaves the active one alone, the active one's leaves no core that takes commands until the
standby takes the role. -/
def actCoreFault (core : Nat) : Act := look fun s =>
  if core ≤ 19 then
    if s.body.plat.coresOut.contains core then nop
    else acts [onPlat (fun p => { p with coresOut := p.coresOut ++ [core], fwAct := p.fwAct.map (fun a => { a with left := a.left.filter (· != core) }) }),
               raiseWith Blk.isl 5 { island := 39 + core / 4, unit := core % 4 },
               dropFld Fld.ISL_STATUS_CORES_OK 1, useSpare 5 core]
  else if core ≤ 21 then
    if s.get Fld.ISL_STATUS_MGMT_ACTIVE = core - 20 then onPlat fun p => { p with mgmtUp := false }
    else if s.is Fld.ISL_STATUS_STANDBY_OK then
      acts [setFld Fld.ISL_STATUS_STANDBY_OK 0, loseSpare 6, onPlat fun p => { p with fwAct := p.fwAct.map (fun a => { a with left := a.left.filter (· != 20) }) }]
    else nop
  else nop

/-- MGMT_TAKEOVER: the active management core is declared failed; the standby takes the role, writes the journalled
completions and runs again the commands taken but not journalled, which wait where they are (R384). With no standby no
command is taken until a warm reset. -/
def actMgmtTakeover : Act := look fun s =>
  if s.is Fld.ISL_STATUS_STANDBY_OK then
    acts [setFld Fld.ISL_STATUS_MGMT_ACTIVE (1 - s.get Fld.ISL_STATUS_MGMT_ACTIVE), setFld Fld.ISL_STATUS_STANDBY_OK 0,
          loseSpare 6, onPlat (fun p => { p with mgmtUp := true }), raise Blk.isl 7]
  else onPlat fun p => { p with mgmtUp := false }

/-- SEC_RESTART: the security core is restarted from ROM; later it is back (R383). -/
def actSecRestart (back : Bool) : Act :=
  if back then acts [setFld Fld.ISL_STATUS_SEC_OK 1, onBody fun b => { b with sec := { b.sec with reentering := false } }]
  else acts [setFld Fld.ISL_STATUS_SEC_OK 0, raise Blk.isl 8, onBody fun b => { b with sec := { b.sec with reentering := true } }]

/-- SEC_REENTRY: the staged security update takes effect at the core's re-entry, which behaves as its restart (R411). -/
def actSecReentry (back : Bool) : Act := look fun s =>
  if !s.is Fld.SEC_STATUS_SEC_STAGED then nop
  else if back then acts [setFld Fld.ISL_STATUS_SEC_OK 1, setFld Fld.SEC_STATUS_SEC_STAGED 0,
                          onBody fun b => { b with sec := { b.sec with reentering := false, measures := b.sec.stagedSec :: b.sec.measures.drop 1 } }]
  else acts [setFld Fld.ISL_STATUS_SEC_OK 0, onBody fun b => { b with sec := { b.sec with reentering := true } }]

/-! ### The Bark ring's own commands -/

/-- BARK_ACK (R380): the head is the unique number congruent to HEAD modulo 2^32 between BRK_HEAD and BRK_STORED. -/
def opBarkAck (ref : CmdRef) (c : Cmd) : Act := look fun s =>
  let b := s.bark
  let h := b.head + (c.arg 0 32 + 2 ^ 32 - b.head % 2 ^ 32) % 2 ^ 32
  if h ≤ b.stored then acts [eff (.barkHead h), fin ref St.ok] else finInvalid ref 0

/-- BARK_IRQ_WINDOW_END: records made within the window are signalled by one message, which opens the next (R381). -/
def actBarkIrqWindowEnd : Act := look fun s =>
  if !s.bark.winOpen then nop
  else if s.bark.winPend then acts [emit (.msix false 16), eff (.barkWindow true false)]
  else eff (.barkWindow false false)

/-! ### Ledger audits (R389 to R392) -/

/-- A sum of counts. -/
def sumCounts (t : List (Nat × Nat)) : Nat := (t.map (·.2)).foldr (· + ·) 0

/-- issued = returned + in flight + flushed, modulo 2^64. -/
def creditsOk (c : Credits) : Bool := c.issued % 2 ^ 64 == (c.returned + c.inflight + c.flushed) % 2 ^ 64

/-- granted = spent + held + expired, modulo 2^64, with held the balance and the reserved tokens (R282). -/
def collarOk (c : CollarAcct) : Bool :=
  (c.granted : Int) % (2 ^ 64 : Int) == ((c.spent : Int) + (c.balance + c.reserved) + c.expired) % (2 ^ 64 : Int)

/-- The MISMATCH bits of R391: bit i for ledger row i of R389. -/
def mismatch (l : Ledger) : Nat :=
  let b (ok : Bool) (i : Nat) : Nat := if ok then 0 else 2 ^ i
  b (creditsOk l.chip && l.ports.all fun e => creditsOk e.2) 0
  + b (l.bufPosted % 2 ^ 64 == (l.bufCompleted + l.bufOutstanding + l.bufWithdrawn) % 2 ^ 64) 1
  + b (l.collars.all fun e => collarOk e.2) 2
  + b (l.increments % 2 ^ 64 == (sumCounts l.jobStatus + sumCounts l.smpDone + sumCounts l.movDone + l.signals + l.msgDone) % 2 ^ 64) 3
  + b (l.admitted % 2 ^ 64 == (l.closed + l.failed + l.live) % 2 ^ 64) 4
  + b (l.refTaken % 2 ^ 64 == (l.refDropped + l.refLive) % 2 ^ 64) 5

/-- Four 64-bit values. -/
def quad (a b c d : Nat) : List Byte := leBytes 8 a ++ leBytes 8 b ++ leBytes 8 c ++ leBytes 8 d

/-- A Collar's GRANTED, SPENT, HELD, EXPIRED. -/
def collarQuad (c : CollarAcct) : List Byte := quad c.granted c.spent (wordOf 64 (c.balance + c.reserved)) c.expired

/-- The sum over the tenants of one kind. -/
def collarSum (l : Ledger) (kind : Nat) : CollarAcct :=
  (l.collars.filter fun e => e.1 % 2 == kind).foldl (fun a e =>
    { balance := a.balance + e.2.balance, reserved := a.reserved + e.2.reserved, granted := a.granted + e.2.granted,
      spent := a.spent + e.2.spent, expired := a.expired + e.2.expired }) {}

/-- The snapshot's parts at their offsets within a copy (R391); SNAP_SEQ comes last. -/
def snapshotParts (l : Ledger) (tick seq : Nat) : List (Nat × List Byte) :=
  let cr (c : Credits) : List Byte := quad c.issued c.returned c.inflight c.flushed
  let portBad := (List.range 16).foldl (fun a p => if creditsOk ((tget l.ports p).getD {}) then a else a + 2 ^ p) 0
  let tenantBad := (l.collars.filter fun e => !collarOk e.2).length
  [(0x08, leBytes 8 tick), (0x10, leBytes 4 (mismatch l)),
   (0x14, leBytes 4 (portBad + (if creditsOk l.chip then 0 else 65536))), (0x18, leBytes 4 tenantBad)]
  ++ ((List.range 16).map fun p => (0x40 + 32 * p, cr ((tget l.ports p).getD {})))
  ++ [(0x240, cr l.chip), (0x280, quad l.bufPosted l.bufCompleted l.bufOutstanding l.bufWithdrawn),
      (0x2A0, quad l.increments (sumCounts l.jobStatus) (sumCounts l.smpDone) (sumCounts l.movDone)
              ++ leBytes 8 l.signals ++ leBytes 8 l.msgDone),
      (0x2D0, quad l.admitted l.closed l.failed l.live),
      (0x2F0, leBytes 8 l.refTaken ++ leBytes 8 l.refDropped ++ leBytes 8 l.refLive),
      (0x400, collarQuad (collarSum l 0)), (0x420, collarQuad (collarSum l 1))]
  ++ (l.collars.map fun e => (0x1000 + 32 * e.1, collarQuad e.2))
  ++ [(0, leBytes 8 seq)]

/-- The bytes of a snapshot copy. -/
def snapshotSize : Nat := 0x11000

/-- The host-window offset of the copy of snapshot n (R391). -/
def snapshotAt (n : Nat) : Nat := Mem.hostWindow + (if n % 2 = 0 then 0x1000 else 0x13000)

/-- An audit: the counters are latched, the snapshot written, the identities checked; failures set their flags and make
records; no counter is changed (R390 to R392). The hold, at most 2,000 ns, is the world's. -/
def audit (hold : Nat) : Act := look fun s =>
  let n := s.rd Reg.LDG_SNAP_SEQ + 1
  let a := snapshotAt n
  let l := s.led
  acts [clearMem a snapshotSize, each (snapshotParts l s.body.tick n) (fun p => store (a + p.1) p.2),
        setReg Reg.LDG_SNAP_SEQ n, count Reg.LDG_AUDITS 1,
        setReg Reg.LDG_HOLD_MAX_NS (max (s.rd Reg.LDG_HOLD_MAX_NS) (min hold 2000)),
        each ((List.range 6).filter fun i => bitsOf (mismatch l) i 1 == 1) fun i => raise Blk.ldg i]

/-- LEDGER_AUDIT. -/
def opLedgerAudit (hold : Nat) (ref : CmdRef) (c : Cmd) : Act := look fun s =>
  if c.outLen < snapshotSize then fin ref St.noResource
  else
    let m := mismatch s.led
    acts [audit hold, look fun s' => finish ref St.ok 0 (leBytes 4 m) (s'.bytes (snapshotAt (s'.rd Reg.LDG_SNAP_SEQ)) snapshotSize)]

/-- LEDGER_AUDIT_TIMER: the periodic audit, every CHECK_MS ms; 0 disables it (R390, R403). -/
def actLedgerAuditTimer (hold : Nat) : Act := look fun s => if s.get Fld.LDG_CTL_CHECK_MS = 0 then nop else audit hold

/-! ### Power, clocks, temperature (R427 to R432) -/

/-- The power-fail actions: every unit outside the Kennel and its far-state access stops, and the flush begins (R428). -/
def powerFail : Act := look fun s =>
  when (s.get Fld.PWR_STATUS_PF_STATE == 0) (setFld Fld.PWR_STATUS_PF_STATE 1)

/-- PWRFAIL_N_FALL; a second fall during the flush has no further effect. -/
def actPwrfailFall : Act := look fun s =>
  when (s.get Fld.PWR_STATUS_PF_STATE == 0) (acts [raise Blk.pwr 1, powerFail])

/-- RAIL_UV: a rail below its tolerance acts as a fall of PWRFAIL_N (R427). -/
def actRailUv (rail : Nat) : Act := look fun s =>
  if s.get Fld.PWR_STATUS_PF_STATE = 0 then acts [raiseWith Blk.pwr 2 { unit := rail }, raise Blk.pwr 1, powerFail]
  else raiseWith Blk.pwr 2 { unit := rail }

/-- RAIL_OV: a rail above its tolerance is reported only (R427). -/
def actRailOv (rail : Nat) : Act := raiseWith Blk.pwr 3 { unit := rail }

/-- THERM_ALERT: an island at a temperature (0.125 °C units, two's complement) at or above ALERT_C: THERM_ALERT_N is
driven low, with an in-band interrupt (R430, R435). Below ALERT_C only the reading changes. -/
def actThermAlert (n temp : Nat) : Act := look fun s =>
  acts [setFld Fld.PWR_STATUS_HOT_ISLAND n, setFld Fld.PWR_STATUS_HOT_TEMP temp, setFld (Fld.ISL_STATE_TEMP n) temp,
        when (decide ((8 * s.get Fld.PWR_CTL_ALERT_C : Int) ≤ signedOf 12 temp) && !s.is Fld.PWR_STATUS_ALERT)
          (acts [setFld Fld.PWR_STATUS_ALERT 1, raiseWith Blk.pwr 0 { island := n }, onPlat fun p => { p with ibi := true }])]

/-- THERM_ALERT_RELEASE: every island is ALERT_HYST below ALERT_C; after a trip the pin is held low (R430). -/
def actThermRelease : Act := look fun s =>
  when (!s.is Fld.PWR_STATUS_TRIP) (acts [setFld Fld.PWR_STATUS_ALERT 0, onPlat fun p => { p with ibi := false }])

/-- THERMAL_TRIP: an island at 110 °C for 10 µs: every island except 54 is stopped as if in reset, THERM_ALERT_N is held
low (R430). -/
def actThermalTrip (n : Nat) : Act :=
  acts [setFld Fld.PWR_STATUS_TRIP 1, setFld Fld.PWR_STATUS_ALERT 1, setFld Fld.PWR_STATUS_HOT_ISLAND n,
        each ((List.range 56).filter (· != 54)) (fun i => setIsl i IslSt.reset),
        onPlat fun p => { p with mgmtUp := false, ibi := true }]

/-! ### The TAP (R437 to R440) and the I3C address (R435) -/

/-- The instruction in force. -/
def setTap (i : Nat) : Act := setFld Fld.TST_STATUS_INSTRUCTION i

/-- An instruction that takes the pins from the functions that drive them; with a data-plane island running it is flagged
and recorded, and service resumes only after a full reset (R440). -/
def takePins (i : Nat) (hiz : Bool) : Act := look fun s =>
  let live := (List.range 56).any fun n => dataPlane n && s.isl n == IslSt.run
  acts [setTap i, when live (raise Blk.tst 0), onPlat fun p => { p with pinsTaken := p.pinsTaken || live, highZ := hiz }]

def actTapIdcode : Act := setTap 0x01
/-- SAMPLE/PRELOAD captures and loads the boundary register's cells. -/
def actTapSample (cells : Nat) : Act := acts [setTap 0x02, onPlat fun p => { p with boundary := cells % bsrBound }]
def actTapExtest : Act := takePins 0x03 false
def actTapExtestPulse : Act := takePins 0x04 false
def actTapExtestTrain : Act := takePins 0x05 false
def actTapHighz : Act := takePins 0x06 true
def actTapClamp : Act := takePins 0x07 false

/-- BYPASS, by its own encoding or by one the TAP does not execute (R437): while locked such an encoding sets
PRIVATE_REFUSED (R444). -/
def tapBypass (enc : Nat) : Act := look fun s =>
  acts [setTap 0xFF, onPlat (fun p => { p with bypassBit := 0 }),
        when (enc != 0xFF && s.is Fld.TST_STATUS_LOCKED) (raise Blk.tst 1)]

/-- A private instruction: executed where its scope bit is open, BYPASS otherwise (R437). -/
def tapPrivate (enc lo hi bit : Nat) : Act := look fun s =>
  if lo ≤ enc ∧ enc ≤ hi ∧ bitsOf (s.get Fld.TST_STATUS_SCOPE) bit 1 = 1 then setTap enc else tapBypass enc

/-- TRST_N: the TAP is reset; IDCODE is in force (R433, R444). -/
def actTrst : Act := acts [setTap 0x01, onPlat fun p => { p with highZ := false }]

/-- I3C: a dynamic address by SETDASA from the static address 0x50 + strap, or by ENTDAA; not after a power failure (R434, R435). -/
def actSetdasa (static dyn : Nat) : Act := look fun s =>
  when (static == 0x50 + s.get Fld.PWR_STRAPS_I3C_SA && s.get Fld.PWR_STATUS_PF_STATE == 0) (onPlat fun p => { p with i3cAddr := some dyn })
def actEntdaa (dyn : Nat) : Act := look fun s =>
  when (s.body.plat.i3cAddr.isNone && s.get Fld.PWR_STATUS_PF_STATE == 0) (onPlat fun p => { p with i3cAddr := some dyn })

/-! ### Executions -/
def execRepairBurn (s : State) := done actRepairBurn s
def execIslIdleStop (n : Nat) (s : State) :=
  done (when (n < 56) (actIslIdleStop n)) s
def execWhistle (n : Nat) (s : State) :=
  done (when (n < 56) (actWhistle n)) s
def execIslResetEnd (n : Nat) (s : State) :=
  done (when (n < 56) (actIslResetEnd n)) s
def execIslandRestart (n : Nat) (s : State) :=
  done (when (n < 56) (actIslandRestart n)) s
def execIslThrottle (n freq temp : Nat) (c : ThrottleCause) (s : State) :=
  done (when (n < 56 && freq < 4096 && temp < 4096) (actIslThrottle n freq temp c)) s
def execCoreFault (core : Nat) (s : State) :=
  done (when (core < 22) (actCoreFault core)) s
def execMgmtTakeover (s : State) := done actMgmtTakeover s
def execSecRestart (back : Bool) (s : State) := done (actSecRestart back) s
def execSecReentry (back : Bool) (s : State) := done (actSecReentry back) s
def execBarkAck (src : Src) (s : State) := done (runOp 0x0702 src opBarkAck) s
def execBarkIrqWindowEnd (s : State) := done actBarkIrqWindowEnd s
def execLedgerAudit (src : Src) (hold : Nat) (s : State) := done (runOp 0x0703 src (opLedgerAudit hold)) s
def execLedgerAuditTimer (hold : Nat) (s : State) := done (actLedgerAuditTimer hold) s
def execPwrfailFall (s : State) := doneAlways actPwrfailFall s
def execRailUv (rail : Nat) (s : State) :=
  doneAlways (when (rail < 11) (actRailUv rail)) s
def execRailOv (rail : Nat) (s : State) :=
  doneAlways (when (rail < 11) (actRailOv rail)) s
def execThermAlert (n temp : Nat) (s : State) :=
  done (when (n < 56 && temp < 4096) (actThermAlert n temp)) s
def execThermRelease (s : State) := doneAlways actThermRelease s
def execThermalTrip (n : Nat) (s : State) :=
  doneAlways (when (n < 56) (actThermalTrip n)) s
def execTapIdcode (s : State) := doneAlways actTapIdcode s
def execTapSample (cells : Nat) (s : State) :=
  doneAlways (when (bsrFits cells) (actTapSample cells)) s
def execTapExtest (s : State) := doneAlways actTapExtest s
def execTapExtestPulse (s : State) := doneAlways actTapExtestPulse s
def execTapExtestTrain (s : State) := doneAlways actTapExtestTrain s
def execTapHighz (s : State) := doneAlways actTapHighz s
def execTapClamp (s : State) := doneAlways actTapClamp s
def execTapBypass (enc : Nat) (s : State) :=
  doneAlways (when (enc < 256) (tapBypass enc)) s
def execTapScanBist (enc : Nat) (s : State) :=
  doneAlways (when (enc < 256) (tapPrivate enc 0x80 0x8F 0)) s
def execTapCoreDebug (enc : Nat) (s : State) :=
  doneAlways (when (enc < 256) (tapPrivate enc 0x90 0x9F 1)) s
def execTapEfuseRead (enc : Nat) (s : State) :=
  doneAlways (when (enc < 256) (tapPrivate enc 0xA0 0xA7 2)) s
def execTrst (s : State) := doneAlways actTrst s
def execSetdasa (static dyn : Nat) (s : State) :=
  doneAlways (when (static < 128 && dyn < 128) (actSetdasa static dyn)) s
def execEntdaa (dyn : Nat) (s : State) :=
  doneAlways (when (dyn < 128) (actEntdaa dyn)) s

end Sys2Proof.Machine
end

