-- ==== Sys2Proof/Machine/Scent.lean ====
section
/-! DEFINITION. Scent's evaluation and selection (R92 to R105, 04_scent.md), and the calibration, retirement and replacement of
its macros (R106 to R113). -/

namespace Sys2Proof.Machine

/-! ### Macros -/

/-- The physical macro behind a logical one. -/
def State.lmap (s : State) (n : Nat) : Nat := bitsOf (s.rd (Reg.SCT_LMAP n)) 0 7

/-! The states of SCT_MACRO_m (R121). -/

namespace MacSt
def service : Nat := 0
def spare : Nat := 1
def calibrating : Nat := 2
def retired : Nat := 3
end MacSt

def State.mac (s : State) (m : Nat) : Nat := s.get (Fld.SCT_MACRO_STATE m)

/-- A macro is marked DUE; a retired one is not. -/
def markDue (m : Nat) : Act := look fun s => when (m < 68 && s.mac m != MacSt.retired) (setFld (Fld.SCT_MACRO_DUE m) 1)

/-- The logical macros that hold rows of a layer. -/
def macrosOf (s : State) (h l : Nat) : List Nat :=
  nub ((s.body.scent.octets.filter fun e => e.2.handle == h && e.2.layer == l).map fun e => e.1 / 1024)

/-! ### The inputs of a job (R71) -/

/-- What a job reads from the job buffer. -/
def inputsOf (s : State) (d : JobDesc) (m : Model) : JobIn :=
  { q := if d.op = Op.merge then [] else jbytes s d.qAddr (queryBytes m d.qFmt d.nq)
    kv := if appending d.op then jbytes s d.kvAddr (kvBytes m d.nq) else []
    bitmap := jbytes s d.maskAddr (maskSize d)
    parts := jbytes s d.partAddr (partSets d * d.nq * m.queryHeads * partSize m.headDim) }

/-- A job's inputs are read from the job buffer, once. -/
def readInputs (id : Nat) : Act := look fun s =>
  match s.job id with
  | none => nop
  | some j => match j.inp, jobModel s j.d with
    | none, some m => modJob id fun x => { x with inp := some (inputsOf s j.d m) }
    | _, _ => nop

/-- The inputs hold a number that is not finite (R129). -/
def badInputs (s : State) (j : Job) : Bool :=
  match j.inp, jobModel s j.d with
  | some i, some m => j.d.op != Op.merge && nonFinite j.d.qFmt i.q i.kv (j.d.nq * m.queryHeads * m.headDim)
  | _, _ => false

/-- A job with such a number ends at intake with INVALID (R129). -/
def endNonFinite (id : Nat) : Act := acts [count Reg.TRC_NONFINITE 1, raise Blk.trc 1, endJob id St.invalid]

/-- A job's query vector of row r and head h, as the engine takes it. -/
def jobQuery (m : Model) (d : JobDesc) (i : JobIn) (r h : Nat) : List Dy := queryVec m d.qFmt (queryRaw m d.qFmt d.nq i.q r h)

/-! ### Evaluation and selection (R92 to R104) -/

/-- The measured code of a row: the ideal code and an error of the analogue part, within the scale. -/
def measured (m : Model) (q : List Int) (row : List Byte) (err : Int) : Nat := (max 0 (min 255 (idealCode m.gainShift q row + err))).toNat

/-- The k-th largest of a list of codes, counting equal codes separately; 0 if there are fewer. -/
def kthLargest (k : Nat) (codes : List Nat) : Nat :=
  ((List.range 256).reverse.find? fun c => k ≤ (codes.filter (c ≤ ·)).length).getD 0

/-- The selected candidates (R97). -/
def selectGroups (topk margin : Nat) (cand : List (Nat × Nat)) : List Nat :=
  if cand.length ≤ topk then cand.map (·.1)
  else
    let th := kthLargest topk (cand.map (·.2))
    (cand.filter fun c => th ≤ c.2 + margin).map (·.1)

/-- What the evaluations of the macros leave behind: counts, flags, statistics; a macro whose evaluation was invalid twice,
or whose statistics leave the bounds of R94, is marked DUE (R105, R106, R111). -/
def noteEval (o : EvalOut) : Act := look fun s =>
  let m := s.lmap o.macroNo
  let runs := if o.bad = 0 then 1 else 2
  let mean := signedOf 8 o.mean
  acts [count Reg.SCT_EVALS runs, count Reg.SCT_EVAL_RETRY (runs - 1),
        each (List.range (min o.bad 2)) (fun _ => raiseWith Blk.sct (if o.supply then 6 else 0) { unit := m }),
        setFld (Fld.SCT_MACRO_NOISE_RMS m) o.rms, setFld (Fld.SCT_MACRO_MEAN_ERR m) o.mean,
        when (2 ≤ o.bad || 38 < o.rms || decide (32 < mean.natAbs)) (markDue m)]

/-- What the evaluations of a layer's macros leave behind, and the wait behind other evaluations (R95). A macro of which nothing is reported
has evaluated once, and its statistics are as they were. -/
def macroNotes (mine : List Nat) (outs : List EvalOut) (wait : Nat) : Act := look fun s =>
  acts [count Reg.SCT_EVAL_WAIT_NS wait,
    each mine fun n => noteEval ((outs.find? fun o => o.macroNo == n).getD
      { macroNo := n, rms := s.get (Fld.SCT_MACRO_NOISE_RMS (s.lmap n)), mean := s.get (Fld.SCT_MACRO_MEAN_ERR (s.lmap n)) })]

/-- The codes of the loaded rows in a job's range: each the ideal code of its query sketch and the row, with the error of the group (R92,
R93). -/
def scentCodes (s : State) (m : Model) (j : Job) (inp : JobIn) (noise : List (Nat × Int)) : List (Nat × Nat) :=
  let q := querySketch m ((List.range j.d.nq).flatMap fun r => (List.range m.queryHeads).map fun hd => (hd, jobQuery m j.d inp r hd))
  (nub (j.range.map (· / m.groupPages))).filterMap fun g =>
    (rowOf s j.d.handle j.d.layer g).map fun row => (g, measured m q row (((noise.find? fun e => e.1 == g).map (·.2)).getD 0))

/-- The guaranteed groups of a job, and its candidates among the coded groups (R96). -/
def jobGuaranteed (s : State) (m : Model) (j : Job) (c : Loc) : List Nat :=
  guaranteed s m (s.scentProf j.tenant) j.d.handle j.d.layer j.d.qPos (c.layer j.d.layer) j.range
def candidates (codes : List (Nat × Nat)) (gset : List Nat) : List (Nat × Nat) := codes.filter fun e => !gset.contains e.1

/-- A job whose pages are chosen reads them. -/
def startReading (id : Nat) : Act := acts [feedJob id, nameFrames id, endFailed id, stallSync 0]

/-- The selection from the codes, and the job's pages by it: every page where it exceeds its cap, or where the job is an audit (R97 to R99,
R104). -/
def pickPages (id : Nat) (m : Model) (j : Job) (c : Loc) (codes : List (Nat × Nat)) : Act := look fun s =>
  let p := s.scentProf j.tenant
  let gset := jobGuaranteed s m j c
  let cand := candidates codes gset
  let topk := s.get (Fld.SCT_PROF_TOPK p)
  let sel := selectGroups topk (s.get (Fld.SCT_PROF_MARGIN p)) cand
  let sat := count Reg.SCT_CODE_SAT (codes.filter fun e => e.2 == 0 || e.2 == 255).length
  if topk < cand.length ∧ topk + s.get (Fld.SCT_PROF_MARGIN_CAP p) < sel.length then acts [sat, runExact id 4, startReading id]
  else
    let groups := gset ++ sel
    let pages := pagesIn m j.range groups
    let n := (tget s.body.scent.audits p).getD 0 + 1
    let a := s.get (Fld.SCT_PROF_AUDIT_LOG2 p)
    let common := acts [sat, onScent (fun x => { x with audits := tput x.audits p n }), modLayer j.d.handle j.d.layer fun y => { y with sel := groups }]
    if a ≠ 0 ∧ n % 2 ^ a = 0 then acts [common, modJob id (fun x => { x with audit := some pages }), runExact id 5, startReading id]
    else acts [common, count Reg.SCT_SEL_PAGES pages.length, count Reg.SCT_RANGE_PAGES j.range.length,
               tcount j.tenant TReg.SCT_TSEL_PAGES pages.length, tcount j.tenant TReg.SCT_TRANGE_PAGES j.range.length,
               modJob id (fun x => { x with st := .waiting, emit := pages }), startReading id]

/-- An evaluation at a macro of the job's layer comes first: class 0 first, then in order of arrival (R95). -/
def evalAhead (s : State) (id : Nat) (j : Job) : Bool :=
  let mine := macrosOf s j.d.handle j.d.layer
  s.body.jobs.jobs.any fun e =>
    e.2.st == .evaluating && e.1 != id && (e.2.cls < j.cls || (e.2.cls == j.cls && e.2.order < j.order))
    && (macrosOf s e.2.d.handle e.2.d.layer).any mine.contains

/-- SCENT_EVAL: the macros that hold the rows of a job's layer evaluate its query sketch, and the selection is made from the
codes (R95 to R99, R103, R104). The errors of the codes by group, the outcome of each macro's evaluation and the wait behind
other evaluations are the world's. -/
def actScentEval (id : Nat) (noise : List (Nat × Int)) (outs : List EvalOut) (wait : Nat) : Act := look fun s =>
  match s.job id with
  | none => nop
  | some j0 =>
    if j0.st != .evaluating || evalAhead s id j0 then nop
    else acts [readInputs id, look fun s =>
      match s.job id with
      | none => nop
      | some j => match s.loc j.d.handle, jobModel s j.d, j.inp with
        | some c, some m, some inp =>
          let mine := macrosOf s j.d.handle j.d.layer
          if badInputs s j then endNonFinite id
          else if !s.body.scent.loaded.contains j.d.handle then acts [runExact id 0, startReading id]
          else if mine.any fun n => s.mac (s.lmap n) == MacSt.calibrating then acts [runExact id 2, startReading id]
          else if mine.any fun n => outs.any fun o => o.macroNo == n && 2 ≤ o.bad then acts [macroNotes mine outs wait, runExact id 3, startReading id]
          else acts [macroNotes mine outs wait, pickPages id m j c (scentCodes s m j inp noise)]
        | _, _, _ => acts [runExact id 0, stallSync 0]]

/-! ### Calibration, retirement and spares (R107 to R113) -/

/-- The count of generation macros in force changes the macros that may hold rows: those that leave lose their rows, those
that join bring free ones (R113, R116, R119). -/
def afterMacros (before : List Nat) : Act := look fun s =>
  let now := genMacros s
  acts [dropMacroRows (before.filter fun n => !now.contains n),
        bumpFld Fld.SCT_STATUS_ROWS_FREE (8192 * (now.filter fun n => !before.contains n).length)]

/-- The generation macro count in force changes, never above the macros in service (R113, R119). -/
def setGenMacros (n : Nat) : Act := look fun s =>
  acts [setFld Fld.SCT_STATUS_GEN_MACROS (min n (s.get Fld.SCT_STATUS_IN_SERVICE)), afterMacros (genMacros s)]

/-- The rows of a logical macro are no longer loaded. -/
def unloadRows (n : Nat) : Act := onScent fun x =>
  { x with octets := x.octets.map fun e => if e.1 / 1024 = n then (e.1, { e.2 with rows := List.replicate 8 none }) else e }

/-- The rows of a logical macro's closed groups are loaded again (R112). -/
def reloadRows (n : Nat) : Act := look fun s =>
  each (s.body.scent.octets.filter fun e => e.1 / 1024 == n) fun e => look fun s =>
    match s.loc e.2.handle with
    | none => nop
    | some c => match s.locModel c with
      | none => nop
      | some m =>
        let closed := closedGroups s m (c.layer e.2.layer)
        each ((List.range 8).filter fun i => e.2.first + i < closed) fun i => loadRow e.2.handle e.2.layer (e.2.first + i)

/-- A macro is retired (R112, R113): a spare takes its logical number and is due for calibration; without one the logical macro
leaves service. The lowest-numbered spare is taken (DESIGN CHOICE, log entry 5). -/
def retireMacro (m : Nat) : Act := look fun s =>
  if s.mac m = MacSt.retired then nop
  else
    let n := s.get (Fld.SCT_MACRO_LOGICAL m)
    let w := m / 64
    let base := acts [when (s.mac m == MacSt.calibrating) (dropFld Fld.SCT_STATUS_CALIBRATING 1),
                      setFld (Fld.SCT_MACRO_STATE m) MacSt.retired, setFld (Fld.SCT_MACRO_DUE m) 0, setFld (Fld.SCT_MACRO_LOGICAL m) 127,
                      setReg (Reg.SCT_RETIRED w) (withBits (s.rd (Reg.SCT_RETIRED w)) (m % 64) 1 1),
                      raiseWith Blk.sct 2 { unit := m }]
    if s.mac m = MacSt.spare then acts [base, dropFld Fld.SCT_STATUS_SPARES_LEFT 1, loseSpare 4]
    else match firstBelow 68 fun k => s.mac k == MacSt.spare with
      | some k =>
        acts [base, unloadRows n, setReg (Reg.SCT_LMAP n) k, setFld (Fld.SCT_MACRO_STATE k) MacSt.service,
              setFld (Fld.SCT_MACRO_LOGICAL k) n, setFld (Fld.SCT_MACRO_DUE k) 1, dropFld Fld.SCT_STATUS_SPARES_LEFT 1, useSpare 4 m]
      | none =>
        acts [base, onScent (fun x => { x with gone := x.gone ++ [n] }), dropFld Fld.SCT_STATUS_IN_SERVICE 1, look fun s' =>
          acts [setFld Fld.SCT_STATUS_GEN_MACROS (min (s'.get Fld.SCT_STATUS_GEN_MACROS) (s'.get Fld.SCT_STATUS_IN_SERVICE)),
                afterMacros (genMacros s)]]

/-- SCT_CAL_REQ_WRITE: each bit written 1 marks a physical macro DUE (R107). -/
def actCalReqWrite (w v : Nat) : Act := look fun s =>
  let bits := (List.range 64).filter fun i => bitsOf v i 1 == 1 && 64 * w + i < 68 && s.mac (64 * w + i) != MacSt.retired
  if 1 < w || !s.is Fld.GLB_STATUS_FW_READY then nop
  else each bits fun i => acts [look fun s => setReg (Reg.SCT_CAL_REQ w) (withBits (s.rd (Reg.SCT_CAL_REQ w)) i 1 1), markDue (64 * w + i)]

/-- SCT_RECAL_TEMPERATURE: the temperature of a macro's island (0.125 °C units) differs from its CAL_TEMP by RECAL_DEG or more
(R107). -/
def actRecalTemp (m temp : Nat) : Act := look fun s =>
  let diff := (signedOf 12 temp - signedOf 12 (s.get (Fld.SCT_MACRO_CAL_TEMP m))).natAbs
  when (m < 68) (acts [setFld (Fld.ISL_STATE_TEMP (m / 17)) temp,
    when (8 * s.get Fld.SCT_CTL_RECAL_DEG ≤ diff) (acts [markDue m, onScent fun x => { x with dueDiff := tput x.dueDiff m diff }])])

/-- The temperature difference a macro was marked DUE with; and whether a macro in service is due (R107). -/
def State.dueDiff (s : State) (m : Nat) : Nat := (tget s.body.scent.dueDiff m).getD 0
def State.calDue (s : State) (m : Nat) : Bool := s.is (Fld.SCT_MACRO_DUE m) && s.mac m == MacSt.service

/-- SCT_CALIBRATION_START: a due macro in service starts its calibration where fewer than MAX_CAL calibrate and no due macro in
service has a greater temperature difference (R107, R108). -/
def actCalStart (m : Nat) : Act := look fun s =>
  when (m < 68 && s.calDue m && s.get Fld.SCT_STATUS_CALIBRATING < s.get Fld.SCT_CTL_MAX_CAL
        && (List.range 68).all fun k => !s.calDue k || s.dueDiff k ≤ s.dueDiff m)
    (acts [setFld (Fld.SCT_MACRO_STATE m) MacSt.calibrating, bumpFld Fld.SCT_STATUS_CALIBRATING 1, count Reg.SCT_CAL_RUNS 1])

/-- SCT_CALIBRATION_END: both trims are set; whether the check meets R94, the trims and the temperature are the world's (R109). A
macro that fails CAL_FAIL_LIMIT times in a row is retired; one that took a retired macro's place has its rows reloaded
(R112). -/
def actCalEnd (m gain offset temp : Nat) (ok : Bool) : Act := look fun s =>
  if !(m < 68) || s.mac m != MacSt.calibrating then nop
  else
    let w := m / 64
    let n := s.get (Fld.SCT_MACRO_LOGICAL m)
    acts [setFld (Fld.SCT_MACRO_STATE m) MacSt.service, dropFld Fld.SCT_STATUS_CALIBRATING 1,
          setFld (Fld.SCT_MACRO_GAIN_TRIM m) gain, setFld (Fld.SCT_MACRO_OFFSET_TRIM m) offset,
          setReg (Reg.SCT_CAL_REQ w) (withBits (s.rd (Reg.SCT_CAL_REQ w)) (m % 64) 1 0),
          if ok then acts [setFld (Fld.SCT_MACRO_CAL_TEMP m) temp, setFld (Fld.SCT_MACRO_DUE m) 0, setFld (Fld.SCT_MACRO_CAL_FAILS m) 0,
                           onScent (fun x => { x with dueDiff := tdel x.dueDiff m }), reloadRows n]
          else
            let f := s.get (Fld.SCT_MACRO_CAL_FAILS m) + 1
            acts [setFld (Fld.SCT_MACRO_CAL_FAILS m) f, raiseWith Blk.sct 1 { unit := m },
                  when (s.get Fld.SCT_CTL_CAL_FAIL_LIMIT ≤ f) (retireMacro m)]]

/-! ### Executions -/
def execScentEval (id : Nat) (noise : List (Nat × Int)) (outs : List EvalOut) (wait : Nat) (s : State) := done (actScentEval id noise outs wait) s
def execCalReqWrite (w v : Nat) (s : State) :=
  done (when (w < 2) (actCalReqWrite w v)) s
def execRecalTemp (m temp : Nat) (s : State) :=
  done (when (m < 68 && temp < 4096) (actRecalTemp m temp)) s
def execCalStart (m : Nat) (s : State) :=
  done (when (m < 68) (actCalStart m)) s
def execCalEnd (m gain offset temp : Nat) (ok : Bool) (s : State) :=
  done (when (m < 68 && gain < 256 && offset < 256 && temp < 4096) (actCalEnd m gain offset temp ok)) s

end Sys2Proof.Machine
end

