-- ==== Sys2Proof/Machine/Jobs.lean ====
section
/-! DEFINITION. The runs of step jobs (R58 to R68, R75 to R77, R82, 03_attention_engines.md; R129 to R131, 05_transcoder.md; R284
to R288, 10_sharing_and_scheduling.md): dispatch, intake, sub-jobs, outputs, commits, and the ends of runs. -/

namespace Sys2Proof.Machine

/-! ### Groups (R20, R56, R83, R285) -/

/-- The engine of a job: 0 DAE, 1 PAE. -/
def engineOf (d : JobDesc) : Nat := if onPae d.op then 1 else 0

/-- What a personality gives group g of an engine: 1 generation lanes or prompt tiles, 2 tiles for ganged steps, 0 nothing. The
lowest groups are given first (DESIGN CHOICE, log entry 17). -/
def groupKind (pers e g : Nat) : Nat :=
  let f (x : Fld) : Nat := bitsOf pers x.lo x.w
  if e = 0 then (if g < f Fld.GLB_PERS_DAE_GEN then 1 else 0)
  else if g < f Fld.GLB_PERS_PAE_PROMPT then 1
  else if g < f Fld.GLB_PERS_PAE_PROMPT + f Fld.GLB_PERS_PAE_GEN then 2 else 0

/-- The personality of a commit whose reassignment has not completed (R19). -/
def State.nextPers (s : State) : Option Nat :=
  s.body.conf.run.bind fun r => r.items.findSome? fun i => match i with
    | .reg a v => if a = Reg.GLB_PERS then some v else none
    | _ => none

/-- A group whose kind changes takes no job until the reassignment has completed. -/
def changing (s : State) (e g : Nat) : Bool :=
  match s.nextPers with
  | some p => groupKind p e g != groupKind (s.rd Reg.GLB_PERS) e g
  | none => false

/-- The complete groups of a kind. -/
def groupsOf (s : State) (e kind : Nat) : List Nat :=
  (List.range 16).filter fun g => groupKind (s.rd Reg.GLB_PERS) e g == kind && !s.body.jobs.broken.contains (e * 16 + g)

/-- The real-time reserve: the lowest groups of the engine's work kind (DESIGN CHOICE, log entry 17). -/
def reserveOf (s : State) (e : Nat) : List Nat :=
  (groupsOf s e 1).take (if e = 0 then s.get Fld.COL_ENG_CFG_RT_DAE_GROUPS else s.get Fld.COL_ENG_CFG_RT_PAE_GROUPS)
def unreserved (s : State) (e : Nat) : List Nat :=
  (groupsOf s e 1).drop (if e = 0 then s.get Fld.COL_ENG_CFG_RT_DAE_GROUPS else s.get Fld.COL_ENG_CFG_RT_PAE_GROUPS)

/-- The groups of a list that a job may take now. -/
def freeOf (s : State) (e : Nat) (l : List Nat) : List Nat :=
  let busy := if e = 0 then s.get Fld.DAE_STATUS_GROUPS_BUSY else s.get Fld.PAE_STATUS_GROUPS_BUSY
  l.filter fun g => bitsOf busy g 1 == 0 && !changing s e g

/-- The width of a job: its class's, but no more than the groups it may use. -/
def widthOf (s : State) (e cls : Nat) : Nat :=
  let w := if e = 0 then s.get (Fld.DAE_CLASS_CFG_DAE_GROUPS cls) else s.get (Fld.DAE_CLASS_CFG_PAE_GROUPS cls)
  min w ((unreserved s e).length + if cls = 0 then (reserveOf s e).length else 0)

/-- A job runs ganged (R66). -/
def ganged (j : Job) : Bool := 2 ≤ j.d.mode && isVerify j.d.op && !j.fGang

/-! ### The split of a job (R76, R80) -/

/-- The worst-case engine cycles of a part of a DAE job: pages of it, at a width. -/
def daeCycles (m : Model) (d : JobDesc) (gang : Bool) (width pages : Nat) : Nat :=
  let lanes := 16 * width
  let staged := if isVerify d.op then d.nq - 1 else 0
  let bytes := (pages * 2 ^ m.pLog2 + staged) * m.bytesPerPos
  let uses := (m.queryHeads / m.heads) * d.nq * (if m.latent then 2 else 1)
  let read := max (32 * ((pages + 7) / 8)) (ceilDiv bytes (64 * lanes))
  let slots := ceilDiv bytes 64 * ceilDiv uses 8 * (if d.qFmt = 0 then 2 else 1)
  max read (ceilDiv slots (lanes * if gang then 2 else 1))

/-- The worst-case engine cycles of rows of a prompt chunk. -/
def paeCycles (m : Model) (d : JobDesc) (width pages rows : Nat) : Nat :=
  let tiles := 8 * width
  let up (n : Nat) : Nat := (n + 31) / 32 * 32
  let pos := pages * 2 ^ m.pLog2
  let macs := m.heads * up (m.queryHeads / m.heads * rows) * up m.headDim * 2 * pos * (if d.qFmt = 0 then 2 else 1)
  max (ceilDiv (pos * m.bytesPerPos) (64 * min 128 tiles)) (ceilDiv macs (1024 * tiles))

/-- The sub-jobs of a job: the fewest equal parts that take at most 8 µs each. -/
def subCount (m : Model) (j : Job) (width : Nat) : Nat :=
  let pages := j.emit.length
  let limit := 32000
  if j.d.op = Op.merge then 1
  else if onPae j.d.op then
    ((List.range j.d.nq).find? fun k => paeCycles m j.d width pages (ceilDiv j.d.nq (k + 1)) ≤ limit).getD (j.d.nq - 1) + 1
  else
    ((List.range pages).find? fun k => daeCycles m j.d (ganged j) width (ceilDiv pages (k + 1)) ≤ limit).getD (pages - 1) + 1

/-- The page ranges of the sub-jobs of a DAE job. -/
def subRanges (j : Job) : List (List Nat) :=
  if j.emit.isEmpty then [[]] else chunks (ceilDiv j.emit.length j.subs) j.emit.length j.emit

/-! ### Intake (R30, R58, R64, R129 to R131) -/

/-- A page's formats, escalation and clips as an append meets them. -/
structure PageForm where
  kf : Nat
  vf : Nat
  esc : Bool
  clips : Nat
  count : Nat
deriving DecidableEq, Repr

/-- The frame that holds page i of a layer in near state. -/
def nearPage (s : State) (h l i : Nat) : Option Nat :=
  ((s.loc h).bind fun c => (c.layer l).pages[i]?).bind (residentKey s)

/-- The form of page i of a layer; a page that is not there yet takes the model's formats. -/
def pageForm (s : State) (m : Model) (h l i : Nat) : PageForm :=
  match (nearPage s h l i).bind s.frame with
  | some f => { kf := f.hdr.kFmt, vf := f.hdr.vFmt, esc := f.hdr.escalated, clips := f.hdr.clipCount, count := f.hdr.posCount }
  | none => { kf := m.kFmt, vf := m.vFmt, esc := false, clips := 0, count := 0 }

/-- A new position in stored form. -/
def rowOfKv (m : Model) (kf vf : Nat) (noClip : Bool) (rot : List (List Nat)) : RowBytes :=
  let p := quantPos m kf vf noClip rot
  { kf := kf, vf := vf, bytes := p.bytes, scales := p.scales, clips := p.clips }

/-- The pages that n positions from pos fall into. -/
def pagesTouched (m : Model) (pos n : Nat) : List Nat := nub ((List.range n).map fun i => (pos + i) / 2 ^ m.pLog2)

/-- The new positions of one page, quantised, and its escalation where the clip limit is passed (R131). -/
def pageIntake (s : State) (m : Model) (j : Job) (kv : List Byte) (i : Nat) : List RowBytes × Option Escal :=
  let f := pageForm s m j.d.handle j.d.layer i
  let mine := (List.range (appendRows j.d)).filter fun r => (j.d.qPos + r) / 2 ^ m.pLog2 == i
  let rots := mine.map fun r => kvRotated m kv r
  let rows := rots.map (rowOfKv m f.kf f.vf f.esc)
  let clips := (rows.map (·.clips)).foldl (· + ·) 0
  let ppm := s.get (Fld.TRC_PROF_CLIP_PPM (s.trcProf j.tenant))
  let elems := (f.count + mine.length) * m.bytesPerPos
  if f.esc ∨ ppm = 0 ∨ (f.clips + clips) * 1000000 ≤ ppm * elems then (rows, none)
  else
    let wide := s.is (Fld.TRC_PROF_ESC_MODE (s.trcProf j.tenant)) && !(f.kf == 1 && (m.latent || f.vf == 1))
    let kf := if wide then 1 else f.kf
    let vf := if wide then 1 else f.vf
    (rots.map (rowOfKv m kf vf true), some { page := i, wide := wide, pos := f.count })

/-- The depth of a verify row below row 0: its place on its path. -/
def rowDepth (paths : List Nat) (r : Nat) : Nat := ((List.range 16).filter fun i => bitsOf (paths.getD r 0) i 1 == 1).length - 1

/-- The path of every row of a verify job, as bitmaps. -/
def rowPaths (d : JobDesc) (bitmap : List Byte) : List Nat :=
  if d.op = Op.verifyTree then treeRows bitmap d.nq else (List.range d.nq).map fun r => 2 ^ (r + 1) - 1

/-- A verify job's draft rows, in the form of the page each would join (R64). -/
def draftRows (s : State) (m : Model) (j : Job) (inp : JobIn) (escs : List Escal) : List RowBytes :=
  if !isVerify j.d.op then []
  else
    let paths := rowPaths j.d inp.bitmap
    (List.range (j.d.nq - 1)).map fun x =>
      let i := (j.d.qPos + rowDepth paths (x + 1)) / 2 ^ m.pLog2
      let f := pageForm s m j.d.handle j.d.layer i
      let form := match escs.find? fun e => e.page == i with
        | some e => (if e.wide then 1 else f.kf, if e.wide then 1 else f.vf, true)
        | none => (f.kf, f.vf, f.esc)
      rowOfKv m form.1 form.2.1 form.2.2 (kvRotated m inp.kv (x + 1))

/-- Page i can take its new positions where it lies: an open tail in near state of this chip. -/
def inPlace (s : State) (h l i : Nat) : Bool :=
  match ((s.loc h).bind fun c => (c.layer l).pages[i]?).map (placeOf s) with
  | some (.near k) => match s.frame k with
    | some f => !f.hdr.frozen && !f.hdr.isSealed && !f.staging
    | none => false
  | _ => false

/-- A near frame is taken for a page or the staging of a job; none ends the job with NO_RESOURCE (R39). -/
def takeFor (id i place : Nat) (stage : Bool) : Act := look fun s =>
  match s.job id with
  | none => nop
  | some j =>
    if j.endWith.isSome then nop
    else
      let kind := jobKindOf j.d
      match placeNear s j.d.handle j.d.layer place kind (s.group j.tenant) 4 with
      | some (k, a) =>
        acts [a, takeFrame k { hdr := stagingHdr s j.d.handle j.d.layer j.tenant, kind := kind, staging := true },
              if stage then modLayer j.d.handle j.d.layer fun y => { y with stage := some k }
              else modJob id fun x => { x with fresh := x.fresh ++ [(i, k)] }]
      | none => acts [allocFailed j.d.handle j.d.layer place kind (s.group j.tenant),
                      modJob id fun x => { x with endWith := some St.noResource }]

/-- The page index under which a layer's draft staging frame is placed (DESIGN CHOICE, log entry 5). -/
def stageIndex : Nat := 65534

/-- The intake of a job: its inputs are read, its new positions quantised, and the frames its append needs taken (R30, R58, R64,
R129, R131). -/
def intake (id : Nat) : Act := acts [readInputs id, look fun s =>
  match s.job id with
  | none => nop
  | some j => match jobModel s j.d, j.inp with
    | some m, some inp =>
      if badInputs s j then endNonFinite id
      else if !appending j.d.op then modJob id fun x => { x with begun := true }
      else
        let touched := pagesTouched m j.d.qPos (appendRows j.d)
        let parts := touched.map (pageIntake s m j inp.kv)
        let escs := parts.filterMap (·.2)
        let rows := parts.flatMap (·.1) ++ draftRows s m j inp escs
        let needs := touched.filter fun i => !inPlace s j.d.handle j.d.layer i || escs.any fun e => e.page == i && e.wide
        let noStage := isVerify j.d.op && (((s.loc j.d.handle).map fun c => (c.layer j.d.layer).stage.isNone).getD false)
        acts [modJob id (fun x => { x with begun := true, rows := rows, escs := escs }),
              each needs (fun i => takeFor id i i false), when noStage (takeFor id 0 stageIndex true), nameFrames id]
    | _, _ => modJob id fun x => { x with endWith := some St.invalid }]

/-! ### The engines' result (R59 to R68) -/

/-- The stored positions of a row. -/
def rowPos (m : Model) (r : RowBytes) : PosKV := posAt m r.kf r.vf m.headDim r.bytes r.scales 0

/-- A page's positions re-encoded in E5M2 by the no-clip rule (R131). -/
def wideForm (s : State) (m : Model) (k : Nat) (f : Frame) : Stored := convert m 1 0 (pagePos s m k f)

/-- Page i of a job as the engine reads it: its stored positions, in escalated form where the job escalates it, and the job's
own new positions. -/
def jobPage (s : State) (m : Model) (j : Job) (i : Nat) : PageView :=
  let p := 2 ^ m.pLog2
  let key := ((jobList s j.d)[i]?).bind (residentKey s)
  let wide := j.escs.any fun e => e.page == i && e.wide
  let old : List PosKV := match key with
    | some k => match s.frame k with
      | some f => if wide then
          let st := wideForm s m k f
          (List.range f.hdr.posCount).map fun x => posAt m 1 1 m.headDim st.bytes st.scales x
        else pagePos s m k f
      | none => []
    | none => []
  let basis := key.bind fun k => (s.frame k).bind fun f => if f.hdr.lowRank then (s.resolve f.hdr.lrBasisRef).map (readBasis s m) else none
  let new := (j.rows.take (appendRows j.d)).zipIdx.filterMap fun e =>
    if (j.d.qPos + e.2) / p = i then some (j.d.qPos + e.2, rowPos m e.1) else none
  { pos := (old.zipIdx.map fun e => (i * p + e.2, e.1)) ++ new, basis := basis }

/-- The draft staging of a verify job as the engine reads it: row i at position Q_POS + i. -/
def stagePage (m : Model) (j : Job) : PageView :=
  { pos := ((j.rows.drop 1).zipIdx.map fun e => (j.d.qPos + 1 + e.2, rowPos m e.1)) }

/-- Whether row r of a job sees a position. -/
def jobSees (j : Job) (inp : JobIn) (r pos : Nat) : Bool :=
  sees j.d.mask j.d.qPos j.d.nq inp.bitmap r pos && (j.d.op != Op.prefixPartial || pos < j.d.qPos)

/-- The pages of a job's sub-jobs, the staging with the last. -/
def jobViews (s : State) (m : Model) (j : Job) : List (List PageView) :=
  let ranges := (if onPae j.d.op then [j.emit] else subRanges j).map fun l => l.map (jobPage s m j)
  if isVerify j.d.op then match ranges.reverse with
    | [] => [[stagePage m j]]
    | a :: l => ((a ++ [stagePage m j]) :: l).reverse
  else ranges

/-- The triples of a job by row and head, before its partials are merged, in the model's domain. -/
def ownTriples (s : State) (m : Model) (j : Job) (inp : JobIn) : List Triple :=
  let views := jobViews s m j
  (List.range j.d.nq).flatMap fun r => (List.range m.queryHeads).map fun h =>
    let q := jobQuery m j.d inp r h
    let g := h / (m.queryHeads / m.heads)
    let parts := views.map (attendRange m.headDim j.d.smScale q g (jobSees j inp r))
    let t := parts.foldl mergeTriple (emptyTriple m.headDim)
    { t with o := unrotate m t.o }

/-- Partial set x of a job's inputs. -/
def partSet (m : Model) (j : Job) (inp : JobIn) (x : Nat) : List Triple :=
  let n := j.d.nq * m.queryHeads
  (List.range n).map fun i => partAt m.headDim (inp.parts.drop (x * n * partSize m.headDim)) i

/-- The triples of a job: its own, then its partials in order (R68, R76). -/
def jobTriples (s : State) (m : Model) (j : Job) (inp : JobIn) : List Triple :=
  let n := j.d.nq * m.queryHeads
  let own := if j.d.op = Op.merge then List.replicate n (emptyTriple m.headDim) else ownTriples s m j inp
  (List.range (partSets j.d)).foldl (fun ts x => (ts.zip (partSet m j inp x)).map fun p => mergeTriple p.1 p.2) own

/-- The bytes a job writes (R67, R77). -/
def jobOutput (s : State) (m : Model) (j : Job) (inp : JobIn) : List Byte :=
  let ts := jobTriples s m j inp
  if j.d.op = Op.partial_ ∨ j.d.op = Op.prefixPartial then partBytes ts else outBytes j.d.outFmt ts

/-- The bin of a missed mass (R104): b where it lies in [2^−(b+1), 2^−b), 15 for everything below 2^−15. -/
def massBin (x : Nat) : Nat := ((List.range 15).find? fun (b : Nat) => Dy.le ⟨1, -((b : Int) + 1)⟩ (f32Val x)).getD 15

/-- The largest missed mass of an audit job: the share of the softmax denominator on the pages its selection left out. -/
def missedMass (s : State) (m : Model) (j : Job) (inp : JobIn) (kept : List Nat) : Nat :=
  let out := j.range.filter fun i => !kept.contains i
  let all := j.range.map (jobPage s m j)
  let left := out.map (jobPage s m j)
  ((List.range j.d.nq).flatMap fun r => (List.range m.queryHeads).map fun h =>
    let q := jobQuery m j.d inp r h
    let g := h / (m.queryHeads / m.heads)
    let a := attendRange m.headDim j.d.smScale q g (jobSees j inp r) (all ++ if isVerify j.d.op then [stagePage m j] else [])
    let b := attendRange m.headDim j.d.smScale q g (jobSees j inp r) left
    if f32IsZero a.l || f32IsZero b.l then 0 else f32Div (f32Mul b.l (expE (f32Sub b.m a.m))) a.l).foldl f32Max 0

/-! ### Commits (R29, R30, R64, R77, R130, R131) -/

/-- What an append writes: the request and layer, the first position, the rows, the escalations and the frames taken. -/
structure Append where
  h : Nat
  l : Nat
  tenant : Nat
  pos : Nat
  rows : List RowBytes
  escs : List Escal := []
  fresh : List (Nat × Nat) := []
deriving DecidableEq, Repr

/-- The header a page gets when its first position is written. -/
def newHdr (s : State) (m : Model) (a : Append) (i kf vf : Nat) : PageHeader :=
  { stagingHdr s a.h a.l a.tenant with
    firstPos := i * 2 ^ m.pLog2, pLog2 := m.pLog2, rotSeedId := m.seedSlot, kFmt := kf, vFmt := vf, srcKFmt := kf, srcVFmt := vf }

/-- A page's content moves into the frame taken for it: a copy, a WIDE re-encoding, or a new page (R30, R131). -/
def settleFrame (m : Model) (a : Append) (i k : Nat) (first : RowBytes) : Act := look fun s =>
  let old := nearPage s a.h a.l i
  let wide := a.escs.any fun e => e.page == i && e.wide
  let open_ (g : PageHeader) (hdr : PageHeader) : PageHeader :=
    { hdr with pageRef := g.pageRef, allocTick := g.allocTick, frozen := false, backingRef := 0, refCount := 0, payloadCrc := 0, shared := false }
  match old.bind fun o => (s.frame o).map fun f => (o, f) with
  | none => modFrame k fun x => { x with staging := false, hdr := open_ x.hdr (newHdr s m a i first.kf first.vf) }
  | some (o, f) =>
    if wide then
      let st := wideForm s m o f
      acts [clearMem (payloadAt k) 32768, clearMem (scaleAt k) 1024, store (payloadAt k) st.bytes, store (scaleAt k) st.scales,
            modFrame k fun x => { x with staging := false, hdr := open_ x.hdr { f.hdr with kFmt := 1, vFmt := 1 } }]
    else acts [copyMem (payloadAt o) (payloadAt k) 32768, copyMem (scaleAt o) (scaleAt k) 1024,
               modFrame k fun x => { x with staging := false, hdr := open_ x.hdr f.hdr }]

/-- The page list names a page's new frame, and the old frame is freed under the Leash rules (R30). -/
def nameFrame (a : Append) (i k : Nat) : Act := look fun s =>
  match s.loc a.h with
  | none => nop
  | some c =>
    match (c.layer a.l).pages[i]? with
    | none => modLayer a.h a.l fun y => { y with pages := y.pages ++ [s.refOf k] }
    | some r => acts [setEntry a.h a.l i (s.refOf k),
        match placeOf s r with
        | .near o | .far o => when (!c.held.contains r) (freePage o)
        | .remote _ => dropHeld a.h r
        | _ => nop]

/-- One page of an append: its frame, its new positions, its header; a full page is sealed, and copied to the state mirror. -/
def appendPage (m : Model) (a : Append) (i : Nat) : Act := look fun s =>
  let p := 2 ^ m.pLog2
  let b := m.bytesPerPos
  let mine := a.rows.zipIdx.filter fun e => (a.pos + e.2) / p == i
  let n := mine.length
  let clips := (mine.map (·.1.clips)).foldl (· + ·) 0
  let esc := a.escs.find? fun e => e.page == i
  let fresh := (a.fresh.find? fun e => e.1 == i).map (·.2)
  match mine, (match fresh with | some k => some k | none => nearPage s a.h a.l i) with
  | (first, _) :: _, some k =>
    acts [when fresh.isSome (settleFrame m a i k first),
          each mine (fun e =>
            let at_ := (a.pos + e.2) % p * b
            acts [store (payloadAt k + at_) e.1.bytes, store (scaleAt k + at_ / 32) e.1.scales]),
          modHdr k (fun h => { h with
            posCount := h.posCount + n, storedLen := (h.posCount + n) * b, clipCount := min 65535 (h.clipCount + clips)
            escalated := h.escalated || esc.isSome
            escKind := match esc with | some e => if e.wide then 2 else 1 | none => h.escKind
            escPos := match esc with | some e => e.pos | none => h.escPos }),
          when fresh.isSome (nameFrame a i k),
          when esc.isSome (acts [count Reg.TRC_ESCALATIONS 1, tcount a.tenant TReg.TRC_TESC 1]),
          count Reg.TRC_CLIP_ELEMS clips, count (Reg.TRC_LCLIP a.l) clips, tcount a.tenant TReg.TRC_TCLIP clips,
          when fresh.isNone (acts [update k (.append n) nop, dirEvent k false]),
          look fun s' => match s'.frame k with
            | some f => when (f.hdr.posCount == p) (acts [sealPage k, mirrorPage a.h a.l i])
            | none => nop]
  | _, _ => nop

/-- An append in one atomic update at the owner: pages, position count; the rows of groups that close are loaded (R77, R115). -/
def commitRows (m : Model) (a : Append) : Act := look fun s =>
  let before := ((s.loc a.h).map fun c => closedGroups s m (c.layer a.l)).getD 0
  acts [each (pagesTouched m a.pos a.rows.length) (appendPage m a),
        modLayer a.h a.l (fun y => { y with count := y.count + a.rows.length }),
        look fun s =>
          let after := ((s.loc a.h).map fun c => closedGroups s m (c.layer a.l)).getD 0
          each ((List.range (after - before)).map (before + ·)) (addGroup a.h a.l)]

/-- Pages of a layer that are sealed. -/
def sealedCount (s : State) (h l : Nat) : Nat :=
  ((s.loc h).map fun c => ((List.range (c.layer l).pages.length).filter fun i => pageSealed s (c.layer l) i).length).getD 0

/-- What a verify job leaves for its acceptance. -/
def draftOf (j : Job) (inp : JobIn) : Draft :=
  { step := j.d.step, first := j.d.qPos, rows := j.d.nq, tree := j.d.op == Op.verifyTree, bitmap := rowPaths j.d inp.bitmap,
    clips := (j.rows.drop 1).map (·.clips) }

/-- The draft rows of a verify job are written into the layer's staging frame (R64). -/
def stageRows (m : Model) (j : Job) (inp : JobIn) : Act := look fun s =>
  match (s.loc j.d.handle).bind fun c => (c.layer j.d.layer).stage with
  | none => nop
  | some k =>
    let b := m.bytesPerPos
    let rows := j.rows.drop 1
    acts [each rows.zipIdx (fun e => acts [store (payloadAt k + e.2 * b) e.1.bytes, store (scaleAt k + e.2 * b / 32) e.1.scales]),
          modLayer j.d.handle j.d.layer (fun y => { y with draft := some (draftOf j inp) }),
          when (j.d.layer == 0) (modLoc j.d.handle fun c => { c with tree := rowPaths j.d inp.bitmap })]

/-- A replay makes progress; when every layer has reached REPLAY_TO the owner reports to the home (R191). -/
def replayProgress (h n tenant : Nat) : Act := acts [count Reg.RQT_REPLAY_POS n, tcount tenant TReg.RQT_TREPLAY_POS n, look fun s =>
  match s.loc h with
  | none => nop
  | some c => match c.replay, s.locModel c with
    | some (_, tgt), some m =>
      when ((List.range m.layers).all fun l => tgt ≤ (c.layer l).count)
        (acts [emit (.replayReport c.home h (locEpoch c) (locPositions c)), modLoc h fun x => { x with replay := none }])
    | _, _ => nop]

/-- The job that reserved positions spends them at its commit; layer 0 of a prompt chunk is metered, a replay chunk is not
(R280, R288). -/
def spendPositions (d : JobDesc) (tenant : Nat) (replay : Bool) : Act :=
  when (d.op == Op.promptChunk && d.layer == 0 && !replay)
    (acts [spend tenant 1 d.handle d.step d.nq, meterMod tenant fun x => { x with positions := x.positions + d.nq }])

/-- The commit of a job that ends with OK, and its end (R74, R77). -/
def commitJob (id : Nat) : Act := look fun s =>
  match s.job id with
  | none => nop
  | some j => match jobModel s j.d, j.inp with
    | some m, some inp =>
      let d := j.d
      let replay := replayChunk s d
      let n := appendRows d
      let rows := j.rows.take n
      let sealedBefore := sealedCount s d.handle d.layer
      let a : Append := { h := d.handle, l := d.layer, tenant := j.tenant, pos := d.qPos, rows := rows, escs := j.escs, fresh := j.fresh }
      acts [when (appending d.op) (acts [commitRows m a, when (isVerify d.op) (stageRows m j inp)]),
            when (ofRequest d.op) (modLayer d.handle d.layer fun y => { y with lastStep := d.step }),
            when (onPae d.op) (acts [count Reg.PAE_POS_APPENDED n,
              look fun s' => count Reg.PAE_PAGES_SEALED (sealedCount s' d.handle d.layer - sealedBefore)]),
            when (onPae d.op && replay) (replayProgress d.handle n j.tenant),
            spendPositions d j.tenant replay,
            modJob id (fun x => { x with fresh := [] }), endJob id St.ok]
    | _, _ => endJob id St.invalid

/-! ### Outputs (R72, R77) -/

/-- A job's output cut into stores to another member: 64-byte multiples within 4 KiB blocks, a remainder in stores of 4 bytes. -/
def outPieces : Nat → Nat → List Byte → List (Nat × List Byte)
  | 0, _, _ => []
  | n + 1, at_, bs =>
    if bs.isEmpty then []
    else
      let room := 4096 - at_ % 4096
      let big := min room (bs.length / 64 * 64)
      let k := if big = 0 then 4 else big
      (at_, bs.take k) :: outPieces n (at_ + k) (bs.drop k)

/-- The stores of a job's remote output, by fabric address. -/
def outStores (j : Job) (out : List Byte) : List (Nat × List Byte) :=
  (outPieces out.length (0x10000000 + j.d.outAddr) out).map fun p => (mkFa j.d.outMember 2 p.1, p.2)

/-- A job's outputs are written: here, or on another member, where a refused window ends the job with INVALID (R72). -/
def writeOutput (id : Nat) : Act := look fun s =>
  match s.job id with
  | none => nop
  | some j => match jobModel s j.d, j.inp with
    | some m, some inp =>
      let out := jobOutput s m j inp
      let kept := match j.audit with
        | some p => count (Reg.SCT_AUDIT_HIST (massBin (missedMass s m j inp p))) 1
        | none => nop
      if !j.d.outRemote then acts [store (Mem.jobBuffer + j.d.outAddr) out, kept, commitJob id]
      else
        let stores := outStores j out
        if !stores.all fun p => mayIssue s (.tenant j.tenant) p.1 (.store p.2) false then acts [windowFault, endJob id St.invalid]
        else if stores.all fun p => plainHere s p.1 then acts [each stores (fun p => issueStore (.job id) p.1 p.2), kept, commitJob id]
        else acts [modJob id (fun x => { x with st := .storing, outLeft := stores.length, outFail := false }), kept,
                   each stores fun p => issueStore (.job id) p.1 p.2]
    | _, _ => endJob id St.invalid

/-- A store of a job's output was answered; with the last one the job commits, or ends with BUSY_RETRY where one failed. -/
def outputAnswered (id : Nat) (ok : Bool) : Act := look fun s =>
  match s.job id with
  | none => nop
  | some j =>
    if j.st != .storing then nop
    else
      let left := j.outLeft - 1
      let fail := j.outFail || !ok
      acts [modJob id (fun x => { x with outLeft := left, outFail := fail }),
            when (left == 0) (match j.endWith with
              | some st => endJob id st
              | none => if fail then endJob id St.busyRetry else commitJob id)]

/-- The last page of a layer takes no update now: it waits for its readers (R218), or for its migration, in its old frame or
its new one (R51). -/
def layerBlocked (s : State) (y : Layer) : Bool :=
  match y.pages.getLast?.map (placeOf s) with
  | some (.near k) => ((tget s.body.coh.dir k).map (·.blocked)).getD false || migHolds s k || ((s.frame k).map (·.staging)).getD false
  | _ => false

/-- The tail a job appends to takes no update now. -/
def tailBlocked (s : State) (j : Job) : Bool :=
  appending j.d.op && ((s.loc j.d.handle).map fun c =>
    let y := c.layer j.d.layer
    layerBlocked s y && (inPlace s j.d.handle j.d.layer (y.pages.length - 1) || match y.pages.getLast?.map (placeOf s) with
      | some (.near k) => ((s.frame k).map (·.staging)).getD false
      | _ => false)).getD false

/-- An append held for a full migration log is counted (R51). -/
def countHeld (s : State) (y : Layer) : Act :=
  match y.pages.getLast?.map (placeOf s) with
  | some (.near k) => when (migHolds s k) (count Reg.STM_MIG_HOLD 1)
  | _ => nop

/-- A run that has ended goes on to its outputs and its commit: a receiver's append waits for the compare-and-swap, an append to a
blocked tail for the unblock; a chip that may no longer write ends it (R13, R181, R218). -/
def settleRun (id : Nat) : Act := look fun s =>
  match s.job id with
  | none => nop
  | some j =>
    let hold := modJob id fun x => { x with st := .held }
    match j.endWith with
    | some st => endJob id st
    | none =>
      if !ofRequest j.d.op then writeOutput id
      else match s.loc j.d.handle with
        | none => endJob id St.notOwner
        | some c => match c.st with
          | .owner e | .draining e =>
            if j.d.epoch = e then (if tailBlocked s j then acts [when (j.st != .held) (countHeld s (c.layer j.d.layer)), hold] else writeOutput id)
            else endJob id (if j.d.epoch < e then St.staleEpoch else St.notOwner)
          | .receiving e | .casing e =>
            if j.d.epoch ≠ e + 1 then endJob id St.notOwner
            else if appending j.d.op then acts [hold, casOnce j.d.handle] else writeOutput id
          | _ => endJob id (if j.d.epoch < locEpoch c then St.staleEpoch else St.notOwner)

/-- The held jobs of a request go on, in order of acceptance. -/
def resumeHeld (h : Nat) : Act := look fun s =>
  each ((s.body.jobs.jobs.filter fun e => e.2.st == .held && e.2.d.handle == h).map (·.1)) settleRun

/-! ### Virtual times and dispatch (R284 to R287) -/

/-- E_g of an engine. -/
def vgReg (e g : Nat) : Nat := if e = 0 then Reg.COL_GRP_VDAE g else Reg.COL_GRP_VPAE g

/-- later(a, b) on 64-bit virtual times (R274). -/
def later (a b : Nat) : Nat := if (a + 2 ^ 64 - b % 2 ^ 64) % 2 ^ 64 < 2 ^ 63 then a else b
/-- a is earlier than b. -/
def earlier (a b : Nat) : Bool := later a b == b && a != b

/-- It is a job's turn: no earlier job of its (request, layer) is live (R75). -/
def myTurn (s : State) (id : Nat) (j : Job) : Bool :=
  !ofRequest j.d.op || !s.body.jobs.jobs.any fun e =>
    e.1 != id && e.2.order < j.order && e.2.d.handle == j.d.handle && e.2.d.layer == j.d.layer && ofRequest e.2.d.op

/-- Every earlier job of its queue that is not deferred has started (R75). -/
def queueTurn (s : State) (id : Nat) (j : Job) : Bool :=
  j.begun || !s.body.jobs.jobs.any fun e =>
    e.1 != id && e.2.q == j.q && e.2.order < j.order && !e.2.begun && e.2.st != .deferred

/-- A job is ready: its pages are resident, its turn has come (R284). -/
def ready (s : State) (id : Nat) (j : Job) : Bool :=
  match j.st with
  | .waiting => jobResident s j && myTurn s id j && queueTurn s id j
  | .between => true
  | _ => false

/-- The ready jobs of an engine. -/
def readyJobs (s : State) (e : Nat) : List (Nat × Job) := s.body.jobs.jobs.filter fun x => engineOf x.2.d == e && ready s x.1 x.2

/-- E_g of every tenant group that has gained a ready job is lifted to V_e (R286). -/
def liftGroups (e : Nat) : Act := look fun s =>
  let now := nub ((readyJobs s e).filterMap fun x => if x.2.cls = 0 then none else some x.2.group)
  let v := (tget s.body.jobs.vtime e).getD 0
  acts [each (now.filter fun g => !s.body.jobs.backlog.contains (e * 16 + g)) (fun g => setReg (vgReg e g) (later (s.rd (vgReg e g)) v)),
        onJobs fun x => { x with backlog := x.backlog.filter (fun b => b / 16 != e) ++ now.map fun g => e * 16 + g }]

/-- The place of a job in the queue order of R86: PRIORITY, round-robin among equals, slot order. -/
def queueKey (s : State) (e : Nat) (j : Job) : Nat × Nat × Nat :=
  let p := s.get (Fld.DAE_JQ_CFG_PRIORITY j.q)
  let lastq := (tget s.body.jobs.robin (e * 8 + p)).getD 255
  (p, (j.q + 255 - lastq) % 256, j.order)

/-- One place before another. -/
def keyBefore (a b : Nat × Nat × Nat) : Bool := a.1 < b.1 || (a.1 == b.1 && (a.2.1 < b.2.1 || (a.2.1 == b.2.1 && a.2.2 < b.2.2)))

/-- Jobs in queue order. -/
def inQueueOrder (s : State) (e : Nat) (l : List (Nat × Job)) : List (Nat × Job) :=
  l.foldl (fun acc x =>
    acc.takeWhile (fun y => keyBefore (queueKey s e y.2) (queueKey s e x.2)) ++ [x]
      ++ acc.dropWhile (fun y => keyBefore (queueKey s e y.2) (queueKey s e x.2))) []

/-- The groups a job can take now: its groups, whether reserved, its tile groups, and whether ganging falls back (R56, R66,
R284). -/
def fitJob (s : State) (j : Job) : Option (List Nat × Bool × List Nat × Bool) :=
  let e := engineOf j.d
  let w := widthOf s e j.cls
  let fr := freeOf s e (reserveOf s e)
  let fu := freeOf s e (unreserved s e)
  let same := j.lastGroups.length == w && j.lastGroups.all fu.contains
  let main : Option (List Nat × Bool) :=
    if w = 0 then none
    else if j.cls = 0 ∧ w ≤ fr.length then some (fr.take w, true)
    else if same then some (j.lastGroups, false)
    else if w ≤ fu.length then some (fu.take w, false) else none
  match main with
  | none => none
  | some (gs, res) =>
    if !ganged j then some (gs, res, [], false)
    else if (groupsOf s 1 2).length < w then some (gs, res, [], true)
    else
      let ft := freeOf s 1 (groupsOf s 1 2)
      if w ≤ ft.length then some (gs, res, ft.take w, false) else none

/-- Step 2 of R284: the job chosen already, or the next of the tenant group with the least virtual time; of equal times the lowest
group (DESIGN CHOICE, log entry 17). -/
def chooseJob (s : State) (e : Nat) (l : List (Nat × Job)) : Option (Nat × Job) :=
  let keep := (tget s.body.jobs.chosen e).bind fun id => l.find? fun x => x.1 == id
  match keep with
  | some x => some x
  | none =>
    let gs := (List.range 16).filter fun g => l.any fun x => x.2.group == g
    match gs with
    | [] => none
    | g :: r =>
      let best := r.foldl (fun b x => if earlier (s.rd (vgReg e x)) (s.rd (vgReg e b)) then x else b) g
      (inQueueOrder s e (l.filter fun x => x.2.group == best)).head?

/-- t_switch of a job on groups, in cycles: that of the group whose previous job, of another tenant, wrote most (R287). -/
def switchCycles (s : State) (j : Job) (gs tiles : List Nat) : Nat :=
  let e := engineOf j.d
  (gs.map (e * 16 + ·) ++ tiles.map (16 + ·)).foldl (fun a k => match tget s.body.jobs.last k with
    | some (t, hw) => if t = j.tenant then a else max a (16 + ceilDiv (min hw 524288) 256)
    | none => a) 0

/-- Groups become busy. -/
def holdGroups (e : Nat) (gs : List Nat) : Act := fun s =>
  let f := if e = 0 then Fld.DAE_STATUS_GROUPS_BUSY else Fld.PAE_STATUS_GROUPS_BUSY
  setFld f (gs.foldl (fun a g => withBits a g 1 1) (s.get f)) s

/-- A job takes its groups and starts running, or goes on with its next sub-job. A run carries one credit of the on-chip crossing
(R389). -/
def startJob (id : Nat) (gs : List Nat) (res : Bool) (tiles : List Nat) (fallback : Bool) : Act := look fun s =>
  match s.job id with
  | none => nop
  | some j0 =>
    let e := engineOf j0.d
    let j := { j0 with fGang := j0.fGang || fallback }
    let sw := switchCycles s j gs tiles
    let subs := if j.subDone = 0 then match jobModel s j.d with
      | some m => subCount m j gs.length
      | none => 1
      else j.subs
    acts [when fallback (count Reg.DAE_GANG_FALLBACK 1),
          when (0 < sw) (acts [count Reg.COL_SWITCHES 1, count Reg.COL_SWITCH_CYCLES sw]),
          holdGroups e gs, holdGroups 1 tiles, eff (.credIssue none 1),
          onJobs (fun x => { x with robin := tput x.robin (e * 8 + s.get (Fld.DAE_JQ_CFG_PRIORITY j.q)) j.q,
                                    chosen := x.chosen.filter fun c => c.2 != id,
                                    vtime := if j.cls = 0 then x.vtime else tput x.vtime e (s.rd (vgReg e j.group)) }),
          putJob id { j with st := .running, groups := gs, tiles := tiles, reserved := res, switchCyc := sw, subs := subs,
                             fSplit := j.fSplit || decide (1 < subs), lastGroups := gs, gen := s.rd Reg.STM_TRACKER_GEN }]

/-- A chosen job's turn: it passes the checks again, its intake is done, and it starts. A job that waited for an earlier one of its
(request, layer), or for its pages, may find that it must not run any more (R74, R75; log entry 18). -/
def dispatchJob (id : Nat) (fit : List Nat × Bool × List Nat × Bool) : Act := look fun s =>
  match s.job id with
  | none => nop
  | some j =>
    let start := startJob id fit.1 fit.2.1 fit.2.2.1 fit.2.2.2
    if j.begun then start
    else match checkTurn s j.d with
      | some st => endJob id st
      | none => acts [stallJob 0 id, intake id, look fun s =>
          match s.job id with
          | none => nop
          | some j' => match j'.endWith with
            | some st => endJob id st
            | none => start]

/-- JOB_DISPATCH: an engine dispatches one job (R284): a job of class 0 first, else the job of step 2; one that needs more groups
than are free is waited for, and no other of step 2 starts. -/
def actDispatch (pae : Bool) : Act :=
  let e := if pae then 1 else 0
  acts [liftGroups e, look fun s =>
    let l := readyJobs s e
    let rt := (inQueueOrder s e (l.filter fun x => x.2.cls == 0)).findSome? fun x => (fitJob s x.2).map fun f => (x.1, f)
    match rt with
    | some (id, f) => dispatchJob id f
    | none => match chooseJob s e (l.filter fun x => x.2.cls != 0) with
      | none => nop
      | some (id, j) => match fitJob s j with
        | some f => dispatchJob id f
        | none => onJobs fun x => { x with chosen := tput x.chosen e id },
    liftGroups e]

/-! ### The ends of runs (R76, R77, R286, R288) -/

/-- Cycles are charged to a tenant group on an engine. -/
def chargeGroup (e g n cycles : Nat) : Act := look fun s =>
  let w := if e = 0 then s.get (Fld.COL_GRP_WEIGHT_DAE_W g) else s.get (Fld.COL_GRP_WEIGHT_PAE_W g)
  setReg (vgReg e g) (wrapAdd 64 (s.rd (vgReg e g)) (ceilDiv (n * cycles * 65536) w))

/-- The last tenant and high-water mark of groups. -/
def lastUsers (l : List (Nat × (Nat × Nat))) (gs : List Nat) (v : Nat × Nat) : List (Nat × (Nat × Nat)) := gs.foldl (fun t g => tput t g v) l

/-- A run has ended: its groups are charged and given back, its credit is returned. -/
def endRun (id cycles highWater : Nat) : Act := look fun s =>
  match s.job id with
  | none => nop
  | some j =>
    let e := engineOf j.d
    let cyc := cycles + j.switchCyc
    let n := j.groups.length
    let k := j.tiles.length
    let busy (pae : Bool) (n : Nat) : Act :=
      acts [count (if pae then Reg.PAE_BUSY_CYCLES else Reg.DAE_BUSY_CYCLES) (n * cyc),
            meterMod j.tenant fun m => if pae then { m with paeCyc := m.paeCyc + n * cyc } else { m with daeCyc := m.daeCyc + n * cyc }]
    acts [liftGroups e, busy (e == 1) n, when (0 < k) (busy true k),
          when (!j.reserved) (chargeGroup e j.group n cyc), when (0 < k) (chargeGroup 1 j.group k cyc),
          count (if e = 1 then Reg.PAE_SUBJOBS else Reg.DAE_SUBJOBS) 1,
          freeGroups j, eff (.credReturn none 1),
          onJobs (fun x => { x with last := lastUsers x.last (j.groups.map (e * 16 + ·) ++ j.tiles.map (16 + ·)) (j.tenant, highWater) }),
          modJob id fun x => { x with groups := [], tiles := [], engineNs := cyc / 4 }]


/-- SUBJOB_END: a sub-job that is not the last ends; the next one becomes ready. A request closed meanwhile ends the job here (R14,
R76). The cycles the sub-job ran and its high-water mark are the world's. -/
def actSubjobEnd (id cycles highWater : Nat) : Act := look fun s =>
  match s.job id with
  | none => nop
  | some j =>
    if j.st != .running || j.subs ≤ j.subDone + 1 then nop
    else acts [endRun id cycles highWater, modJob id (fun x => { x with st := .between, subDone := x.subDone + 1 }),
               match j.endWith with
               | some st => endJob id st
               | none => nop]

/-- JOB_END: the last run of a job ends (R77). -/
def actJobEnd (id cycles highWater : Nat) : Act := look fun s =>
  match s.job id with
  | none => nop
  | some j =>
    if j.st != .running || j.subDone + 1 < j.subs then nop
    else
      let merges := if onPae j.d.op then j.d.parts else if j.d.op = Op.merge then j.d.parts else j.subs - 1 + j.d.parts
      acts [endRun id cycles highWater, modJob id (fun x => { x with subDone := x.subDone + 1 }),
            when (!onPae j.d.op) (count Reg.DAE_MERGES merges), settleRun id]

/-- STALL_LIMIT: a waiting job's stall exceeds STM_STALL_LIMIT; its reads go on (R50). -/
def actStallLimit (id : Nat) : Act := look fun s =>
  match s.job id with
  | none => nop
  | some j =>
    if j.st != .waiting || jobResident s j then nop
    else acts [stallJob 0 id, count Reg.STM_STALL_ABORT 1, endJob id St.busyRetry]

/-- INTERNAL_REPLAY: a failed job runs again from the descriptor and the inputs the device retains (R82). -/
def actInternalReplay (id : Nat) : Act := look fun s =>
  match s.job id with
  | none => nop
  | some j =>
    if j.st != .faulted then nop
    else acts [modJob id (fun x => { x with st := .waiting, fReplay := true, replays := x.replays + 1, subDone := 0, subs := 1 }),
               count Reg.DAE_INT_REPLAYS 1, feedJob id, nameFrames id, endFailed id, stallSync 0]

/-! ### Executions -/
def execJobDispatch (pae : Bool) (s : State) := done (actDispatch pae) s
def execSubjobEnd (id cycles highWater : Nat) (s : State) := done (actSubjobEnd id cycles highWater) s
def execJobEnd (id cycles highWater : Nat) (s : State) := done (actJobEnd id cycles highWater) s
def execStallLimit (id : Nat) (s : State) := done (actStallLimit id) s

end Sys2Proof.Machine
end

