-- ==== Sys2Proof/Machine/Sampler.lean ====
section
/-! DEFINITION. The sampler (R148 to R168, 06_sampler.md): sample queues, the checks of a descriptor, the selection of a token,
drafts, the count table, the commit and its failures, embedding slices and gathers. -/

namespace Sys2Proof.Machine

/-- Changes of the sampler's state. -/
def onSmp (f : Sampling → Sampling) : Act := onBody fun b => { b with sampling := f b.sampling }

namespace Op
def sample : Nat := 1
def acceptChain : Nat := 2
def acceptTree : Nat := 3
def gather : Nat := 8
end Op

/-! ### Descriptors (R149) -/

/-- A sample descriptor. -/
structure SmpDesc where
  op : Nat
  clear : Bool
  form : Nat
  rows : Nat
  arrival : Nat
  shards : Nat
  handle : Nat
  step : Nat
  epoch : Nat
  shardAddr : Nat
  draftAddr : Nat
  paramAddr : Nat
  outAddr : Nat
  embAddr : Nat
  indexCount : Nat
  member : Nat
  remote : Bool
  limit : Nat
  nextAddr : Nat
  nextCount : Nat
deriving DecidableEq, Repr

/-- A descriptor from its 64 bytes. -/
def smpDescOf (bs : List Byte) : SmpDesc :=
  let v := leNat bs
  { op := bitsOf v 0 8, clear := bitsOf v 8 1 == 1, form := bitsOf v 9 1, rows := bitsOf v 16 5, arrival := bitsOf v 32 16,
    shards := bitsOf v 48 7, handle := bitsOf v 64 64, step := bitsOf v 128 32, epoch := bitsOf v 160 32,
    shardAddr := bitsOf v 192 32, draftAddr := bitsOf v 224 32, paramAddr := bitsOf v 256 32, outAddr := bitsOf v 288 32,
    embAddr := bitsOf v 320 32, indexCount := bitsOf v 352 21, member := bitsOf v 384 8, remote := bitsOf v 392 1 == 1,
    limit := bitsOf v 416 32, nextAddr := bitsOf v 448 32, nextCount := bitsOf v 480 21 }

/-- A reserved field of a descriptor is not zero (R6, R149). -/
def smpResv (bs : List Byte) : Bool :=
  let v := leNat bs
  let d := smpDescOf bs
  bitsOf v 10 6 != 0 || bitsOf v 21 11 != 0 || bitsOf v 55 9 != 0 || bitsOf v 373 11 != 0 || bitsOf v 393 23 != 0
  || bitsOf v 501 11 != 0
  || (if d.op = Op.gather then d.clear || d.rows != 0 || d.handle != 0 || d.step != 0 || d.epoch != 0 || d.paramAddr != 0 || d.embAddr != 0
      else d.form != 0 || d.indexCount != 0 || d.limit != 0)

/-- W, the columns of the slice (R164), and the bytes of a row's slice, a multiple of 64. -/
def embCols (s : State) : Nat := s.get Fld.SMP_EMB_CFG_EMB_COLS
def sliceSize (s : State) : Nat := 2 * embCols s

/-! ### The sampler frame (R158, R159) -/

/-- The near or far frame of a request's sampler state. -/
def samplerKey (s : State) (h : Nat) : Option Nat := ((s.loc h).bind (·.sampler)).bind s.resolve

/-- The default parameter block: TEMP 0 and SEED 0, penalties disabled (R151). -/
def defaultParams : List Byte :=
  leBytes 4 0 ++ leBytes 4 f32One ++ leBytes 4 0 ++ leBytes 4 f32One ++ List.replicate 48 0

/-- The draw key of a request (R154). -/
def drawKey (params : List Byte) (h : Nat) : List Byte := (sha384 ((params.drop 32).take 16 ++ leBytes 8 h)).take 32

/-- The page index under which a sampler frame is placed (DESIGN CHOICE, log entry 5). -/
def samplerPlace : Nat := samplerIndex

/-- The owner's sampler frame is a near frame it may write: a new one at the first use; a copy where it is frozen or lies in far
state (R30, R159). None where no near frame can be had. -/
def ensureSampler (s : State) (h : Nat) : Option Act :=
  match s.loc h with
  | none => none
  | some c =>
    let hdr : PageHeader := { stagingHdr s h 0 c.tenant with storedLen := 32768 }
    let place (a : Nat → Act) : Option Act := (placeNear s h 0 samplerPlace .generation (s.group c.tenant) 4).map fun p =>
      acts [p.2, takeFrame p.1 { hdr := hdr, kind := .generation }, clearMem (payloadAt p.1) 32768, clearMem (scaleAt p.1) 1024, a p.1,
            look fun s => modLoc h fun c => { c with sampler := some (s.refOf p.1) }]
    match samplerKey s h with
    | none => place fun k => acts [store (scaleAt k) (defaultParams ++ drawKey defaultParams h),
        storeNum (scaleAt k + 0x60) 4 c.stepFloor]
    | some o =>
      if keyTier o = 0 ∧ ((s.frame o).map fun f => !f.hdr.frozen) = some true then some nop
      else (place fun k => acts [copyMem (payloadAt o) (payloadAt k) 32768, copyMem (scaleAt o) (scaleAt k) 1024]).map fun a =>
        acts [a, when (!c.held.contains (s.refOf o)) (freePage o)]

/-- Fields of the sampler record at key k. -/
def recParams (s : State) (k : Nat) : List Byte := s.bytes (scaleAt k) 64
def recKey (s : State) (k : Nat) : List Byte := s.bytes (scaleAt k + 0x40) 32
def recLastStep (s : State) (k : Nat) : Nat := s.num (scaleAt k + 0x60) 4
def recWord (s : State) (k : Nat) : Nat := s.num (scaleAt k + 0x64) 4
def recLastCount (s : State) (k : Nat) : Nat := bitsOf (recWord s k) 0 5
def recOverflow (s : State) (k : Nat) : Nat := bitsOf (recWord s k) 8 1
def recLost (s : State) (k : Nat) : Nat := bitsOf (recWord s k) 9 1
def recLastTokens (s : State) (k : Nat) : List Nat := (List.range (recLastCount s k)).map fun i => s.num (scaleAt k + 0x68 + 4 * i) 4

/-- LAST_STEP of a request here, before it has a sampler frame the STEP_FLOOR of its grant (R191). -/
def lastStepOf (s : State) (h : Nat) : Nat := match samplerKey s h with
  | some k => recLastStep s k
  | none => ((s.loc h).map (·.stepFloor)).getD 0

/-- The home slot of an id in the count table. -/
def countHome (v : Nat) : Nat := v * 0x9E3779B1 % 2 ^ 32 / 2 ^ 20

/-- Entry i of the count table at key k. -/
def countEntry (s : State) (k i : Nat) : Nat := s.num (payloadAt k + 8 * i) 8

/-- The entry a probe finds: of the id (true), or the first empty one before it (false). -/
def probeCount (s : State) (k v : Nat) : Option (Nat × Bool) :=
  ((List.range (s.get Fld.SMP_CTL_PROBE_MAX)).map fun i => (countHome v + i) % 4096).findSome? fun i =>
    let e := countEntry s k i
    if bitsOf e 20 1 = 0 then some (i, false) else if bitsOf e 0 20 = v then some (i, true) else none

/-- The committed count of an id (R155). -/
def committedCount (s : State) (k v : Nat) : Nat := match probeCount s k v with
  | some (i, true) => bitsOf (countEntry s k i) 32 16
  | _ => 0

/-- The ids of the count table with their counts. -/
def countList (s : State) (k : Nat) : List (Nat × Nat) := (List.range 4096).filterMap fun i =>
  let e := countEntry s k i
  if bitsOf e 20 1 = 1 then some (bitsOf e 0 20, bitsOf e 32 16) else none

/-- An increment of m saturates its entry. -/
def countSaturates (s : State) (k v m : Nat) : Bool := decide (65535 < committedCount s k v + m)
  && ((probeCount s k v).map (·.2)) == some true

/-- An increment of m of an id's count (R158). -/
def countUp (k tenant v m : Nat) : Act := look fun s =>
  match probeCount s k v with
  | some (i, true) =>
    let e := countEntry s k i
    let n := bitsOf e 32 16 + m
    acts [storeNum (payloadAt k + 8 * i) 8 (withBits (if 65535 < n then withBits e 21 1 1 else e) 32 16 (min 65535 n)),
          when (65535 < n) (count Reg.SMP_COUNT_SAT 1)]
  | some (i, false) =>
    acts [storeNum (payloadAt k + 8 * i) 8 (v + 2 ^ 20 + 2 ^ 32 * min 65535 m),
          storeNum (scaleAt k + 0xA8) 4 (s.num (scaleAt k + 0xA8) 4 + 1)]
  | none => acts [storeNum (scaleAt k + 0x64) 4 (withBits (recWord s k) 8 1 1), count Reg.SMP_COUNT_OVF 1,
                  tcount tenant TReg.SMP_TCOUNT_OVF 1]

/-! ### Logit shards and parameters (R150, R151) -/

/-- A shard table's entries: data address, first id, count, format. -/
def shardsOf (s : State) (d : SmpDesc) : List (Nat × Nat × Nat × Nat) := (List.range d.shards).map fun i =>
  let v := leNat (jbytes s (d.shardAddr + 16 * i) 16)
  (bitsOf v 0 32, bitsOf v 32 20, bitsOf v 64 21, bitsOf v 85 2)

/-- Bytes of one row of a shard. -/
def shardRow (n fmt : Nat) : Nat := (n * (if fmt = 0 then 2 else 4) + 63) / 64 * 64

/-- A shard table's entries are well-formed: reserved bits zero, counts, formats, ranges. -/
def shardsOk (s : State) (d : SmpDesc) : Bool := (List.range d.shards).all fun i =>
  let v := leNat (jbytes s (d.shardAddr + 16 * i) 16)
  let n := bitsOf v 64 21
  bitsOf v 52 12 == 0 && bitsOf v 87 41 == 0 && bitsOf v 85 2 ≤ 1 && 1 ≤ n && n ≤ 2 ^ 20
  && inJbuf (bitsOf v 0 32) (d.rows * shardRow n (bitsOf v 85 2))

/-- The shards in order of their first ids. -/
def sortShards (l : List (Nat × Nat × Nat × Nat)) : List (Nat × Nat × Nat × Nat) :=
  l.foldl (fun acc x => acc.takeWhile (fun y => y.2.1 < x.2.1) ++ [x] ++ acc.dropWhile (fun y => y.2.1 < x.2.1)) []

/-- The shards cover ids 0 to V − 1 exactly once. -/
def shardsCover (l : List (Nat × Nat × Nat × Nat)) (vocab : Nat) : Bool :=
  (sortShards l).foldl (fun (n : Option Nat) x => n.bind fun n => if x.2.1 = n then some (n + x.2.2.1) else none) (some 0) == some vocab

/-- Logit row j, widened to binary32, in id order. -/
def logitRow (s : State) (l : List (Nat × Nat × Nat × Nat)) (j : Nat) : List Nat := (sortShards l).flatMap fun x =>
  let at_ := x.1 + j * shardRow x.2.2.1 x.2.2.2
  if x.2.2.2 = 0 then (bf16s (jbytes s at_ (2 * x.2.2.1))).map bf16Up else f32s (jbytes s at_ (4 * x.2.2.1))

/-- A row without NaN and +∞, not all −∞. -/
def rowOk (z : List Nat) : Bool := z.all (fun x => !f32IsNan x && x != 0x7F800000) && z.any fun x => x != f32NegInf

/-- The parameters of a block. -/
structure Params where
  temp : Nat
  topP : Nat
  minP : Nat
  rep : Nat
  pres : Nat
  freq : Nat
  topK : Nat
deriving DecidableEq, Repr

def paramsOf (bs : List Byte) : Params :=
  let v := leNat bs
  { temp := bitsOf v 0 32, topP := bitsOf v 32 32, minP := bitsOf v 64 32, rep := bitsOf v 96 32, pres := bitsOf v 128 32,
    freq := bitsOf v 160 32, topK := bitsOf v 192 11 }

/-- A parameter block is valid (R151). -/
def paramsOk (bs : List Byte) : Bool :=
  let p := paramsOf bs
  let v := leNat bs
  let nonneg (x : Nat) : Bool := f32Finite x && (!f32Neg x || f32IsZero x)
  bitsOf v 203 53 == 0 && bitsOf v 384 128 == 0
  && nonneg p.temp && f32PosFinite p.topP && !f32Lt f32One p.topP && nonneg p.minP && f32Lt p.minP f32One && f32PosFinite p.rep
  && f32Finite p.pres && f32Finite p.freq && p.topK ≤ 1024

/-! ### From logits to a token (R152, R154) -/

/-- A row with the penalties of a count function. -/
def penalised (p : Params) (c : List (Nat × Nat)) (z : List Nat) : List Nat :=
  z.zipIdx.map fun e => match c.find? fun x => x.1 == e.2 && 0 < x.2 with
    | none => e.1
    | some (_, n) =>
      let y := if !f32Neg e.1 && !f32IsZero e.1 then f32Div e.1 p.rep else f32Mul e.1 p.rep
      f32Sub (f32Sub y p.pres) (f32Mul p.freq (f32OfNat n))

/-- The lowest index of the largest element. -/
def argmax (z : List Nat) : Nat :=
  (z.zipIdx.foldl (fun (b : Option (Nat × Nat)) e => match b with
    | none => some e
    | some m => if f32Lt m.1 e.1 then some e else b) none).elim 0 (·.2)

/-- (id, e) pairs with an element put in its place: e falling, then ids rising. -/
def putDesc (l : List (Nat × Nat)) (x : Nat × Nat) : List (Nat × Nat) :=
  let before (a : Nat × Nat) : Bool := f32Lt x.2 a.2 || (!f32Lt a.2 x.2 && a.1 < x.1)
  l.takeWhile before ++ [x] ++ l.dropWhile before

/-- A sum in ascending id order. -/
def sumAsc (l : List (Nat × Nat)) : Nat :=
  f32Sum ((l.foldl (fun acc x => acc.takeWhile (fun y => y.1 < x.1) ++ [x] ++ acc.dropWhile (fun y => y.1 < x.1)) []).map (·.2))

/-- The draw of row j of a STEP (R154), as binary32. -/
def drawOf (key : List Byte) (step j : Nat) : Nat :=
  let out := aes256 key (leBytes 4 step ++ leBytes 2 j ++ List.replicate 10 0)
  f32Of ⟨2 * (leNat (out.take 3) : Nat) + 1, -25⟩ false false

/-- The token of a row (R152). Every sum, a cumulative one too, runs in ascending id order. -/
def select (p : Params) (c : List (Nat × Nat)) (z0 : List Nat) (u : Nat) : Nat :=
  let z := penalised p c z0
  if f32IsZero p.temp then argmax z
  else
    let zt := z.map fun x => f32Div x p.temp
    let top := zt.foldl f32Max f32NegInf
    let e := (zt.zipIdx.map fun x => (x.2, expE (f32Sub x.1 top)))
    let sum := f32Sum (e.map (·.2))
    let k := if p.topK = 0 then 1024 else p.topK
    let best := (e.foldl putDesc []).take k
    let emax := (e.map (·.2)).foldl f32Max 0
    let cand := best.filter fun x => !f32Lt x.2 (f32Mul p.minP emax)
    let goal := f32Mul p.topP sum
    let n := ((List.range cand.length).find? fun i => !f32Lt (sumAsc (cand.take (i + 1))) goal).elim cand.length (· + 1)
    let pre := cand.take n
    let bar := f32Mul u (sumAsc pre)
    match (List.range n).find? fun i => f32Lt bar (sumAsc (pre.take (i + 1))) with
    | some i => (pre.getD i (0, 0)).1
    | none => (pre.getD (Config.lateDraw pre u % max 1 n) (0, 0)).1

/-- A count function with one more occurrence of an id. -/
def countPlus (c : List (Nat × Nat)) (v : Nat) : List (Nat × Nat) :=
  if c.any fun x => x.1 == v then c.map fun x => if x.1 = v then (v, x.2 + 1) else x else c ++ [(v, 1)]

/-- Acceptance (R157): from row x on, the path and the bonus token. `pick` gives the token of a row under a count function. -/
def acceptFrom (pick : Nat → List (Nat × Nat) → Nat) (drafts : List (Nat × Nat)) :
    Nat → Nat → List (Nat × Nat) → List Nat × Nat
  | 0, x, c => ([], pick x c)
  | n + 1, x, c =>
    let t := pick x c
    match (List.range drafts.length).find? fun i => drafts.getD i (0, 0) == (t, x) with
    | none => ([], t)
    | some i =>
      let r := acceptFrom pick drafts n (i + 1) (countPlus c t)
      ((i + 1) :: r.1, r.2)

/-- The drafts of a descriptor with their parents, rows 1 on (R156); none where a reserved bit is set or a parent is not below its
row. -/
def draftsOf (s : State) (d : SmpDesc) : Option (List (Nat × Nat)) :=
  (List.range (d.rows - 1)).mapM fun i =>
    let w := leNat (jbytes s (d.draftAddr + 4 * i) 4)
    if d.op = Op.acceptTree then
      if bitsOf w 20 4 = 0 ∧ bitsOf w 28 4 = 0 ∧ bitsOf w 24 4 < i + 1 then some (bitsOf w 0 20, bitsOf w 24 4) else none
    else if w < 2 ^ 20 then some (w, i) else none

/-- The paths of rows as bitmaps, from their parents. -/
def pathsOf (drafts : List (Nat × Nat)) : List Nat :=
  drafts.zipIdx.foldl (fun acc e => acc ++ [acc.getD e.1.2 0 + 2 ^ (e.2 + 1)]) [1]

/-- Tokens as a path of drafts and one token more (R162). -/
def adoptPath (drafts : List (Nat × Nat)) : Nat → List Nat → Option (List Nat)
  | _, [] => none
  | _, [_] => some []
  | x, t :: l => match (List.range drafts.length).find? fun i => drafts.getD i (0, 0) == (t, x) with
    | none => none
    | some i => (adoptPath drafts (i + 1) l).map ((i + 1) :: ·)

/-! ### Checks of a descriptor (R161) -/

/-- The model of a request's tenant on this chip. -/
def smpModel (s : State) (h : Nat) : Option Model := (s.loc h).bind s.locModel

/-- Check 1 of a SAMPLE or ACCEPT. Without Leash state here the vocabulary is not known, and check 2 or 3 fails. -/
def sampleForm (s : State) (bs : List Byte) : Bool :=
  let d := smpDescOf bs
  let slices := d.rows * sliceSize s
  !smpResv bs && 1 ≤ d.shards && d.shards ≤ 64
  && (if d.op = Op.sample then d.rows == 1 && d.draftAddr == 0 else 2 ≤ d.rows && d.rows ≤ 16)
  && inJbuf d.shardAddr (16 * d.shards) && inJbuf d.draftAddr (4 * (d.rows - 1)) && inJbuf d.paramAddr 64 && inJbuf d.outAddr 128
  && inJbuf d.embAddr slices && inJbuf d.nextAddr (4 * d.nextCount)
  && (d.paramAddr == 0 || paramsOk (jbytes s d.paramAddr 64))
  && shardsOk s d && (draftsOf s d).isSome
  && (match smpModel s d.handle with
      | none => true
      | some m =>
        let l := shardsOf s d
        shardsCover l m.vocab && (List.range d.rows).all (fun j => rowOk (logitRow s l j))
        && (d.op != Op.acceptTree || ((s.loc d.handle).map (·.tree)) == some (pathsOf ((draftsOf s d).getD []))))

/-- Checks 2 and 3 of R161 and the phase rule of a decode-kind job (R13), for a sample or a segment that counts. -/
def smpLive (s : State) (h epoch : Nat) : Option Nat :=
  match knownCheck s h false with
  | some st => some st
  | none => match epochCheck s h epoch with
    | some st => some st
    | none => match s.loc h with
      | none => some St.notOwner
      | some c => phaseCheck c.phase Op.decode

/-- The rows a path names are staged in every layer (R64, R157). -/
def pathStaged (c : Loc) (m : Model) (step : Nat) (path : List Nat) : Bool :=
  path.isEmpty || (List.range m.layers).all fun l => match (c.layer l).draft with
    | some r => r.step == step && path.all (· < r.rows)
    | none => false

/-! ### Embedding slices (R164) -/

/-- The slice of row v. -/
def sliceOf (s : State) (v : Nat) : List Byte :=
  let w := sliceSize s
  let r := if w = 0 then 1 else 32768 / w
  match tget s.body.sampling.emb (v / r) with
  | some k => s.bytes (payloadAt k + v % r * w) w
  | none => (List.range w).map fun i => BitVec.ofNat 8 (Config.embByte v i)

/-- Row v is read: from the row cache where it is there; it is its most recently used row (R164). -/
def readRow (v : Nat) : Act := look fun s =>
  let w := sliceSize s
  if w = 0 then nop
  else
    let c := s.body.sampling.rowCache
    let cap := 0x400000 / w
    let l := c.filter (· != v) ++ [v]
    let l := l.drop (l.length - cap)
    acts [when (c.contains v) (count Reg.SMP_ROW_HITS 1), onSmp (fun x => { x with rowCache := l }),
          setFld Fld.SMP_STATUS_ROWS_CACHED l.length]

/-- A row is loaded into the row cache by prefetch (R167): no hit is counted. -/
def warmRow (v : Nat) : Act := look fun s =>
  if s.body.sampling.rowCache.contains v then nop else readRow v

/-! ### Queues (R148) -/

/-- The depth of a sample queue. -/
def State.sqDepth (s : State) (q : Nat) : Nat := 2 ^ s.get (Fld.SMP_SQ_CFG_DEPTH_LOG2 q)

/-- Access to a disabled queue or beyond its depth. -/
def smpRange : Act := raise Blk.smp 4

/-- A sample queue takes descriptors, as a job queue does (R86, R148). -/
def sqOpen (s : State) (q : Nat) : Bool := s.is (Fld.SMP_SQ_CFG_ENABLE q) || s.body.sampling.live.any fun e => e.2.q == q

/-- SAMPLE_QUEUE_DOORBELL. -/
def actSmpDoorbell (q tail : Nat) : Act := look fun s =>
  if q < 16 && sqOpen s q && !s.body.sampling.reenable.contains q && tail < s.sqDepth q then
    setFld (Fld.SMP_SQ_PTR_TAIL q) tail
  else smpRange

/-- A sample queue starts: head, tail and QSEQ at zero, fresh records (R79). -/
def startSmpQueue (q : Nat) : Act := look fun s =>
  acts [setReg (Reg.SMP_SQ_PTR q) 0, freshRecords (Mem.smpRecord q 0) (s.sqDepth q),
        onSmp fun x => { x with accept := tput x.accept q 0, ended := x.ended.filter fun e => e / 65536 != q,
                                reenable := x.reenable.filter (· != q) }]

/-- The head of sample queue q passes the slots whose descriptors have ended. -/
def advanceSmp (q : Nat) : Act := look fun s =>
  let depth := s.sqDepth q
  let r := headAfter (fun i => s.body.sampling.ended.contains (q * 65536 + i)) depth depth (s.get (Fld.SMP_SQ_PTR_HEAD q))
  acts [setFld (Fld.SMP_SQ_PTR_HEAD q) r.1,
        onSmp fun x => { x with ended := x.ended.filter fun e => !(e / 65536 == q && r.2.contains (e % 65536)) }]

/-- A live descriptor. -/
def State.smp (s : State) (id : Nat) : Option Smp := tget s.body.sampling.live id
def modSmp (id : Nat) (f : Smp → Smp) : Act := onSmp fun x => { x with live := tmod x.live id f }

/-- The end of a descriptor: its completion record, then its arrival counter (R160 step 4, R148). Frames taken for its path go
back; a queue whose geometry changed starts again with its last descriptor (R79, R86). -/
def endSmp (id status : Nat) : Act := look fun s =>
  match s.smp id with
  | none => nop
  | some x =>
    let d := smpDescOf x.desc
    let flags := (if x.adopted then 2 ^ 9 else 0) + (if x.fReplay then 2 ^ 10 else 0)
    acts [each x.fresh (fun e => freeFrame e.2.2),
          store (Mem.smpRecord x.q x.slot)
            (completionRecord status flags (x.qseq / s.sqDepth x.q) d.step x.qseq x.ns (x.stalled / 1000)),
          onSmp (fun y => { y with live := tdel y.live id, ended := y.ended ++ [x.q * 65536 + x.slot] }),
          dropFld Fld.SMP_STATUS_LIVE 1, advanceSmp x.q, arrive d.arrival (.smp status),
          look fun s => when (s.body.sampling.reenable.contains x.q && !s.body.sampling.live.any fun e => e.2.q == x.q) (startSmpQueue x.q),
          each x.handles unitEnded]

/-! ### Outputs (R160 step 3, R166) -/

/-- The output record of a SAMPLE or ACCEPT. -/
def smpRecordBytes (d : SmpDesc) (tokens path : List Nat) (sat ovf adopted lost : Nat) : List Byte :=
  leBytes 4 (tokens.length + 256 * sat + 512 * ovf + 1024 * adopted + 2048 * lost) ++ leBytes 4 d.step
  ++ ((List.range 16).flatMap fun i => leBytes 4 (tokens.getD i 0 % 2 ^ 20))
  ++ leBytes 4 (if d.op = Op.acceptTree then (path.map fun j => 2 ^ j).foldl (· + ·) 0 else 0) ++ List.replicate 52 0

/-- The stores of bytes into a member's job buffer, by fabric address. -/
def jbufStores (member at_ : Nat) (bs : List Byte) : List (Nat × List Byte) :=
  (outPieces bs.length (0x10000000 + at_) bs).map fun p => (mkFa member 2 p.1, p.2)

/-- Whether bytes may be sent to where a descriptor's slices go (R205). -/
def slicesPass (s : State) (tenant : Nat) (d : SmpDesc) (at_ n : Nat) : Bool :=
  !d.remote || (jbufStores d.member at_ (List.replicate n 0)).all fun p => mayIssue s (.tenant tenant) p.1 (.store p.2) false

/-- The outputs of a descriptor go out; on their arrival it ends with a status. -/
def putOutputs (id status at_ : Nat) (bs : List Byte) : Act := look fun s =>
  match s.smp id with
  | none => nop
  | some x =>
    let d := smpDescOf x.desc
    if !d.remote then acts [store (Mem.jobBuffer + at_) bs, endSmp id status]
    else
      let l := jbufStores d.member at_ bs
      if d.member = s.member ∨ l.isEmpty = true then acts [each l (fun p => issueStore (.smp id) p.1 p.2), endSmp id status]
      else acts [modSmp id (fun x => { x with st := .storing, outLeft := l.length, outFail := false, endWith := some status }),
                 each l fun p => issueStore (.smp id) p.1 p.2]

/-- A store of a descriptor's slices was answered; with the last one it ends, with BUSY_RETRY where one failed (its resubmission
writes the outputs again, R161). -/
def smpAnswered (id : Nat) (ok : Bool) : Act := look fun s =>
  match s.smp id with
  | none => nop
  | some x =>
    if x.st != .storing then nop
    else
      let left := x.outLeft - 1
      let fail := x.outFail || !ok
      acts [modSmp id (fun x => { x with outLeft := left, outFail := fail }),
            when (left == 0) (endSmp id (if fail then St.busyRetry else x.endWith.getD St.ok))]

/-- The output record and the slices of a SAMPLE or ACCEPT, and its end. -/
def sampleOut (id status : Nat) (tokens path : List Nat) (sat : Bool) : Act := look fun s =>
  match s.smp id with
  | none => nop
  | some x =>
    let d := smpDescOf x.desc
    let k := samplerKey s x.handle
    let ovf := (k.map (recOverflow s)).getD 0
    let lost := (k.map (recLost s)).getD 0
    let bit (b : Bool) : Nat := if b then 1 else 0
    acts [each tokens readRow, store (Mem.jobBuffer + d.outAddr) (smpRecordBytes d tokens path (bit sat) ovf (bit x.adopted) lost),
          putOutputs id status d.embAddr (tokens.flatMap (sliceOf s))]

/-! ### Commits (R155 to R160) -/

/-- The rows of a path, from a layer's staging frame. -/
def stagedRows (s : State) (m : Model) (h l : Nat) (path : List Nat) : List RowBytes :=
  match (s.loc h).map (·.layer l) with
  | none => []
  | some y => match y.stage, y.draft with
    | some k, some d =>
      let b := m.bytesPerPos
      path.zipIdx.map fun e =>
        let f := pageForm s m h l ((d.first + 1 + e.2) / 2 ^ m.pLog2)
        { kf := f.kf, vf := f.vf, bytes := s.bytes (payloadAt k + (e.1 - 1) * b) b,
          scales := s.bytes (scaleAt k + (e.1 - 1) * b / 32) (b / 32), clips := d.clips.getD (e.1 - 1) 0 }
    | _, _ => []

/-- The acceptance commit of one layer: the staged rows of the path join the tail, the others are discarded (R64, R157). -/
def acceptLayer (m : Model) (x : Smp) (tenant l : Nat) : Act := look fun s =>
  match (s.loc x.handle).bind fun c => (c.layer l).draft with
  | none => nop
  | some d =>
    let fresh := (x.fresh.filter fun e => e.1 == l).map (·.2)
    let a : Append := { h := x.handle, l := l, tenant := tenant, pos := d.first + 1, rows := stagedRows s m x.handle l x.path, fresh := fresh }
    let used := fresh.filter fun e => (pagesTouched m a.pos a.rows.length).contains e.1
    acts [when (!x.path.isEmpty) (commitRows m a),
          each (fresh.filter fun e => !used.contains e) (fun e => freeFrame e.2),
          modLayer x.handle l fun y => { y with draft := none }]

/-- Token increments applied in order; whether one saturated. -/
def countTokens (id k tenant : Nat) (l : List (Nat × Nat)) : Act := each l fun e => look fun s =>
  acts [when (countSaturates s k e.1 e.2) (modSmp id fun x => { x with countSat := true }), countUp k tenant e.1 e.2]

/-- Step 2 and 3 of R160: one atomic update at the owner, the tenant's accounts, then the outputs. -/
def commitSample (id : Nat) : Act := look fun s =>
  match s.smp id with
  | none => nop
  | some x => match s.loc x.handle, smpModel s x.handle, samplerKey s x.handle with
    | some c, some m, some k =>
      let d := smpDescOf x.desc
      let n := x.tokens.length
      acts [when (d.op != Op.sample) (each (List.range m.layers) (acceptLayer m x c.tenant)), modSmp id (fun y => { y with fresh := [] }),
            when d.clear (acts [clearMem (payloadAt k) 32768,
              look fun s => storeNum (scaleAt k + 0x64) 4 (withBits (recWord s k) 8 1 0), storeNum (scaleAt k + 0xA8) 4 0]),
            match x.params with
            | some p => acts [store (scaleAt k) p, store (scaleAt k + 0x40) (drawKey p x.handle)]
            | none => nop,
            countTokens id k c.tenant (x.tokens.map fun t => (t, 1)),
            storeNum (scaleAt k + 0x60) 4 x.step,
            look (fun s => storeNum (scaleAt k + 0x64) 4 (withBits (recWord s k) 0 5 n)),
            store (scaleAt k + 0x68) ((List.range 16).flatMap fun i => leBytes 4 (x.tokens.getD i 0)),
            count Reg.SMP_TOKENS n, tcount c.tenant TReg.SMP_TTOKENS n,
            when (d.op != Op.sample) (acts [count Reg.SMP_DRAFTS_ACCEPTED x.path.length, tcount c.tenant TReg.SMP_TDRAFT_ACC x.path.length]),
            meterMod c.tenant (fun y => { y with tokens := y.tokens + n }),
            spend c.tenant 0 x.handle x.step n, walkTenant c.tenant,
            look fun s => sampleOut id St.ok x.tokens x.path (((s.smp id).map (·.countSat)).getD false)]
    | _, _, _ => endSmp id St.notOwner

/-- Distinct numbers of a list with their occurrences, in ascending order. -/
def tally (l : List Nat) : List (Nat × Nat) :=
  l.foldl (fun t v => tput t v ((tget t v).getD 0 + 1)) []

/-- The bytes of a GATHER's output (R166). -/
def gatherOut (s : State) (d : SmpDesc) (idx : List Nat) : List Byte :=
  if d.form = 0 then idx.flatMap (sliceOf s)
  else
    let ids := (tally idx).map (·.1)
    let slices := ids.flatMap (sliceOf s)
    slices ++ (idx.flatMap fun v => leBytes 4 ((ids.takeWhile (· < v)).length))

/-- The size of a GATHER's output. -/
def gatherSize (s : State) (d : SmpDesc) (idx : List Nat) : Nat :=
  if d.form = 0 then idx.length * sliceSize s else (tally idx).length * sliceSize s + 4 * idx.length

/-- A GATHER: its reads, its counts in one atomic update, its output and its end (R166). -/
def commitGather (id : Nat) : Act := look fun s =>
  match s.smp id with
  | none => nop
  | some x =>
    let d := smpDescOf x.desc
    let idx := x.segs.flatMap (·.2.2.2)
    acts [count Reg.SMP_GATHER_IDX idx.length, count Reg.SMP_GATHER_READS (tally idx).length, each ((tally idx).map (·.1)) readRow,
          each (nub ((x.segs.filter (·.2.2.1)).map (·.1))) fun h => look fun s => match samplerKey s h, s.loc h with
            | some k, some c => countTokens id k c.tenant (tally ((x.segs.filter fun g => g.1 == h && g.2.2.1).flatMap (·.2.2.2)))
            | _, _ => nop,
          putOutputs id St.ok d.outAddr (gatherOut s d idx)]

/-- What holds a commit on a request's frames: a compare-and-swap, or a tail that waits for its readers (R181, R218); or the status
it ends with. -/
inductive Gate where
  | pass
  | cas (h : Nat)
  | hold
  | stop (status : Nat)
deriving DecidableEq, Repr

/-- The gate of one request at an epoch. -/
def gateOf (s : State) (h epoch : Nat) (tails : Bool) : Gate :=
  match s.loc h with
  | none => .stop St.notOwner
  | some c => match c.st with
    | .owner e | .draining e =>
      if epoch ≠ e then .stop (if epoch < e then St.staleEpoch else St.notOwner)
      else if tails && c.layers.any (fun y => layerBlocked s y.2) then .hold else .pass
    | .receiving e | .casing e => if epoch = e + 1 then .cas h else .stop St.notOwner
    | _ => .stop (if epoch < locEpoch c then St.staleEpoch else St.notOwner)

/-- The requests a descriptor writes, with the epochs it names. -/
def smpTargets (x : Smp) : List (Nat × Nat) :=
  if x.op = Op.gather then (x.segs.filter (·.2.2.1)).map fun g => (g.1, g.2.1) else [(x.handle, x.epoch)]

/-- A descriptor's commit, where every gate is open. -/
def settleSmp (id : Nat) : Act := look fun s =>
  match s.smp id with
  | none => nop
  | some x =>
    let gates := (smpTargets x).map fun t => gateOf s t.1 t.2 (!x.path.isEmpty)
    let stop := gates.findSome? fun g => match g with | .stop st => some st | _ => none
    match stop with
    | some st => endSmp id st
    | none =>
      if gates.all (· = .pass) then (if x.op = Op.gather then commitGather id else commitSample id)
      else acts [modSmp id (fun x => { x with st := .held }),
                 each gates fun g => match g with | .cas h => casOnce h | _ => nop]

/-- The held jobs and samples of a request go on. -/
def resumeAll (h : Nat) : Act := acts [resumeHeld h, look fun s =>
  each ((s.body.sampling.live.filter fun e => e.2.st == .held && e.2.handles.contains h).map (·.1)) settleSmp]

/-! ### Acceptance -/

/-- Entries of the token log: a draft accepted by a verify step (source 2), then the sampled token (source 1) (R174). -/
def logEntries (tokens : List Nat) : List Nat :=
  tokens.zipIdx.map fun e => e.1 % 2 ^ 20 + (if e.2 + 1 = tokens.length then 1 else 2) * 2 ^ 20

/-- The tokens go to the request's home (R160 step 1). -/
def sendTokens (id : Nat) : Act := look fun s =>
  match s.smp id with
  | none => nop
  | some x => match s.loc x.handle with
    | none => nop
    | some c =>
      acts [modSmp id (fun y => { y with st := .logging, sent := s.body.tick }),
            toHome x.handle .tokenAppend { epoch := x.epoch, step := x.step, tokens := logEntries x.tokens, positions := locPositions c,
                                           mirrorPos := mirrorPositions s c }]

/-- Frames for the pages that an acceptance may open, one in each layer at most (R30); a failed allocation ends the descriptor with
NO_RESOURCE. -/
def takePath (id : Nat) (m : Model) (rows : Nat) : Act := look fun s =>
  match s.smp id with
  | none => nop
  | some x => each (List.range m.layers) fun l => look fun s =>
    match s.smp id, s.loc x.handle with
    | some y, some c => match (c.layer l).draft with
      | none => nop
      | some d =>
        let n := (c.layer l).pages.length
        if y.endWith.isSome || (d.first + rows - 1) / 2 ^ m.pLog2 < n then nop
        else match placeNear s x.handle l n .generation (s.group c.tenant) 4 with
          | some (k, a) => acts [a, takeFrame k { hdr := stagingHdr s x.handle l c.tenant, kind := .generation, staging := true },
                                 modSmp id fun z => { z with fresh := z.fresh ++ [(l, n, k)] }]
          | none => acts [allocFailed x.handle l n .generation (s.group c.tenant),
                          modSmp id fun z => { z with endWith := some St.noResource }]
    | _, _ => nop

/-- The result a SAMPLE or ACCEPT draws: path and bonus token. -/
def drawTokens (s : State) (d : SmpDesc) (drafts : List (Nat × Nat)) (k : Nat) : List Nat × Nat :=
  let own := recParams s k
  let bs := if d.paramAddr = 0 then own else jbytes s d.paramAddr 64
  let key := if d.paramAddr = 0 then recKey s k else drawKey bs d.handle
  let p := paramsOf bs
  let l := shardsOf s d
  let pick (x : Nat) (c : List (Nat × Nat)) : Nat := select p c (logitRow s l x) (drawOf key d.step x)
  acceptFrom pick drafts (if d.op = Op.sample then 0 else d.rows) 0 (if d.clear then [] else countList s k)

/-- A SAMPLE or ACCEPT of which checks 1 to 3 passed runs. -/
def runSample (id : Nat) (d : SmpDesc) : Act := look fun s =>
  match s.loc d.handle, smpModel s d.handle with
  | some c, some m =>
    if d.step ≤ lastStepOf s d.handle then
      match samplerKey s d.handle with
      | some k =>
        if d.step = recLastStep s k ∧ recLastCount s k ≠ 0 then
          let toks := recLastTokens s k
          sampleOut id St.replayed toks ((adoptPath ((draftsOf s d).getD []) 0 toks).getD []) false
        else endSmp id St.replayed
      | none => endSmp id St.replayed
    else if d.op ≠ Op.sample ∧ (List.range m.layers).any (fun l => (c.layer l).lastStep != d.step) then endSmp id St.invalid
    else match ensureSampler s d.handle with
      | none => acts [allocFailed d.handle 0 samplerPlace .generation (s.group c.tenant), endSmp id St.noResource]
      | some a => acts [a, look fun s => match samplerKey s d.handle with
        | none => endSmp id St.noResource
        | some k =>
          let drafts := (draftsOf s d).getD []
          let r := drawTokens s d drafts k
          let toks := (r.1.map fun j => (drafts.getD (j - 1) (0, 0)).1) ++ [r.2]
          let fits := (List.range m.layers).all fun l => (c.layer l).count + r.1.length ≤ c.maxPositions
          if !fits || !pathStaged c m d.step r.1 || !slicesPass s c.tenant d d.embAddr (d.rows * sliceSize s) then
            acts [when (fits && pathStaged c m d.step r.1) windowFault, endSmp id St.invalid]
          else acts [modSmp id (fun x => { x with tokens := toks, path := r.1, drafts := drafts,
                                                  params := if d.paramAddr = 0 then none else some (jbytes s d.paramAddr 64) }),
                     when (d.op != Op.sample) (acts [count Reg.SMP_DRAFTS_OFFERED (d.rows - 1), takePath id m d.rows]),
                     look fun s => match (s.smp id).bind (·.endWith) with
                       | some st => endSmp id st
                       | none => sendTokens id]]
  | _, _ => endSmp id St.notOwner

/-- The segments of a GATHER (R165); none where a reserved bit is set, an index is malformed, they do not partition the index array, or
a segment without COUNT names a request. -/
def segsOf (s : State) (d : SmpDesc) : Option (List (Nat × Nat × Bool × List Nat)) :=
  let idx := (chunks 4 (4 * d.indexCount) (jbytes s d.draftAddr (4 * d.indexCount))).map leNat
  let raw := (List.range d.shards).map fun i => leNat (jbytes s (d.shardAddr + 32 * i) 32)
  let cut := raw.foldl (fun (a : List Nat × List (Nat × Nat × Bool × List Nat)) v =>
    let n := bitsOf v 96 21
    (a.1.drop n, a.2 ++ [(bitsOf v 0 64, bitsOf v 64 32, bitsOf v 127 1 == 1, a.1.take n)])) (idx, [])
  if raw.all (fun v => bitsOf v 117 10 == 0 && bitsOf v 128 128 == 0) && idx.all (· < 2 ^ 20)
     && (raw.map fun v => bitsOf v 96 21).foldl (· + ·) 0 == d.indexCount
     && cut.2.all (fun g => g.2.2.1 || g.1 == 0) then some cut.2 else none

/-- Check 1 of a GATHER. -/
def gatherForm (s : State) (bs : List Byte) : Bool :=
  let d := smpDescOf bs
  !smpResv bs && 1 ≤ d.shards && d.shards ≤ 64 && 1 ≤ d.indexCount && d.indexCount ≤ 2 ^ 20
  && inJbuf d.shardAddr (32 * d.shards) && inJbuf d.draftAddr (4 * d.indexCount) && d.outAddr % 64 == 0 && d.outAddr < jbufSize
  && inJbuf d.nextAddr (4 * d.nextCount) && (segsOf s d).isSome

/-- A GATHER of which check 1 passed runs (R165, R166). -/
def runGather (id : Nat) (d : SmpDesc) (segs : List (Nat × Nat × Bool × List Nat)) : Act := look fun s =>
  let counted := segs.filter (·.2.2.1)
  match counted.findSome? fun g => smpLive s g.1 g.2.1 with
  | some st => endSmp id st
  | none =>
    let idx := segs.flatMap (·.2.2.2)
    let size := gatherSize s d idx
    let tenant := ((counted.head?.bind fun g => s.loc g.1).map (·.tenant)).getD 0
    if d.limit < size then endSmp id St.noResource
    else if !d.remote && jbufSize < d.outAddr + size then endSmp id St.invalid
    else if !slicesPass s tenant d d.outAddr size then acts [windowFault, endSmp id St.invalid]
    else acts [modSmp id (fun x => { x with segs := segs, handles := nub (counted.map (·.1)) }),
               each (nub (counted.map (·.1))) (fun h => look fun s => match ensureSampler s h with
                 | some a => a
                 | none => modSmp id fun x => { x with endWith := some St.noResource }),
               look fun s => match (s.smp id).bind (·.endWith) with
                 | some st => endSmp id st
                 | none => settleSmp id]

/-- A queue's next slot to accept, if a valid one waits. -/
def nextSmp (s : State) (q : Nat) : Option (Nat × List Byte) :=
  let i := (tget s.body.sampling.accept q).getD 0
  if sqOpen s q && !s.body.sampling.reenable.contains q && i != s.get (Fld.SMP_SQ_PTR_TAIL q) then
    some (i, s.bytes (Mem.smpSlot q i) 64) else none

/-- The requests that a descriptor in a slot would write. -/
def slotHandles (s : State) (bs : List Byte) : List Nat :=
  let d := smpDescOf bs
  if d.op = Op.gather then (((segsOf s d).getD []).filter (·.2.2.1)).map (·.1) else [d.handle]

/-- A descriptor waits for no earlier one of its requests (R75, R161). -/
def smpFree (s : State) (bs : List Byte) : Bool :=
  (slotHandles s bs).all fun h => !s.body.sampling.live.any fun e => e.2.handles.contains h

/-- It is queue q's turn: no queue of a lower PRIORITY has a descriptor to accept; round-robin among equals (R86, R148). -/
def smpTurn (s : State) (q : Nat) : Bool :=
  let waits (x : Nat) : Bool := match nextSmp s x with
    | some (_, bs) => smpFree s bs
    | none => false
  let key (x : Nat) : Nat × Nat :=
    let p := s.get (Fld.SMP_SQ_CFG_PRIORITY x)
    (p, (x + 15 - (tget s.body.sampling.robin p).getD 15) % 16)
  waits q && (List.range 16).all fun x => x == q || !waits x || (key q).1 < (key x).1
    || ((key q).1 == (key x).1 && (key q).2 < (key x).2)

/-- The next batch's rows are loaded into the row cache, and the sampler frames that the queue's next descriptor names made resident
in near state (R167). -/
def prefetchNext (q : Nat) (d : SmpDesc) : Act :=
  when (d.nextAddr != 0) (acts [look fun s => each ((List.range d.nextCount).map fun i => leNat (jbytes s (d.nextAddr + 4 * i) 4) % 2 ^ 20) warmRow,
    look fun s => match nextSmp s q with
      | none => nop
      | some (_, bs) => each (slotHandles s bs) fun h => look fun s => match s.loc h, samplerKey s h with
        | some c, some k => match c.st with
          | .owner _ => if keyTier k = 0 then nop else (ensureSampler s h).getD nop
          | _ => nop
        | _, _ => nop])

/-- The opcode of R149. -/
def knownSmp (op : Nat) : Bool := [Op.sample, Op.acceptChain, Op.acceptTree, Op.gather].contains op

/-- The live descriptor that a slot's bytes become. -/
def newSmp (s : State) (q i ns : Nat) (bs : List Byte) : Smp :=
  let d := smpDescOf bs
  { q := q, slot := i, qseq := s.get (Fld.SMP_SQ_PTR_QSEQ q), op := d.op, desc := bs, st := .logging, handle := d.handle,
    handles := if d.op = Op.gather then [] else [d.handle], step := d.step, epoch := d.epoch, ns := ns, order := s.body.sampling.next }

/-- A slot is taken: its descriptor is live and counted (R70, R148). -/
def takeSmp (q i ns : Nat) (bs : List Byte) : Act := look fun s =>
  acts [onSmp (fun y => { y with next := s.body.sampling.next + 1, live := tput y.live s.body.sampling.next (newSmp s q i ns bs),
                                 accept := tput y.accept q ((i + 1) % s.sqDepth q),
                                 robin := tput y.robin (s.get (Fld.SMP_SQ_CFG_PRIORITY q)) q }),
        bumpFld (Fld.SMP_SQ_PTR_QSEQ q) 1, bumpFld Fld.SMP_STATUS_LIVE 1]

/-- A descriptor of a sample queue is accepted by the row of its opcode; one of no opcode of R149, by any of the rows. `ns` is the time
the sampler takes for it, the world's. -/
def acceptSmp (q op ns : Nat) : Act := look fun s =>
  match nextSmp s q with
  | none => nop
  | some (i, bs) =>
    let d := smpDescOf bs
    if (d.op ≠ op ∧ knownSmp d.op = true) ∨ smpTurn s q = false then nop
    else
      let id := s.body.sampling.next
      acts [takeSmp q i ns bs,
            if !knownSmp d.op then endSmp id St.invalid
            else if d.op = Op.gather then
              (if gatherForm s bs then runGather id d ((segsOf s d).getD []) else endSmp id St.invalid)
            else if !sampleForm s bs then endSmp id St.invalid
            else match smpLive s d.handle d.epoch with
              | some st => endSmp id st
              | none => runSample id d,
            when (knownSmp d.op) (prefetchNext q d)]

/-! ### The answer of the home (R160, R162) -/

/-- The sample of a request that waits for the token log. -/
def loggingSmp (s : State) (h step : Nat) : Option Nat :=
  (s.body.sampling.live.find? fun e => e.2.st == .logging && e.2.op != Op.gather && e.2.handle == h && e.2.step == step).map (·.1)

/-- TOKEN_RESULT: the acknowledgement, the tokens the home holds for the STEP, or a refusal. -/
def tokenResult (m : Msg) : Act := look fun s =>
  match loggingSmp s m.handle m.step with
  | none => nop
  | some id => match s.smp id with
    | none => nop
    | some x =>
      let wait := modSmp id fun y => { y with stalled := y.stalled + (s.body.tick - y.sent) }
      let toks := m.tokens.map (· % 2 ^ 20)
      if m.status ≠ St.ok then acts [wait, endSmp id m.status]
      else if toks.isEmpty then acts [wait, settleSmp id]
      else match adoptPath x.drafts 0 toks, s.loc x.handle, smpModel s x.handle with
        | some path, some c, some md =>
          let fits := pathStaged c md x.step path && (List.range md.layers).all fun l => (c.layer l).count + path.length ≤ c.maxPositions
          if !fits then acts [wait, endSmp id St.invalid]
          else acts [wait, count Reg.SMP_LOG_ADOPTED 1, modSmp id (fun y => { y with tokens := toks, path := path, adopted := true }), settleSmp id]
        | _, _, _ => acts [wait, endSmp id St.invalid]

/-- LOG_TIMEOUT: the acknowledgement of a sample is missing. -/
def actLogTimeout (id : Nat) : Act := look fun s =>
  match s.smp id with
  | none => nop
  | some x =>
    if x.st != .logging then nop
    else acts [modSmp id (fun y => { y with stalled := y.stalled + (s.body.tick - y.sent) }), raise Blk.smp 3, endSmp id St.busyRetry]

/-- INTERNAL_REPLAY of a sample (R163): it draws the same tokens from what the device retains. -/
def replaySmp (id : Nat) : Act := look fun s =>
  match s.smp id with
  | none => nop
  | some x => when (x.st == .faulted)
      (acts [modSmp id (fun y => { y with fReplay := true, replays := y.replays + 1 }), sendTokens id])

/-- INTERNAL_REPLAY of a step job or of a sample. -/
def actReplay (smp : Bool) (id : Nat) : Act := if smp then replaySmp id else actInternalReplay id

/-! ### Executions -/
def execSmpDoorbell (q tail : Nat) (s : State) :=
  done (when (q < 16 && tail < 256) (actSmpDoorbell q tail)) s
def execSample (q ns : Nat) (s : State) :=
  done (when (q < 16) (acceptSmp q Op.sample ns)) s
def execAcceptChain (q ns : Nat) (s : State) :=
  done (when (q < 16) (acceptSmp q Op.acceptChain ns)) s
def execAcceptTree (q ns : Nat) (s : State) :=
  done (when (q < 16) (acceptSmp q Op.acceptTree ns)) s
def execGather (q ns : Nat) (s : State) :=
  done (when (q < 16) (acceptSmp q Op.gather ns)) s
def execLogTimeout (id : Nat) (s : State) := done (actLogTimeout id) s
def execInternalReplay (smp : Bool) (id : Nat) (s : State) := done (actReplay smp id) s

end Sys2Proof.Machine
end

