-- ==== Sys2Proof/Machine/Leash.lean ====
section
/-! DEFINITION. The Leash messages at a chip that owns, gives, receives or holds a request (R177 to R191, R194, R196,
07_ownership_and_recovery.md): the table of R181, a change of phase on the owner (R12), closing (R14), and Fetch or copy-free
(R183, R184). -/

namespace Sys2Proof.Machine

/-! ### What every message meets (R180, R196) -/

/-- A message whose handle has another incarnation than the one this chip knows at its slot. -/
def staleHandle (s : State) (h : Nat) : Bool :=
  s.body.locs.any fun e => e.1 / 2 ^ 32 == h / 2 ^ 32 && h < e.1 && hasLeash e.2

/-- A message for a request at a chip. One of an older incarnation is stale, and so is one of an older epoch than the chip's, unless
the chip is the request's home or the message is the result it asked for. -/
def atChip (result : Bool) (m : Msg) (f : Act) : Act := look fun s =>
  let old := match s.loc m.handle with
    | some c => !result && (s.req m.handle).isNone && m.epoch < locEpoch c
    | none => false
  if staleHandle s m.handle || old then staleMsg else f

/-- The sender is the request's home from now on, and the home's epoch is known here (R196). -/
def fromHome (m : Msg) : Act := modLoc m.handle fun c => { c with home := m.sender, epoch := max c.epoch m.epoch }

/-- The Leash state of a request, made where the chip has none. -/
def haveLoc (h : Nat) : Act := look fun s => if (s.loc h).isSome then nop else setLoc h { home := s.homeOf h }

/-! ### Ending what runs -/

/-- The jobs of a request end with a status: those held or between sub-jobs at once, one that runs when its run ends; jobs that have
not begun meet the checks at their turn. Held samples end, and one that waits for the log ends by the home's answer. -/
def stopJobs (h status : Nat) : Act := look fun s =>
  acts [each (s.body.jobs.jobs.filter fun e => e.2.d.handle == h && ofRequest e.2.d.op) fun e =>
          match e.2.st with
          | .held | .between | .faulted => endJob e.1 status
          | .running | .storing => modJob e.1 fun j => { j with endWith := some status }
          | .waiting => when e.2.begun (endJob e.1 status)
          | _ => nop,
        each (s.body.sampling.live.filter fun e => e.2.handles.contains h) fun e => when (e.2.st == .held) (endSmp e.1 status)]

/-! ### A change of phase on the owner (R12) -/

/-- The owner's own side of a change of phase: work of the phase it leaves is given up, of the one it enters prepared; the tails of a
LISTENING request are frozen (R30, R114, R116, R280). -/
def localPhase (h : Nat) (target : Phase) : Act := look fun s =>
  match s.loc h with
  | none => nop
  | some c =>
    acts [modLoc h (fun c => { c with phase := target }),
          when (c.phase == .generating && target != .generating) (leaveWork h),
          when (c.phase == .prompting && target != .prompting) (releaseAll h),
          when (target == .generating) (tryAlloc h), unitEnded h]

/-! ### The state mirror (R188) -/

/-- A new state mirror is told to the owner here: what it has copied so far counts no more, and every page that is sealed or frozen is
copied to the new one (DEDUCED, log entry 19). -/
def setMirror (h : Nat) (mirror : Option Nat) : Act :=
  acts [modLoc h (fun c => { c with stateMirror := mirror, layers := c.layers.map fun e => (e.1, { e.2 with ackPages := [] }) }),
        look fun s => match s.loc h, mirror with
          | some c, some _ => acts [each c.layers (fun e => each (List.range e.2.pages.length) fun i =>
              match e.2.pages[i]? with
              | some r => match placeOf s r with
                | .near k | .far k => match s.frame k with
                  | some f => when (f.hdr.isSealed || f.hdr.frozen) (mirrorPage h e.1 i)
                  | none => nop
                | _ => mirrorPage h e.1 i
              | none => nop), match samplerKey s h with
                | some k => when (((s.frame k).map (·.hdr.frozen)) == some true) (mirrorRef h samplerIndex 0 (s.refOf k))
                | none => nop]
          | _, _ => nop]

/-! ### The page list of a receiver (R28, R183) -/

/-- Entry i of a giver's list at its receiver: tier 3 for the giver's frames; pages of shared prefixes and entries that already name
other chips stay. -/
def givenEntry (m : Model) (prefixPos i r : Nat) : Nat :=
  if (i + 1) * 2 ^ m.pLog2 ≤ prefixPos ∨ 1 < refTier r then r else holdRef r

/-- The layers of a page-list table as a receiver takes them, all layers of the model. -/
def givenLayers (m : Model) (tbl : GivenTable) : List (Nat × Layer) := (List.range m.layers).map fun l =>
  let g := tbl.layers.getD l ([], 0, 0)
  (l, { pages := g.1.zipIdx.map fun e => givenEntry m tbl.prefixPos e.2 e.1, count := g.2.1, lastStep := g.2.2,
        ackPages := tbl.acked.getD l [] })

/-- The sampler frame a receiver fetches first, into a near frame of its own (R159, R183). None where it finds no frame. -/
def takeSampler (s : State) (h tenant : Nat) (given : Option (List Byte × List (Nat × Nat))) : Option Act :=
  match given with
  | none => some nop
  | some (rec, entries) =>
    (placeNear s h 0 samplerPlace .generation (s.group tenant) 4).map fun p =>
      acts [p.2, takeFrame p.1 { hdr := { stagingHdr s h 0 tenant with storedLen := 32768 }, kind := .generation },
            clearMem (payloadAt p.1) 32768, clearMem (scaleAt p.1) 1024, store (scaleAt p.1) rec,
            each entries (fun e => storeNum (payloadAt p.1 + 8 * (e.1 % 4096)) 8 e.2),
            look fun s => modLoc h fun c => { c with sampler := some (s.refOf p.1) }]

/-- What a receiver knows of the request from the table it reads. -/
def givenLoc (s : State) (c : Loc) (tbl : GivenTable) (layers : List (Nat × Layer)) : Loc :=
  { c with cls := tbl.cls, tenant := tbl.tenant, maxPositions := tbl.maxPositions, layers := layers, listRef := Config.free s.body.fresh,
           prefix0 := tbl.prefix0, prefix1 := tbl.prefix1, prefixPos := tbl.prefixPos, sampler := none, tree := [], closing := false,
           stateMirror := if tbl.mirror = 0 ∨ tbl.mirror = s.chipId then none else some tbl.mirror }

/-! ### The receiver (R181, R184) -/

/-- The bound of R184: the remaining budget is smaller than the Fetch estimate. Rates are in tenths of GB/s, so a budget of b µs at
rate r moves 100 b r bytes. -/
def fetchTooSlow (s : State) (target : Phase) (group : Nat) (budget stored : Nat) : Bool :=
  let base := 10 * s.get Fld.RQT_FETCH_CFG_FETCH_RATE
  let rate := match target, fpartFor s .cache group with
    | .listening, some n => min base (192 * fpartChannels s n)
    | _, _ => base
  budget != 0xFFFFFFFF && budget * rate * 100 < stored

/-- Whether the receiver goes copy-free (R184). -/
def goesCopyFree (s : State) (m : Msg) (target : Phase) (tbl : GivenTable) : Bool :=
  let mode := bitsOf m.flags 0 2
  mode == 2 || (mode == 0 && s.inPod m.sender
    && (fetchTooSlow s target (s.group tbl.tenant) m.budget tbl.stored || s.get Fld.RQT_FETCH_CFG_FETCH_MAX ≤ fetchesRunning s))

/-- The receiver's answer to an offer. -/
def ackOffer (m : Msg) (status : Nat) : Act := look fun s =>
  sendMsg m.sender .offerAck { handle := m.handle, epoch := m.epoch, status := status, sender := s.chipId, chip := s.chipId, phase := m.phase }

/-- OFFER. -/
def actOffer (m : Msg) (tbl : GivenTable) : Act := atChip false m (look fun s =>
  let h := m.handle
  let c := (s.loc h).getD { home := s.homeOf h }
  match c.st with
  | .receiving e | .casing e =>
    if m.epoch ≤ e then ackOffer m St.ok
    else acts [modLoc h (fun x => { x with st := .receiving m.epoch, epoch := max x.epoch m.epoch, peer := m.sender }),
               match c.st with | .casing _ => sendCas h m.epoch | _ => nop, ackOffer m St.ok]
  | .none | .holder =>
    let group := s.group tbl.tenant
    match phaseOf m.phase, s.modelOfTenant tbl.tenant with
    | some target, some md =>
      let allowed := (target == .prompting || target == .generating || target == .listening) && s.hasShare target
        && (target != .listening || (fpartFor s .cache group).isSome)
      match if allowed then takeSampler s h tbl.tenant tbl.sampler else none with
      | none => ackOffer m St.noResource
      | some smp =>
        let free := goesCopyFree s m target tbl
        let l := { givenLoc s c tbl (givenLayers md tbl) with
          st := .receiving m.epoch, wasHolder := c.st == .holder, epoch := max c.epoch m.epoch, peer := m.sender, phase := target, target := target
          mode := bitsOf m.flags 0 2, copyFree := free, budget := m.budget, budgetTick := s.body.tick, offers := 0, fetch := none
          dropping := none, replay := none }
        acts [setLoc h l, drawFree, smp, ackOffer m St.ok,
              if free then acts [count Reg.RQT_COPY_FREE 1, when (target == .listening) (casOnce h)] else addFetch h m.sender false,
              when (target == .generating) (tryAlloc h)]
    | _, _ => ackOffer m St.noResource
  | _ => nop)

/-- The tier-3 entries that name this chip's own frames become local entries, and held frames that the page list does not name go
(R181). -/
def settleHeld (h : Nat) : Act := look fun s =>
  match s.loc h with
  | none => nop
  | some c =>
    let own (r : Nat) : Nat := if refTier r = 3 ∧ refChip r = s.chipId then holderRef r else r
    let layers := c.layers.map fun e => (e.1, { e.2 with pages := e.2.pages.map own })
    let named := layers.flatMap (·.2.pages)
    acts [modLoc h (fun x => { x with layers := layers, held := [], wasHolder := false }),
          each (c.held.filter fun r => !named.contains r) fun r => match s.resolve r with
            | some k => freeFrame k
            | none => nop]

/-- The receiver has become the owner at epoch e: its page list is authoritative, the held commits are made, the Fetch goes on; after
copy-free a background Fetch is due (R181, R183, R184). -/
def takeOwner (h e : Nat) : Act :=
  acts [modLoc h (fun c => { c with st := .owner e, epoch := max c.epoch e, dropping := none }), settleHeld h, resumeAll h,
        look fun s => match s.loc h with
          | none => nop
          | some c => match c.fetch with
            | some f => when f.complete (acts [dropHolders h e f.holders, modLoc h fun c => { c with fetch := none }])
            | none => when (c.copyFree && s.is Fld.RQT_FETCH_CFG_BG_FETCH) (addFetch h c.peer true),
        unitEnded h]

/-- A full holder list (R181): of the holders other than the giver that the page list names, the one it names least, of the lowest id
among equals. -/
def holderToDrop (s : State) (c : Loc) : Option Nat :=
  let named := (c.layers.flatMap fun e => (e.2.pages.filter fun r => refTier r == 3).map refChip).filter fun x => x != s.chipId && x != c.peer
  let times (x : Nat) : Nat := (named.filter (· == x)).length
  match nub named with
  | [] => none
  | x :: l => some (l.foldl (fun b y => if times y < times b ∨ (times y = times b ∧ y < b) then y else b) x)

/-- CAS_RESULT. -/
def actCasResult (m : Msg) : Act := atChip true m (acts [fromHome m, look fun s =>
  let h := m.handle
  match s.loc h with
  | none => nop
  | some c => match c.st with
    | .casing e =>
      if m.status = St.ok then (if m.epoch = wrapAdd 32 e 1 then takeOwner h m.epoch else nop)
      else if m.status = St.staleEpoch ∨ m.status = St.notOwner then acts [discardCopies h, stopJobs h m.status]
      else if m.status = St.noResource then
        match holderToDrop s c with
        | none => nop
        | some x => acts [modLoc h (fun c => { c with dropping := some x }), match c.fetch with
            | some f => if f.running then issueFetch h else when f.complete (addFetch h x c.copyFree)
            | none => addFetch h x c.copyFree]
      else nop
    | .owner e => when (m.status == St.staleEpoch) (acts [modLoc h (fun c => { c with st := .waiting e }), sendQuery h e])
    | _ => nop])

/-- CAS_TIMEOUT. -/
def actCasTimeout (h : Nat) : Act := look fun s =>
  match s.loc h with
  | some c => match c.st, c.dropping with
    | .casing e, none => sendCas h e
    | _, _ => nop
  | none => nop

/-- HANDOFF_CANCEL: running jobs end with NOT_OWNER, the copies are discarded. -/
def actHandoffCancel (m : Msg) : Act := atChip false m (look fun s =>
  match s.loc m.handle with
  | some c => match c.st with
    | .receiving _ | .casing _ => acts [discardCopies m.handle, stopJobs m.handle St.notOwner]
    | _ => nop
  | none => nop)

/-! ### The owner and the giver (R181, R194) -/

/-- The giver starts to drain, or goes on at once where nothing runs (R15). -/
def startDrain (m : Msg) (e : Nat) (target : Phase) : Act :=
  acts [modLoc m.handle (fun c => { c with st := .draining e, epoch := max c.epoch e, peer := m.chip, target := target, mode := bitsOf m.flags 0 2,
                                           budget := m.budget }),
        look (fun s => modLoc m.handle fun c => { c with budgetTick := s.body.tick }), unitEnded m.handle]

/-- HANDOFF_START: the owner drains, or answers about its own share; a giver that meets a greater epoch offers again under it (R194). -/
def actHandoffStart (m : Msg) : Act := atChip false m (acts [fromHome m, look fun s =>
  let h := m.handle
  match s.loc h, phaseOf m.phase with
  | some c, some target => match c.st with
    | .owner e0 =>
      let e := max e0 m.epoch
      if m.chip = s.chipId then
        let ok := s.hasShare target
        acts [modLoc h (fun c => { c with st := .owner e }),
              toHome h .offerAck { epoch := e, status := if ok then St.ok else St.noResource, chip := s.chipId, phase := m.phase },
              when ok (localPhase h target)]
      else startDrain m e target
    | .draining e => when (e < m.epoch) (startDrain m m.epoch target)
    | .offering e | .waiting e =>
      when (e < m.epoch) (acts [modLoc h (fun c => { c with st := .offering m.epoch, offers := 1, peer := m.chip, target := target,
                                                            mode := bitsOf m.flags 0 2, budget := m.budget, budgetTick := s.body.tick }),
                                sendOffer h m.epoch])
    | _ => nop
  | _, _ => nop])

/-- OFFER_ACK: at the giver, or at the home as the owner's answer about its own share (R12). -/
def actOfferAck (m : Msg) : Act := look fun s =>
  let giver : Option Nat := match s.loc m.handle with
    | some c => match c.st with
      | .offering e => if c.peer = m.sender ∧ m.epoch = e then some e else none
      | _ => none
    | none => none
  match giver with
  | some e => if m.status = St.ok then modLoc m.handle fun c => { c with st := .waiting e } else sendQuery m.handle e
  | none => if (s.req m.handle).isSome then atHome .offerAck m (homeOfferAck m) else nop

/-- OFFER_TIMEOUT: the offer again, up to three, then a query. -/
def actOfferTimeout (h : Nat) : Act := look fun s =>
  match s.loc h with
  | some c => match c.st with
    | .offering e =>
      if c.offers < 3 then acts [modLoc h (fun c => { c with offers := c.offers + 1 }), count Reg.RQT_OFFER_RESENT 1, sendOffer h e]
      else sendQuery h e
    | _ => nop
  | none => nop

/-- HANDOFF_LIMIT: a waiting giver asks for its standing (R186). -/
def actHandoffLimit (h : Nat) : Act := look fun s =>
  match s.loc h with
  | some c => match c.st with
    | .waiting e => sendQuery h e
    | _ => nop
  | none => nop

/-- What a chip learns of its standing: KEEP, HOLD or FREE at the home's epoch. -/
def standing (m : Msg) (keep hold free : Bool) : Act := look fun s =>
  let h := m.handle
  match s.loc h with
  | none => nop
  | some c =>
    let newer := decide (leashEpoch c.st < m.epoch)
    match c.st with
    | .offering e | .waiting e =>
      if keep && m.epoch == e then acts [modLoc h (fun c => { c with st := .owner e }), resumeAll h, unitEnded h]
      else if hold && newer then acts [becomeHolder h m.epoch, stopJobs h St.notOwner]
      else when (free && newer) (acts [freeAllOf h, stopJobs h St.notOwner])
    | .owner _ =>
      if hold && newer then acts [becomeHolder h m.epoch, stopJobs h St.notOwner]
      else when (free && newer) (acts [freeAllOf h, stopJobs h St.notOwner])
    | _ => when (free && newer) (acts [freeAllOf h, stopJobs h St.notOwner])

/-- LEASH_RELEASE. -/
def actLeashRelease (m : Msg) : Act :=
  atChip false m (acts [standing m false (bitsOf m.flags 0 1 == 1) (bitsOf m.flags 1 1 == 1), fromHome m])

/-- QUERY_RESULT. -/
def actQueryResult (m : Msg) : Act :=
  atChip true m (acts [standing m (bitsOf m.flags 0 1 == 1) (bitsOf m.flags 1 1 == 1) (bitsOf m.flags 2 1 == 1), fromHome m])

/-- Held frames are freed, with their backing copies. -/
def freeHeld (l : List Nat) : Act := look fun s => each l fun r => match s.resolve r with
  | some k => acts [match backingOf s k with | some b => freeFrame b | none => nop, freeFrame k]
  | none => nop

/-- HOLD_FREE: a holder frees the named frames; on the last it sends HOLD_EMPTY. A duplicate is answered again. One that names no
frame tells a state mirror that it is none any more (log entry 20). -/
def actHoldFree (m : Msg) : Act := atChip false m (acts [fromHome m, look fun s =>
  let h := m.handle
  let answer := sendMsg m.sender .holdEmpty { handle := h, epoch := m.epoch, sender := s.chipId }
  match s.loc h with
  | none => when (bitsOf m.flags 0 1 == 1 || !m.refs.isEmpty) answer
  | some c =>
    if bitsOf m.flags 0 1 = 0 ∧ m.refs.isEmpty = true then
      -- the request's state mirror no longer (R188)
      acts [each c.copies (fun e => match s.resolve e.2 with | some k => freeFrame k | none => nop),
            modLoc h fun c => { c with copies := [], isMirror := false }]
    else
    let gone := if bitsOf m.flags 0 1 = 1 then c.held else c.held.filter fun r => m.refs.contains r
    let left := c.held.filter fun r => !gone.contains r
    let free := freeHeld gone
    let empty := left.isEmpty
    match c.st with
    | .holder => acts [free, modLoc h (fun c => { c with held := left, st := if empty then .none else .holder }), when empty answer]
    | .receiving _ | .casing _ =>
      when c.wasHolder (acts [free, modLoc h (fun c => { c with held := left, wasHolder := !empty }), when empty answer])
    | .none => answer
    | _ => nop])

/-! ### Grants (R189 to R191) -/

/-- The page list a state mirror's copies make, up to a position: prefix pages from the table, then the copies in order; a page the
position cuts is cut short. -/
def mirrorLayer (s : State) (m : Model) (h : Nat) (c : Loc) (tbl : GivenTable) (limit l : Nat) : Layer :=
  let p := 2 ^ m.pLog2
  let g := tbl.layers.getD l ([], 0, 0)
  let entry (i : Nat) : Option (Nat × Nat) :=
    if limit ≤ i * p then none
    else match tget c.copies (l * 65536 + i) with
      | some r => ((s.resolve r).bind s.frame).map fun f => (r, f.hdr.posCount)
      | none => if (i + 1) * p ≤ tbl.prefixPos then (g.1[i]?).map fun r => (r, p) else none
  let es := ((List.range 65536).map entry).takeWhile Option.isSome |>.filterMap id
  { pages := es.map (·.1), count := min limit ((es.map (·.2)).foldl (· + ·) 0), lastStep := g.2.2, bases := farBases s h l }

/-- The last page of a layer is cut at the layer's position count. -/
def cutTail (m : Model) (y : Layer) : Act := look fun s =>
  match y.pages.getLast?.bind s.resolve with
  | some k =>
    let n := y.count - (y.pages.length - 1) * 2 ^ m.pLog2
    match s.frame k with
    | some f => when (n < f.hdr.posCount) (modHdr k fun h => { h with posCount := n, storedLen := n * (h.storedLen / h.posCount),
                                                                      isSealed := false, frozen := true })
    | none => nop
  | none => nop

/-- The pages above a position go (R191, R307): every layer ends there, its last page cut short. -/
def truncateLoc (h limit : Nat) : Act := look fun s =>
  match s.loc h with
  | none => nop
  | some c => match s.locModel c with
    | none => nop
    | some m =>
      let keep := ceilDiv limit (2 ^ m.pLog2)
      acts [each c.layers (fun e => each (e.2.pages.drop keep) fun r => match placeOf s r with
              | .near k | .far k => when (!c.held.contains r && ((s.frame k).map (·.hdr.shared)) == some false) (freePage k)
              | .remote x => dropHeld h (holdRef x)
              | _ => nop),
            modLoc h (fun c => { c with layers := c.layers.map fun e =>
              (e.1, { e.2 with pages := e.2.pages.take keep, count := min e.2.count limit,
                               ackPages := e.2.ackPages.filter fun a => a.1 < keep || 65535 < a.1 }) }),
            look fun s => each (((s.loc h).map (·.layers)).getD []) fun e => cutTail m e.2]

/-- The step numbers of a chip that takes the Leash by a grant: at least STEP_FLOOR, and what it held (R191). -/
def raiseSteps (h floor : Nat) (held : List (Nat × Layer)) : Act :=
  acts [modLoc h (fun c => { c with stepFloor := floor, layers := c.layers.map fun e =>
          (e.1, { e.2 with lastStep := max floor (max e.2.lastStep (((tget held e.1).map (·.lastStep)).getD 0)) }) }),
        look fun s => match samplerKey s h with
          | some k => when (recLastStep s k < floor) (acts [storeNum (scaleAt k + 0x60) 4 floor,
              storeNum (scaleAt k + 0x64) 4 (withBits (recWord s k) 0 5 0)])
          | none => nop]

/-- LEASH_GRANT: an owner adopts the epoch; another chip takes the Leash, with its own mirror copies, with a source's pages by Fetch, or
with none (R189, R190). The table is what the chip reads of the source. -/
def actLeashGrant (m : Msg) (tbl : GivenTable) : Act := atChip false m (acts [haveLoc m.handle, look fun s =>
  let h := m.handle
  let replay := if bitsOf m.flags 0 1 = 1 then some (m.replayFrom, m.replayTo) else none
  match s.loc h with
  | none => nop
  | some c => match c.st with
    | .owner e =>
      when (e < m.epoch) (acts [modLoc h (fun c => { c with st := .owner m.epoch, replay := if replay.isSome then replay else c.replay }),
                                when replay.isSome (truncateLoc h m.replayFrom), raiseSteps h m.stepFloor [], fromHome m])
    | .none | .holder =>
      match s.modelOfTenant tbl.tenant with
      | none => nop
      | some md =>
        let own := m.source == s.chipId
        let limit := m.replayFrom
        let layers : List (Nat × Layer) :=
          if own then (List.range md.layers).map fun l => (l, mirrorLayer s md h c tbl limit l) else givenLayers md tbl
        let named := layers.flatMap (·.2.pages)
        let phase := (phaseOf m.phase).getD .admitted
        let mirrorSmp := tget c.copies samplerIndex
        let l := { givenLoc s c tbl layers with st := .owner m.epoch, wasHolder := false, phase := phase, target := phase, peer := m.source, mode := 1,
                                                copyFree := false, fetch := none, dropping := none, replay := replay, isMirror := false,
                                                copies := [], sampler := if own then mirrorSmp else none }
        acts [setLoc h l, drawFree,
              if own then acts [each layers (fun e => cutTail md e.2),
                each (c.copies.filter fun e => !named.contains e.2 && mirrorSmp != some e.2 && e.1 < basisCopies) fun e => match s.resolve e.2 with
                  | some k => freeFrame k
                  | none => nop]
              else (takeSampler s h tbl.tenant tbl.sampler).getD (allocFailed h 0 samplerPlace .generation (s.group tbl.tenant)),
              settleHeld h, raiseSteps h m.stepFloor c.layers, fromHome m,
              when (!own && m.source != 0) (addFetch h m.source false),
              when (phase == .generating) (tryAlloc h)]
    | _ => fromHome m])

/-! ### Closing (R14) -/

/-- A job of a request that closes: one that has not begun, or is between sub-jobs, ends with INVALID, and one that runs in several
sub-jobs when its sub-job ends (R14). -/
def closeJob (id : Nat) (j : Job) : Act :=
  if !jobRuns j then endJob id St.invalid
  else match j.st with
    | .between => endJob id St.invalid
    | .running => when (1 < j.subs) (modJob id fun j => { j with endWith := some St.invalid })
    | _ => nop

/-- CLOSE: what has not begun ends with INVALID, what runs ends as R14 says, and then everything of the request is freed. -/
def actClose (m : Msg) : Act := atChip false m (acts [fromHome m, look fun s =>
  let h := m.handle
  match s.loc h with
  | none => nop
  | some _ =>
    acts [modLoc h (fun c => { c with closing := true }),
          each (s.body.jobs.jobs.filter fun e => e.2.d.handle == h && ofRequest e.2.d.op) (fun e => closeJob e.1 e.2),
          unitEnded h]])

/-! ### Fetches (R184) -/

/-- FETCH_START: a Fetch that waits starts, in the order of R184. -/
def actFetchStart : Act := startFetches 1

/-- TOKEN_RESULT (R160, R162): the home's answer to a sample; a stale owner stops writing and queries (R181). -/
def actTokenResult (m : Msg) : Act := atChip true m (acts [fromHome m, tokenResult m, look fun s =>
  match s.loc m.handle with
  | some c => match c.st with
    | .owner e => when (m.status == St.staleEpoch) (acts [modLoc m.handle (fun c => { c with st := .waiting e }), sendQuery m.handle e])
    | _ => nop
  | none => nop])

/-! ### Executions -/
def execReqHandoff (src : Src) (s : State) := done (runOp 0x0302 src (opReqHandoff localPhase)) s
def execReqSetMirror (src : Src) (s : State) := done (runOp 0x0309 src (opReqSetMirror setMirror)) s
def execHandoffStart (m : Msg) (s : State) :=
  done (when (m.wf) (actHandoffStart m)) s
def execOffer (m : Msg) (tbl : GivenTable) (s : State) :=
  done (when (m.wf) (actOffer m tbl)) s
def execOfferAck (m : Msg) (s : State) :=
  done (when (m.wf) (actOfferAck m)) s
def execCasResult (m : Msg) (s : State) :=
  done (when (m.wf) (actCasResult m)) s
def execLeashRelease (m : Msg) (s : State) :=
  done (when (m.wf) (actLeashRelease m)) s
def execQueryResult (m : Msg) (s : State) :=
  done (when (m.wf) (actQueryResult m)) s
def execHandoffCancel (m : Msg) (s : State) :=
  done (when (m.wf) (actHandoffCancel m)) s
def execHoldFree (m : Msg) (s : State) :=
  done (when (m.wf) (actHoldFree m)) s
def execLeashGrant (m : Msg) (tbl : GivenTable) (s : State) :=
  done (when (m.wf) (actLeashGrant m tbl)) s
def execTokenResult (m : Msg) (s : State) :=
  done (when (m.wf) (actTokenResult m)) s
def execClose (m : Msg) (s : State) :=
  done (when (m.wf) (actClose m)) s
def execOfferTimeout (h : Nat) (s : State) :=
  done (when (handleWf h) (actOfferTimeout h)) s
def execCasTimeout (h : Nat) (s : State) :=
  done (when (handleWf h) (actCasTimeout h)) s
def execHandoffLimit (h : Nat) (s : State) :=
  done (when (handleWf h) (actHandoffLimit h)) s
def execFetchStart (s : State) := done actFetchStart s
def execFetchComplete (h : Nat) (s : State) :=
  done (when (handleWf h) (fetchComplete h)) s

end Sys2Proof.Machine
end

