-- ==== Sys2Proof/Machine/PageRows.lean ====
section
/-! DEFINITION. The rows of state memory and of coherence: far reads, retries and backups (R32, R39, R44, R46, R198), migration
(R51 to R53, 02_state_memory.md), the frame home and its directory, readers and their remote page cache, fences (R214 to R221,
08_fabric_memory_semantics.md), and the end of a first pass (R132, R134, 05_transcoder.md). -/

namespace Sys2Proof.Machine

/-! What an answer to an access says (R205, R207, R213). -/
namespace Ans
def ok : Nat := 0
def range : Nat := 1
def reject : Nat := 2
def ue : Nat := 3
def windowFault : Nat := 4
def timeout : Nat := 5
def notSealed : Nat := 6
def genStale : Nat := 7
def crc : Nat := 8
/-- a device without a frame for a copy -/
def noFrame : Nat := 9
end Ans

/-! ### What waits -/

/-- Waiting jobs read what they miss. -/
def refeed : Act := look fun s => each (s.body.jobs.jobs.filter fun e => e.2.st == .waiting) fun e => acts [feedJob e.1, endFailed e.1]

/-- A read is over and its frame is given up, with the entry of the remote page cache it was to fill. -/
def giveUpRead (tag : Nat) : Act := look fun s =>
  match tget s.body.pages.reads tag with
  | none => nop
  | some r => acts [dropRead tag, when r.tracked (onCoh fun c => { c with cache := tdel c.cache r.src }),
                    when (r.mov.isNone && !(s.body.pages.reads.any fun e => e.1 != tag && e.2.dst == r.dst)) (freeFrame r.dst)]

/-- A page of a request is lost (R40, R46): waiting jobs that need it end with FAILED_REPLAY_PENDING, and at the request's home a
replay from its first position is pending. -/
def pageLost (h l i : Nat) : Act := look fun s =>
  let needing := s.body.jobs.jobs.filter fun e =>
    e.2.d.handle == h && e.2.d.layer == l && e.2.st == .waiting && (jobNeeds s e.2).contains i
  acts [match s.req h, (s.loc h).bind s.locModel with
        | some q, some m =>
          let r := q.record
          let r1 := { r with replayPending := true, replaying := false, replayFrom := min (i * 2 ^ m.pLog2) (replayEnd r), replayTo := replayEnd r }
          when (!r.replayPending) (acts [putReq h { q with record := r1 }, count Reg.RQT_REPLAY_REQ 1,
                                         raiseWith Blk.rqt 4 { handle := h, epoch := r.epoch }])
        | _, _ => nop,
        each needing fun e => endJob e.1 St.replayPending]

/-- The copy of a page at the request's state mirror that the mirror has acknowledged (R188). -/
def mirrorCopyOf (s : State) (h l i : Nat) : Option Nat :=
  (s.loc h).bind fun c => if c.stateMirror.isNone then none else ((c.layer l).ackPages.find? fun a => a.1 == i).map (·.2)

/-- The page is read from the state mirror's copy instead. -/
def readMirror (tag : Nat) (r : PageRead) (ref : Nat) : Act := look fun s =>
  acts [dropRead tag, when r.tracked (onCoh fun c => { c with cache := tdel c.cache r.src }),
        newRead { r with src := ref, backup := true, tracked := false, issued := s.body.tick }, sendFetch ref]

/-- A read that cannot be corrected (R32, R46): from the mirror's copy where there is one, otherwise the page is lost. -/
def readFailed (tag : Nat) : Act := look fun s =>
  match tget s.body.pages.reads tag with
  | none => nop
  | some r =>
    if r.void then dropRead tag
    else if (s.body.pages.reads.any fun e => e.1 != tag && e.2.dst == r.dst && !e.2.void) then dropRead tag
    else match (if r.backup then none else mirrorCopyOf s r.handle r.layer r.index) with
      | some ref => readMirror tag r ref
      | none => acts [giveUpRead tag, pageLost r.handle r.layer r.index]

/-- The first copy of a page that has come makes every other read of it void (R198). -/
def voidOthers (tag : Nat) (r : PageRead) : Act := onPages fun p =>
  { p with reads := p.reads.map fun e => if e.1 ≠ tag ∧ e.2.dst = r.dst then (e.1, { e.2 with void := true }) else e }

/-- A page has come by a read: a backup that came first is counted (R198). -/
def wonRead (tag : Nat) (r : PageRead) : Act := look fun s =>
  acts [when (r.backup && s.body.pages.reads.any fun e => e.1 != tag && e.2.dst == r.dst && !e.2.void) (count Reg.RQT_BACKUP_WON 1),
        voidOthers tag r, dropRead tag]

/-! ### Far reads (R32, R44, R46) -/

/-- How a far-state read ended: corrected data, or an error the controller could not correct. -/
abbrev FarResult := Bool

/-- A far read that has failed for good: the region of 64 MiB is mapped into the spare reserve while it has any (R46, R387). -/
def farUe (k : Nat) : Act := acts [raiseWith Blk.stm 2 { addr := k }, useSpare 8 (keyFrame k / 2048)]

/-- FAR_READ_DONE: a far read completes, with corrected data or not. `refresh` of the ticks waited were behind refresh (R49). A first
failure is retried once. -/
def actFarReadDone (tag : Nat) (good : FarResult) (refresh : Nat) : Act := look fun s =>
  match tget s.body.pages.reads tag with
  | none => nop
  | some r =>
    if refChip r.src ≠ s.chipId ∨ 1 < refTier r.src then nop
    else if r.void then acts [count Reg.RQT_BACKUP_DISCARD 1, dropRead tag]
    else match s.resolve r.src, s.frame r.dst with
      | some fk, some d =>
        if keyTier fk = 0 then acts [giveUpRead tag, refeed]
        else match s.frame fk with
          | none => giveUpRead tag
          | some f =>
            if !good then
              if !r.retried then acts [stallSync refresh, onPages fun p => { p with reads := tmod p.reads tag fun x => { x with retried := true } },
                                       stallSync 0]
              else acts [stallSync refresh, farUe fk, readFailed tag, stallSync 0]
            else if (f.hdr.isSealed || f.hdr.frozen) && f.hdr.payloadCrc != pageCrc s fk f.hdr.storedLen then
              acts [stallSync refresh, count Reg.STM_CRC_FAIL 1, raiseWith Blk.stm 3 { addr := fk }, farUe fk, readFailed tag, stallSync 0]
            else acts [wonRead tag r, promote fk r.dst d.kind, afterLand refresh]
      | _, _ => acts [giveUpRead tag, refeed]

/-- BACKUP_READ_TIMER: a read of a mirrored request has not arrived for BACKUP_US: the same page is read from the state mirror's copy
under a new tag (R198). -/
def actBackupReadTimer (tag : Nat) : Act := look fun s =>
  match tget s.body.pages.reads tag with
  | none => nop
  | some r =>
    let already := s.body.pages.reads.any fun e => e.1 != tag && e.2.dst == r.dst
    match mirrorCopyOf s r.handle r.layer r.index with
    | some ref =>
      if r.backup || r.void || already then nop
      else acts [newRead { r with src := ref, backup := true, tracked := false, retried := false, issued := s.body.tick },
                 count Reg.RQT_BACKUP 1, sendFetch ref]
    | none => nop

/-- PREFETCH_RETRY: the oldest read that found no frame is tried again (R39). -/
def actPrefetchRetry : Act := look fun s =>
  match s.body.pages.retry with
  | [] => nop
  | (h, l, i) :: rest =>
    acts [onPages (fun p => { p with retry := rest }), match s.loc h with
      | none => nop
      | some c => match (c.layer l).pages[i]? with
        | none => nop
        | some r =>
          let fetching := (c.fetch.map (·.running)).getD false
          if fetching && fetchWants s c r then fetchPage h l i else prefetchPage h l i c.tenant (pageKind c.phase) r]

/-- COPYDOWN_HOLD_EXPIRY: a near frame whose copy-down found far state full may be a victim again (R39). -/
def actCopydownExpiry (k : Nat) : Act := modFrame k fun f => { f with holdUntil := 0 }

/-! ### Migration (R51 to R53) -/

/-- Tombstones of this chip. -/
def tombstones (s : State) : Nat :=
  (s.body.pages.frames.filter fun e => (e.2.mig.map (·.st)) == some .tombstone).length

/-- A migration start is refused with BUSY_RETRY, told to the firmware that asked for it. -/
def refuseMig : Act := look fun s => emit (.answer s.member 0 St.busyRetry [])

/-- Whether a frame of this chip may be taken as a destination. -/
def destOk (s : State) (dst : Nat) : Bool :=
  if refChip dst = s.chipId then refTier dst ≤ 1 && s.mayAlloc (fkey (refTier dst) (refFrame dst)) else s.inPod (refChip dst)

/-- MIGRATION_START: a frame starts to migrate to a frame the firmware has chosen, of this chip or, opened there, of another. It is refused
where the frame is pinned or migrates already, at MAX_ACTIVE, at 4,096 tombstones, or while a step job reads a prefix page (R35, R51 to
R53). -/
def actMigrationStart (k dst : Nat) : Act := look fun s =>
  match s.frame k with
  | none => nop
  | some f =>
    let read := f.hdr.shared && s.body.pages.busy.any fun b => b.2 == k
    if f.hdr.pinned || f.mig.isSome || f.staging || read || s.get Fld.STM_MIG_CTL_MAX_ACTIVE ≤ s.get Fld.STM_STATUS_MIG_ACTIVE
        || 4096 ≤ tombstones s || !destOk s dst then refuseMig
    else
      let dk := fkey (refTier dst) (refFrame dst)
      let here := refChip dst = s.chipId
      let ref := if here then mkRef s.chipId (refTier dst) (refFrame dst) (s.gen dk) else dst
      acts [when here (takeFrame dk { hdr := stagingHdr s f.hdr.owner f.hdr.layer f.hdr.tenant, kind := f.kind, staging := true }),
            modFrame k (fun x => { x with mig := some { st := .migrating, dst := ref }, hdr := { x.hdr with migrating := true } }),
            bumpFld Fld.STM_STATUS_MIG_ACTIVE 1]

/-- Every place that names a frame names another instead. -/
def moveRefs (old new ok nk : Nat) : Act :=
  let sub (r : Nat) : Nat := if r = old then new else r
  let key (k : Nat) : Nat := if k = ok then nk else k
  acts [renameRef old new, onBody fun b => { b with
    locs := b.locs.map fun e => (e.1, { e.2 with
      copies := e.2.copies.map fun c => (c.1, sub c.2)
      layers := e.2.layers.map fun l => (l.1, { l.2 with stage := l.2.stage.map key, bases := l.2.bases.map fun x => (x.1, sub x.2) }) })
    pages := { b.pages with frames := b.pages.frames.map fun e => (e.1, { e.2 with
      hdr := { e.2.hdr with lrBasisRef := sub e.2.hdr.lrBasisRef, basisNext := sub e.2.hdr.basisNext, backingRef := sub e.2.hdr.backingRef } }) }
    sampling := { b.sampling with emb := b.sampling.emb.map fun e => (e.1, key e.2) } }]

/-- The frame's content as its destination holds it: in far state after a move from near state, in its far-state form (R136); the
references on the page move with it, those on its basis too. -/
def migContent (k dk : Nat) (f : Frame) : Act := look fun s =>
  let far := keyTier k == 0 && keyTier dk == 1 && basisReady s f && !f.hdr.basis && f.hdr.isSealed
  let plain := acts [copyMem (payloadAt k) (payloadAt dk) 32768, copyMem (scaleAt k) (scaleAt dk) 1024,
    modFrame dk fun x => { x with storeTarget := f.storeTarget, hdr := { f.hdr with
      pageRef := s.refOf dk, allocTick := x.hdr.allocTick, migrating := false, backingRef := if keyTier dk = 0 then f.hdr.backingRef else 0 } }]
  acts [if far && !f.hdr.lowRank then
          acts [putForm dk f (farFormOver s k f none), modFrame dk fun x => { x with staging := true, hdr := { x.hdr with
            refCount := f.hdr.refCount, migrating := false } }]
        else plain,
        modHdr k fun h => { h with refCount := 0, lrBasisRef := 0, backingRef := 0 }]

/-- The far frame that backed a near copy goes where the near copy has left near state (R44). -/
def freeBacking (f : Frame) (dstNear : Bool) : Act := look fun s =>
  if f.hdr.backingRef = 0 || dstNear then nop
  else match s.resolve f.hdr.backingRef with
    | some b => freeFrame b
    | none => nop

/-- MIGRATION_COPY_COMPLETE: the copy is whole: the frame is BLOCKED, the page list and the headers name the destination, readers are
invalidated (R51, R217). A frame that a running job or an unfinished read names is copied on until it is named no more (DESIGN CHOICE,
log entry 21). -/
def actMigrationCopyComplete (k : Nat) : Act := look fun s =>
  match s.frame k with
  | none => nop
  | some f => match f.mig with
    | none => nop
    | some m =>
      if m.st ≠ .migrating ∨ s.body.pages.busy.any (fun b => b.2 == k) = true then nop
      else
        let blocked := modFrame k fun x => { x with mig := some { m with st := .blocked } }
        match s.exact m.dst with
        | some dk =>
          acts [migContent k dk f, moveRefs (s.refOf k) m.dst k dk, freeBacking f (keyTier dk == 0), blocked, dirEvent k false]
        | none =>
          let member := (s.chipMember (refChip m.dst)).getD 0
          acts [emit (.coh member { type := .pageData, sender := s.member, refs := [m.dst] } (some f.hdr)
                  (s.bytes (payloadAt k) f.hdr.storedLen) (s.bytes (scaleAt k) 1024)),
                when (0 < f.hdr.refCount) (eff (.refDrop f.hdr.refCount)),
                when (f.hdr.lowRank && f.hdr.lrBasisRef != 0) (dropBasis f.hdr.lrBasisRef),
                modHdr k (fun h => { h with refCount := 0, lrBasisRef := 0, backingRef := 0 }),
                moveRefs (s.refOf k) (holdRef m.dst) k k, freeBacking f false, blocked, dirEvent k false]

/-- MIGRATION_DEST_FAIL: the destination is lost: the migration is abandoned, the frame stays (R51). -/
def actMigrationDestFail (k : Nat) : Act := look fun s =>
  match s.frame k with
  | none => nop
  | some f => match f.mig with
    | none => nop
    | some m =>
      if m.st ≠ .migrating then nop
      else acts [match s.exact m.dst with | some d => freeEntry d | none => nop,
                 modFrame k (fun x => { x with mig := none, hdr := { x.hdr with migrating := false } }),
                 count Reg.STM_MIG_ABORT 1, dropFld Fld.STM_STATUS_MIG_ACTIVE 1,
                 -- updates held for the full log are applied where the frame stays
                 each m.heldUpds fun u => match u with
                   | .refs n => if 0 ≤ n then takeRef (s.refOf k) else dropRef (s.refOf k)
                   | .seal => sealPage k
                   | .freeze => freezePage k
                   | .append _ => nop,
                 resumeAll f.hdr.owner]

/-- TRACKER_GEN_ADVANCE: the tracker generation advances; a tombstone whose every holder has a later generation than its flip goes
(R51). Holders are the running jobs and mover descriptors and what they name. -/
def actTrackerAdvance : Act := acts [
  look fun s => setReg Reg.STM_TRACKER_GEN (wrapAdd 32 (s.rd Reg.STM_TRACKER_GEN) 1),
  look fun s =>
    let now := s.rd Reg.STM_TRACKER_GEN
    -- ages, so that the 32-bit generations may wrap
    let age (g : Nat) : Nat := (now + 2 ^ 32 - g) % 2 ^ 32
    let holders := (s.body.jobs.jobs.filter fun e => e.2.st == .running).map (fun e => age e.2.gen)
      ++ s.body.mover.live.map fun e => age e.2.gen
    each s.body.pages.frames fun e => match e.2.mig with
      | some m =>
        if m.st = .tombstone ∧ 0 < age m.flipGen ∧ (holders.all fun a => a < age m.flipGen) = true
            ∧ (s.body.pages.busy.any fun b => b.2 == e.1) = false then
          acts [modFrame e.1 (fun x => { x with mig := none }), freeEntry e.1, dropFld Fld.STM_STATUS_TOMBSTONES 1]
        else nop
      | none => nop]

/-! ### The frame home (R214 to R218, R221) -/

/-- The set of a frame's directory entry (R216). -/
def dirSet (k : Nat) : Nat := Config.dirHash k % 65536

/-- An answer to a page read. -/
def answerRead (tgt : Nat) (t : CohType) (ref : Nat) : Act := look fun s =>
  emit (.coh tgt { type := t, sender := s.member, refs := [ref] } none [] [])

/-- PAGE_DATA of a frame: an open tail as a snapshot of what it holds now (R214). -/
def sendPage (tgt ref k : Nat) : Act := look fun s =>
  match s.frame k with
  | none => nop
  | some f =>
    let hdr := if f.hdr.isSealed || f.hdr.frozen then f.hdr else { f.hdr with payloadCrc := pageCrc s k f.hdr.storedLen }
    emit (.coh tgt { type := .pageData, sender := s.member, refs := [ref] } (some hdr)
      (s.bytes (payloadAt k) f.hdr.storedLen) (s.bytes (scaleAt k) 1024))

/-- A directory entry is made or grows by a reader. -/
def grantReader (k r : Nat) : Act := look fun s =>
  let n := s.body.coh.grantSeq + 1
  onCoh fun c => { c with grantSeq := n, dir := match tget c.dir k with
    | some d => tput c.dir k { d with readers := nub (d.readers ++ [r]), granted := n }
    | none => tput c.dir k { gen := s.gen k, readers := [r], granted := n } }

/-- A tracked read finds its set full: the least recently granted entry that is not BLOCKED is evicted, and the read waits (R216). -/
def evictEntry (k : Nat) (w : WaitRead) : Act := look fun s =>
  let free := s.body.coh.dir.filter fun e => dirSet e.1 == dirSet k && !e.2.blocked
  acts [onCoh (fun c => { c with waitWay := c.waitWay ++ [w] }), match free with
    | [] => nop
    | e :: l =>
      let v := l.foldl (fun m x => if x.2.granted < m.2.granted then x else m) e
      acts [count Reg.MOV_DIR_EVICT 1, dirEvent v.1 false]]

/-- One page read at its frame's home (R214, R218). A read of the destination of a BLOCKED migration waits for the flip, like one of its
source (R51). -/
def servePage (w : WaitRead) : Act := look fun s =>
  let stale := acts [count Reg.MOV_GEN_STALE 1, answerRead w.reader .genStale w.ref]
  if s.body.coh.fenced.contains w.reader then sendCoh w.reader .fenced 0 []
  else match s.exact w.ref with
    | none => stale
    | some k => match s.frame k with
      | none => stale
      | some f =>
        let waitAt (src : Nat) : Act := modFrame src fun x => { x with mig := x.mig.map fun m => { m with waits := m.waits ++ [w] } }
        match f.mig.map (·.st), f.mig with
        | some MigSt.tombstone, some m =>
          acts [count Reg.STM_TOMB_FWD 1,
            if refChip m.dst = s.chipId then match s.exact m.dst with
              | none => stale
              | some d => acts [when w.tracked (grantReader d w.reader), sendPage w.reader w.ref d]
            else emit (.coh ((s.chipMember (refChip m.dst)).getD 0)
              { type := .pageRead, tracked := w.tracked, sender := w.reader, refs := [m.dst] } none [] [])]
        | some MigSt.blocked, _ => waitAt k
        | _, _ =>
          if f.staging then
            match s.body.pages.frames.find? fun e => match e.2.mig with
              | some m => m.st == .blocked && m.dst == w.ref
              | none => false with
            | some e => waitAt e.1
            | none => stale
          else
            let tail := !f.hdr.isSealed && !f.hdr.frozen
            match tget s.body.coh.dir k with
            | some d =>
              if d.blocked then onCoh fun c => { c with dir := tput c.dir k { d with queue := d.queue ++ [w] } }
              else if !w.tracked then (if tail then answerRead w.reader .notSealed w.ref else sendPage w.reader w.ref k)
              else acts [grantReader k w.reader, sendPage w.reader w.ref k]
            | none =>
              if !w.tracked then (if tail then answerRead w.reader .notSealed w.ref else sendPage w.reader w.ref k)
              else if 16 ≤ (s.body.coh.dir.filter fun e => dirSet e.1 == dirSet k).length then evictEntry k w
              else acts [grantReader k w.reader, sendPage w.reader w.ref k]

/-- PAGE_READ arrives. -/
def actPageRead (m : CohMsg) : Act := each m.refs fun r => servePage { reader := m.sender, tracked := m.tracked, ref := r }

/-- The last reader of a BLOCKED frame has answered: its entry goes, what waited is served in order, and local commits go on (R218). -/
def unblock (k : Nat) : Act := look fun s =>
  match tget s.body.coh.dir k with
  | none => nop
  | some d =>
    let ways := s.body.coh.waitWay.filter fun w => dirSet (fkey (refTier w.ref) (refFrame w.ref)) == dirSet k
    acts [onCoh (fun c => { c with dir := tdel c.dir k,
                                   waitWay := c.waitWay.filter fun w => dirSet (fkey (refTier w.ref) (refFrame w.ref)) != dirSet k }),
          each d.queue servePage, each ways servePage,
          match s.frame k with | some f => resumeAll f.hdr.owner | none => nop]

/-- A member holds a page no more: by INVAL_ACK, DROP or a fence. -/
def readerGone (r ref : Nat) : Act := look fun s =>
  let k := fkey (refTier ref) (refFrame ref)
  match tget s.body.coh.dir k with
  | none => nop
  | some d =>
    if d.gen ≠ refGen ref then nop
    else if d.blocked then
      if !d.pending.contains r then nop
      else
        let left := d.pending.filter (· != r)
        acts [onCoh (fun c => { c with dir := tput c.dir k { d with pending := left, readers := d.readers.filter (· != r) } }),
              when left.isEmpty (unblock k)]
    else
      let left := d.readers.filter (· != r)
      onCoh fun c => { c with dir := if left.isEmpty then tdel c.dir k else tput c.dir k { d with readers := left } }

/-- INVAL_ACK arrives. -/
def actInvalAck (m : CohMsg) : Act := each m.refs (readerGone m.sender)

/-- A free way of a set serves the reads that wait for one (R216). -/
def serveWays : Act := look fun s =>
  let ready := s.body.coh.waitWay.filter fun w =>
    (s.body.coh.dir.filter fun e => dirSet e.1 == dirSet (fkey (refTier w.ref) (refFrame w.ref))).length < 16
  acts [onCoh (fun c => { c with waitWay := c.waitWay.filter fun w => !ready.contains w }), each ready servePage]

/-- DROP arrives: a reader evicted its copy. A way that it frees serves a read that waits for one (R216). -/
def actDrop (m : CohMsg) : Act := acts [each m.refs (readerGone m.sender), serveWays]

/-- This chip fences a member (R221). -/
def fenceReader (r : Nat) : Act :=
  acts [onCoh (fun c => { c with fenced := nub (c.fenced ++ [r]) }), sendCoh r .fenceNotice 0 [], count Reg.MOV_FENCED 1,
        raiseWith Blk.mov 5 { unit := r }]

/-- INVAL_TIMEOUT: readers of a BLOCKED frame have not answered: INVAL again, and at the second expiry they are fenced and count as having
answered (R218). -/
def actInvalTimeout (k : Nat) : Act := look fun s =>
  match tget s.body.coh.dir k with
  | none => nop
  | some d =>
    if !d.blocked then nop
    else
      let ref := mkRef s.chipId (keyTier k) (keyFrame k) d.gen
      if !d.resent then acts [each d.pending (sendInval ref), onCoh fun c => { c with dir := tmod c.dir k fun x => { x with resent := true } }]
      else acts [each (d.pending.filter fun r => !s.body.coh.fenced.contains r) fenceReader, each d.pending fun r => readerGone r ref]

/-- FLUSH_DONE arrives: the fence on its sender is cleared. -/
def actFlushDone (m : CohMsg) : Act := onCoh fun c => { c with fenced := c.fenced.filter (· != m.sender) }

/-- MIGRATION_FLIP_DONE: the flip is over: the frame is a tombstone, the destination in use, held updates and what waited go on (R51). -/
def actMigrationFlipDone (k : Nat) : Act := look fun s =>
  match s.frame k with
  | none => nop
  | some f => match f.mig with
    | none => nop
    | some m =>
      if m.st ≠ .blocked then nop
      else acts [
        modFrame k (fun x => { x with mig := some { m with st := .tombstone, flipGen := s.rd Reg.STM_TRACKER_GEN, log := [], heldUpds := [],
                                                            waits := [] } }),
        match s.exact m.dst with
        | some dk => acts [modFrame dk (fun x => { x with staging := false }),
            each m.heldUpds fun u => match u with
              | .refs n => if 0 ≤ n then takeRef m.dst else dropRef m.dst
              | .seal => sealPage dk
              | .freeze => freezePage dk
              | .append _ => nop]
        | none => nop,
        count Reg.STM_MIG_COMMIT 1, dropFld Fld.STM_STATUS_MIG_ACTIVE 1, bumpFld Fld.STM_STATUS_TOMBSTONES 1,
        each m.waits servePage, resumeAll f.hdr.owner, afterLand 0, refeed]

/-! ### The reader (R215, R219) -/

/-- INVAL arrives: a fill is marked, an entry in use is hidden, another goes; it is acknowledged at once. -/
def actInval (m : CohMsg) : Act := acts [count Reg.MOV_INVAL_RECV 1,
  each m.refs fun r => look fun s => match tget s.body.coh.cache r with
    | none => nop
    | some c => match c.st with
      | .filling _ => onCoh fun x => { x with cache := tput x.cache r { c with st := .filling true } }
      | .valid =>
        if s.body.pages.busy.any (fun b => b.2 == c.key) then onCoh fun x => { x with cache := tput x.cache r { c with st := .doomed } }
        else acts [onCoh (fun x => { x with cache := tdel x.cache r }), freeFrame c.key]
      | .doomed => nop,
  look fun s => emit (.coh m.sender { type := .invalAck, sender := s.member, seq := m.seq, refs := m.refs } none [] []),
  refeed]

/-- A fence of a home is met: its entries go, those in use when their jobs end, and reads that wait are sent again (R219, R221). -/
def metFence (home : Nat) : Act := acts [
  raiseWith Blk.mov 6 { unit := home },
  look fun s => each (s.body.coh.cache.filter fun e => e.2.home == home) fun e => match e.2.st with
    | .valid =>
      if s.body.pages.busy.any (fun b => b.2 == e.2.key) then onCoh fun x => { x with cache := tput x.cache e.1 { e.2 with st := .doomed } }
      else acts [onCoh (fun x => { x with cache := tdel x.cache e.1 }), freeFrame e.2.key]
    | _ => nop,
  sendCoh home .flushDone 0 [],
  look fun s => each (s.body.pages.reads.filter fun e => s.chipMember (refChip e.2.src) == some home && !e.2.void) fun e =>
    if e.2.tracked then sendRead e.2.src true else sendFetch e.2.src,
  refeed]

/-- FENCE_NOTICE and FENCED arrive. -/
def actFenceNotice (m : CohMsg) : Act := metFence m.sender
def actFenced (m : CohMsg) : Act := metFence m.sender

/-- A page has another reference than this chip's page lists and reads say. -/
def movedRef (old new : Nat) : Act :=
  let sub (r : Nat) : Nat := if r = old then new else r
  acts [renameRef (holdRef old) (holdRef new), renameRef old new, onBody fun b => { b with
    pages := { b.pages with reads := b.pages.reads.map fun e => (e.1, { e.2 with src := sub e.2.src }) }
    coh := { b.coh with cache := match tget b.coh.cache old with
      | some c => tput (tdel b.coh.cache old) new c
      | none => b.coh.cache } }]

/-- GEN_STALE arrives: the frame is freed, and the page resolved again through its page list: `found` says what that list names now in
place of an old reference; jobs of a page that cannot be resolved end with INVALID (R52, R219). -/
def actGenStale (mov : Nat → Nat → Act) (m : CohMsg) (found : List (Nat × Nat)) : Act := each m.refs fun r => look fun s =>
  let reads := s.body.pages.reads.filter fun e => e.2.src == r
  acts [each reads (fun e => match e.2.mov with
          | some id => acts [dropRead e.1, mov id St.invalid]
          | none => giveUpRead e.1),
        match tget found r with
        | some new => acts [movedRef r new, each (reads.filter fun e => e.2.forFetch) fun e => fetchPage e.2.handle e.2.layer e.2.index]
        | none => each (s.body.jobs.jobs.filter fun e => e.2.st == .waiting && (jobPages s e.2).any fun p => readRef s p.2 == r) fun e =>
            endJob e.1 St.invalid,
        refeed]

/-- NOT_SEALED arrives: the page is read again later (R214, R219). -/
def actNotSealed (mov : Nat → Nat → Act) (m : CohMsg) : Act := each m.refs fun r => look fun s =>
  each (s.body.pages.reads.filter fun e => e.2.src == r) fun e => match e.2.mov with
    | some id => acts [dropRead e.1, mov id St.invalid]
    | none => acts [giveUpRead e.1, addRetry e.2.handle e.2.layer e.2.index]

/-! ### PAGE_DATA -/

/-- A low-rank page has come before its basis: the basis frames are read first, into the tier of the page's frame, and the page again
after them (R135). -/
def readBasisFirst (tag : Nat) (r : PageRead) (hdr : PageHeader) : Act := look fun s =>
  match s.frame r.dst with
  | none => dropRead tag
  | some f =>
    let wait := onPages fun p => { p with reads := tmod p.reads tag fun x => { x with needs := true } }
    let i := basisIndex hdr.basisSeq 0
    if s.body.pages.reads.any fun e => e.2.handle == r.handle && e.2.layer == r.layer && e.2.index / 2 == i / 2 then wait
    else
      let place := if keyTier r.dst = 1 then placeFar s f.kind f.hdr.group
        else nearBasisPlace r.handle r.layer hdr.basisSeq f.hdr.group f.kind s 0
      match place with
      | none => acts [allocFailed r.handle r.layer i f.kind f.hdr.group, giveUpRead tag, addRetry r.handle r.layer r.index]
      | some (k, a) =>
        acts [wait, a, takeFrame k { hdr := stagingHdr s r.handle r.layer f.hdr.tenant, kind := f.kind, staging := true },
              newRead { src := hdr.lrBasisRef, dst := k, handle := r.handle, layer := r.layer, index := i, forFetch := r.forFetch,
                        issued := s.body.tick }, sendFetch hdr.lrBasisRef]

/-- Far bases of a layer that its list does not hold join it. -/
def addBases (h l : Nat) : Act := look fun s =>
  let new (y : Layer) : List (Nat × Nat) := (farBases s h l).filter fun b => !y.bases.any fun x => x.1 == b.1
  modLayer h l fun y => { y with bases := y.bases ++ new y }

/-- The basis of a layer is here: its far copy joins the layer's bases, and the pages that waited for it are read again. -/
def basisLanded (h l : Nat) : Act := look fun s =>
  acts [addBases h l,
        each (s.body.pages.reads.filter fun e => e.2.needs && e.2.handle == h && e.2.layer == l) fun e =>
          acts [onPages (fun p => { p with reads := tmod p.reads e.1 fun x => { x with needs := false } }),
                if e.2.tracked then sendRead e.2.src true else sendFetch e.2.src]]

/-- A basis frame has come: the second one is read after the first and linked to it. -/
def landBasis (tag : Nat) (r : PageRead) (hdr : PageHeader) (data scale : List Byte) : Act := look fun s =>
  match s.frame r.dst with
  | none => dropRead tag
  | some f =>
    let fill := acts [wonRead tag r, fillFrame r.dst { f with hdr := { f.hdr with refCount := 0 } } { hdr with basisNext := 0 } data scale]
    if r.index % 2 = 1 then
      let first := s.body.pages.frames.find? fun e => e.2.staging && e.2.hdr.basis && e.2.hdr.owner == hdr.owner && e.2.hdr.layer == hdr.layer
        && e.2.hdr.basisSeq == hdr.basisSeq && keyTier e.1 == keyTier r.dst
      acts [fill, match first with
        | some e => modFrame e.1 fun x => { x with staging := false, hdr := { x.hdr with basisNext := s.refOf r.dst } }
        | none => nop, basisLanded r.handle r.layer]
    else if hdr.basisNext = 0 then acts [fill, basisLanded r.handle r.layer]
    else
      let place := if keyTier r.dst = 1 then placeFar s f.kind f.hdr.group
        else nearBasisPlace r.handle r.layer hdr.basisSeq f.hdr.group f.kind s 1
      match place with
      | none => acts [allocFailed r.handle r.layer r.index f.kind f.hdr.group, giveUpRead tag]
      | some (k, a) =>
        acts [fill, modFrame r.dst (fun x => { x with staging := true }),
              a, takeFrame k { hdr := stagingHdr s r.handle r.layer f.hdr.tenant, kind := f.kind, staging := true },
              newRead { src := hdr.basisNext, dst := k, handle := r.handle, layer := r.layer, index := r.index + 1, forFetch := r.forFetch,
                        issued := s.body.tick }, sendFetch hdr.basisNext]

/-- A low-rank page's frame names the basis here and holds its reference on it (R135). -/
def linkBasis (k : Nat) (hdr : PageHeader) : Act := look fun s =>
  if !hdr.lowRank then nop
  else match basisCopy s hdr.owner hdr.layer hdr.basisSeq (keyTier k) with
    | some b => acts [modHdr k (fun h => { h with lrBasisRef := s.refOf b }), modHdr b (fun h => { h with refCount := h.refCount + 1 }),
                      eff (.refTake 1)]
    | none => nop

/-- A page's data have come for a read of a Fetch, of the prefetch schedule or of a job. -/
def landPage (tag : Nat) (r : PageRead) (hdr : PageHeader) (data scale : List Byte) : Act := look fun s =>
  match s.frame r.dst with
  | none => dropRead tag
  | some f =>
    if hdr.basis && 65536 ≤ r.index then landBasis tag r hdr data scale
    else if hdr.lowRank && (basisCopy s hdr.owner hdr.layer hdr.basisSeq (keyTier r.dst)).isNone then readBasisFirst tag r hdr
    else
      let fill := acts [wonRead tag r, fillFrame r.dst f { hdr with pinned := false, migrating := false } data scale, linkBasis r.dst hdr]
      if r.tracked || f.kind == .remoteCache then
        let marked := (tget s.body.coh.cache r.src).map (·.st) == some (.filling true)
        let put (st : CacheSt) : Act := onCoh fun c => { c with cache := tmod c.cache r.src fun x => { x with st := st } }
        acts [fill, put .valid, afterLand 0, when marked (acts [put .doomed, reapDoomed])]
      else if keyTier r.dst = 1 then acts [fill, settleFar r.dst, afterLand 0]
      else acts [fill, fetchedPage r.handle r.layer r.index r.dst hdr.storedLen, afterLand 0]

/-- A page copied into a frame of this chip: to the state mirror of a request (R188), whose firmware opens a frame, or to an open store
target a COPY_PAGE names (R226). What the copy's end says goes back to its sender. -/
def mirrorCopy (m : CohMsg) (hdr : PageHeader) (data scale : List Byte) : Act := look fun s =>
  let answer (st : Nat) (d : List Byte) : Act := emit (.answer m.sender m.seq st d)
  if !dataCrcOk hdr data scale then acts [count Reg.STM_CRC_FAIL 1, raise Blk.stm 3, answer Ans.crc []]
  else
    let index := if hdr.posCount = 0 ∧ hdr.basis = false then samplerIndex else hdr.firstPos / 2 ^ hdr.pLog2
    let dup := if hdr.basis ∧ hdr.basisNext ≠ 0 then basisCopy s hdr.owner hdr.layer hdr.basisSeq 1 else none
    match dup with
    | some b => answer Ans.ok (leBytes 8 (s.refOf b))
    | none => match placeFar s .cache (s.group hdr.tenant) with
      | none => acts [count Reg.STM_ALLOC_FAIL 1, answer Ans.noFrame []]
      | some (k, a) =>
        let key := if hdr.basis then basisCopies + k else hdr.layer * 65536 + index
        let next := if hdr.basis ∧ hdr.basisNext ≠ 0 then basisCopy s hdr.owner hdr.layer hdr.basisSeq 1 else none
        acts [a, takeFrame k { hdr := stagingHdr s hdr.owner hdr.layer hdr.tenant, kind := .cache },
              look fun s => match s.frame k with
                | some f => fillFrame k f { hdr with pinned := false, migrating := false, shared := false,
                                                     basisNext := match next with | some n => s.refOf n | none => 0 } data scale
                | none => nop,
              linkBasis k hdr, haveLoc hdr.owner,
              look fun s => match (s.loc hdr.owner).bind fun c => tget c.copies key with
                | some old => match s.resolve old with | some o => freeFrame o | none => nop
                | none => nop,
              look fun s => modLoc hdr.owner fun c => { c with isMirror := true, copies := tput c.copies key (s.refOf k) },
              look fun s => answer Ans.ok (leBytes 8 (s.refOf k))]

/-- Page data written into an open store target (R207, R226): the header from the source's with the frame's own PAGE_REF, checked by
R32; with HINT placed in near state as well (R223). -/
def writeTarget (k : Nat) (hdr : PageHeader) (data scale : List Byte) (hint : Bool) : Act := look fun s =>
  match s.frame k with
  | none => nop
  | some f => acts [fillFrame k f { hdr with pinned := false, migrating := false, shared := false } data scale,
                    modFrame k (fun x => { x with storeTarget := false, kind := f.kind }), linkBasis k hdr, dirEvent k false,
                    when (hint && keyTier k == 1) (look fun s =>
                      match placeNear s hdr.owner hdr.layer (hdr.firstPos / 2 ^ hdr.pLog2) f.kind f.hdr.group 4 with
                      | some (n, a) => acts [a, takeFrame n { hdr := stagingHdr s hdr.owner hdr.layer hdr.tenant, kind := f.kind },
                                             promote k n f.kind, count Reg.MOV_HINT_PLACED 1]
                      | none => count Reg.MOV_HINT_DROPPED 1)]

/-- Whether a frame is open as a store target (R207). -/
def targetOpen (s : State) (k : Nat) : Bool :=
  match s.frame k with
  | some f => f.storeTarget && !f.hdr.isSealed && !f.hdr.frozen
  | none => false

/-- PAGE_DATA: the data of a page read, or of a copy into this chip (R188, R219, R226): the message, the 256 bytes of the header, payload
and scale slot. TRACKED in a copy's message says HINT (DESIGN CHOICE, log entry 22). -/
def actPageData (mov : Nat → PageHeader → List Byte → List Byte → Act) (m : CohMsg) (hb data scale : List Byte) : Act := look fun s =>
  let hdr := hdrOf hb
  match m.refs with
  | [] => nop
  | ref :: _ =>
    if ref = 0 then mirrorCopy m hdr data scale
    else if refChip ref = s.chipId then
      match s.exact ref with
      | some k =>
        if !targetOpen s k then acts [count Reg.MOV_TGT_DISCARD 1, raise Blk.mov 2, emit (.answer m.sender m.seq Ans.reject [])]
        else if !dataCrcOk hdr data scale then acts [count Reg.STM_CRC_FAIL 1, raise Blk.stm 3, emit (.answer m.sender m.seq Ans.crc [])]
        else acts [writeTarget k hdr data scale m.tracked, emit (.answer m.sender m.seq Ans.ok [])]
      | none => acts [count Reg.MOV_TGT_DISCARD 1, raise Blk.mov 2, emit (.answer m.sender m.seq Ans.reject [])]
    else
      let mine (e : Nat × PageRead) : Bool := refChip e.2.src != s.chipId && refTier e.2.src ≤ 1 && !e.2.needs
      let found := match s.body.pages.reads.find? fun e => mine e && e.2.src == ref with
        | some e => some e
        | none => s.body.pages.reads.find? fun e => mine e && e.2.layer == hdr.layer && e.2.index == hdr.firstPos / 2 ^ hdr.pLog2
            && (e.2.handle == hdr.owner || hdr.shared)
      match found with
      | none => nop
      | some (tag, r) =>
        if r.void then acts [count Reg.RQT_BACKUP_DISCARD 1, dropRead tag]
        else if !dataCrcOk hdr data scale then
          acts [stallSync 0, count Reg.STM_CRC_FAIL 1, raise Blk.stm 3,
                match r.mov with | some id => acts [dropRead tag, mov id hdr [] []] | none => readFailed tag, stallSync 0]
        else match r.mov with
          | some id => acts [dropRead tag, mov id hdr data scale]
          | none =>
            let new := hdr.pageRef
            let moved := !r.backup && new != r.src && refTier new ≤ 1 && refChip new != s.chipId && 65536 > r.index
            acts [when moved (movedRef r.src new), look fun s => match tget s.body.pages.reads tag with
              | some r' => landPage tag r' hdr data scale
              | none => nop]

/-! ### The end of a first pass (R132, R134, R135) -/

/-- The sampled positions of a layer: of the sealed pages, every 2^LR_SAMPLE_LOG2-th. -/
def passSamples (s : State) (m : Model) (y : Layer) (log2 : Nat) : List PosKV :=
  let sealedKeys := y.pages.filterMap fun r => match placeOf s r with
    | .near k | .far k => match s.frame k with
      | some f => if f.hdr.isSealed && !f.hdr.lowRank then some (k, f) else none
      | none => none
    | _ => none
  -- positions on other chips, read for the pass, stand for a free value
  let away := y.pages.any fun r => match placeOf s r with
    | .remote _ | .kennel _ => true
    | _ => false
  let all := sealedKeys.flatMap fun e => pagePos s m e.1 e.2
  ((samplePoints all.length log2).filterMap fun i => all[i]?)
    ++ if away then [{ k := [[⟨Config.free s.body.fresh, 0⟩]], v := [] }] else []

/-- The frames of a new basis of a layer are taken and written, one or two in far state; none where there is no room (R132, R134). -/
def makeBasis (s : State) (h l : Nat) (c : Loc) (m : Model) : Option Act :=
  let y := c.layer l
  let st := buildBasis m (passSamples s m y (s.get Fld.TRC_CTL_LR_SAMPLE_LOG2))
  let seq := 1 + ((y.bases.map (·.1)) ++ (s.body.pages.frames.filter fun e => e.2.hdr.owner == h && e.2.hdr.layer == l).map (·.2.hdr.basisSeq)).foldl max 0
  let hdr (n : Nat) : PageHeader :=
    { stagingHdr s h l c.tenant with isSealed := true, basis := true, lrRank := st.rank, basisSeq := seq % 65536, storedLen := n,
                                     pLog2 := m.pLog2, rotSeedId := m.seedSlot }
  let kind := pageKind c.phase
  let put (k : Nat) (bs sc : List Byte) (next : Nat) : Act :=
    acts [takeFrame k { hdr := { hdr bs.length with basisNext := next }, kind := kind },
          clearMem (payloadAt k) 32768, clearMem (scaleAt k) 1024, store (payloadAt k) bs, store (scaleAt k) sc,
          look fun s => modHdr k fun x => { x with payloadCrc := pageCrc s k bs.length }]
  -- heads that do not fit in the first frame continue in the second
  let perHead := st.bytes.length / m.heads
  let n1 := if st.bytes.length ≤ 32768 then st.bytes.length else 32768 / perHead * perHead
  let b1 := st.bytes.take n1
  let b2 := st.bytes.drop n1
  match placeFar s kind (s.group c.tenant) with
  | none => none
  | some (k1, a1) =>
    if b2.isEmpty then some (acts [a1, put k1 b1 st.scales 0])
    else
      let first := acts [a1, put k1 b1 (st.scales.take (n1 / 32)) 0]
      (placeFar (run first s) kind (s.group c.tenant)).map fun p =>
        acts [first, p.2, put p.1 b2 (st.scales.drop (n1 / 32)) 0, look fun s => modHdr k1 fun x => { x with basisNext := s.refOf p.1 }]

/-- A first pass is over. -/
def passOver (h l : Nat) : Act :=
  acts [onPages (fun p => { p with passes := p.passes.filter (· != (h, l)) }), dropFld Fld.TRC_STATUS_PASSES_ACTIVE 1]

/-- The pages that waited for a layer's basis in far state are stored. -/
def settleWaiting (h l : Nat) : Act := look fun s =>
  each (s.body.pages.frames.filter fun e => e.2.staging && keyTier e.1 == 1 && e.2.hdr.owner == h && e.2.hdr.layer == l
    && e.2.hdr.isSealed && !s.body.pages.reads.any fun r => r.2.dst == e.1) fun e => settleFar e.1

/-- FIRST_PASS_COMPLETE: a first pass has built its basis, one or two frames in far state; the writes that waited for it proceed. -/
def actFirstPassComplete (h l : Nat) : Act := look fun s =>
  if !s.body.pages.passes.contains (h, l) then nop
  else match s.loc h with
    | none => passOver h l
    | some c => match s.locModel c with
      | none => passOver h l
      | some m => match makeBasis s h l c m with
        | none => acts [passOver h l, count Reg.STM_ALLOC_FAIL 1]
        | some a => acts [a, passOver h l, drawFree, count Reg.TRC_BASES_BUILT 1, modLayer h l (fun y => { y with lrRejects := 0 }), addBases h l,
                          settleWaiting h l]

/-! ### Executions -/
def execFarReadDone (tag : Nat) (good : Bool) (refresh : Nat) (s : State) := done (actFarReadDone tag good refresh) s
def execBackupReadTimer (tag : Nat) (s : State) := done (actBackupReadTimer tag) s
def execPrefetchRetry (s : State) := done actPrefetchRetry s
def execCopydownExpiry (k : Nat) (s : State) := done (actCopydownExpiry k) s
def execMigrationStart (k dst : Nat) (s : State) := done (actMigrationStart k dst) s
def execMigrationCopyComplete (k : Nat) (s : State) := done (actMigrationCopyComplete k) s
def execMigrationFlipDone (k : Nat) (s : State) := done (actMigrationFlipDone k) s
def execMigrationDestFail (k : Nat) (s : State) := done (actMigrationDestFail k) s
def execTrackerAdvance (s : State) := done actTrackerAdvance s
def execPageRead (m : CohMsg) (s : State) :=
  done (when (m.wf) (actPageRead m)) s
def execInval (m : CohMsg) (s : State) :=
  done (when (m.wf) (actInval m)) s
def execInvalAck (m : CohMsg) (s : State) :=
  done (when (m.wf) (actInvalAck m)) s
def execDrop (m : CohMsg) (s : State) :=
  done (when (m.wf) (actDrop m)) s
def execFenceNotice (m : CohMsg) (s : State) :=
  done (when (m.wf) (actFenceNotice m)) s
def execFenced (m : CohMsg) (s : State) :=
  done (when (m.wf) (actFenced m)) s
def execFlushDone (m : CohMsg) (s : State) :=
  done (when (m.wf) (actFlushDone m)) s
def execInvalTimeout (k : Nat) (s : State) := done (actInvalTimeout k) s
def execFirstPassComplete (h l : Nat) (s : State) :=
  done (when (handleWf h && l < 65536) (actFirstPassComplete h l)) s

end Sys2Proof.Machine
end

