-- ==== Sys2Proof/Machine/Sealing.lean ====
section
/-! DEFINITION. Security associations (R250 to R252, 09_transport_and_links.md): the pair key of two chips, the key cache, the nonce
counter. -/

namespace Sys2Proof.Machine

def onXpt (f : Xpt → Xpt) : Act := onBody fun b => { b with xpt := f b.xpt }

/-- The ASCII bytes "PARIG-SA-SALT-v1" and "PARIG-SA". -/
def saSalt : List Byte := [0x50, 0x41, 0x52, 0x49, 0x47, 0x2D, 0x53, 0x41, 0x2D, 0x53, 0x41, 0x4C, 0x54, 0x2D, 0x76, 0x31]
def saName : List Byte := saSalt.take 8

/-- The info string of chips a and b under an epoch (R250). -/
def saInfo (a b epoch : Nat) : List Byte :=
  saName ++ leBytes 2 (min a b) ++ leBytes 2 (max a b) ++ leBytes 2 epoch ++ leBytes 2 1

/-- The AES-256 key of the association between two chips (R250). -/
def saKey (podKey : List Byte) (a b epoch : Nat) : List Byte := hkdf384 saSalt podKey (saInfo a b epoch) 32

/-- The nonce of a sender's packet (R251). -/
def saNonce (sender ctr : Nat) : List Byte := leBytes 2 sender ++ [0, 0] ++ leBytes 8 ctr

/-- The pod key held for an epoch: the current, the previous or the staged one (R252, R418). -/
def podKeyOf (s : State) (epoch : Nat) : Option (List Byte) :=
  let held := s.body.sec.podCur.toList ++ s.body.sec.podPrev.toList ++ (s.body.sec.podStaged.map fun k => (k.1, k.2.1)).toList
  (held.find? fun e => e.1 == epoch).map (·.2)

/-- A pair's key is used: the cache of 16,384 entries, replaced least recently used; a miss is counted (R252). -/
def useKey (peer epoch : Nat) : Act := look fun s =>
  let l := s.body.xpt.keys
  let l' := l.filter (· != (peer, epoch)) ++ [(peer, epoch)]
  let l' := l'.drop (l'.length - 16384)
  acts [when (!l.contains (peer, epoch)) (count Reg.XPT_SA_MISS 1), onXpt (fun x => { x with keys := l' }),
        setFld Fld.XPT_STATUS_SA_USED l'.length]

/-- NONCE_CTR advances by one; the next floor is in the boot flash before the counter passes a multiple of 2^48 (R251). -/
def stepNonce : Act := onXpt fun x =>
  let n := x.nonce + 1
  { x with nonce := n, floor := if n % 2 ^ 48 = 0 then n else x.floor }

/-- A packet of another kind than DATA and ACK is sealed for a chip as it departs. -/
def sealFor (chip : Nat) : Act := look fun s =>
  match s.body.sec.podCur with
  | none => nop
  | some (e, _) => acts [useKey chip e, stepNonce]

end Sys2Proof.Machine
end

