-- ==== Sys2Proof/Machine/Herder.lean ====
section
/-! DEFINITION. The Herder (R247, 09_transport_and_links.md; R272 to R276, 10_sharing_and_scheduling.md): the traffic queues of each
port, the route of a packet, finish tags, selection, shapers; and what a link sends of the packet selected (R241, R243, R244). -/

namespace Sys2Proof.Machine

/-! ### Links -/

def State.link (s : State) (p : Nat) : Link := (tget s.body.links p).getD {}
def setLink (p : Nat) (l : Link) : Act := onBody fun b => { b with links := tput b.links p l }
def modLink (p : Nat) (f : Link → Link) : Act := look fun s => setLink p (f (s.link p))

/-- A port is up. -/
def State.portUp (s : State) (p : Nat) : Bool := s.is (Fld.FAB_PORT_STATUS_UP p)

/-- Flits that a packet of n bytes takes, 244 bytes of payload each. -/
def flitsOf (n : Nat) : Nat := ceilDiv n 244

/-- A port sends flits of the packet it has begun: as many as it has credits of their virtual channel and room in the replay buffer of
512 flits (R241, R243); each spends a credit (R244). -/
def pumpLink (p : Nat) : Act := look fun s =>
  let l := s.link p
  match l.left with
  | none => nop
  | some (vc, n) =>
    let k := if l.retraining || !s.portUp p then 0 else min n (min (l.credits.getD vc 0) (512 - l.unacked))
    acts [setLink p { l with txNext := (l.txNext + k) % 4096, unacked := l.unacked + k,
                             credits := l.credits.set vc (l.credits.getD vc 0 - k),
                             left := if k = n then none else some (vc, n - k) },
          when (0 < k) (acts [emit (.flits p l.txNext vc k), count (Reg.FAB_FLITS_TX p) k, eff (.credIssue (some p) k)])]

/-! ### Routes (R247) -/

/-- The ports that are up of a mask, in ascending order. -/
def upPorts (s : State) (mask : Nat) : List Nat := (List.range 16).filter fun p => bitsOf mask p 1 == 1 && s.portUp p

/-- The route set to a pod member, or to a chip outside the pod: egress port and PATH. -/
def routesTo (s : State) (mask paths : Nat) : List (Nat × Nat) :=
  (List.range (paths + 1)).flatMap fun x => (upPorts s mask).map fun p => (p, x)
def memberRoutes (s : State) (m : Nat) : List (Nat × Nat) := routesTo s (s.get (Fld.FAB_ROUTE_PORT_MASK m)) (s.get (Fld.FAB_ROUTE_PATHS m))
def chipRoutes (s : State) (c : Nat) : List (Nat × Nat) :=
  match s.chipMember c with
  | some m => memberRoutes s m
  | none => routesTo s (s.get Fld.FAB_CTL_SYS_PORT_MASK) 0

/-- The single path of ACCESS and COHERENCE packets to a member, kept while accesses to it are outstanding. -/
def pathTo (s : State) (m : Nat) : Option Nat :=
  let rs := memberRoutes s m
  let kept := (tget s.body.herder.paths m).filter fun i => (s.body.fabric.waiting.any fun e => faMember e.2.addr == m) && i < rs.length
  match kept with
  | some i => some i
  | none => if rs.isEmpty then none else some (Config.pathHash s.chipId ((s.memberChip m).getD 0) % rs.length)

/-- The port an agent is attached to. -/
def agentPort (s : State) (id : Nat) : Option Nat :=
  firstBelow 16 fun p => s.is (Fld.FAB_PORT_CFG_AGENT p) && s.get (Fld.FAB_PORT_CFG_AGENT_ID p) == id && s.portUp p

/-! ### What enters the traffic queues (R272) -/

/-- SLOT_c of a request's class, where this chip knows the request. -/
def slotOfRequest (s : State) (h : Nat) : Nat := s.get (Fld.HRD_CLASS_SLOT (((s.loc h).map (·.cls)).getD 0 % 8))

/-- The slot of an access by its requester; an event store takes the control slot (DESIGN CHOICE, log entry 23). -/
def slotOfRequester (s : State) : Requester → Nat
  | .job id => match s.job id with
    | some j => s.get (Fld.HRD_CLASS_SLOT (j.cls % 8))
    | none => 2
  | .smp id => match tget s.body.sampling.live id with
    | some x => slotOfRequest s x.handle
    | none => 2
  | .mov id => match tget s.body.mover.live id with
    | some m => s.get (Fld.MOV_Q_CFG_TRAFFIC_Q m.q) % 64
    | none => 2
  | .event _ => 0
  | .page tag => match tget s.body.pages.reads tag with
    | some r => slotOfRequest s r.handle
    | none => 2
  | .sketch h _ _ => slotOfRequest s h
  | .mirror _ _ _ => s.get Fld.HRD_CTL_MIRROR_SLOT

/-- Bytes on the link of a packet: header, payload, tag (R248). -/
def packetLen (payload : Nat) : Nat := 56 + payload + 16

/-- The packets of one payload, 4,096 bytes each but the last. -/
def packetsOf (n : Nat) : List Nat :=
  if n ≤ 4096 then [n] else List.replicate (n / 4096) 4096 ++ (if n % 4096 = 0 then [] else [n % 4096])

/-- Where an output goes: port, slot, virtual channel, the payload lengths of its packets, and what is charged for its answer. A host, a
core or a test interface takes none of it. -/
structure Leg where
  port : Nat
  slot : Nat
  vc : Nat
  payloads : List Nat
  extra : Nat := 0
  member : Option (Nat × Nat) := none

/-- The leg to a member on the path of ACCESS and COHERENCE packets. -/
def legTo (s : State) (m slot vc : Nat) (payloads : List Nat) (extra : Nat) : Option Leg :=
  (pathTo s m).bind fun i => ((memberRoutes s m)[i]?).map fun r =>
    { port := r.1, slot := slot, vc := vc, payloads := payloads, extra := extra, member := some (m, i) }

/-- The leg of a control message to a chip, on the next path of its route set. -/
def legMsg (s : State) (c slot : Nat) : Option Leg :=
  let rs := chipRoutes s c
  if c = s.chipId then none
  else (rs[s.body.herder.spray % (max 1 rs.length)]?).map fun r => { port := r.1, slot := slot, vc := 3, payloads := [128] }

def legOf (s : State) : Output → Option Leg
  | .msg tgt _ _ => legMsg s tgt 0
  | .mirror tgt _ _ => legMsg s tgt 0
  | .mirrorAck tgt _ => legMsg s tgt 0
  | .replayReport tgt _ _ _ => legMsg s tgt 0
  | .pageRequest c r => legMsg s c (match s.body.pages.reads.find? fun e => e.2.src == r with
      | some e => slotOfRequest s e.2.handle
      | none => 2)
  | .coh tgt m hdr data scale => match m.type with
    | .pageData => legTo s tgt 1 2 (packetsOf (64 + (if hdr.isSome then 256 else 0) + data.length + scale.length)) 0
    | .pageRead =>
      let slot := match m.refs.head?.bind fun r => s.body.pages.reads.find? fun e => e.2.src == r with
        | some e => slotOfRequest s e.2.handle
        | none => 2
      legTo s tgt slot 2 [64] (packetLen (64 + 256 + 32768 + 1024))
    | _ => legTo s tgt 0 2 [64] 0
  | .access tag addr k =>
    let slot := match tget s.body.fabric.waiting tag with
      | some a => slotOfRequester s a.who
      | none => 2
    match k with
    | .load n => legTo s (faMember addr) slot 0 [0] (packetLen n)
    | .store d => legTo s (faMember addr) slot 0 (packetsOf d.length) 0
    | .atomic _ w _ _ => legTo s (faMember addr) slot 0 [w] 0
    | .hint _ => legTo s (faMember addr) slot 0 [16] 0
    | .pageRead _ _ => legTo s (faMember addr) slot 0 [64] 0
    | .pageCopy _ => none
  | .answer tgt _ _ d =>
    if tgt < 256 then (if tgt = s.member then none else legTo s tgt 1 1 (packetsOf d.length) 0)
    else (agentPort s (tgt - 256)).map fun p => { port := p, slot := 1, vc := 1, payloads := packetsOf d.length }
  | .packet port slot _ payload _ => some { port := port, slot := slot, vc := 3, payloads := [payload.length] }
  | _ => none

def onHerder (f : Herder → Herder) : Act := onBody fun b => { b with herder := f b.herder }
def State.tq (s : State) (n : Nat) : TQueue := (tget s.body.herder.queues n).getD {}

/-- One output enters its traffic queue. -/
def admitOne (i : Nat) (o : Output) : Act := look fun s =>
  match legOf s o with
  | none => nop
  | some g =>
    let n := 64 * g.port + g.slot
    let items := g.payloads.zipIdx.map fun e => { len := packetLen e.1, extra := if e.2 = 0 then g.extra else 0, vc := g.vc, idx := i : QItem }
    onHerder fun h => { h with
      queues := tput h.queues n { s.tq n with items := (s.tq n).items ++ items }
      paths := match g.member with | some (m, k) => tput h.paths m k | none => h.paths
      spray := match o with
        | .packet _ _ _ _ _ => h.spray
        | _ => if g.vc = 3 then h.spray + 1 else h.spray }

/-- What the device has sent since the Herder looked last enters the traffic queues. -/
def admitAll : Act := look fun s =>
  acts [each ((s.body.out.drop s.body.herder.seen).zipIdx.map fun e => (e.2 + s.body.herder.seen, e.1)) (fun e => admitOne e.1 e.2),
        onHerder fun h => { h with seen := s.body.out.length }]

/-! ### Tags and selection (R274 to R276) -/

/-- A queue's shaper as in force: what the last refill instant after a commit made of it. -/
def shapeOn (s : State) (n : Nat) : Bool := (tget s.body.herder.shaped n).getD (n % 64 == 0)

/-- T of a queue, a signed count of bytes. -/
def tokensOf (s : State) (n : Nat) : Int := signedOf 32 (s.get (Fld.HRD_Q_STATE_TOKENS n))

/-- A queue is eligible: it holds a packet and its shaper, if enabled, a positive count. -/
def eligible (s : State) (n : Nat) : Bool := !(s.tq n).items.isEmpty && (!shapeOn s n || 0 < tokensOf s n)

/-- The charged length of a packet. -/
def charge (s : State) (i : QItem) : Nat := i.len + i.extra + s.get Fld.HRD_CTL_OVERHEAD

/-- The heads of a port's queues that have become eligible take their tags; the wait of a control or answer packet for its shaper is
noted. -/
def tagPort (p : Nat) : Act := each ((List.range 64).map (64 * p + ·)) fun n => look fun s =>
  let q := s.tq n
  match q.items with
  | [] => nop
  | i :: _ =>
    if eligible s n then
      if q.tagged then nop
      else
        let w := max 1 (s.get (Fld.HRD_Q_CFG_WEIGHT n))
        let f := wrapAdd 64 (later (s.rd (Reg.HRD_VTIME p)) q.finish) (ceilDiv (charge s i * 65536) w)
        onHerder fun h => { h with queues := tput h.queues n { q with finish := f, tagged := true } }
    else when (n % 64 < 2 && !q.noted)
      (acts [onHerder fun h => { h with queues := tput h.queues n { q with noted := true } }, raiseWith Blk.hrd (n % 64) { unit := p }])

/-- What the Herder has not looked at yet is queued and tagged, on every port that is up. -/
def herderSync : Act := acts [admitAll, look fun s => each ((List.range 16).filter s.portUp) tagPort]

/-- The chip a sealed packet goes to; transport packets are sealed when they are made, an agent's are not (R250). -/
def outPeer (s : State) : Output → Option Nat
  | .msg tgt _ _ | .mirror tgt _ _ | .mirrorAck tgt _ | .replayReport tgt _ _ _ | .pageRequest tgt _ => some tgt
  | .coh tgt _ _ _ _ => s.memberChip tgt
  | .access _ addr _ => s.memberChip (faMember addr)
  | .answer tgt _ _ _ => if tgt < 256 then s.memberChip tgt else none
  | _ => none

/-- The tenant of a mover or send queue's context. -/
def queueTenant (s : State) (cfg : Nat) : Option Nat := if bitsOf cfg 5 2 = 2 then s.windowTenant (bitsOf cfg 7 6) else none

/-- The tenant in whose context an output is sent (R205): outputs of jobs and samples, and what the queues of tenant windows send. -/
def outTenant (s : State) (o : Output) : Option Nat :=
  let ofMov (id : Nat) : Option Nat := (tget s.body.mover.live id).bind fun m => queueTenant s (s.rd (Reg.MOV_Q_CFG m.q))
  let ofAccess (tag : Nat) : Option Nat := (tget s.body.fabric.waiting tag).bind fun a => match a.who with
    | .job id => (s.job id).map (·.tenant)
    | .smp id => (tget s.body.sampling.live id).bind fun x => (s.loc x.handle).map (·.tenant)
    | .mov id => ofMov id
    | _ => none
  match o with
  | .access tag _ _ => ofAccess tag
  | .coh _ m _ _ _ => match m.type with
    | .pageData => if m.refs.any (fun r => refChip r != s.chipId) then ofAccess m.seq else none
    | .pageRead => (m.refs.head?.bind fun r => s.body.pages.reads.find? fun e => e.2.src == r && e.2.mov.isSome).bind fun e => e.2.mov.bind ofMov
    | _ => none
  | .packet _ _ hdr _ _ => (tget s.body.xpt.sent (leNat ((hdr.drop 0x18).take 6))).bind fun x => queueTenant s (s.rd (Reg.XPT_SQ_CFG x.q))
  | _ => none

/-- A port starts the head of a queue. -/
def startPacket (p n : Nat) : Act := look fun s =>
  let q := s.tq n
  match q.items with
  | [] => nop
  | i :: rest =>
    let c := charge s i
    acts [onHerder (fun h => { h with queues := tput h.queues n { q with items := rest, tagged := false, noted := false } }),
          when (n % 64 != 0) (setReg (Reg.HRD_VTIME p) q.finish),
          when (shapeOn s n) (setFld (Fld.HRD_Q_STATE_TOKENS n) (wordOf 32 (tokensOf s n - c))),
          count (Reg.HRD_Q_BYTES n) c,
          (match (s.body.out[i.idx]?).bind (outTenant s) with
            | some t => meterMod t fun m => { m with fabBytes := m.fabBytes + c }
            | none => nop),
          (match (s.body.out[i.idx]?).bind (outPeer s) with | some c => sealFor c | none => nop),
          emit (.depart p (n % 64) i.idx),
          modLink p (fun l => { l with left := some (i.vc, flitsOf i.len) }), pumpLink p, tagPort p]

/-- A queue can be selected: it is eligible, and its link holds a credit for its head (R274). -/
def selectable (s : State) (p n : Nat) : Bool := eligible s n && match (s.tq n).items with
  | i :: _ => 0 < (s.link p).credits.getD i.vc 0
  | [] => false

/-- HERDER_SELECT: a port that has sent its last packet out selects the control slot, or the eligible queue with a credit and the least
finish tag, the lowest on ties (R274). -/
def actHerderSelect (p : Nat) : Act := acts [herderSync, look fun s =>
  let l := s.link p
  if !s.portUp p || l.retraining || l.left.isSome then nop
  else if selectable s p (64 * p) then startPacket p (64 * p)
  else
    match ((List.range 63).map fun i => 64 * p + i + 1).filter (selectable s p) with
    | [] => nop
    | n :: ns => startPacket p (ns.foldl (fun b x => if earlier (s.tq x).finish (s.tq b).finish then x else b) n)]

/-- SHAPER_REFILL: at a refill instant every enabled shaper adds RATE up to DEPTH; a commit's change of a shaper takes effect here, one
newly enabled from T = 0 (R276). -/
def actShaperRefill : Act := acts [herderSync, look fun s => each (List.range 1024) fun n => look fun s' =>
  let on := s.is (Fld.HRD_Q_CFG_SHAPE n)
  let t : Int := if shapeOn s n then tokensOf s' n else 0
  let t' := min (s.get (Fld.HRD_Q_CFG_DEPTH n) : Int) (t + s.get (Fld.HRD_Q_CFG_RATE n))
  acts [when (on != shapeOn s n) (onHerder fun h => { h with shaped := tput h.shaped n on }),
        when on (setFld (Fld.HRD_Q_STATE_TOKENS n) (wordOf 32 t'))],
  look fun s => each ((List.range 16).filter s.portUp) tagPort]

def execHerderSelect (p : Nat) (s : State) :=
  done (when (p < 16) (actHerderSelect p)) s
def execShaperRefill (s : State) := done actShaperRefill s

end Sys2Proof.Machine
end

