-- ==== Sys2Proof/Machine/Queues.lean ====
section
/-! DEFINITION. Mover queues and send queues (R224, 08_fabric_memory_semantics.md; R253, 09_transport_and_links.md): both follow R70, R71
and R79, with the same registers and completion record. -/

namespace Sys2Proof.Machine

/-- Which of the two. -/
inductive QKind where
  | mov | xpt
deriving DecidableEq, Repr

def QKind.cfg (k : QKind) (q : Nat) : Nat := match k with | .mov => Reg.MOV_Q_CFG q | .xpt => Reg.XPT_SQ_CFG q
def QKind.ptr (k : QKind) (q : Nat) : Nat := match k with | .mov => Reg.MOV_Q_PTR q | .xpt => Reg.XPT_SQ_PTR q
def QKind.slot (k : QKind) (q i : Nat) : Nat := match k with | .mov => Mem.movSlot q i | .xpt => Mem.xptSlot q i
def QKind.record (k : QKind) (q i : Nat) : Nat := match k with | .mov => Mem.movRecord q i | .xpt => Mem.xptRecord q i
/-- DB_RANGE of the unit. -/
def QKind.range (k : QKind) : Act := match k with | .mov => raise Blk.mov 7 | .xpt => raise Blk.xpt 5

/-- The fields of a queue's registers (R235). -/
def qDepthLog2 (k : QKind) (q : Nat) : Fld := ⟨k.cfg q, 0, 4⟩
def qEnable (k : QKind) (q : Nat) : Fld := ⟨k.cfg q, 4, 1⟩
def qOwner (k : QKind) (q : Nat) : Fld := ⟨k.cfg q, 5, 2⟩
def qWindow (k : QKind) (q : Nat) : Fld := ⟨k.cfg q, 7, 6⟩
def qTraffic (k : QKind) (q : Nat) : Fld := ⟨k.cfg q, 16, 10⟩
def qHead (k : QKind) (q : Nat) : Fld := ⟨k.ptr q, 0, 8⟩
def qTail (k : QKind) (q : Nat) : Fld := ⟨k.ptr q, 8, 8⟩
def qSeq (k : QKind) (q : Nat) : Fld := ⟨k.ptr q, 32, 32⟩

/-- What a kind of queue keeps besides its registers: the next slot to accept, slots ended, queues whose re-enable waits. -/
def State.qAccept (s : State) : QKind → List (Nat × Nat)
  | .mov => s.body.mover.accept
  | .xpt => s.body.xpt.accept
def State.qEnded (s : State) : QKind → List Nat
  | .mov => s.body.mover.ended
  | .xpt => s.body.xpt.ended
def State.qReenable (s : State) : QKind → List Nat
  | .mov => s.body.mover.reenable
  | .xpt => s.body.xpt.reenable
def onQueues (k : QKind) (f : List (Nat × Nat) → List Nat → List Nat → List (Nat × Nat) × List Nat × List Nat) : Act := onBody fun b =>
  match k with
  | .mov =>
    let r := f b.mover.accept b.mover.ended b.mover.reenable
    { b with mover := { b.mover with accept := r.1, ended := r.2.1, reenable := r.2.2 } }
  | .xpt =>
    let r := f b.xpt.accept b.xpt.ended b.xpt.reenable
    { b with xpt := { b.xpt with accept := r.1, ended := r.2.1, reenable := r.2.2 } }

/-- The depth of a queue. -/
def State.qDepth (s : State) (k : QKind) (q : Nat) : Nat := 2 ^ s.get (qDepthLog2 k q)

/-- Whether descriptors of a queue have been accepted and not ended. -/
def qLive (s : State) (k : QKind) (q : Nat) : Bool := match k with
  | .mov => s.body.mover.live.any fun e => e.2.q == q
  | .xpt => s.body.xpt.sent.any fun e => e.2.q == q

/-- A queue takes descriptors, as a job queue does (R86, R224, R253). -/
def qOpen (s : State) (k : QKind) (q : Nat) : Bool := s.is (qEnable k q) || qLive s k q

/-- A doorbell: the tail of an enabled queue, within its depth; another access is counted (R70). -/
def qDoorbell (k : QKind) (q tail : Nat) : Act := look fun s =>
  if q < 64 && qOpen s k q && !(s.qReenable k).contains q && tail < s.qDepth k q then setFld (qTail k q) tail else k.range

/-- A queue starts: head, tail and QSEQ at zero, fresh records (R79). -/
def startQueue (k : QKind) (q : Nat) : Act := look fun s =>
  acts [setReg (k.ptr q) 0, freshRecords (k.record q 0) (s.qDepth k q),
        onQueues k fun a e r => (tput a q 0, e.filter (fun x => x / 65536 != q), r.filter (· != q))]

/-- A queue whose re-enable waits starts once none of its descriptors runs (R79, R86). -/
def restartQueue (k : QKind) (q : Nat) : Act := look fun s => when ((s.qReenable k).contains q && !qLive s k q) (startQueue k q)

/-- The next slot to accept and its descriptor, if a valid one waits. -/
def nextDesc (s : State) (k : QKind) (q : Nat) : Option (Nat × List Byte) :=
  let i := (tget (s.qAccept k) q).getD 0
  if qOpen s k q && !(s.qReenable k).contains q && i != s.get (qTail k q) then some (i, s.bytes (k.slot q i) 64) else none

/-- A slot is accepted. -/
def acceptSlot (k : QKind) (q i : Nat) : Act := look fun s =>
  acts [onQueues k fun a e r => (tput a q ((i + 1) % s.qDepth k q), e, r), bumpFld (qSeq k q) 1]

/-- The completion record of R227: STATUS, PHASE, USER_TAG, QSEQ, ELAPSED_US saturating. -/
def tagRecord (status phase tag qseq us : Nat) : List Byte :=
  leBytes 4 (status + 256 * (phase % 2)) ++ leBytes 4 tag ++ leBytes 4 (qseq % 2 ^ 32) ++ leBytes 4 (min us (2 ^ 32 - 1))

/-- A slot's descriptor has ended: its completion record; the head passes it once it has passed all before it (R70, R227). -/
def endSlot (k : QKind) (q i qseq status tag started : Nat) : Act := look fun s =>
  let depth := s.qDepth k q
  let ended := s.qEnded k ++ [q * 65536 + i]
  let r := headAfter (fun x => ended.contains (q * 65536 + x)) depth depth (s.get (qHead k q))
  acts [store (k.record q i) (tagRecord status (qseq / depth) tag qseq ((s.body.tick - started) / 1000)),
        setFld (qHead k q) r.1,
        onQueues k fun a _ n => (a, ended.filter (fun e => !(e / 65536 == q && r.2.contains (e % 65536))), n)]

/-- The tenant window that owns a queue, and the context of its accesses (R205, R224): a window without a tenant has no context that an
entry admits. -/
def qWin (s : State) (k : QKind) (q : Nat) : Option Nat := if s.get (qOwner k q) = 2 then some (s.get (qWindow k q)) else none
def qCtx (s : State) (k : QKind) (q : Nat) : Option AccCtx :=
  match qWin s k q with
  | none => some .firmware
  | some w => (s.windowTenant w).map AccCtx.tenant

/-- A queue owned by a tenant window names counters of the window's range only (R224). -/
def qArrivalOk (s : State) (k : QKind) (q n : Nat) : Bool :=
  match qWin s k q with
  | none => true
  | some w => inAcnRange s w n

end Sys2Proof.Machine
end

