-- ==== Sys2Proof/Machine/Transport.lean ====
section
/-! DEFINITION. Connectionless reliable transport (R248 to R265, 09_transport_and_links.md): packets, sending, receiving, receive
completion rings. -/

namespace Sys2Proof.Machine

/-! ### Packets (R248, R249) -/

/-- A packet's header, of the kinds DATA and ACK. -/
structure Packet where
  routeDst : Nat
  path : Nat := 0
  kind : Nat := 0
  src : Nat
  dst : Nat
  epoch : Nat := 0
  ordered : Bool := false
  immValid : Bool := false
  retx : Bool := false
  nonce : Nat := 0
  seq : Nat
  bufId : Nat
  bufGen : Nat
  pktLen : Nat := 0
  /-- OFFSET; in ACK packets REASON -/
  offset : Nat := 0
  totalLen : Nat := 0
  imm : Nat := 0
deriving DecidableEq, Repr

/-- The 56 bytes of a header. -/
def Packet.bytes (p : Packet) : List Byte :=
  leBytes 2 p.routeDst ++ leBytes 1 0 ++ leBytes 1 (p.path % 16 + 16 * p.kind) ++ leBytes 4 0
  ++ leBytes 2 p.src ++ leBytes 2 p.dst ++ leBytes 2 p.epoch
  ++ leBytes 2 ((if p.ordered then 1 else 0) + (if p.immValid then 2 else 0) + (if p.retx then 4 else 0))
  ++ leBytes 8 p.nonce ++ leBytes 8 (p.seq % 2 ^ 48) ++ leBytes 4 (p.bufId % 2 ^ 18) ++ leBytes 2 p.bufGen ++ leBytes 2 (p.pktLen % 2 ^ 13)
  ++ leBytes 4 p.offset ++ leBytes 4 p.totalLen ++ leBytes 8 p.imm

/-- The header that 56 bytes spell. -/
def packetOf (bs : List Byte) : Packet :=
  let v := leNat bs
  let f (off w : Nat) : Nat := bitsOf v (8 * off) w
  { routeDst := f 0 16, path := f 3 4, kind := f 3 8 / 16, src := f 8 16, dst := f 0xA 16, epoch := f 0xC 16,
    ordered := f 0xE 1 == 1, immValid := f 0xE 2 / 2 == 1, retx := f 0xE 3 / 4 == 1, nonce := f 0x10 64, seq := f 0x18 48,
    bufId := f 0x20 18, bufGen := f 0x24 16, pktLen := f 0x26 13, offset := f 0x28 32, totalLen := f 0x2C 32, imm := f 0x30 64 }

/-- A DATA packet whose PKT_LEN, OFFSET and TOTAL_LEN agree (R248), over a payload of n bytes. -/
def Packet.wellFormed (p : Packet) (n : Nat) : Bool :=
  1 ≤ p.totalLen && p.totalLen ≤ 16777216 && p.offset % 4096 == 0 && p.offset < p.totalLen
  && p.pktLen == min 4096 (p.totalLen - p.offset) && p.pktLen == n

/-! ### Sending packets -/

/-- A packet leaves on the next path of its destination's route set, sealed under the current epoch with the next nonce (R250, R251,
R254). `sent` follows where the route set is not empty. -/
def sendPacket (slot : Nat) (p : Packet) (payload : List Byte) (sent : Act) : Act := look fun s =>
  let rs := chipRoutes s p.dst
  match rs[s.body.herder.spray % (max 1 rs.length)]?, s.body.sec.podCur with
  | some (port, path), some (e, podKey) =>
    let p := { p with routeDst := p.dst, path := path, src := s.chipId, epoch := e, nonce := s.body.xpt.nonce }
    let key := saKey podKey s.chipId p.dst e
    let nonce := saNonce s.chipId p.nonce
    let c := gcmCrypt key nonce payload
    acts [useKey p.dst e, stepNonce, onHerder (fun h => { h with spray := h.spray + 1 }),
          emit (.packet port slot p.bytes c (gcmTag key nonce (p.bytes.drop 8) c)), sent]
  | _, _ => nop

/-! ### Sending messages (R253 to R256) -/

/-- A send descriptor. -/
structure SendDesc where
  opcode : Nat
  ordered : Bool
  immValid : Bool
  hostwin : Bool
  arrival : Nat
  dst : Nat
  src : Nat
  length : Nat
  bufId : Nat
  bufGen : Nat
  tag : Nat
  imm : Nat
  resv : Bool

def sendDescOf (bs : List Byte) : SendDesc :=
  let v := leNat bs
  let f (off w : Nat) : Nat := bitsOf v (8 * off) w
  { opcode := f 0 8, ordered := f 1 1 == 1, immValid := f 1 2 / 2 == 1, hostwin := f 1 3 / 4 == 1, arrival := f 4 16, dst := f 6 16, src := f 8 64,
    length := f 0x10 25, bufId := f 0x14 18, bufGen := f 0x18 16, tag := f 0x1C 32, imm := f 0x20 64,
    resv := f 0 32 / 2 ^ 11 != 0 || f 0x10 32 / 2 ^ 25 != 0 || f 0x14 32 / 2 ^ 18 != 0 || f 0x1A 16 != 0
            || bitsOf v (8 * 0x28) (8 * 24) != 0 }

/-- Where the source bytes of a message lie, if SRC and LENGTH are in range: the host window, or of this chip the shared region or the
job buffer. -/
def sendSource (s : State) (d : SendDesc) : Option Nat :=
  if d.hostwin then if d.src + d.length ≤ Mem.hostWindowSize then some (Mem.hostWindow + d.src) else none
  else if faMember d.src ≠ s.member then none
  else if faAperture d.src = 1 ∧ faRegion d.src = 4 then
    if faInner d.src + d.length ≤ s.get Fld.MOV_CTL_SHARED_MIB * 2 ^ 20 then some (Mem.shared + faInner d.src) else none
  else if faAperture d.src = 2 then
    if 0x10000000 ≤ faOffset d.src ∧ faOffset d.src + d.length ≤ 0x14000000 then some (Mem.jobBuffer + (faOffset d.src - 0x10000000)) else none
  else none

/-- A tenant window's queue sends to the chips of its range only. -/
def sendDstOk (s : State) (q dst : Nat) : Bool :=
  match qWin s .xpt q with
  | none => true
  | some w => s.is (Fld.XPT_TW_DST_ENABLE w) && s.get (Fld.XPT_TW_DST_FIRST_CHIP w) ≤ dst && dst ≤ s.get (Fld.XPT_TW_DST_LAST_CHIP w)

/-- The owner's window entries admit the read of the source (R205, R224). -/
def sendWinOk (s : State) (q : Nat) (d : SendDesc) : Bool :=
  d.hostwin || match qCtx s .xpt q with
    | some c => winPass s c d.src (.load d.length)
    | none => false

/-- A send ends: its completion record, XPT_SEND_DONE_s, its arrival counter (R256). -/
def endSend (q i qseq status : Nat) (bs : List Byte) (started : Nat) : Act :=
  let d := sendDescOf bs
  acts [endSlot .xpt q i qseq status d.tag started, count (Reg.XPT_SEND_DONE status) 1, arrive d.arrival .msg,
        restartQueue .xpt q]

/-- The number of messages in flight. -/
def syncSent : Act := look fun s => setFld Fld.XPT_STATUS_MSG_OUT s.body.xpt.sent.length

/-- A message in flight ends with a status and leaves the message table. -/
def endMessage (seq status : Nat) : Act := look fun s =>
  match tget s.body.xpt.sent seq with
  | none => nop
  | some x => acts [onXpt (fun t => { t with sent := tdel t.sent seq }), syncSent, endSend x.q x.slot x.qseq status x.desc x.first]

/-- What an answer decides (R256): BUSY decides nothing. -/
def ackStatus (reason : Nat) : Option Nat :=
  match reason with
  | 0 => some St.ok
  | 1 => some St.staleEpoch
  | 2 | 4 => some St.invalid
  | _ => none

/-- An answer reaches the sender (R254). -/
def takeAck (seq bufId bufGen reason : Nat) : Act := look fun s =>
  match tget s.body.xpt.sent seq with
  | none => count Reg.XPT_ACK_ORPHAN 1
  | some x =>
    let d := sendDescOf x.desc
    if d.bufId ≠ bufId ∨ d.bufGen ≠ bufGen then count Reg.XPT_ACK_ORPHAN 1
    else match ackStatus reason with
      | some st => endMessage seq st
      | none => nop

/-! ### Receiving (R257 to R261) -/

def State.buf (s : State) (b : Nat) : Buf := (tget s.body.xpt.bufs b).getD {}
def setBuf (n : Nat) (b : Buf) : Act := onXpt fun x => { x with bufs := tput x.bufs n b }

/-- Contexts in use. -/
def ctxUsed (s : State) : List Nat := s.body.xpt.bufs.filterMap fun e => e.2.ctx.map (·.no)
def syncCtx : Act := look fun s => setFld Fld.XPT_STATUS_CTX_USED (ctxUsed s).length

/-- Where byte i of a buffer or of a ring lies. -/
def xptAddr (hostwin : Bool) (addr i : Nat) : Nat := (if hostwin then Mem.hostWindow else Mem.shared) + addr + i

/-- A receive completion entry (R261). -/
def rcqEntry (p : Packet) (gen phase : Nat) : List Byte :=
  leBytes 4 (St.ok + 256 * (phase % 2) + (if p.immValid then 512 else 0)) ++ leBytes 4 p.bufId ++ leBytes 2 gen ++ leBytes 2 p.src
  ++ leBytes 4 p.totalLen ++ leBytes 6 p.seq ++ leBytes 2 p.epoch ++ leBytes 8 p.imm

/-- The next entry of a ring is written. A ring that a commit has disabled takes none. -/
def putEntry (r : Nat) (p : Packet) (gen : Nat) : Act := look fun s =>
  let n := (tget s.body.xpt.rcqCount r).getD 0
  let size := 2 ^ s.get (Fld.XPT_RCQ_BASE_SIZE_LOG2 r)
  when (s.is (Fld.XPT_RCQ_BASE_ENABLE r))
    (acts [store (xptAddr (s.is (Fld.XPT_RCQ_BASE_HOSTWIN r)) (s.get (Fld.XPT_RCQ_BASE_ADDR r)) (32 * (n % size))) (rcqEntry p gen (n / size)),
           onXpt (fun x => { x with rcqCount := tput x.rcqCount r (n + 1) }), setFld (Fld.XPT_RCQ_PTR_TAIL r) ((n + 1) % size)])

/-- A ring is enabled: every entry with PHASE 1 and every other field zero, its count at zero (R79, R261). -/
def startRcq (r : Nat) : Act := look fun s =>
  let at_ := xptAddr (s.is (Fld.XPT_RCQ_BASE_HOSTWIN r)) (s.get (Fld.XPT_RCQ_BASE_ADDR r)) 0
  let size := 2 ^ s.get (Fld.XPT_RCQ_BASE_SIZE_LOG2 r)
  acts [clearMem at_ (32 * size), each (List.range size) (fun i => store (at_ + 32 * i + 1) [1]),
        onXpt (fun x => { x with rcqCount := tput x.rcqCount r 0 }), setFld (Fld.XPT_RCQ_PTR_TAIL r) 0, setFld (Fld.XPT_RCQ_PTR_HEAD r) 0]

/-- The completion of a message, in the order of R260. -/
def completeBuf (b : Buf) (p : Packet) (reply : Nat → Act) : Act :=
  acts [putEntry b.rcq p b.gen,
        setBuf p.bufId { b with st := .complete, last := some (p.src, p.seq), ctx := none }, syncCtx,
        eff .bufDone, count Reg.XPT_RECV_DONE 1, arrive b.arrival .msg, reply 0]

/-- The receiver's procedure of R259. REASONs: 0 DELIVERED, 1 STALE, 2 TOO_LONG, 3 BUSY, 4 MALFORMED. -/
def receive (p : Packet) (payload : List Byte) (reply : Nat → Act) : Act := look fun s =>
  let b := s.buf p.bufId
  let id := (p.src, p.seq)
  let dup := count Reg.XPT_DUP_DISCARD 1
  let stale := acts [reply 1, count Reg.XPT_STALE_DISCARD 1]
  let place (b : Buf) : Act := store (xptAddr b.hostwin b.addr p.offset) payload
  -- the packet is placed under a context: its bit and bytes in the same action
  let into (b : Buf) (c : Reasm) : Act :=
    let c' := { c with got := c.got ++ [p.offset / 4096], bytes := c.bytes + payload.length, last := s.body.tick }
    acts [place b, if c'.bytes = p.totalLen then completeBuf b p reply
                   else acts [setBuf p.bufId { b with st := .filling, ctx := some c' }, syncCtx]]
  if !p.wellFormed payload.length then reply 4
  else if p.bufGen = b.gen then
    match b.st, b.ctx with
    | .complete, _ => if b.last = some id then acts [reply 0, dup] else stale
    | .filling, some c =>
      if (c.src, c.seq) ≠ id then stale
      else if c.got.contains (p.offset / 4096) then dup
      else into b c
    | .posted, _ =>
      if b.length < p.totalLen then reply 2
      else if p.totalLen ≤ 4096 then acts [place b, completeBuf b p reply]
      else
        match firstBelow 4096 fun n => !(ctxUsed s).contains n with
        | none => acts [reply 3, count Reg.XPT_NO_CTX 1]
        | some n => into b { no := n, src := p.src, seq := p.seq }
    | _, _ => stale
  else if (p.bufGen + 1) % 65536 = b.gen ∧ b.last = some id then acts [reply 0, dup]
  else stale

/-- An ACK packet answers a packet (R249). -/
def ackPacket (p : Packet) (reason : Nat) : Act :=
  sendPacket 1 { routeDst := p.src, kind := 1, src := 0, dst := p.src, seq := p.seq, bufId := p.bufId, bufGen := p.bufGen, offset := reason } [] nop

/-! ### The rows -/

/-- The packets of a message: offset and length, in offset order. -/
def messagePackets (n : Nat) : List (Nat × Nat) := (List.range (ceilDiv n 4096)).map fun i => (4096 * i, min 4096 (n - 4096 * i))

/-- The packets of a message below `stop` are transmitted, each on the next path; one whose block failed is not (R254, R265). A message to this chip is
delivered here, unsealed. -/
def transmit (slot seq : Nat) (bs data : List Byte) (retx : Bool) (lost : List Nat) (stop : Nat) : Act := look fun s =>
  let d := sendDescOf bs
  each ((messagePackets data.length).take stop) fun o =>
    let p : Packet := { routeDst := d.dst, src := s.chipId, dst := d.dst, ordered := d.ordered, immValid := d.immValid, retx := retx, seq := seq,
                        bufId := d.bufId, bufGen := d.bufGen, pktLen := o.2, offset := o.1, totalLen := data.length, imm := d.imm }
    let payload := (data.drop o.1).take o.2
    let n := acts [count Reg.XPT_PKT_SENT 1, when retx (count Reg.XPT_PKT_RETX 1)]
    if lost.contains (o.1 / 4096) then raise Blk.xpt 4
    else if d.dst = s.chipId then
      acts [n, look fun s => receive { p with epoch := s.get Fld.XPT_KEY_STATUS_CUR_EPOCH } payload fun r => takeAck seq d.bufId d.bufGen r]
    else sendPacket slot p payload n

/-- An ORDERED message waits for every earlier one of this chip to its destination (R255). -/
def orderedFree (s : State) (d : SendDesc) : Bool :=
  !d.ordered || !s.body.xpt.sent.any fun e => e.2.ordered && e.2.dst == d.dst

/-- The checks of a send descriptor that need no window (R253). -/
def sendForm (s : State) (q : Nat) (d : SendDesc) : Bool :=
  d.opcode == 1 && !d.resv && 1 ≤ d.length && d.length ≤ 16777216 && sendDstOk s q d.dst && qArrivalOk s .xpt q d.arrival

/-- The entry of the message table that a started message takes (R254). -/
def startedMessage (s : State) (q i : Nat) (bs : List Byte) (at_ : Nat) : Sent :=
  { q := q, slot := i, qseq := s.get (qSeq .xpt q), desc := bs, data := s.bytes at_ (sendDescOf bs).length, ordered := (sendDescOf bs).ordered,
    dst := (sendDescOf bs).dst, first := s.body.tick, last := s.body.tick }

/-- SEND: the next descriptor of a queue starts, or ends at once where it is refused; it waits while the message table is full and while
an earlier ordered message to its destination is in flight. -/
def actSend (q : Nat) (r : SrcRead) : Act := look fun s =>
  match nextDesc s .xpt q with
  | none => nop
  | some (i, bs) =>
    let d := sendDescOf bs
    let qseq := s.get (qSeq .xpt q)
    let ends (st : Nat) : Act := acts [acceptSlot .xpt q i, endSend q i qseq st bs s.body.tick]
    match sendSource s d with
    | none => ends St.invalid
    | some at_ =>
      if !sendForm s q d then ends St.invalid
      else if !sendWinOk s q d then acts [windowFault, ends St.invalid]
      else if d.dst ≠ s.chipId ∧ s.body.sec.podCur.isNone then ends St.noResource
      else if 16384 ≤ s.body.xpt.sent.length || !orderedFree s d then nop
      else
        let seq := s.body.xpt.nextSeq
        acts [acceptSlot .xpt q i, onXpt (fun t => { t with nextSeq := (seq + 1) % 2 ^ 48, sent := tput t.sent seq (startedMessage s q i bs at_) }), syncSent,
              when (0 < r.resends) (count Reg.XPT_BLOCK_RESEND r.resends),
              transmit (s.get (qTraffic .xpt q) % 64) seq bs (s.bytes at_ d.length) false r.lost (r.ue.getD (ceilDiv d.length 4096)),
              when r.ue.isSome (endMessage seq St.busyRetry)]

/-- RTO_EXPIRY: every packet of a message without an answer is sent again; after RETRY_MAX times, or more than 400 µs after the first
packet, no more (R254). -/
def actRtoExpiry (seq : Nat) (r : SrcRead) : Act := look fun s =>
  match tget s.body.xpt.sent seq with
  | none => nop
  | some x =>
    if s.get Fld.XPT_CTL_RETRY_MAX ≤ x.retx || x.first + 400000 < s.body.tick then
      onXpt fun t => { t with sent := tput t.sent seq { x with ovr := true } }
    else
      acts [onXpt (fun t => { t with sent := tput t.sent seq { x with retx := x.retx + 1, last := s.body.tick } }),
            when (0 < r.resends) (count Reg.XPT_BLOCK_RESEND r.resends),
            transmit (s.get (qTraffic .xpt x.q) % 64) seq x.desc x.data true r.lost (r.ue.getD (ceilDiv x.data.length 4096)),
            when r.ue.isSome (endMessage seq St.busyRetry)]

/-- SEND_GIVE_UP: 100 µs after the last transmission of a message that is sent no more (R254). -/
def actSendGiveUp (seq : Nat) : Act := look fun s =>
  match tget s.body.xpt.sent seq with
  | none => nop
  | some x =>
    if x.ovr || s.get Fld.XPT_CTL_RETRY_MAX ≤ x.retx || x.first + 400000 < s.body.tick then acts [raise Blk.xpt 3, endMessage seq St.busyRetry]
    else nop

/-- What a packet opens to under its security association: its tag verifies, and its two destinations name this chip (R249, R252). -/
def opens (s : State) (bs : List Byte) : Option (List Byte) :=
  let p := packetOf (bs.take 56)
  let n := bs.length - 72
  let c := (bs.drop 56).take n
  if 4 ≤ p.kind then none
  else match podKeyOf s p.epoch with
    | none => none
    | some podKey =>
      let key := saKey podKey p.src s.chipId p.epoch
      let nonce := saNonce p.src p.nonce
      if bs.length < 72 || gcmTag key nonce ((bs.take 56).drop 8) c != bs.drop (56 + n) || p.dst != s.chipId || p.dst != p.routeDst
      then none else some (gcmCrypt key nonce c)

/-- The receiver's checks of R249 and R252; then what the packet is for. -/
def openPacket (bs : List Byte) (f : Packet → List Byte → Act) : Act := look fun s =>
  let p := packetOf (bs.take 56)
  let drop_ := acts [count Reg.XPT_AUTH_FAIL 1, raise Blk.xpt 0]
  if 4 ≤ p.kind then count Reg.XPT_AUTH_FAIL 1
  else if (podKeyOf s p.epoch).isNone then acts [drop_, raise Blk.xpt 1]
  else acts [useKey p.src p.epoch, match opens s bs with
    | none => drop_
    | some payload => f p payload]

/-- DATA_PACKET_RECEIVE: a packet with the block resends on its way into memory, and whether a block failed (R265). -/
def actDataPacket (bs : List Byte) (resends : Nat) (blockFail : Bool) : Act := openPacket bs fun p payload =>
  acts [when (0 < resends) (count Reg.XPT_BLOCK_RESEND resends),
        if p.kind ≠ 0 then nop
        else if blockFail then raise Blk.xpt 4
        else receive p payload (ackPacket p)]

/-- ACK_PACKET_RECEIVE. -/
def actAckPacket (bs : List Byte) : Act := openPacket bs fun p _ =>
  if p.kind ≠ 1 then nop else takeAck p.seq p.bufId p.bufGen (p.offset % 256)

/-- A fill is abandoned: the context is freed, GEN advances (R258, R262). -/
def abandonFill (n : Nat) (b : Buf) (st : BufSt) : Act :=
  acts [setBuf n { b with st := st, gen := (b.gen + 1) % 65536, ctx := none }, syncCtx, raise Blk.xpt 2, count Reg.XPT_FILL_ABANDON 1]

/-- FILL_TIMEOUT: a context that has accepted no packet for FILL_TIMEOUT (R262). -/
def actFillTimeout (n : Nat) : Act := look fun s =>
  let b := s.buf n
  if b.st = .filling then abandonFill n b .posted else nop

def execSendDoorbell (q tail : Nat) (s : State) :=
  done (when (q < 64 && tail < 256) (qDoorbell .xpt q tail)) s
def execSend (q : Nat) (r : SrcRead) (s : State) :=
  done (when (q < 64) (actSend q r)) s
def execDataPacket (packet : List Byte) (resends : Nat) (blockFail : Bool) (s : State) := done (actDataPacket packet resends blockFail) s
def execAckPacket (packet : List Byte) (s : State) := done (actAckPacket packet) s
def execRtoExpiry (seq : Nat) (r : SrcRead) (s : State) := done (actRtoExpiry seq r) s
def execSendGiveUp (seq : Nat) (s : State) := done (actSendGiveUp seq) s
def execFillTimeout (buf : Nat) (s : State) :=
  done (when (buf < 262144) (actFillTimeout buf)) s

end Sys2Proof.Machine
end

