-- ==== Sys2Proof/Machine/KImage.lean ====
section
/-! DEFINITION. Parked images (R141 to R143, 05_transcoder.md): building one from the pages of a request or prefix, its encryption
(R308, 11_kennel.md), and bringing its pages back. -/

namespace Sys2Proof.Machine

/-! ### The token log as bytes (R174) -/

/-- A turn record, 32 bytes. -/
def turnBytes (t : TurnRec) : List Byte :=
  leBytes 4 (t.num % 65536 + 65536 * (t.kind % 4)) ++ leBytes 4 t.first ++ leBytes 4 t.count ++ leBytes 4 t.startTick
  ++ (t.note ++ List.replicate 16 0).take 16

/-- The 256 turn records, record n at place n modulo 256. -/
def turnArea (r : Rec) : List Byte := (List.range 256).flatMap fun i =>
  match r.turnRecs.reverse.find? fun t => t.num % 256 == i with
  | some t => turnBytes t
  | none => List.replicate 32 0

/-- The token entries. -/
def logBytes (r : Rec) : List Byte := r.log.flatMap fun t => leBytes 4 t

/-! ### Pages of an image -/

/-- A basis of an image: what it is (a frame of the device, or new for a layer), its rank, its frames. -/
structure ImgBasis where
  /-- first frame's key, or 2^41 + layer for one built for the image -/
  id : Nat
  rank : Nat
  frames : List (List Byte × List Byte)

/-- A page of an image. -/
structure ImgPage where
  layer : Nat
  first : Nat
  count : Nat
  kFmt : Nat := 0
  vFmt : Nat := 0
  rank : Nat := 0
  isSealed : Bool := false
  frozen : Bool := false
  lowRank : Bool := false
  lrRejected : Bool := false
  escalated : Bool := false
  missing : Bool := false
  clips : Nat := 0
  basis : Nat := 0
  bytes : List Byte := []
  /-- the significant scale bytes -/
  scales : List Byte := []
  sketch : List Byte := List.replicate 64 0
deriving DecidableEq, Repr

/-- PAYLOAD_CRC of an image page: payload and the whole scale slot (R142). -/
def ImgPage.crc (p : ImgPage) : Nat := crc32c (p.bytes ++ (p.scales ++ List.replicate 1024 0).take 1024)

/-- The content of a basis cut at its frames: heads that do not fit in the first continue in the second (R135). -/
def basisFrames (m : Model) (bytes scales : List Byte) : List (List Byte × List Byte) :=
  let perHead := bytes.length / m.heads
  let n1 := if bytes.length ≤ 32768 then bytes.length else 32768 / max 1 perHead * perHead
  (bytes.take n1, scales.take (n1 / 32)) :: (if n1 < bytes.length then [(bytes.drop n1, scales.drop (n1 / 32))] else [])

/-- The format code of PARK_FMT: 0 E4M3, 1 FP4, 2 INT4. -/
def parkFmt (n : Nat) : Nat := if n = 0 then 0 else n + 1

/-- What a page's form in an image needs to be chosen: summary image or exact, L − EXACT_WIN, PARK_FMT, LR_THRESH. -/
structure ParkForm where
  summary : Bool
  limit : Int
  fmt : Nat
  thresh : Nat

/-- A frame as an image page, as stored, with the basis its header names. -/
def storedPage (s : State) (m : Model) (l k : Nat) (f : Frame) : ImgPage × Option ImgBasis :=
  let h := f.hdr
  let n := if h.lowRank then h.lrRank else m.headDim
  let nsc := ceilDiv (h.posCount * m.heads * m.kinds * n) 32
  let p : ImgPage := {
    layer := l, first := h.firstPos, count := h.posCount, kFmt := h.kFmt, vFmt := h.vFmt, rank := if h.lowRank then h.lrRank else 0,
    isSealed := h.isSealed, frozen := h.frozen, lowRank := h.lowRank, lrRejected := h.lrRejected, escalated := h.escalated, clips := h.clipCount,
    bytes := s.bytes (payloadAt k) h.storedLen, scales := s.bytes (scaleAt k) nsc,
    sketch := (h.sketch ++ List.replicate 64 0).take 64 }
  let b := if !h.lowRank then none else (s.resolve h.lrBasisRef).map fun bk =>
    let c := basisBytes s bk
    ({ id := bk, rank := h.lrRank, frames := basisFrames m c.1 c.2 } : ImgBasis)
  (p, b)

/-- A stored form as a page's content. -/
def withStored (p : ImgPage) (st : Stored) : ImgPage := { p with kFmt := st.kFmt, vFmt := st.vFmt, bytes := st.bytes, scales := st.scales }

/-- A frame in the form the image gives it (R141); `own` is the basis its layer projects over. -/
def parkPage (s : State) (m : Model) (pf : ParkForm) (l k : Nat) (f : Frame) (own : Option ImgBasis) : ImgPage × Option ImgBasis :=
  let p := storedPage s m l k f
  let inWindow := decide (pf.limit < ((f.hdr.firstPos + f.hdr.posCount : Nat) : Int))
  if !pf.summary || inWindow || !f.hdr.isSealed then p
  else if f.hdr.lowRank then
    if p.1.kFmt = pf.fmt then p else (withStored p.1 (convert m pf.fmt f.hdr.lrRank (pagePos s m k f)), p.2)
  else if f.hdr.lrRejected then p
  else match own with
    | none => p
    | some b =>
      let c : List Byte × List Byte := (b.frames.flatMap (·.1), b.frames.flatMap (·.2))
      match project m pf.fmt pf.thresh (pagePos s m k f) (basisOf m b.rank c.1 c.2) with
      | some st => ({ withStored p.1 st with lowRank := true, rank := b.rank }, some b)
      | none => ({ p.1 with lrRejected := true }, none)

/-- The basis a layer's pages are projected over: the latest in far state, or one that a first pass builds for the image. -/
def layerBasis (s : State) (m : Model) (h l : Nat) (y : Layer) : ImgBasis :=
  match latestBasis s h l with
  | some (_, bk) =>
    let c := basisBytes s bk
    { id := bk, rank := ((s.frame bk).map (·.hdr.lrRank)).getD 0, frames := basisFrames m c.1 c.2 }
  | none =>
    let st := buildBasis m (passSamples s m y (s.get Fld.TRC_CTL_LR_SAMPLE_LOG2))
    { id := 2 ^ 41 + l, rank := st.rank, frames := basisFrames m st.bytes st.scales }

/-- A page is one that a summary image projects. -/
def projects (s : State) (pf : ParkForm) (k : Nat) : Bool :=
  match s.frame k with
  | some f => pf.summary && f.hdr.isSealed && !f.hdr.lowRank && !f.hdr.lrRejected && !decide (pf.limit < ((f.hdr.firstPos + f.hdr.posCount : Nat) : Int))
  | none => false

/-- The pages of a layer in an image with the bases they name; a page that cannot be read is MISSING (R143). `refs` gives the page index
and reference of each. -/
def layerPages (s : State) (m : Model) (pf : ParkForm) (h l : Nat) (y : Layer) (refs : List (Nat × Nat)) (missing : List (Nat × Nat)) :
    List (ImgPage × Option ImgBasis) :=
  let keys := refs.map fun e => (e.1, s.resolve e.2)
  let own : Option ImgBasis := if keys.any fun e => (e.2.map (projects s pf)).getD false then some (layerBasis s m h l y) else none
  keys.map fun e =>
    let none_ : ImgPage := { layer := l, first := e.1 * 2 ^ m.pLog2, count := min (2 ^ m.pLog2) (y.count - e.1 * 2 ^ m.pLog2), missing := true }
    match e.2.bind fun k => (s.frame k).map fun f => (k, f) with
    | some (k, f) => if missing.contains (l, e.1) then (none_, none) else parkPage s m pf l k f own
    | none => (none_, none)

/-! ### Sections (R142) -/

/-- An image before it is laid out. -/
structure ImgParts where
  exact : Bool
  handle : Nat
  epoch : Nat
  tenant : Nat
  modelId : Nat
  layers : Nat
  pLog2 : Nat
  positions : Nat
  window : Nat
  prefix0 : Nat
  prefix1 : Nat
  prefixPos : Nat
  pages : List (ImgPage × Option ImgBasis)
  log : List Byte
  sampler : List Byte

def padTo (n : Nat) (bs : List Byte) : List Byte := bs ++ List.replicate ((n - bs.length % n) % n) 0

/-- The bases of an image, each once, in the order its pages name them. -/
def imgBases (l : List (ImgPage × Option ImgBasis)) : List ImgBasis :=
  l.foldl (fun acc e => match e.2 with
    | some b => if acc.any fun x => x.id == b.id then acc else acc ++ [b]
    | none => acc) []

/-- BASIS_IDX: the index of a basis's first frame in section 2. -/
def basisIdx : List ImgBasis → Nat → Nat
  | [], _ => 0
  | b :: l, id => if b.id = id then 0 else b.frames.length + basisIdx l id

/-- A page record, 96 bytes. -/
def pageRecord (p : ImgPage) (basis offset : Nat) : List Byte :=
  let bit (b : Bool) (n : Nat) : Nat := if b then 2 ^ n else 0
  leBytes 4 p.first ++ leBytes 2 p.count ++ leBytes 2 p.layer
  ++ leBytes 1 (p.kFmt + 16 * p.vFmt) ++ leBytes 1 p.rank
  ++ leBytes 2 (bit p.isSealed 0 + bit p.frozen 1 + bit p.lowRank 2 + bit p.lrRejected 3 + bit p.escalated 4 + bit p.missing 5)
  ++ leBytes 2 p.clips ++ leBytes 2 basis ++ leBytes 2 p.bytes.length ++ leBytes 2 p.scales.length
  ++ leBytes 4 (if p.missing then 0 else p.crc) ++ leBytes 8 offset ++ (p.sketch ++ List.replicate 64 0).take 64

/-- The data of pages laid one after another from an offset: the records' DATA_OFFSETs with the pages. -/
def placePages : Nat → List (ImgPage × Option ImgBasis) → List (Nat × ImgPage × Option ImgBasis)
  | _, [] => []
  | o, e :: l => (o, e) :: placePages (o + e.1.bytes.length + e.1.scales.length) l

/-- The image's bytes, and the offset and length of section 4. -/
def imageBytes (i : ImgParts) : List Byte × Nat × Nat :=
  let bases := imgBases i.pages
  let up (n : Nat) : Nat := (n + 4095) / 4096 * 4096
  let s2 := bases.flatMap fun b => b.frames.flatMap fun f => f.1 ++ f.2
  let o1 := 4096
  let l1 := 96 * i.pages.length
  let o2 := o1 + up l1
  let o3 := o2 + up s2.length
  let placed := placePages o3 i.pages
  let s1 := placed.flatMap fun e => pageRecord e.2.1 ((e.2.2.map fun b => basisIdx bases b.id).getD 0) (if e.2.1.missing then 0 else e.1)
  let s3 := i.pages.flatMap fun e => e.1.bytes ++ e.1.scales
  let o4 := o3 + up s3.length
  let o5 := o4 + up i.log.length
  let sec (o n : Nat) : List Byte := leBytes 8 o ++ leBytes 8 n
  let hdr := leBytes 2 1 ++ leBytes 2 (if i.exact then 1 else 0) ++ leBytes 4 0 ++ leBytes 8 i.handle ++ leBytes 4 i.epoch ++ leBytes 4 i.tenant
    ++ leBytes 4 i.modelId ++ leBytes 4 (i.layers + 65536 * i.pLog2) ++ leBytes 4 i.positions ++ leBytes 4 i.window
    ++ sec 0 256 ++ sec o1 l1 ++ sec o2 s2.length ++ sec o3 s3.length ++ sec o4 i.log.length ++ sec o5 i.sampler.length
    ++ leBytes 8 i.prefix0 ++ leBytes 8 i.prefix1 ++ leBytes 8 0 ++ leBytes 8 0 ++ leBytes 4 i.prefixPos
  let head := hdr ++ leBytes 4 (crc32c hdr) ++ List.replicate (256 - (hdr.length + 4)) 0
  (padTo 4096 head ++ padTo 4096 s1 ++ padTo 4096 s2 ++ padTo 4096 s3 ++ padTo 4096 i.log ++ i.sampler, o4, i.log.length)

/-! ### The image of a request -/

/-- Page-list entries that shared prefixes cover. -/
def prefixPages (m : Model) (c : Loc) : Nat := c.prefixPos / 2 ^ m.pLog2

/-- The form a tenant's profile gives its images (R136, R139, R141). -/
def parkForm (s : State) (tenant positions : Nat) : ParkForm :=
  let p := s.trcProf tenant
  { summary := s.is (Fld.TRC_PROF_LR_PARK p) && !s.isProt tenant,
    limit := (positions : Int) - ((64 * s.get (Fld.TRC_PROF_EXACT_WIN p) : Nat) : Int),
    fmt := parkFmt (s.get (Fld.TRC_PROF_PARK_FMT p)), thresh := s.get (Fld.TRC_PROF_LR_THRESH p) }

/-- The parts of a request's image; `missing` are the pages, as layer and page index, that cannot be read and have no mirror copy. -/
def requestParts (s : State) (r : Rec) (c : Loc) (m : Model) (missing : List (Nat × Nat)) : ImgParts :=
  let n := locPositions c
  let pf := parkForm s c.tenant n
  let skip := prefixPages m c
  let smp : List Byte := match (c.sampler).bind s.resolve with
    | some k => s.bytes (scaleAt k) 256 ++ s.bytes (payloadAt k) 32768
    | none => []
  { exact := !pf.summary, handle := r.handle, epoch := r.epoch, tenant := c.tenant, modelId := m.modelId, layers := m.layers, pLog2 := m.pLog2,
    positions := n, window := if pf.summary then 64 * s.get (Fld.TRC_PROF_EXACT_WIN (s.trcProf c.tenant)) else 0,
    prefix0 := c.prefix0, prefix1 := c.prefix1, prefixPos := c.prefixPos,
    pages := (List.range m.layers).flatMap fun l =>
      let y := c.layer l
      layerPages s m pf r.handle l y ((y.pages.zipIdx.map fun e => (e.2, e.1)).drop skip) missing,
    log := logBytes r ++ turnArea r, sampler := smp }

/-- The parts of a prefix's image (R304): its pages as stored. -/
def prefixParts (s : State) (p : Prefix) (m : Model) : ImgParts :=
  let pf : ParkForm := { summary := false, limit := 0, fmt := 0, thresh := 0 }
  { exact := true, handle := p.handle, epoch := 0, tenant := p.tenant, modelId := m.modelId, layers := m.layers, pLog2 := m.pLog2, positions := p.positions,
    window := 0, prefix0 := 0, prefix1 := 0, prefixPos := 0,
    pages := p.pages.flatMap fun e => layerPages s m pf p.handle e.1 { pages := e.2, count := p.positions } (e.2.zipIdx.map fun x => (x.2, x.1)) [],
    log := [], sampler := [] }

/-! ### Encryption (R308) -/

/-- A unit's 64 KiB, encrypted under a tenant's key where the image is. -/
def sealUnit (key : Option (List Byte)) (slot index : Nat) (bs : List Byte) : List Byte :=
  match key with
  | none => bs
  | some k => (List.range 16).flatMap fun j => xtsEnc k ((slot * 65536 + index) * 16 + j) ((bs.drop (4096 * j)).take 4096)
def openUnit (key : Option (List Byte)) (slot index : Nat) (bs : List Byte) : List Byte :=
  match key with
  | none => bs
  | some k => (List.range 16).flatMap fun j => xtsDec k ((slot * 65536 + index) * 16 + j) ((bs.drop (4096 * j)).take 4096)

/-- The unwrapped Kennel key of a tenant (R418). -/
def knlKey (s : State) (tenant id : Nat) : Option (List Byte) := (s.body.sec.knlKeys.find? fun e => e.1 == tenant * 2 ^ 32 + id).map (·.2)

/-! ### Reading an image back -/

/-- The header fields of an image. -/
structure ImgHead where
  layers : Nat
  pLog2 : Nat
  positions : Nat
  /-- offset and length of each section -/
  secs : List (Nat × Nat)
  prefixPos : Nat

def imgHeadOf (bs : List Byte) : ImgHead :=
  let f (o n : Nat) : Nat := leNat ((bs.drop o).take n)
  { layers := f 0x1C 2, pLog2 := f 0x1E 1 % 16, positions := f 0x20 4,
    secs := (List.range 6).map fun i => (f (0x28 + 16 * i) 8, f (0x30 + 16 * i) 8), prefixPos := f 0xA8 4 }

/-- The page that a record and the image spell, and its BASIS_IDX. -/
def pageOfRecord (bs r : List Byte) : ImgPage × Nat :=
  let f (o n : Nat) : Nat := leNat ((r.drop o).take n)
  let flags := f 0xA 2
  let off := f 0x18 8
  ({ layer := f 6 2, first := f 0 4, count := f 4 2, kFmt := f 8 1 % 16, vFmt := f 8 1 / 16, rank := f 9 1 % 64,
     isSealed := bitsOf flags 0 1 == 1, frozen := bitsOf flags 1 1 == 1, lowRank := bitsOf flags 2 1 == 1, lrRejected := bitsOf flags 3 1 == 1,
     escalated := bitsOf flags 4 1 == 1, missing := bitsOf flags 5 1 == 1, clips := f 0xC 2, basis := f 0xE 2,
     bytes := (bs.drop off).take (f 0x10 2), scales := (bs.drop (off + f 0x10 2)).take (f 0x12 2), sketch := (r.drop 0x20).take 64 }, f 0x14 4)

/-- Whether bytes of an image lie in a lost unit. -/
def touchesLost (lost : List Nat) (o n : Nat) : Bool := lost.any fun u => o < 65536 * (u + 1) && 65536 * u < o + n

/-- Where frame i of section 2 lies, from the lengths of the bases its pages name: all frames of a layer's basis have the sizes
that `basisFrames` gives a rank. -/
def basisSpan (m : Model) (base rank i : Nat) (starts : List (Nat × Nat)) : List (Nat × Nat) :=
  let n := m.heads * m.kinds * rank * m.headDim
  let o := ((starts.filter fun e => e.1 < i).map fun e =>
    let k := m.heads * m.kinds * e.2 * m.headDim
    k + k / 32).foldl (· + ·) 0
  let perHead := n / m.heads
  let n1 := if n ≤ 32768 then n else 32768 / max 1 perHead * perHead
  (base + o, n1) :: (if n1 < n then [(base + o + n1 + n1 / 32, n - n1)] else [])

/-- A page of an image as it is to be restored: what it holds, the spans of its basis's frames, whether it is lost. -/
structure BackPage where
  page : ImgPage
  index : Nat
  spans : List (Nat × Nat)
  lost : Bool

/-- The pages of an image read back, `lost` the units that could not be read. -/
def readPages (m : Model) (bs : List Byte) (lost : List Nat) : List BackPage :=
  let hd := imgHeadOf bs
  let o1 := (hd.secs.getD 1 (0, 0)).1
  let o2 := (hd.secs.getD 2 (0, 0)).1
  let n := (hd.secs.getD 1 (0, 0)).2 / 96
  let recs := (List.range n).map fun i => (i, pageOfRecord bs ((bs.drop (o1 + 96 * i)).take 96))
  let starts := nub2 ((recs.filter fun e => e.2.1.lowRank).map fun e => (e.2.1.basis, e.2.1.rank))
  let per := n / max 1 hd.layers
  recs.map fun e =>
    let p := e.2.1
    let spans := if p.lowRank then basisSpan m o2 p.rank p.basis starts else []
    let dataLost := touchesLost lost (leNat ((bs.drop (o1 + 96 * e.1 + 0x18)).take 8)) (p.bytes.length + p.scales.length)
    let recLost := touchesLost lost (o1 + 96 * e.1) 96
    -- a record that cannot be read still has its layer and place by its number
    let p := if recLost then { p with layer := e.1 / max 1 per, first := hd.prefixPos + e.1 % max 1 per * 2 ^ hd.pLog2 } else p
    { page := p, index := p.first / 2 ^ hd.pLog2, spans := spans,
      lost := recLost || dataLost || p.missing || spans.any (fun x => touchesLost lost x.1 (x.2 + x.2 / 32)) || p.crc != e.2.2 }
where
  nub2 : List (Nat × Nat) → List (Nat × Nat)
    | [] => []
    | a :: l => a :: (nub2 l).filter (·.1 != a.1)

/-- The smallest first position of a lost page. -/
def lostFrom (l : List BackPage) : Option Nat :=
  match (l.filter (·.lost)).map (·.page.first) with
  | [] => none
  | a :: t => some (t.foldl min a)

/-- A far frame takes a content under a header. -/
def fillFar (k : Nat) (hdr : PageHeader) (bytes scales : List Byte) : Act :=
  acts [takeFrame k { hdr := hdr, kind := .cache }, clearMem (payloadAt k) 32768, clearMem (scaleAt k) 1024,
        store (payloadAt k) bytes, store (scaleAt k) scales,
        look fun s => modHdr k fun h => { h with payloadCrc := pageCrc s k hdr.storedLen }]

/-- A far frame is placed and filled; none where far state has no room (R43). -/
def placeFill (s : State) (group : Nat) (hdr : PageHeader) (bytes scales : List Byte) : Option (Nat × Act) :=
  (placeFar s .cache group).map fun p => (p.1, acts [p.2, fillFar p.1 hdr bytes scales])

/-- The bases of a request's image come back, one or two frames each, under BASIS_SEQ rising; answers BASIS_IDX → frame. -/
def restoreBases (s : State) (h tenant : Nat) (m : Model) (bs : List Byte) : List (Nat × Nat × Nat × List (Nat × Nat)) → Nat → Option (List (Nat × Nat) × Act)
  | [], _ => some ([], nop)
  | (idx, layer, rank, spans) :: rest, seq =>
    let hdr (n : Nat) : PageHeader := { stagingHdr s h layer tenant with
      isSealed := true, basis := true, lrRank := rank, basisSeq := seq, storedLen := n, pLog2 := m.pLog2, rotSeedId := m.seedSlot }
    let part (x : Nat × Nat) : List Byte × List Byte := ((bs.drop x.1).take x.2, (bs.drop (x.1 + x.2)).take (x.2 / 32))
    let frames : Option (Nat × Act) := match spans with
      | [] => none
      | a :: l => match placeFill s (s.group tenant) (hdr a.2) (part a).1 (part a).2 with
        | none => none
        | some (k1, act) => match l with
          | [] => some (k1, act)
          | b :: _ => (placeFill (run act s) (s.group tenant) (hdr b.2) (part b).1 (part b).2).map fun q =>
              (k1, acts [act, q.2, look fun s => modHdr k1 fun x => { x with basisNext := s.refOf q.1 }])
    match frames with
    | none => none
    | some (k1, act) => match restoreBases (run act s) h tenant m bs rest (seq + 1) with
      | none => none
      | some (l, more) => some ((idx, k1) :: l, acts [act, more])

/-- The pages of an image come back into far frames in its order (R143); answers layer and reference of each, rising. -/
def restorePages (s : State) (h tenant : Nat) (m : Model) (bases : List (Nat × Nat)) : List BackPage → Option (List (Nat × Nat) × Act)
  | [] => some ([], nop)
  | b :: rest =>
    let p := b.page
    let bk := if p.lowRank then (bases.find? fun e => e.1 == p.basis).map (·.2) else none
    let hdr : PageHeader := { stagingHdr s h p.layer tenant with
      firstPos := p.first, posCount := p.count, pLog2 := m.pLog2, rotSeedId := m.seedSlot, kFmt := p.kFmt, vFmt := p.vFmt, lrRank := p.rank,
      clipCount := p.clips, isSealed := p.isSealed, frozen := p.frozen, lowRank := p.lowRank, lrRejected := p.lrRejected, escalated := p.escalated,
      storedLen := p.bytes.length, sketch := p.sketch, cold := decide (2 ≤ p.kFmt),
      lrBasisRef := (bk.map s.refOf).getD 0, basisSeq := (bk.bind fun k => (s.frame k).map (·.hdr.basisSeq)).getD 0 }
    match placeFill s (s.group tenant) hdr p.bytes p.scales with
    | none => none
    | some (k, act) =>
      let take := match bk with
        | some x => acts [modHdr x fun y => { y with refCount := y.refCount + 1 }, eff (.refTake 1)]
        | none => nop
      let act := acts [act, take]
      match restorePages (run act s) h tenant m bases rest with
      | none => none
      | some (l, more) => some ((p.layer, s.refOf k) :: l, acts [act, more])

/-- Each basis that a list of pages names, once: BASIS_IDX, layer, rank, spans. -/
def basesNamed (l : List BackPage) : List (Nat × Nat × Nat × List (Nat × Nat)) :=
  l.foldl (fun acc b => if b.page.lowRank && !acc.any (fun x => x.1 == b.page.basis)
    then acc ++ [(b.page.basis, b.page.layer, b.page.rank, b.spans)] else acc) []

/-- A request's image is brought back: every layer below p0 where pages are lost, else whole; none where far state has no room. The
sampler frame comes back frozen. -/
def restoreRequest (s : State) (h : Nat) (c : Loc) (m : Model) (bs : List Byte) (lost : List Nat) (headLost : Bool) : Option (Option Nat × Act) :=
  let all := if headLost then [] else readPages m bs lost
  let p0 : Option Nat := if headLost then some c.prefixPos else lostFrom all
  let keep := match p0 with
    | none => all
    | some p => all.filter fun b => b.page.first < p
  let sec5 := (imgHeadOf bs).secs.getD 5 (0, 0)
  let smpOk := !headLost && 0 < sec5.2 && !touchesLost lost sec5.1 sec5.2
  match restoreBases s h c.tenant m bs (basesNamed keep) 1 with
  | none => none
  | some (bl, a1) =>
    let s1 := run a1 s
    match restorePages s1 h c.tenant m bl keep with
    | none => none
    | some (pl, a2) =>
      let s2 := run a2 s1
      let smp : Option Act := if !smpOk then some nop else
        (placeFill s2 (s.group c.tenant) { stagingHdr s h 0 c.tenant with frozen := true, storedLen := 32768 }
          ((bs.drop (sec5.1 + 256)).take 32768) ((bs.drop sec5.1).take 256)).map fun q =>
          acts [q.2, look fun s => modLoc h fun c => { c with sampler := some (s.refOf q.1) }]
      smp.map fun a3 =>
        let skip := prefixPages m c
        let layers := (List.range m.layers).map fun l =>
          let y := c.layer l
          (l, { y with pages := y.pages.take skip ++ (pl.filter fun e => e.1 == l).map (·.2), count := min y.count (p0.getD y.count) })
        (p0, acts [a1, a2, a3, modLoc h (fun c => { c with layers := layers }), each (List.range m.layers) (addBases h)])

end Sys2Proof.Machine
end

