-- ==== Sys2Proof/Machine/Kennel.lean ====
section
/-! DEFINITION. The Kennel at work (R294 to R324, 11_kennel.md): placing units in stripes, parks and resumes, collection, folding,
levelling, retirement, the power-loss flush, recovery. -/

namespace Sys2Proof.Machine

/-! ### Superblocks -/

/-- The superblocks of a group in use. -/
def supersOf (s : State) (g : Nat) : List (Nat × Super) := s.kr.supers.filter fun e => sbGroup e.1 == g
/-- Erased superblocks of a group, the flush superblock and those of the system apart. -/
def erasedCount (s : State) (g : Nat) : Nat := groupBlocks s g - systemBlocks - (supersOf s g).length
/-- The blocks of a group that data superblocks have, those given to the spares counted. -/
def groupRange (s : State) (g : Nat) : Nat := groupBlocks s g + (s.kf.gone.filter fun k => sbGroup k == g).length
/-- Whether a superblock is erased and in service. -/
def isErased (s : State) (k : Nat) : Bool := !(tkeys s.kr.supers).contains k && !s.kf.gone.contains k
/-- The lowest erased superblock of a group. -/
def firstErased (s : State) (g : Nat) : Option Nat :=
  if erasedCount s g = 0 then none
  else (firstFrom (fun b => isErased s (sbKey g b)) (groupRange s g - systemBlocks) systemBlocks).map (sbKey g)

/-- A superblock is in pSLC mode. -/
def SbSt.isSlc : SbSt → Bool
  | .opened b | .closed b | .released b => b
/-- A superblock is closed and holds units. -/
def SbSt.isClosed : SbSt → Bool
  | .closed _ => true
  | _ => false

/-- The buffer's content in units, and the buffer's size (R311). -/
def slcContent (s : State) : Nat :=
  ((s.kr.supers.filter fun e => e.2.st.isSlc && (match e.2.st with | .released _ => false | _ => true)).map fun e => 15 * e.2.next).foldl (· + ·) 0
def bufSizeNow (s : State) : Nat := max 262144 ((capacity s - usedUnits s) / 4)

/-- A superblock is allocated in a mode: the buffer's size is recomputed, the change of state recorded. -/
def allocSb (k : Nat) (slc : Bool) : Act := look fun s =>
  acts [onRam (fun r => { r with supers := tput r.supers k { st := .opened slc, seq := nextSeq s }, bufSize := bufSizeNow s }),
        jappend (.super k (some (.opened slc)))]

/-- The slot of `opens` of a group and mode. -/
def openKey (g : Nat) (slc : Bool) : Nat := 2 * g + (if slc then 1 else 0)

/-- Whether a stripe can be placed in a group; parks wait below GC_CRIT (R310). -/
def canPlace (s : State) (park slc : Bool) (g : Nat) : Bool :=
  (!park || s.get Fld.KNL_CTL_GC_CRIT ≤ erasedCount s g) && ((tget s.kr.opens (openKey g slc)).isSome || 0 < erasedCount s g)

/-- The groups from the turn on (log entry 5). -/
def groupTurn (s : State) : List Nat :=
  let n := knlGroups s
  (List.range n).map fun i => (s.kr.turn + i) % max 1 n

/-- The group of the next stripe: in turn, away from some groups where possible. -/
def pickGroup (s : State) (park slc : Bool) (avoid : List Nat) : Option Nat :=
  let ok := (groupTurn s).filter (canPlace s park slc)
  match ok.find? fun g => !avoid.contains g with
  | some g => some g
  | none => ok.head?

/-- A stripe of a superblock: up to 15 units with their purposes, and the parity on die (stripe number mod 16) (R298). -/
def putStripe (k : Nat) (l : List (KTag × ProgFor)) (parity : ProgFor) : Act := look fun s =>
  match tget s.kr.supers k with
  | none => nop
  | some sb =>
    let n := sb.next
    let p := n % 16
    let chans := (List.range 16).filter (· != p)
    let issue (ch : Nat) (t : KTag) (w : ProgFor) : Act := look fun s =>
      acts [takeSeq, onRam fun r => { r with progs := tput r.progs (physOf s k ch n) { tag := { t with seq := nextSeq s }, why := w } }]
    let full := n + 1 == modeUnits s sb.st.isSlc
    acts [each (l.zip chans) (fun e => issue e.2 e.1.1 e.1.2), issue p { seq := 0, slot := 0, index := 0, kind := 1 } parity,
          onRam (fun r => { r with supers := tput r.supers k { sb with next := n + 1, st := if full then .closed sb.st.isSlc else sb.st }
                                   turn := r.turn + 1
                                   opens := if full then r.opens.filter (·.2 != k) else r.opens }),
          when full (jappend (.super k (some (.closed sb.st.isSlc))))]

/-- A stripe in a group, its superblock opened where none is. -/
def groupStripe (g : Nat) (slc : Bool) (l : List (KTag × ProgFor)) (parity : ProgFor) : Act := look fun s =>
  match tget s.kr.opens (openKey g slc) with
  | some k => putStripe k l parity
  | none => match firstErased s g with
    | none => nop
    | some k => acts [allocSb k slc, onRam (fun r => { r with opens := tput r.opens (openKey g slc) k }), putStripe k l parity]

/-! ### Parks (R305) -/

/-- Groups where the first copies of units of a slot lie. -/
def groupsOfUnits (s : State) (slot : Nat) (idx : List Nat) : List Nat :=
  let mine (t : KTag) : Bool := t.kind == 0 && t.slot == slot && !t.logCopy && idx.contains t.index
  nub (((s.kf.units.filter fun e => mine e.2).map fun e => physDie e.1 / 16) ++ ((s.kr.progs.filter fun e => mine e.2.tag).map fun e => physDie e.1 / 16))

/-- One stripe of a park is issued, where one can be. -/
def parkStripe (p : Park) : Act := look fun s =>
  match p.left with
  | [] => nop
  | u :: _ =>
    let run := (p.left.takeWhile fun x => x.2 == u.2).take 15
    let avoid := if u.2 then groupsOfUnits s p.slot (run.map (·.1)) else []
    let slc := slcContent s < s.kr.bufSize || s.kr.bufSize == 0
    let place : Option (Nat × Bool) := match pickGroup s true slc avoid with
      | some g => some (g, slc)
      | none => (pickGroup s true (!slc) avoid).map fun g => (g, !slc)
    match place with
    | none => nop
    | some (g, m) =>
      acts [groupStripe g m (run.map fun x => ({ seq := 0, slot := p.slot, index := x.1, logCopy := x.2 }, .park p.slot)) (.park p.slot),
            onRam fun r => { r with parks := tmod r.parks p.slot fun q => { q with left := q.left.drop run.length } }]

/-! ### Moves (R310 to R312, R321) -/

/-- A superblock is the target of a wear move. -/
def KMove.dst (m : KMove) : Option Nat := match m.why with
  | .wear d => some d
  | _ => none

/-- The move goes on in READ_ONLY (R321): blocks are still retired. -/
def KMove.always (m : KMove) : Bool := match m.why with
  | .retire _ | .die _ => true
  | _ => false

/-- One stripe of a move is issued, into native superblocks. -/
def moveStripe (m : KMove) : Act := look fun s =>
  let run := m.left.take 15
  let l := run.filterMap fun u => (tget s.kf.units u).map fun t => (t, ProgFor.move m.sb u)
  let issued := onRam fun r => { r with moves := r.moves.map fun x => if x.sb = m.sb ∧ x.why = m.why
    then { x with left := x.left.drop 15, out := x.out ++ run } else x }
  match m.dst with
  | some k => acts [putStripe k l (.move m.sb 0), issued]
  | none => match pickGroup s false false [] with
    | some g => acts [groupStripe g false l (.move m.sb 0), issued]
    | none => nop

/-- Whether a stripe of a move can be issued now. -/
def moveReady (s : State) (m : KMove) : Bool :=
  !m.left.isEmpty && (m.always || s.knlState == KnlSt.normal) && (m.dst.isSome || (pickGroup s false false []).isSome)

/-- Whether a stripe of a park can be issued now. -/
def parkReady (s : State) (p : Park) : Bool :=
  !p.left.isEmpty && s.knlState == KnlSt.normal && ((pickGroup s true true []).isSome || (pickGroup s true false []).isSome)

/-- Stripes are issued while there are units to write and room for them, moves first. -/
def pump : Nat → Act
  | 0 => nop
  | n + 1 => look fun s =>
    match s.kr.moves.find? (moveReady s) with
    | some m => acts [moveStripe m, pump n]
    | none => match s.kr.parks.find? fun e => parkReady s e.2 with
      | some e => acts [parkStripe e.2, pump n]
      | none => nop

/-- Enough turns for everything that waits. -/
def pumpAll : Act := look fun s =>
  pump (((s.kr.moves.map fun m => m.left.length) ++ (s.kr.parks.map fun e => e.2.left.length)).foldl (· + ·) 0)

/-! ### Spares, capacity, READ_ONLY (R319 to R321) -/

/-- The dies of the population. -/
def knlDies (s : State) : List Nat := List.range (16 * knlGroups s)
/-- The smallest S_d, with its die. -/
def spareMin (s : State) : Nat × Nat :=
  match (knlDies s).map fun d => (dieSpares s d, d) with
  | [] => (0, 0)
  | x :: l => l.foldl (fun a b => if b.1 < a.1 then b else a) x
/-- SPARE_MIN falls to a quarter of SPARE_INIT above the floor. -/
def spareLow (s : State) : Bool := (spareMin s).1 ≤ s.get Fld.KNL_CTL_SPARE_FLOOR + s.kf.spareInit / 4
/-- WEAR_USED (R322): a hundredth of a percent of the rated cycles of the blocks in service. -/
def wearUsed (s : State) : Nat :=
  let blocks := ((knlDies s).map fun d => dieGood s d - dieSpares s d).foldl (· + ·) 0
  let d := blocks * s.get Fld.KNL_NAND_CFG_PE_RATED
  if d = 0 then 0 else (s.kf.erases.map (·.2)).foldl (· + ·) 0 * 10000 / d

/-- The registers that show spares, wear and capacity follow; WEAR_OUT is set when wear reaches 100 %. -/
def syncKennel : Act := look fun s =>
  let w := wearUsed s
  acts [setFld Fld.KNL_STATUS_SPARE_MIN (spareMin s).1, setFld Fld.KNL_STATUS_SPARE_MIN_DIE (spareMin s).2,
        when (s.get Fld.KNL_STATUS_WEAR_USED < 10000 && 10000 ≤ w) (raise Blk.knl 7),
        setFld Fld.KNL_STATUS_WEAR_USED (min w 16383), syncFree]

/-- A park ends before its image is durable (R305): the slot is RELEASED, the request LISTENING with its frames. -/
def failPark (slot status : Nat) : Act := look fun s =>
  match tget s.kr.parks slot with
  | none => nop
  | some p =>
    acts [onRam (fun r => { r with parks := tdel r.parks slot, progs := r.progs.filter fun e => e.2.why != .park slot }),
          releaseImage slot,
          match s.req p.handle with
          | some q => acts [when (q.record.phase == .parking) (putReq p.handle { q with record := { q.record with phase := .listening } }),
                            modLoc p.handle fun c => { c with phase := if c.phase = .parking then .listening else c.phase }]
          | none => nop,
          match p.ref with
          | some ref => homeFin ref status []
          | none => nop,
          unitEnded p.handle]

/-- The Kennel enters READ_ONLY. -/
def enterReadOnly : Act := look fun s =>
  when (s.knlState != KnlSt.readOnly)
    (acts [setFld Fld.KNL_STATUS_STATE KnlSt.readOnly, raise Blk.knl 5, each (tkeys s.kr.parks) fun k => failPark k St.kennelFull])

/-- S_d of a die changes. -/
def setSpares (d n : Nat) : Act := onFlash fun f => { f with spares := tput f.spares d n }
def dropSpare (d : Nat) : Act := look fun s => setSpares d ((tget s.kf.spares d).getD 0 - 1)

/-- C shrinks by one superblock of a group: an erased one goes into the spares. -/
def shrink (g k : Nat) : Act :=
  acts [onFlash (fun f => { f with gone := f.gone ++ [k] }),
        each (groupDies g) (fun d => look fun s => setSpares d ((tget s.kf.spares d).getD 0 + 1)), raise Blk.knl 4]

/-- A block of a die is retired once its units have been copied (R321). -/
def retireBlock (die block : Nat) : Act := acts [look fun s =>
  let g := die / 16
  let spares := dieSpares s die
  acts [raiseWith Blk.knl 3 { unit := die, detail := block }, count Reg.KNL_RETIRED 1,
        onFlash (fun f => { f with good := tput f.good die ((tget f.good die).getD 0 - 1), erases := tdel f.erases (die * 65536 + block) }),
        jappend (.remap die block),
        if s.get Fld.KNL_CTL_SPARE_FLOOR < spares then dropSpare die
        else match firstErased s g with
          | some k => if usedUnits s + sbUnits s false ≤ capacity s then acts [shrink g k, dropSpare die] else acts [dropSpare die, enterReadOnly]
          | none => acts [dropSpare die, enterReadOnly],
        when (!spareLow s) (look fun s => when (spareLow s) (raise Blk.knl 6))],
  syncKennel]

/-! ### Valid units and the end of a move -/

/-- The units of a superblock that the map names. -/
def validUnits (s : State) (k : Nat) : List Nat :=
  ((s.kr.map ++ s.kr.copies).map (·.2)).filter fun u => physSb s u == k

/-- Programmed units of images being written that lie in a superblock. -/
def writingUnits (s : State) (k : Nat) : List Nat :=
  (s.kf.units.filter fun e => physSb s e.1 == k && e.2.kind == 0 && (s.image e.2.slot).st == .writing).map (·.1)

/-- A superblock may be emptied: closed, none of its units an image's that is being written, nothing under way in it. -/
def mayEmpty (s : State) (e : Nat × Super) : Bool :=
  e.2.st.isClosed && (writingUnits s e.1).isEmpty && !(s.kr.moves.any fun m => m.sb == e.1 || m.dst == some e.1)
  && !s.kr.progs.any fun p => physSb s p.1 == e.1

/-- A superblock whose units have been moved: the map changes and then its RELEASE are committed, and the erase begins (R310). -/
def releaseSb (k : Nat) : Act := look fun s =>
  match tget s.kr.supers k with
  | none => nop
  | some sb => acts [jcommit, onRam (fun r => { r with supers := tput r.supers k { sb with st := .released sb.st.isSlc }
                                                       opens := r.opens.filter (·.2 != k), erasing := r.erasing ++ [k] }),
                     jappend (.super k (some (.released sb.st.isSlc))), jcommit]

/-- The map changes of a move: a unit whose entry still names the old place takes the new one. -/
def remapUnits (moved : List (Nat × Nat)) : Act := each moved fun e => look fun s =>
  match tget s.kf.units e.2 with
  | none => nop
  | some t =>
    let table := if t.logCopy then s.kr.copies else s.kr.map
    when (tget table (lunit t.slot t.index) == some e.1) (mapUnit t.slot t.index e.2 t.logCopy)

/-- A move that has written all its units ends. -/
def endMove (m : KMove) : Act := acts [
  onRam (fun r => { r with moves := r.moves.filter fun x => !(x.sb == m.sb && x.why == m.why) }),
  remapUnits m.moved,
  match m.why with
  | .gc | .fold | .die _ => releaseSb m.sb
  | .wear d => acts [count Reg.KNL_WL_MOVES 1, releaseSb m.sb, look fun s => match tget s.kr.supers d with
      | some x => acts [onRam (fun r => { r with supers := tput r.supers d { x with st := .closed false } }), jappend (.super d (some (.closed false)))]
      | none => nop]
  | .retire die => acts [jcommit,
      onFlash (fun f => { f with units := f.units.filter fun e => !(physDie e.1 == die && m.moved.any fun x => x.1 == e.1) }),
      retireBlock die (sbBlock m.sb)]]

/-- Moves with nothing left to write end. -/
def endMoves : Act := look fun s => each (s.kr.moves.filter fun m => m.left.isEmpty && m.out.isEmpty) endMove

/-- A move begins. -/
def startMove (m : KMove) : Act := acts [onRam (fun r => { r with moves := r.moves ++ [m] }), pumpAll, endMoves]

/-- The units of a die's block are copied away, and then the block is retired. An open superblock takes no more units. -/
def startRetire (k die : Nat) : Act := look fun s =>
  if s.kr.moves.any fun m => m.sb == k && m.why == .retire die then nop
  else
    let units := (nub (validUnits s k ++ writingUnits s k)).filter fun u => physDie u == die
    acts [match tget s.kr.supers k with
          | some sb => match sb.st with
            | .opened b => acts [onRam (fun r => { r with supers := tput r.supers k { sb with st := .closed b }, opens := r.opens.filter (·.2 != k) }),
                                 jappend (.super k (some (.closed b)))]
            | _ => nop
          | none => nop,
          startMove { sb := k, why := .retire die, left := units }]

/-! ### The end of a park -/

/-- The newest programmed unit of an index of a slot. -/
def newestUnit (s : State) (slot index : Nat) (copy : Bool) : Option Nat :=
  match s.kf.units.filter fun e => e.2.kind == 0 && e.2.slot == slot && e.2.index == index && e.2.logCopy == copy with
  | [] => none
  | x :: l => some (l.foldl (fun a b => if a.2.seq < b.2.seq then b else a) x).1

/-- The prefix page table's lowest free index. -/
def freePPage (s : State) : Nat := (firstBelow (s.kr.prefixPages.length + 1) fun i => (tget s.kr.prefixPages i).isNone).getD 0

/-- A page of a prefix takes tier 2: the generation and the references are kept, the frame is freed (R304). -/
def demotePage (slot recNo r : Nat) : Act := look fun s =>
  match if refTier r ≤ 1 then s.resolve r else none with
  | none => nop
  | some k => match s.frame k with
    | none => nop
    | some f =>
      let i := freePPage s
      acts [onRam (fun x => { x with prefixPages := tput x.prefixPages i { slot := slot, recNo := recNo, refCount := f.hdr.refCount } }),
            renameRef (s.refOf k) (mkRef s.chipId 2 i (s.gen k)), modHdr k (fun h => { h with refCount := 0 }), freePage k]

/-- The pages of a prefix whose image is durable take tier 2. -/
def demoteAll (h slot : Nat) : Act := look fun s =>
  match s.prefixOf h with
  | none => nop
  | some p => acts [each p.refs.zipIdx (fun e => demotePage slot e.2 e.1), look fun s => match s.prefixOf h with
      | some p => putPrefix h { p with demoted := true }
      | none => nop]

/-- The frames of a parked request are released; its page lists keep the shared pages. -/
def freeParked (h : Nat) : Act := look fun s =>
  match (s.loc h).bind fun c => (s.locModel c).map fun m => (c, m) with
  | none => nop
  | some (c, m) =>
    acts [dropPasses h, dropReads h, each (framesOf s h) freeFrame, dropCache h,
          modLoc h fun x => { x with phase := .parked, sampler := none, layers := x.layers.map fun e =>
            (e.1, { e.2 with pages := e.2.pages.take (prefixPages m c), bases := [], stage := none, draft := none, sel := [] }) }]

/-- The image is durable (R305 step 4): the map entries and DURABLE are committed. -/
def makeDurable (slot : Nat) (units : List (Nat × Bool)) : Act := acts [
  each units (fun u => look fun s => match newestUnit s slot u.1 u.2 with
    | some p => mapUnit slot u.1 p u.2
    | none => nop),
  look fun s => let i := s.image slot
    acts [putImage slot { i with st := .durable, seq := nextSeq s }, jcommit, count Reg.KNL_PARKS 1,
          tcount i.tenant TReg.KNL_TIMAGES 1, tcount i.tenant TReg.KNL_TUNITS i.units,
          meterMod i.tenant fun m => { m with kennel := m.kennel + 16 * i.units }]]

/-- The units of an image: its data, then the second copies of the units that hold section 4. -/
def unitsOf (len o4 l4 : Nat) : List (Nat × Bool) :=
  ((List.range (ceilDiv len 65536)).map fun i => (i, false))
  ++ (if l4 = 0 then [] else ((List.range (ceilDiv len 65536)).filter fun i => o4 < 65536 * (i + 1) && 65536 * i < o4 + l4).map fun i => (i, true))

/-- The units of a written image, from its own header. -/
def unitsOfBytes (bs : List Byte) : List (Nat × Bool) :=
  let x := (imgHeadOf bs).secs.getD 4 (0, 0)
  unitsOf bs.length x.1 x.2

/-- Every unit of a park has been programmed. -/
def finishPark (slot : Nat) : Act := look fun s =>
  match tget s.kr.parks slot with
  | none => nop
  | some p =>
    let gone := onRam fun r => { r with parks := tdel r.parks slot }
    if (s.image slot).isPrefix then
      let free : Bool := match s.prefixOf p.handle with
        | some x => x.users.all fun u => ((s.req u).map (·.record.phase)) == some Phase.parked
        | none => false
      if free then acts [gone, makeDurable slot (unitsOfBytes p.bytes), demoteAll p.handle slot,
                         each p.ref.toList fun ref => finOk ref []]
      else failPark slot St.busyRetry
    else match s.req p.handle with
      | none => failPark slot St.invalid
      | some q =>
        if q.closing then failPark slot St.invalid
        else acts [makeDurable slot (unitsOfBytes p.bytes), gone,
                   putReq p.handle { q with record := { q.record with phase := .parked } }, freeParked p.handle,
                   each p.ref.toList (fun ref => homeFin ref St.ok (leBytes 4 slot)), unitEnded p.handle]

/-- Parks whose every unit has been programmed end. -/
def finishParks : Act := look fun s =>
  each ((s.kr.parks.filter fun e => e.2.left.isEmpty && !s.kr.progs.any fun x => x.2.why == .park e.1).map (·.1)) finishPark

/-! ### KNL_PARK -/

/-- The request's pages that the image takes lie on this chip. -/
def pagesHere (s : State) (c : Loc) (m : Model) : Bool :=
  c.layers.all fun e => (e.2.pages.drop (prefixPages m c)).all fun r => match placeOf s r with
    | .remote _ | .kennel _ => false
    | _ => true

/-- A free image slot. -/
def freeSlot (s : State) : Option Nat := firstBelow 262144 fun i => (s.image i).st == .free

/-- The image takes a slot and its units begin to be written. -/
def startImage (slot : Nat) (i : Image) (ref : CmdRef) (bytes : List Byte) : Act := acts [
  putImage slot { i with st := .writing },
  onRam (fun r => { r with parks := tput r.parks slot { slot := slot, ref := some ref, handle := i.handle, bytes := bytes, left := unitsOfBytes bytes } }),
  pumpAll]

/-- KNL_FULL_REFUSED and the tenant's KNL_TFULL (R320). -/
def refusePark (ref : CmdRef) (tenant : Nat) : Act :=
  acts [count Reg.KNL_FULL_REFUSED 1, tcount tenant TReg.KNL_TFULL 1, fin ref St.kennelFull]

/-- The Kennel accepts parks. -/
def parksAccepted (s : State) : Bool := s.knlState == KnlSt.normal && s.get Fld.KNL_STATUS_DIRTY_LIMIT != 0

/-- The parts of a request's image, built once its tails are frozen (R30, R141). -/
def parkParts (s : State) (h : Nat) (q : HomeReq) (m : Model) (missing : List (Nat × Nat)) : Option ImgParts :=
  let s1 := run (freezeTails h) s
  (s1.loc h).map fun l => requestParts s1 q.record l m missing

/-- The key identifier of a tenant's record, and its Kennel key where that is loaded (R351, R418). -/
def tenantKeyId (s : State) (t : Nat) : Nat := ((s.tenantRec t).map tenantKey).getD 0
def tenantKnlKey (s : State) (t : Nat) : Option (List Byte) := knlKey s t (tenantKeyId s t)

/-- A park begins: the request is PARKING, its image takes the slot and is written (R305 step 1). -/
def beginPark (ref : CmdRef) (h : Nat) (q : HomeReq) (tenant slot : Nat) (p : ImgParts) : Act := look fun s =>
  let bytes := (imageBytes p).1
  acts [freezeTails h, putReq h { q with record := { q.record with phase := .parking } }, modLoc h (fun x => { x with phase := .parking }),
        count Reg.TRC_PARK_IMAGES 1, count Reg.TRC_PARK_BYTES bytes.length, tcount tenant TReg.TRC_TPARK_BYTES bytes.length,
        each (p.pages.filter (·.1.missing)) (fun _ => acts [count Reg.TRC_PARK_MISSING 1, raiseWith Blk.trc 2 { handle := h }]),
        startImage slot { handle := h, tenant := tenant, units := (unitsOfBytes bytes).length, length := bytes.length,
                          exact := !(parkForm s tenant 0).summary, encrypted := s.isProt tenant, keyId := tenantKeyId s tenant } ref bytes]

/-- KNL_PARK (R11, R13, R305, R320): `missing` are the pages, by layer and page index, that cannot be read and have no mirror copy
(R143). -/
def opKnlPark (missing : List (Nat × Nat)) (ref : CmdRef) (c : Cmd) : Act :=
  let h := c.arg 0 64
  withLive ref h fun q => look fun s =>
    match q.record.phase with
    | .parking | .parked =>
      let slot := ((s.kr.images.find? fun e => e.2.handle == h && (e.2.st == .writing || e.2.st == .durable)).map (·.1)).getD 0
      homeFin ref St.ok (leBytes 4 slot)
    | .handoff | .resuming => fin ref St.busyRetry
    | .listening =>
      if q.record.owner ≠ some s.chipId then finish ref St.notOwner (q.record.owner.getD 0) [] []
      else if s.knlState = KnlSt.recovering then fin ref St.busyRetry
      else match (s.loc h).bind fun l => (s.locModel l).map fun m => (l, m) with
        | none => fin ref St.busyRetry
        | some (l, m) =>
          if !parksAccepted s then refusePark ref l.tenant
          else if !pagesHere s l m || l.fetch.isSome || unitRuns s h then fin ref St.busyRetry
          else if s.isProt l.tenant && (tenantKnlKey s l.tenant).isNone then refusePark ref l.tenant
          else match parkParts s h q m missing with
            | none => nop
            | some p =>
              let bytes := (imageBytes p).1
              if 65536 < ceilDiv bytes.length 65536 then fin ref St.invalid
              else match freeSlot s with
                | none => refusePark ref l.tenant
                | some slot =>
                  if capacity s < usedUnits s + (unitsOfBytes bytes).length then refusePark ref l.tenant
                  else beginPark ref h q l.tenant slot p
    | _ => fin ref St.invalid

/-- PREFIX_DEMOTE (R304). A prefix that has its image already needs no other. -/
def opPrefixDemote (ref : CmdRef) (c : Cmd) : Act := look fun s =>
  let h := c.arg 0 64
  match s.prefixOf h with
  | none => fin ref St.invalid
  | some p =>
    let users := p.users.all fun u => ((s.req u).map (·.record.phase)) == some Phase.parked
    if p.pinned || !users then fin ref St.invalid
    else if s.knlState = KnlSt.recovering then fin ref St.busyRetry
    else match prefixImage s h with
      | some slot => acts [demoteAll h slot, finOk ref []]
      | none => match s.modelOfTenant p.tenant with
        | none => fin ref St.invalid
        | some m =>
          let prot := s.isProt p.tenant
          let (bytes, _, _) := imageBytes (prefixParts s p m)
          let units := (unitsOfBytes bytes).length
          if 65536 < ceilDiv bytes.length 65536 then fin ref St.invalid
          else match freeSlot s with
            | none => fin ref St.kennelFull
            | some slot =>
              if !parksAccepted s || (prot && (tenantKnlKey s p.tenant).isNone) || capacity s < usedUnits s + units
                || s.kr.parks.any (fun e => e.2.handle == h) then fin ref St.kennelFull
              else startImage slot { handle := h, tenant := p.tenant, units := units, length := bytes.length, exact := true, encrypted := prot,
                                     keyId := tenantKeyId s p.tenant, isPrefix := true } ref bytes

/-! ### NAND programs -/

/-- The key an image is encrypted under. -/
def imageKey (s : State) (i : Image) : Option (List Byte) := if i.encrypted then knlKey s i.tenant i.keyId else none

/-- The 64 KiB of a unit of an image being written, as they are stored. -/
def unitContent (s : State) (slot index : Nat) (bs : List Byte) : List Byte :=
  let i := s.image slot
  let raw := (bs.drop (65536 * index)).take 65536
  match imageKey s i with
  | none => raw
  | some k => sealUnit (some k) slot index (padTo 4096 raw)

/-- What a unit that is programmed holds, and what its program was for. -/
def progContent (u : Nat) (p : Prog) : Act := look fun s =>
  if p.tag.kind = 1 then nop else match p.why with
  | .park slot => match tget s.kr.parks slot with
    | some k => acts [clearMem (Mem.flashUnit u) 65536, store (Mem.flashUnit u) (unitContent s slot p.tag.index k.bytes), count Reg.KNL_HOST_UNITS 1]
    | none => nop
  | .move sb from_ => match s.kr.moves.find? fun m => m.sb == sb && m.out.contains from_ with
    | none => copyMem (Mem.flashUnit from_) (Mem.flashUnit u) 65536
    | some m => acts [copyMem (Mem.flashUnit from_) (Mem.flashUnit u) 65536,
        onRam (fun r => { r with moves := r.moves.map fun x => if x.sb = m.sb ∧ x.why = m.why
          then { x with out := x.out.filter (· != from_), moved := x.moved ++ [(from_, u)] } else x }),
        match m.why with
        | .gc => count Reg.KNL_GC_COPIES 1
        | .fold => count Reg.KNL_FOLDS 1
        | _ => nop]

/-- A unit has been programmed: it holds its bytes and its tag. -/
def programmed (u : Nat) (p : Prog) : Act :=
  acts [onRam (fun r => { r with progs := tdel r.progs u }), count Reg.KNL_NAND_UNITS 1, progContent u p,
        onFlash (fun f => { f with units := tput f.units u p.tag })]

/-- KNL_PROGRAM_DONE. -/
def actKnlProgramDone (u : Nat) : Act := look fun s =>
  match tget s.kr.progs u with
  | none => nop
  | some p => acts [programmed u p, endMoves, finishParks, pumpAll]

/-- The flush of a power failure runs (R314, R428). -/
def flushing (s : State) : Bool := s.get Fld.PWR_STATUS_PF_STATE == 1 && !s.is Fld.PWR_STATUS_TRIP && !s.body.plat.pinsTaken

/-- During the flush programs in flight end, and nothing else comes of it (R314). -/
def flushProgram (ok : Bool) (u : Nat) : Act := look fun s =>
  match tget s.kr.progs u with
  | none => nop
  | some p => if ok then programmed u p else onRam fun r => { r with progs := tdel r.progs u }

/-- The unit of a failed program waits to be written again. -/
def writeAgain (p : Prog) : Act :=
  if p.tag.kind = 1 then nop else match p.why with
  | .park slot => onRam fun r => { r with parks := tmod r.parks slot fun k => { k with left := k.left ++ [(p.tag.index, p.tag.logCopy)] } }
  | .move sb from_ => onRam fun r => { r with moves := r.moves.map fun m => if m.sb = sb ∧ m.out.contains from_ = true
      then { m with out := m.out.filter (· != from_), left := m.left ++ [from_] } else m }

/-- KNL_PROGRAM_FAIL: the unit is rewritten elsewhere, and the block retired once its valid units have been copied (R305). -/
def actKnlProgramFail (u : Nat) : Act := look fun s =>
  match tget s.kr.progs u with
  | none => nop
  | some p => acts [onRam (fun r => { r with progs := tdel r.progs u }), writeAgain p, startRetire (physSb s u) (physDie u), pumpAll, endMoves, finishParks]

/-! ### Erase, collection, folding, levelling -/

/-- A superblock has been erased: its units are gone, its blocks have one erase more; a block whose die reports failure is retired (R321). -/
def erased (k : Nat) (failed : Option Nat) : Act := look fun s =>
  let b := sbBlock k
  let dead := s.kf.units.filter fun e => physSb s e.1 == k
  acts [onFlash (fun f => { f with
          units := f.units.filter fun e => physSb s e.1 != k
          erases := (groupDies (sbGroup k)).foldl (fun t d => tput t (d * 65536 + b) ((tget t (d * 65536 + b)).getD 0 + 1)) f.erases }),
        each dead (fun e => clearMem (Mem.flashUnit e.1) 65536),
        onRam (fun r => { r with supers := tdel r.supers k, erasing := r.erasing.filter (· != k) }),
        count Reg.KNL_ERASES 1, jappend (.super k none),
        -- slots whose released image has no unit left
        look fun s => each ((s.kr.images.filter fun e => e.2.st == .released && !s.kf.units.any fun u => u.2.kind == 0 && u.2.slot == e.1).map (·.1))
          fun slot => putImage slot {},
        match failed with
        | some d => when ((groupDies (sbGroup k)).contains d) (retireBlock d b)
        | none => nop]

/-- A read issued against a superblock runs. -/
def readsSb (s : State) (k : Nat) : Bool := s.kr.resumes.any fun e => e.2.toRead.any fun x => physSb s x.2 == k

/-- KNL_ERASE_DONE: a superblock of which RELEASE is committed has been erased; a die may report failure. Not while a read issued
against it runs (R313). -/
def actKnlEraseDone (k : Nat) (failed : Option Nat) : Act := look fun s =>
  if !s.kr.erasing.contains k || readsSb s k then nop
  else acts [erased k failed, syncKennel, pumpAll]

/-- The superblock of a list with the least measure, the first where several have it. -/
def leastBy (f : Nat × Super → Nat) : List (Nat × Super) → Option (Nat × Super)
  | [] => none
  | x :: l => some (l.foldl (fun a b => if f b < f a then b else a) x)

/-- KNL_GC_START: fewer than GC_LOW erased superblocks in a group; the victim is its native superblock with the fewest valid units
(R310). -/
def actKnlGcStart (g : Nat) : Act := look fun s =>
  if s.knlState ≠ KnlSt.normal ∨ knlGroups s ≤ g ∨ s.get Fld.KNL_CTL_GC_LOW ≤ erasedCount s g then nop
  else match leastBy (fun e => (validUnits s e.1).length) ((supersOf s g).filter fun e => mayEmpty s e && !e.2.st.isSlc) with
    | none => nop
    | some e => startMove { sb := e.1, why := .gc, left := validUnits s e.1 }

/-- KNL_FOLD: the oldest closed buffer superblock is folded into native ones (R311). -/
def actKnlFold : Act := look fun s =>
  if s.knlState ≠ KnlSt.normal then nop
  else match leastBy (fun e => e.2.seq) (s.kr.supers.filter fun e => mayEmpty s e && e.2.st.isSlc) with
    | none => nop
    | some e => startMove { sb := e.1, why := .fold, left := validUnits s e.1 }

/-- Erases of the blocks of a superblock: their sum stands for the mean. -/
def sbErases (s : State) (k : Nat) : Nat :=
  ((groupDies (sbGroup k)).map fun d => (tget s.kf.erases (d * 65536 + sbBlock k)).getD 0).foldl (· + ·) 0

/-- The spread of erase counts over the blocks of the data superblocks. -/
def eraseSpread (s : State) : Nat :=
  let n := ((List.range (knlGroups s)).map fun g => 16 * (groupRange s g - systemBlocks)).foldl (· + ·) 0
  let counts := s.kf.erases.map (·.2)
  let lo := if counts.length < n then 0 else counts.foldl min (counts.headD 0)
  counts.foldl max 0 - lo

/-- The erased superblock with the highest erase counts. -/
def mostWorn (s : State) : Option Nat :=
  let l := (List.range (knlGroups s)).flatMap fun g =>
    if erasedCount s g = 0 then [] else ((List.range (groupRange s g)).filter fun b => systemBlocks ≤ b && isErased s (sbKey g b)).map (sbKey g)
  match l with
  | [] => none
  | x :: t => some (t.foldl (fun a b => if sbErases s a < sbErases s b then b else a) x)

/-- KNL_WL_MOVE (R312): the superblock with the lowest mean erase count and the oldest SEQ moves into the erased one with the
highest. -/
def actKnlWlMove : Act := look fun s =>
  if s.knlState ≠ KnlSt.normal ∨ eraseSpread s ≤ s.get Fld.KNL_CTL_WL_SPREAD then nop
  else
    let cands := s.kr.supers.filter fun e => mayEmpty s e && !e.2.st.isSlc
    match leastBy (fun e => sbErases s e.1) cands with
    | none => nop
    | some low => match leastBy (fun e => e.2.seq) (cands.filter fun e => sbErases s e.1 == sbErases s low.1), mostWorn s with
      | some e, some d => acts [allocSb d false, startMove { sb := e.1, why := .wear d, left := validUnits s e.1 }]
      | _, _ => nop

/-- KNL_JOURNAL_TIMER: JOURNAL_US after its first record the journal page is committed (R303). -/
def actKnlJournalTimer : Act := jcommit

/-- A die has stopped answering: DIE_FAIL is set, its blocks count as retired, open superblocks of its group close, and the group's units
are copied away (R321). -/
def dieFailed (d : Nat) : Act := look fun s =>
  let g := d / 16
  let before := capacity s
  acts [raiseWith Blk.knl 11 { unit := d }, count Reg.KNL_RETIRED (dieGood s d),
        onRam (fun r => { r with dead := r.dead ++ [d], opens := r.opens.filter fun o => sbGroup o.2 != g }),
        each (supersOf s g) (fun e => match e.2.st with
          | .opened b => acts [onRam (fun r => { r with supers := tput r.supers e.1 { e.2 with st := .closed b } }), jappend (.super e.1 (some (.closed b)))]
          | _ => nop),
        look fun s => each ((supersOf s g).filter fun e => e.2.st.isClosed && !s.kr.moves.any fun m => m.sb == e.1) fun e => look fun s =>
          startMove { sb := e.1, why := .die d, left := nub (validUnits s e.1 ++ writingUnits s e.1) },
        syncKennel,
        look fun s => acts [when (capacity s < before) (raise Blk.knl 4), when (capacity s < usedUnits s) enterReadOnly],
        when (!spareLow s) (look fun s => when (spareLow s) (raise Blk.knl 6))]

/-- KNL_DIE_FAIL. -/
def actKnlDieFail (d : Nat) : Act := look fun s => when (!s.kr.dead.contains d && (knlDies s).contains d) (dieFailed d)

/-- KNL_TEMP_MINUTE (R322): the bin of the hottest target. -/
def tempBin (temp : Int) : Nat := if temp < 30 then 0 else min 7 ((temp.toNat - 20) / 10)
def actKnlTempMinute (temp : Int) : Act := count (Reg.KNL_TEMP_HIST (tempBin temp)) 1

/-! ### Reads and resumes (R306, R307) -/

/-- The bytes of an image as the map gives its units, decrypted. -/
def imageContent (s : State) (slot : Nat) (copies : List Nat) : List Byte :=
  let i := s.image slot
  let key := imageKey s i
  ((List.range (ceilDiv i.length 65536)).flatMap fun n =>
    let table := if copies.contains n then s.kr.copies else s.kr.map
    match tget table (lunit slot n) with
    | some u =>
      let size := min 65536 (i.length - 65536 * n)
      (openUnit key slot n (s.bytes (Mem.flashUnit u) (if key.isSome then (size + 4095) / 4096 * 4096 else size))).take size
    | none => List.replicate (min 65536 (i.length - 65536 * n)) 0)

/-- The units of an image with where the map has them. -/
def unitsToRead (s : State) (slot : Nat) (i : Image) : List (Nat × Nat) :=
  (List.range (ceilDiv i.length 65536)).filterMap fun n => (tget s.kr.map (lunit slot n)).map fun u => (n, u)

/-- A resume begins: the request is RESUMING, the image's units are read. -/
def beginResume (ref : CmdRef) (h : Nat) (q : HomeReq) (slot : Nat) (units : List (Nat × Nat)) : Act :=
  acts [putReq h { q with record := { q.record with phase := .resuming } }, modLoc h (fun x => { x with phase := .resuming }),
        onRam fun r => { r with resumes := tput r.resumes slot { slot := slot, ref := ref, toRead := units } }]

/-- KNL_RESUME (R11, R13, R306). -/
def opKnlResume (ref : CmdRef) (c : Cmd) : Act :=
  let h := c.arg 0 64
  withLive ref h fun q => look fun s =>
    match q.record.phase with
    | .parking => fin ref St.busyRetry
    | .resuming => homeFin ref St.ok []
    | .parked =>
      if q.record.owner ≠ some s.chipId then finish ref St.notOwner (q.record.owner.getD 0) [] []
      else if s.knlState = KnlSt.recovering then fin ref St.busyRetry
      else match imageOf s h, s.loc h with
        | some slot, some l =>
          let i := s.image slot
          let units := unitsToRead s slot i
          if (i.encrypted && (knlKey s i.tenant i.keyId).isNone) || (placeFar s .cache (s.group l.tenant)).isNone then fin ref St.noResource
          else beginResume ref h q slot units
        | _, _ => finish ref St.notOwner 0 [] []
    | _ => fin ref St.invalid

/-- A resume that has read every unit (R306, R307). -/
def finishResume (slot : Nat) : Act := look fun s =>
  match tget s.kr.resumes slot with
  | none => nop
  | some x =>
    let i := s.image slot
    let h := i.handle
    let gone := onRam fun r => { r with resumes := tdel r.resumes slot }
    match s.req h, (s.loc h).bind fun c => (s.locModel c).map fun m => (c, m) with
    | some q, some (c, m) =>
      if q.closing then acts [gone, releaseImage slot, homeFin x.ref St.invalid [], unitEnded h]
      else
        let ph (p : Phase) : Act := acts [putReq h { q with record := { q.record with phase := p } }, modLoc h fun l => { l with phase := p }]
        let bs := imageContent s slot ((x.copyRead.map (·.1)).filter fun n => !x.lost.contains n)
        let headLost := x.lost.contains 0
        match restoreRequest s h c m bs x.lost headLost with
        | none => acts [gone, ph .parked, homeFin x.ref St.noResource [], unitEnded h]
        | some (none, a) => acts [a, gone, releaseImage slot, jcommit, count Reg.KNL_RESUMES 1, ph .listening, homeFin x.ref St.ok [], unitEnded h]
        | some (some p0, a) =>
          acts [a, gone, releaseImage slot, jcommit, count Reg.KNL_RESUMES 1, modLoc h (fun l => { l with phase := .listening }),
                putReq h { q with record := { q.record with phase := .listening, replayPending := true, replaying := false, replayFrom := p0,
                                                            replayTo := replayEnd q.record } },
                count Reg.RQT_REPLAY_REQ 1, raiseWith Blk.rqt 4 { handle := h, epoch := q.record.epoch },
                homeFin x.ref St.replayPending [], unitEnded h]
    | _, _ => acts [gone, fin x.ref St.invalid]

/-- The page of a demoted prefix comes back to far state (R304): its reference takes the new frame, and reads that wait for it go
on there. -/
def promotePage (r : Nat) : Act := look fun s =>
  let i := refFrame r
  match tget s.kr.prefixPages i with
  | none => nop
  | some e =>
    let img := s.image e.slot
    match s.prefixOf img.handle, s.modelOfTenant img.tenant with
    | some p, some m => match (readPages m (imageContent s e.slot []) [])[e.recNo]? with
      | none => nop
      | some b =>
        let g := s.group img.tenant
        let x := b.page
        let basis : Option (Option Nat × Act) :=
          if !x.lowRank then some (none, nop)
          else match basisCopy s p.handle x.layer (x.basis + 1) 1 with
            | some k => some (some k, nop)
            | none => (restoreBases s p.handle img.tenant m (imageContent s e.slot []) [(x.basis, x.layer, x.rank, b.spans)] (x.basis + 1)).map
                fun y => ((y.1.head?).map (·.2), y.2)
        match basis with
        | none => nop
        | some (bk, a1) =>
          let s1 := run a1 s
          let hdr : PageHeader := { stagingHdr s p.handle x.layer img.tenant with
            firstPos := x.first, posCount := x.count, pLog2 := m.pLog2, rotSeedId := m.seedSlot, kFmt := x.kFmt, vFmt := x.vFmt, lrRank := x.rank,
            clipCount := x.clips, isSealed := x.isSealed, frozen := x.frozen, shared := true, lowRank := x.lowRank, lrRejected := x.lrRejected,
            escalated := x.escalated, storedLen := x.bytes.length, sketch := x.sketch, refCount := e.refCount,
            lrBasisRef := (bk.map s1.refOf).getD 0, basisSeq := if x.lowRank then x.basis + 1 else 0 }
          match placeFill s1 g hdr x.bytes x.scales with
          | none => nop
          | some (k, a2) => acts [a1, a2, modFrame k (fun f => { f with kind := .sharedPrefix }),
              each bk.toList (fun y => acts [modHdr y fun z => { z with refCount := z.refCount + 1 }, eff (.refTake 1)]),
              look fun s => acts [renameRef r (s.refOf k),
                onPages (fun z => { z with reads := z.reads.map fun y => if y.2.src = r then (y.1, { y.2 with src := s.refOf k }) else y }),
                onRam fun z => { z with prefixPages := tdel z.prefixPages i }]]
    | _, _ => nop

/-- What the ladder brought is counted; an uncorrectable unit's block is retired (R307, R321). -/
def countRead (u : Nat) (e : KReadEnd) : Act := look fun s =>
  acts [each e.bits (fun b => count (Reg.KNL_CORR_HIST (min 15 (b / 8))) 1), count Reg.KNL_RETRY_READS e.retried,
        when e.rebuilt (count Reg.KNL_PARITY_REBUILT 1),
        when e.lost (acts [count Reg.KNL_UE_READS 1, raiseWith Blk.knl 2 { unit := physDie u, addr := u }, startRetire (physSb s u) (physDie u)])]

/-- A unit's read has ended for a resume; after the last one the request is rebuilt. -/
def unitRead (slot : Nat) (f : Resume → Resume) : Act := acts [onRam (fun r => { r with resumes := tmod r.resumes slot f }), look fun s =>
  when (((tget s.kr.resumes slot).map fun x => x.toRead.isEmpty) == some true) (finishResume slot)]

/-- A unit of a resume is lost: its second copy is read where it has one that has not been read, else what it held is missing (R307). -/
def unitLost (slot n : Nat) (x : Resume) : Act := look fun s =>
  match if x.copyRead.any (·.1 == n) then none else tget s.kr.copies (lunit slot n) with
  | some cu => onRam fun r => { r with resumes := tmod r.resumes slot fun y =>
      { y with copyRead := y.copyRead ++ [(n, cu)], toRead := y.toRead.map fun z => if z.1 = n then (n, cu) else z } }
  | none => unitRead slot fun y => { y with toRead := y.toRead.filter (·.1 != n), lost := y.lost ++ [n] }

/-- The page of a demoted prefix that a reference names. -/
def demotedPage (s : State) (r : Nat) : Bool := (tget s.kr.prefixPages (refFrame r)).isSome && refTier r == 2 && refChip r == s.chipId

/-- KNL_READ_DONE. -/
def actKnlReadDone (what : KRead) (e : KReadEnd) : Act := look fun s =>
  match what with
  | .unit slot n => match tget s.kr.resumes slot with
    | none => nop
    | some x => match x.toRead.find? (·.1 == n) with
      | none => nop
      | some (_, u) => acts [countRead u e,
          if e.lost then unitLost slot n x else unitRead slot fun y => { y with toRead := y.toRead.filter (·.1 != n) }]
  | .page r =>
    if !demotedPage s r then nop
    else if e.lost then acts [countRead 0 { e with lost := false }, count Reg.KNL_UE_READS 1, raise Blk.knl 2,
      each ((s.body.pages.reads.filter fun y => y.2.src == r).map (·.1)) readFailed]
    else acts [countRead 0 e, promotePage r]

/-! ### Power loss, recovery, profile, format (R314 to R318, R359) -/

/-- KNL_FLUSH_COMPLETE: programs in flight have ended, those of which nothing was reported with success (DESIGN CHOICE, log entry 110); the
dirty segments, the journal tail and a FLUSH record stand on the flash; the Kennel is in POWER_LOSS. -/
def actKnlFlush : Act := look fun s =>
  if s.get Fld.PWR_STATUS_PF_STATE ≠ 1 then nop
  else acts [each (tkeys s.kr.progs) (flushProgram true), look fun s => each s.kr.dirty writeSegment, jcommit,
             when s.kf.formatted systemUnit,
             onFlash (fun f => { f with flushed := f.formatted }), count Reg.KNL_FLUSHES 1, raise Blk.knl 9, raise Blk.pwr 7,
             setFld Fld.PWR_STATUS_PF_STATE 2, setFld Fld.KNL_STATUS_STATE KnlSt.powerLoss]

/-- The table of a journal: the records after a SEQ, in order. -/
def replayMap (segs : List (Nat × Nat × List (Nat × Nat))) (j : List (Nat × JRec)) (copy : Bool) : List (Nat × Nat) :=
  let base := if copy then [] else segs.foldl (fun t e => e.2.2.foldl (fun t x => tput t x.1 x.2) t) []
  j.foldl (fun t e => match e.2 with
    | .map slot idx u c =>
      let late := copy || ((tget segs (segOf slot idx)).map fun x => decide (x.1 < e.1)).getD true
      if c == copy && late then match u with
        | some p => tput t (lunit slot idx) p
        | none => tdel t (lunit slot idx)
      else t
    | .image slot i => if i.st = .free ∨ i.st = .released then t.filter (fun x => x.1 / 65536 != slot) else t
    | _ => t) base

/-- The image table and the superblocks as the journal tells them. -/
def replayImages (j : List (Nat × JRec)) : List (Nat × Image) := j.foldl (fun t e => match e.2 with
  | .image slot i => tput t slot i
  | _ => t) []
def replaySupers (j : List (Nat × JRec)) : List (Nat × Super) := j.foldl (fun t e => match e.2 with
  | .super k (some st) => tput t k { (tget t k).getD { st := st, seq := e.1 } with st := st }
  | .super k none => tdel t k
  | _ => t) []

/-- Units in order of their SEQ. -/
def insertBySeq (e : Nat × KTag) : List (Nat × KTag) → List (Nat × KTag)
  | [] => [e]
  | x :: l => if e.2.seq ≤ x.2.seq then e :: x :: l else x :: insertBySeq e l

/-- The recovery of the tables from what stands on the flash (R317, R318). -/
def recover : Act := look fun s =>
  let f := s.kf
  let imgs := replayImages f.journal
  let map0 := replayMap f.segs f.journal false
  let cp0 := replayMap f.segs f.journal true
  let supers0 := replaySupers f.journal
  let wanted (t : KTag) : Bool := t.kind == 0 && (match tget imgs t.slot with
    | some i => i.st == .durable || i.st == .writing
    | none => false)
  let seqOf (u : Option Nat) : Nat := ((u.bind fun x => tget f.units x).map (·.seq)).getD 0
  let inOpen (u : Nat) : Bool := match tget supers0 (physSb s u) with
    | some sb => match sb.st with | .opened _ => true | _ => false
    | none => false
  let ordered := (f.units.filter fun e => inOpen e.1 && wanted e.2).foldl (fun l e => insertBySeq e l) []
  let adopt := ordered.foldl (fun (a : List (Nat × Nat) × List (Nat × Nat) × Nat) e =>
    let key := lunit e.2.slot e.2.index
    let table := if e.2.logCopy then a.2.1 else a.1
    if seqOf (tget table key) < e.2.seq then
      if e.2.logCopy then (a.1, tput a.2.1 key e.1, a.2.2 + 1) else (tput a.1 key e.1, a.2.1, a.2.2 + 1)
    else a) (map0, cp0, 0)
  -- the next unit of a superblock follows its last programmed one
  let after (k : Nat) : Nat := (f.units.filter fun u => physSb s u.1 == k).foldl (fun n u => max n (u.1 % 2 ^ 23 % max 1 (blockUnits s) + 1)) 0
  let supers := supers0.map fun e => (e.1, { e.2 with next := after e.1 })
  let opens := supers.filterMap fun e => match e.2.st with
    | .opened b => if e.2.next < modeUnits s b then some (openKey (sbGroup e.1) b, e.1) else none
    | _ => none
  let writing := (imgs.filter fun e => e.2.st == .writing).map (·.1)
  let durable := imgs.filter fun e => e.2.st == .durable
  acts [onRam (fun r => { r with images := imgs, map := adopt.1, copies := adopt.2.1, supers := supers,
                                 opens := opens.foldl (fun t e => tput t e.1 e.2) [],
                                 erasing := (supers.filter fun e => match e.2.st with | .released _ => true | _ => false).map (·.1),
                                 dirty := [], tail := [], parks := [], resumes := [], moves := [], progs := [] }),
        count Reg.KNL_ADOPTED adopt.2.2,
        onRam (fun r => { r with bufSize := bufSizeNow s }),
        each writing releaseImage,
        when (f.lost && !f.flushed) (raise Blk.knl 10), onFlash (fun x => { x with lost := false, flushed := false }),
        each durable (fun e => acts [tcount e.2.tenant TReg.KNL_TIMAGES 1, tcount e.2.tenant TReg.KNL_TUNITS e.2.units,
                                     meterMod e.2.tenant fun m => { m with kennel := m.kennel + 16 * e.2.units }]),
        setFld Fld.KNL_STATUS_STATE KnlSt.normal, syncKennel]

/-- KNL_RESTART (R317). -/
def actKnlRestart : Act := look fun s => when (s.knlState == KnlSt.recovering) recover

/-- The flush of n dirty segments fits its 20 ms (R316), in microseconds. -/
def flushFits (slc nat n : Nat) : Bool := decide (nat + 200 + ceilDiv (16 * ceilDiv (n + 1) 15) 16 * slc + 1000 ≤ 20000)
/-- The largest n of 1,024 or below that fits. -/
def flushLimit (slc nat : Nat) : Nat → Nat
  | 0 => 0
  | n + 1 => if flushFits slc nat (n + 1) then n + 1 else flushLimit slc nat n
/-- DIRTY_LIMIT of R316; no n ≥ 16: 0, and parks are refused. -/
def dirtyLimit (slc nat : Nat) : Nat := let n := flushLimit slc nat 1024; if n < 16 then 0 else n

/-- The oldest dirty segments beyond the limit are written. -/
def writeExcess (limit : Nat) : Act := look fun s => each (s.kr.dirty.take (s.kr.dirty.length - limit)) writeSegment

/-- The population breaks R295. -/
def popBad (p : NandPop) : Bool :=
  !p.uniform || p.targets < 1 || 8 < p.targets || p.luns < 1 || 4 < p.luns || !(p.planes == 2 || p.planes == 4) || !(p.bpc == 3 || p.bpc == 4)
  || p.spareB < 2048 || 64 * 2 ^ 40 < 16 * p.targets * p.luns * p.blocks * p.planes * p.pages * 16384

/-- A profile's 512 bytes: its fields, and a reserved bit set or a field zero (R359). -/
def profWord (bs : List Byte) (o : Nat) : Nat := leNat ((bs.drop o).take 2)
def profBad (bs : List Byte) : Bool :=
  let w := profWord bs
  bs.length != 512 || 4096 ≤ w 0 || 4096 ≤ w 2 || 4096 ≤ w 4 || w 0xA / 16 != 0 || ((bs.drop 0xC).take 4).any (· != 0)
  || ((bs.drop 0x4C).take 0x34).any (· != 0) || (bs.drop 0xC0).any (· != 0) || w 0 == 0 || w 2 == 0 || w 4 == 0 || w 6 == 0 || w 8 == 0

/-- A profile for a population that meets R295 takes effect (R296, R316). -/
def loadProfile (bs : List Byte) (pop : NandPop) : Act :=
  let w := profWord bs
  let limit := dirtyLimit (w 0) (w 2)
  acts [
    setReg Reg.KNL_NAND_TIME (w 0 + 2 ^ 12 * w 2 + 2 ^ 24 * w 4 + 2 ^ 36 * w 6 + 2 ^ 52 * (pop.spareB % 4096)),
    setReg Reg.KNL_NAND_CFG (pop.targets % 16 + 16 * (pop.luns % 8) + 2 ^ 7 * (if pop.planes = 4 then 2 else 1) + 2 ^ 9 * (if pop.bpc = 4 then 2 else 1)
      + 2 ^ 11 * (pop.pages % 65536) + 2 ^ 27 * (pop.blocks % 65536) + 2 ^ 43 * w 8 + 2 ^ 59 * (pop.mode % 16) + 2 ^ 63),
    onRam (fun r => { r with retryLevels := (List.range (w 0xA % 16)).map fun i => (bs.drop (0x10 + 4 * i)).take 4, tempSeq := (bs.drop 0x80).take 64 }),
    onFlash (fun f => if f.good.isEmpty then { f with good := pop.good.zipIdx.map fun e => (e.2, e.1) } else f),
    setFld Fld.KNL_STATUS_DIRTY_LIMIT limit, when (limit == 0) (raise Blk.knl 8)]

/-- The interface mode of the targets is not the one of STRAP_NF_VCCQ: NV-LPDDR4 at 1.20 V, NV-DDR3 at 0.60 V (R434). -/
def modeMismatch (s : State) (pop : NandPop) : Bool := pop.mode == if s.is Fld.PWR_STRAPS_NF_VCCQ then 1 else 2

/-- KNL_PROFILE_LOAD (R296, R316, R359, R434): `pop` is what the device finds on its channels. -/
def opKnlProfile (pop : NandPop) (ref : CmdRef) (c : Cmd) : Act := look fun s =>
  let bs := cmdInput s ref.src c
  if profBad bs || modeMismatch s pop then finInvalid ref 0
  else
    let bad := popBad pop
    let limit := dirtyLimit (profWord bs 0) (profWord bs 2)
    acts [when pop.rejected (raise Blk.knl 0),
          if bad then raise Blk.knl 1
          else if s.knlState = KnlSt.off then acts [loadProfile bs pop, setFld Fld.KNL_STATUS_STATE KnlSt.recovering]
          else acts [loadProfile bs pop, writeExcess limit, syncKennel],
          finOk ref (leBytes 2 (if bad then 0 else limit))]

/-- Every superblock erased, SPARE_INIT applied. -/
def formatAll : Act := look fun s =>
  let init := s.get Fld.KNL_CTL_SPARE_INIT
  let erase (t : List (Nat × Nat)) : List (Nat × Nat) := s.kr.supers.foldl (fun t e => (groupDies (sbGroup e.1)).foldl (fun t d =>
    tput t (d * 65536 + sbBlock e.1) ((tget t (d * 65536 + sbBlock e.1)).getD 0 + 1)) t) t
  acts [each s.kf.units (fun u => clearMem (Mem.flashUnit u.1) 65536),
        onFlash (fun f => { f with formatted := true, units := [], journal := [], segs := [], flushed := false, lost := false, gone := [],
                                   spareInit := init, spares := (knlDies s).map fun d => (d, init)
                                   erases := erase f.erases }),
        onRam (fun r => { dead := r.dead, retryLevels := r.retryLevels, tempSeq := r.tempSeq }),
        count Reg.KNL_ERASES s.kr.supers.length, setFld Fld.KNL_STATUS_STATE KnlSt.normal, syncKennel]

/-- KNL_FORMAT (R354). -/
def opKnlFormat (ref : CmdRef) (_ : Cmd) : Act := look fun s =>
  if s.knlState = KnlSt.off ∨ (s.kr.images.any fun e => e.2.st == .durable || e.2.st == .writing) = true then fin ref St.invalid
  else if s.knlState = KnlSt.recovering then fin ref St.busyRetry
  else
    acts [formatAll, look fun s => acts [onRam fun r => { r with bufSize := bufSizeNow s }, finOk ref (leBytes 8 (capacity s))]]

/-- The health report of R322 in the order of its table, 32 words of 8 bytes. -/
def knlHealth (s : State) : List Byte :=
  let words := [(spareMin s).1 + 2 ^ 16 * (spareMin s).2 + 2 ^ 32 * ((knlDies s).map (dieSpares s)).foldl (· + ·) 0, min (wearUsed s) 16383]
    ++ ((List.range 16).map fun b => s.rd (Reg.KNL_CORR_HIST b)) ++ [s.rd Reg.KNL_UE_READS, s.rd Reg.KNL_PARITY_REBUILT]
    ++ ((List.range 8).map fun b => s.rd (Reg.KNL_TEMP_HIST b)) ++ [s.rd Reg.KNL_CAPACITY, s.rd Reg.KNL_FREE, s.knlState, 0]
  words.flatMap (leBytes 8)
def opKnlHealth (ref : CmdRef) (c : Cmd) : Act := look fun s => finOut ref c [] (knlHealth s) nop

/-! ### Executions -/
def execKnlPark (src : Src) (missing : List (Nat × Nat)) (s : State) := done (runOp 0x0501 src (opKnlPark missing)) s
def execKnlResume (src : Src) (s : State) := done (runOp 0x0502 src opKnlResume) s
def execKnlProfile (src : Src) (pop : NandPop) (s : State) := done (runOp 0x0503 src (opKnlProfile pop)) s
def execKnlFormat (src : Src) (s : State) := done (runOp 0x0504 src opKnlFormat) s
def execKnlHealth (src : Src) (s : State) := done (runOp 0x0505 src opKnlHealth) s
def execPrefixDemote (src : Src) (s : State) := done (runOp 0x0403 src opPrefixDemote) s
def execKnlProgramDone (unit : Nat) (s : State) :=
  doneAlways (if s.works then actKnlProgramDone unit else when (flushing s) (flushProgram true unit)) s
def execKnlProgramFail (unit : Nat) (s : State) :=
  doneAlways (if s.works then actKnlProgramFail unit else when (flushing s) (flushProgram false unit)) s
def execKnlReadDone (what : KRead) (e : KReadEnd) (s : State) := done (actKnlReadDone what e) s
def execKnlEraseDone (sb : Nat) (failed : Option Nat) (s : State) := done (actKnlEraseDone sb failed) s
def execKnlJournalTimer (s : State) := done actKnlJournalTimer s
def execKnlGcStart (g : Nat) (s : State) := done (actKnlGcStart g) s
def execKnlFold (s : State) := done actKnlFold s
def execKnlWlMove (s : State) := done actKnlWlMove s
def execKnlRestart (s : State) := done actKnlRestart s
def execKnlTempMinute (temp : Int) (s : State) := done (actKnlTempMinute temp) s
def execKnlDieFail (die : Nat) (s : State) :=
  done (when (die < 512) (actKnlDieFail die)) s

end Sys2Proof.Machine
end

