-- ==== Sys2Proof/Machine/Views.lean ====
section
/-! DEFINITION. What a reader sees: registers, those computed from the state among them (R7, R292, R332, R361 to R365), and the
regions of the host window that the device writes (R334, R172, R174, R377 to R381). -/

namespace Sys2Proof.Machine

/-! ### A tenant's record and window areas -/

/-- The account of a Collar as five words of R292. -/
def collarWords (c : CollarAcct) : List Nat := [wordOf 64 c.balance, c.reserved, c.granted, c.spent, c.expired]

/-- The 256 bytes of a tenant's record (R292). -/
def trecBytes (s : State) (t : Nat) : List Byte :=
  let m := (s.meter t).upTo s.body.tick
  let next (k : Nat) : Nat := (tget s.body.jobs.refill (2 * t + k)).getD 0
  let words := collarWords (acctGet s.led (2 * t)) ++ collarWords (acctGet s.led (2 * t + 1))
    ++ [next 0, next 1, ((tget s.body.jobs.deferred t).getD []).length, m.tokens, m.positions, m.nearInt / 65536, m.farInt / 65536,
        m.kennelInt / 65536, m.fabBytes, m.daeCyc, m.paeCyc, m.deferred]
  let body := words.take 12 ++ [words.getD 12 0 % 2 ^ 32] ++ words.drop 13
  (body.flatMap (leBytes 8) ++ List.replicate 256 0).take 256

/-- Live low-rank or 4-bit frames of a tenant (R139). -/
def tlrLive (s : State) (t : Nat) : Nat :=
  (s.body.pages.frames.filter fun e => e.2.hdr.tenant == t && !e.2.hdr.basis && (e.2.hdr.lowRank || 2 ≤ e.2.hdr.kFmt)).length

/-- A register of the STM to KNL areas of a tenant's window (R332). -/
def treg (s : State) (t off : Nat) : Nat := if off = TReg.TRC_TLR_LIVE then tlrLive s t else s.trd t off

/-! ### Registers computed from the state -/

/-- Islands in a state. -/
def islandsIn (s : State) (p : Nat → Bool) : Nat := ((List.range 56).filter fun n => p (s.isl n)).length

/-- A register that is a count of the state, where it is one. -/
def viewReg (s : State) (a : Nat) : Option Nat :=
  let l := s.led
  let sum (k : Nat) : CollarAcct := collarSum l k
  let port (o : Nat) : Credits := credGet l (some ((a - o) / 256))
  let isPort (o : Nat) : Bool := o ≤ a && (a - o) % 256 == 0 && (a - o) / 256 < 16
  let byStatus (base : Nat) : Option Nat := if base ≤ a ∧ a < base + 128 ∧ (a - base) % 8 = 0 then some ((a - base) / 8) else none
  if a = Reg.GLB_LOCAL_CTR then some s.body.tick
  else if a = Reg.RQT_ADMITTED then some l.admitted else if a = Reg.RQT_CLOSED then some l.closed
  else if a = Reg.RQT_FAILED then some l.failed else if a = Reg.RQT_LIVE then some l.live
  else if a = Reg.RQT_STATUS then
    let reqs := s.body.home.reqs.filter fun e => phaseLive e.2.record.phase
    some (s.rd a % 2 ^ 32 / 2 ^ 17 * 2 ^ 17 + reqs.length % 2 ^ 17
      + 2 ^ 32 * min 65535 (reqs.filter fun e => e.2.record.replayPending).length
      + 2 ^ 48 * min 65535 (reqs.filter fun e => e.2.record.phase == .handoff).length)
  else if a = Reg.XPT_BUF_POSTED then some l.bufPosted else if a = Reg.XPT_BUF_COMPLETED then some l.bufCompleted
  else if a = Reg.XPT_BUF_OUTSTANDING then some l.bufOutstanding else if a = Reg.XPT_BUF_WITHDRAWN then some l.bufWithdrawn
  else if a = Reg.XPT_MSG_DONE then some l.msgDone
  else if a = Reg.ACN_INCREMENTS then some l.increments else if a = Reg.ACN_SIGNALS then some l.signals
  else if a = Reg.STM_REF_TAKEN then some l.refTaken else if a = Reg.STM_REF_DROPPED then some l.refDropped
  else if a = Reg.STM_REF_LIVE then some l.refLive
  else if a = Reg.ISL_XCRED_ISSUED then some l.chip.issued else if a = Reg.ISL_XCRED_RETURNED then some l.chip.returned
  else if a = Reg.ISL_XCRED_INFLIGHT then some l.chip.inflight else if a = Reg.ISL_XCRED_FLUSHED then some l.chip.flushed
  else if isPort 0x081040 then some (port 0x081040).issued else if isPort 0x081048 then some (port 0x081048).returned
  else if isPort 0x081050 then some (port 0x081050).inflight else if isPort 0x081058 then some (port 0x081058).flushed
  else if a = Reg.FAB_STATUS then
    some (((List.range 16).filter s.portUp).foldl (fun v p => v + 2 ^ p) 0 + 65536 * (s.sparesLeft 7 % 8))
  else if a = Reg.COL_GRANTED 0 then some (sum 0).granted else if a = Reg.COL_GRANTED 1 then some (sum 1).granted
  else if a = Reg.COL_SPENT 0 then some (sum 0).spent else if a = Reg.COL_SPENT 1 then some (sum 1).spent
  else if a = Reg.COL_HELD 0 then some (wordOf 64 ((sum 0).balance + (sum 0).reserved))
  else if a = Reg.COL_HELD 1 then some (wordOf 64 ((sum 1).balance + (sum 1).reserved))
  else if a = Reg.COL_EXPIRED 0 then some (sum 0).expired else if a = Reg.COL_EXPIRED 1 then some (sum 1).expired
  else if a = Reg.BRK_MADE then some s.bark.made else if a = Reg.BRK_STORED then some s.bark.stored
  else if a = Reg.BRK_HEAD then some s.bark.head else if a = Reg.BRK_OVF_TOTAL then some s.bark.ovf
  else if Reg.MOV_MEMBER 0 ≤ a ∧ a < Reg.MOV_MEMBER 256 ∧ a = Reg.MOV_MEMBER s.member then some (s.chipId + 65536)
  else if a = Reg.MOV_STATUS then
    let blocked := (s.body.coh.dir.filter (·.2.blocked)).length
    some (s.body.coh.dir.length % 2 ^ 21 + 2 ^ 21 * min 65535 blocked + 2 ^ 37 * (s.body.coh.fenced.length % 256))
  else if a = Reg.ISL_STATUS then
    some (s.rd a / 2 ^ 24 * 2 ^ 24 + islandsIn s (fun v => v == IslSt.run) + 2 ^ 6 * islandsIn s (fun v => v == IslSt.stopped)
      + 2 ^ 12 * islandsIn s (fun v => v == IslSt.reset) + 2 ^ 18 * ((List.range 56).filter fun n => s.is (Fld.ISL_STATE_THROTTLED n)).length)
  else if a = Reg.PWR_ENERGY ∨ a = Reg.PWR_LEAK ∨ (Reg.PWR_RAIL 0 ≤ a ∧ a < Reg.PWR_RAIL 64) then some (Config.sensor a s.body.tick)
  else match byStatus (Reg.DAE_JOB_STATUS 0) with
  | some st => some ((tget l.jobStatus st).getD 0)
  | none => match byStatus (Reg.SMP_DONE 0) with
    | some st => some ((tget l.smpDone st).getD 0)
    | none => match byStatus (Reg.MOV_DONE 0) with
      | some st => some ((tget l.movDone st).getD 0)
      | none =>
        if Reg.HRD_Q_STATE 0 ≤ a ∧ a < Reg.HRD_Q_STATE 1024 ∧ a % 16 = 8 then
          let n := (a - Reg.HRD_Q_STATE 0) / 16
          some (s.rd a % 2 ^ 32 + 2 ^ 32 * min 65535 (s.tq n).items.length + (if eligible s n then 2 ^ 48 else 0))
        else none

/-- The value of the register at an address. -/
def regWord (s : State) (a : Nat) : Nat := (viewReg s a).getD (s.rd a) % 2 ^ 64

/-! ### Reads of PF0's register space -/

/-- Slots, completion records, counters and tenant records in the register space: the memory or the bytes that lie at an address. -/
def blockBytes (s : State) (a n : Nat) : Option (List Byte) :=
  let rec_ (base stride queues : Nat) (mem : Nat → Nat) : Option (List Byte) :=
    if base ≤ a ∧ a < base + stride * queues then some (s.bytes (mem ((a - base) / stride) + (a - base) % stride) n) else none
  let slots (base queues : Nat) : Bool := base ≤ a && a < base + 0x4000 * queues
  if slots 0x190000 16 || slots 0x210000 64 || slots 0x410000 64 then some (List.replicate n 0)
  else match rec_ 0x1D0000 0x1000 16 (fun q => Mem.smpRecord q 0) with
  | some b => some b
  | none => match rec_ 0x310000 0x1000 64 (fun q => Mem.movRecord q 0) with
    | some b => some b
    | none => match rec_ 0x510000 0x1000 64 (fun q => Mem.xptRecord q 0) with
      | some b => some b
      | none =>
        if 0x900000 ≤ a ∧ a < 0x900000 + 32 * 65536 then some (((acnBytes (s.counter ((a - 0x900000) / 32))).drop (a % 32)).take n)
        else if 0x700000 ≤ a ∧ a < 0x700000 + 256 * 1024 then some (((trecBytes s ((a - 0x700000) / 256)).drop (a % 256)).take n)
        else none

/-- Four bytes of the register space. -/
def regHalf (s : State) (a : Nat) : Nat :=
  match blockBytes s a 4 with
  | some b => leNat b
  | none => match regAt a with
    | some _ => regWord s a % 2 ^ 32
    | none => match regAt (a - 4) with
      | some d => if a % 8 = 4 && d.size == 8 then regWord s (a - 4) / 2 ^ 32 else 0
      | none => 0

/-- Whether the registers outside the CXL blocks are served (R337). -/
def regServed (s : State) (a : Nat) : Bool := s.is Fld.GLB_STATUS_FW_READY || (0x100000 ≤ a && a < 0x140000)

/-- A register read of n bytes: 4 or 8, else zero. -/
def readReg (s : State) (a n : Nat) : Nat :=
  if !regServed s a then 0
  else if n = 4 then regHalf s a
  else regHalf s a + 2 ^ 32 * regHalf s (a + 4)

/-! ### The host window as the host reads it -/

/-- The 64 bytes of a Bark record (R377). -/
def barkBytes (r : BarkRec) : List Byte :=
  let body := leBytes 8 r.seq ++ leBytes 4 (r.cls % 256 + 256 * (r.severity % 4) + 1024 * (r.flag % 64) + 65536 * (r.island % 64) + 2 ^ 24 * (r.unit % 256))
    ++ leBytes 4 0 ++ leBytes 8 r.tick ++ leBytes 8 r.handle ++ leBytes 4 r.epoch ++ leBytes 4 r.step ++ leBytes 8 r.addr ++ leBytes 12 r.detail
  body ++ leBytes 4 (crc32c body)

/-- The 256 bytes of a class area (R379). -/
def classBytes (c : ClassArea) : List Byte :=
  let slot (r : Option BarkRec) : List Byte := match r with
    | some r => barkBytes r
    | none => List.replicate 64 0
  let seq (r : Option BarkRec) : Nat := (r.map (·.seq)).getD 0
  leBytes 8 c.made ++ leBytes 8 c.ovf ++ leBytes 8 (seq c.first) ++ leBytes 8 (seq c.last) ++ List.replicate 32 0
    ++ slot c.first ++ slot c.last ++ List.replicate 64 0

/-- The request record shown in a slot of the shadows. -/
def shadowOf (s : State) (slot : Nat) : Option Rec :=
  let l := s.body.home.shadows.filter fun e => handleSlot e.1 == slot
  match l.find? fun e => handleHome e.1 == s.chipId with
  | some e => some e.2
  | none => l.head?.map (·.2)

/-- The bytes of a token log (R174): MAX_POSITIONS + 16 entries, then the turn records. -/
def tokenLog (r : Rec) : List Byte := (logBytes r ++ List.replicate (4 * (r.maxPositions + 16)) 0).take (4 * (r.maxPositions + 16)) ++ turnArea r

/-- Regions that only the device writes (R334). -/
def deviceWritten (off : Nat) : Bool := off < 0xA00000 || (0x100000000 ≤ off && off < 0xE00000000)

/-- A byte of the host window. -/
def windowByte (s : State) (off : Nat) : Byte :=
  if off < 0x1000 then BitVec.ofNat 8 (Config.windowHeader s.chipId (s.get Fld.GLB_CFG_VER_RUNNING) off)
  else if 0x100000 ≤ off ∧ off < 0x140000 then
    match tget s.bark.ring ((off - 0x100000) / 64) with
    | some r => (barkBytes r).getD (off % 64) 0
    | none => 0
  else if 0x140000 ≤ off ∧ off < 0x142000 then (classBytes (classGet s.bark ((off - 0x140000) / 256))).getD (off % 256) 0
  else if 0x142000 ≤ off ∧ off < 0x142020 then
    (leBytes 8 s.bark.made ++ leBytes 8 s.bark.stored ++ leBytes 8 s.bark.head ++ leBytes 8 s.bark.ovf).getD (off - 0x142000) 0
  else if 0x200000 ≤ off ∧ off < 0xA00000 then
    match shadowOf s ((off - 0x200000) / 128) with
    | some r => (recordBytes r).getD (off % 128) 0
    | none => 0
  else if 0x100000000 ≤ off ∧ off < 0xE00000000 then
    match s.body.home.shadows.find? fun e => phaseLive e.2.phase && e.2.logPtr ≤ off
        && off < e.2.logPtr + (4 * (e.2.maxPositions + 16) + 8192) with
    | some e => (tokenLog e.2).getD (off - e.2.logPtr) 0
    | none => s.byte (Mem.hostWindow + off)
  else s.byte (Mem.hostWindow + off)

/-- n bytes of the host window. -/
def windowBytes (s : State) (off n : Nat) : List Byte := (List.range n).map fun i => windowByte s (off + i)

end Sys2Proof.Machine
end

