-- ==== Sys2Proof/Machine/Mover.lean ====
section
/-! DEFINITION. The mover (R223 to R227, 08_fabric_memory_semantics.md): its descriptors, what they issue, and how they end. -/

namespace Sys2Proof.Machine

namespace MovOp
def copy : Nat := 1
def copyPage : Nat := 2
def fill : Nat := 3
def barrier : Nat := 4
end MovOp

/-- A mover descriptor (R225). -/
structure MovDesc where
  op : Nat
  fence : Bool
  hint : Bool
  arrival : Nat
  src : Nat
  dst : Nat
  length : Nat
  pattern : Nat
  tag : Nat
deriving DecidableEq, Repr

/-- A descriptor from its 64 bytes. -/
def movDescOf (bs : List Byte) : MovDesc :=
  let v := leNat bs
  { op := bitsOf v 0 8, fence := bitsOf v 8 1 == 1, hint := bitsOf v 9 1 == 1, arrival := bitsOf v 32 16, src := bitsOf v 64 64,
    dst := bitsOf v 128 64, length := bitsOf v 192 32, pattern := bitsOf v 256 64, tag := bitsOf v 320 32 }

/-- A reserved field of a descriptor is not zero (R6, R225). -/
def movResv (bs : List Byte) : Bool :=
  let v := leNat bs
  bitsOf v 10 22 != 0 || bitsOf v 48 16 != 0 || bitsOf v 224 32 != 0 || bitsOf v 352 160 != 0

/-- Bytes of a copy or fill: a multiple of 64, at least 64. -/
def lengthOk (n : Nat) : Bool := n % 64 == 0 && 64 ≤ n

/-- The fields of a descriptor are as R225 and R226 have them. -/
def movFormOk (bs : List Byte) (d : MovDesc) : Bool :=
  !movResv bs && match d.op with
    | 1 => d.src % 64 == 0 && d.dst % 64 == 0 && lengthOk d.length && !d.hint
    | 2 => d.length == 0 && (!d.hint || refTier d.dst == 1) && refTier d.src ≤ 1 && refTier d.dst ≤ 1
    | 3 => d.src == 0 && d.dst % 64 == 0 && lengthOk d.length && !d.hint
    | 4 => d.src == 0 && d.dst == 0 && d.length == 0 && !d.hint
    | _ => false

/-- The parts of a copy, as offset and bytes: at most 4,096 bytes each, within one 4 KiB block at both ends (R208, R226). -/
def copyParts (src dst : Nat) : Nat → Nat → Nat → List (Nat × Nat)
  | 0, _, _ => []
  | fuel + 1, o, left =>
    if left = 0 then []
    else
      let n := min left (min (4096 - (src + o) % 4096) (4096 - (dst + o) % 4096))
      (o, n) :: copyParts src dst fuel (o + n) (left - n)

/-- The parts of a descriptor's range. -/
def movParts (d : MovDesc) : List (Nat × Nat) :=
  copyParts (if d.op = MovOp.fill then d.dst else d.src) d.dst (d.length / 64) 0 d.length

/-- n bytes of a FILL's pattern. -/
def fillBytes (pattern n : Nat) : List Byte := (List.replicate (n / 8) (leBytes 8 pattern)).flatMap id

/-- The fabric address of the frame a reference names, as its member has it. -/
def pageFa (s : State) (r : Nat) : Option Nat := (s.chipMember (refChip r)).map fun m => mkFa m (refTier r) (refFrame r * 32768)

/-- Every access of a descriptor passes the window check of the queue's context (R204, R205, R208). -/
def movPass (s : State) (ctx : AccCtx) (d : MovDesc) : Bool :=
  match d.op with
  | 1 => (movParts d).all fun p => mayIssue s ctx (d.src + p.1) (.load p.2) false && mayIssue s ctx (d.dst + p.1) (.store (List.replicate p.2 0)) false
  | 2 => match pageFa s d.src, pageFa s d.dst with
    | some a, some b => winPass s ctx a (.pageRead d.src false) && winPass s ctx b (.pageCopy d.dst)
    | _, _ => false
  | 3 => (movParts d).all fun p => mayIssue s ctx (d.dst + p.1) (.store (List.replicate p.2 0)) false
  | _ => true

def modMov (id : Nat) (f : Mov → Mov) : Act := onBody fun b => { b with mover := { b.mover with live := tmod b.mover.live id f } }

/-- The first status other than OK of a descriptor stands. -/
def movStatus (m : Mov) (st : Nat) : Nat := if m.status = St.ok then st else m.status

/-- One access of a descriptor is over, with a status and the bytes it moved. -/
def movStep (id st bytes : Nat) : Act :=
  acts [modMov id (fun m => { m with left := m.left - 1, status := movStatus m st, cursor := m.cursor + bytes }),
        count Reg.MOV_BYTES bytes]

/-- The status of a refused, failed or late access (R227). -/
def movFailure (status : Nat) : Nat :=
  if status = Ans.ok then St.ok
  else if status = Ans.ue ∨ status = Ans.timeout ∨ status = Ans.crc ∨ status = Ans.noFrame then St.busyRetry
  else St.invalid

/-- An access of a mover descriptor is answered (R226, R227): a load's data are stored at the same offset of the destination; with a
failure nothing more of the descriptor goes out. -/
def movAnswered (id : Nat) (a : Access) (status : Nat) (data : List Byte) : Act := look fun s =>
  match tget s.body.mover.live id with
  | none => nop
  | some m =>
    let d := movDescOf m.desc
    match a.kind with
    | .load n =>
      if status = Ans.ok ∧ m.status = St.ok then issueStore' (d.dst + (a.addr - d.src)) (data.take n)
      else movStep id (movFailure status) 0
    | .store bs => movStep id (movFailure status) (if status = Ans.ok then bs.length else 0)
    | .pageCopy _ => acts [modMov id (fun x => { x with cursor := 0 }), movStep id (movFailure status) (if status = Ans.ok then m.cursor else 0)]
    | _ => movStep id (movFailure status) 0
where
  /-- a store of the copy, to whichever member -/
  issueStore' (addr : Nat) (bs : List Byte) : Act := sendAccess (.mov id) addr (.store bs)

/-- A page that a COPY_PAGE has read is written into its destination frame, here or on another member (R226): no scale slot means data
whose CRC failed. -/
def movPage (id : Nat) (hdr : PageHeader) (data scale : List Byte) : Act := look fun s =>
  match tget s.body.mover.live id with
  | none => nop
  | some m =>
    let d := movDescOf m.desc
    if scale.isEmpty then movStep id St.busyRetry 0
    else if refChip d.dst = s.chipId then
      match s.exact d.dst with
      | some k =>
        if targetOpen s k then acts [writeTarget k hdr data scale d.hint, movStep id St.ok hdr.storedLen] else refused
      | none => refused
    else match pageFa s d.dst with
      | none => movStep id St.invalid 0
      | some fa =>
        acts [modMov id (fun x => { x with cursor := hdr.storedLen }), sendAccess (.mov id) fa (.pageCopy d.dst),
              emit (.coh (faMember fa) { type := .pageData, tracked := d.hint, sender := s.member, seq := s.body.fabric.tag, refs := [d.dst] }
                (some hdr) data scale)]
where
  /-- the target refuses the write: it is this chip that counts on both sides (R207) -/
  refused : Act := acts [count Reg.MOV_TGT_DISCARD 1, raise Blk.mov 2, count Reg.MOV_REJECTED 1, raise Blk.mov 1, movStep id St.invalid 0]

/-- The source page of a COPY_PAGE is read: here, or by an untracked page read. -/
def movReadPage (id : Nat) (d : MovDesc) : Act := look fun s =>
  if refChip d.src = s.chipId then
    match s.resolve d.src with
    | none => movStep id St.invalid 0
    | some k => match s.frame k with
      | none => movStep id St.invalid 0
      | some f =>
        if f.staging || (!f.hdr.isSealed && !f.hdr.frozen) then movStep id St.invalid 0
        else
          let data := s.bytes (payloadAt k) f.hdr.storedLen
          let scale := s.bytes (scaleAt k) 1024
          if dataCrcOk f.hdr data scale then movPage id f.hdr data scale
          else acts [count Reg.STM_CRC_FAIL 1, raiseWith Blk.stm 3 { addr := k }, movPage id f.hdr [] []]
  else acts [newRead { src := d.src, dst := 2 ^ 40 + id, handle := 0, layer := 0, index := 0, mov := some id, issued := s.body.tick },
             sendRead d.src false]

/-- A descriptor starts: what it has to move goes out at once. -/
def movStart (id : Nat) : Act := look fun s =>
  match tget s.body.mover.live id with
  | none => nop
  | some m =>
    let d := movDescOf m.desc
    let bad := modMov id fun x => { x with status := St.invalid }
    if !movFormOk m.desc d || !qArrivalOk s .mov m.q d.arrival then bad
    else match qCtx s .mov m.q with
      | none => if d.op = MovOp.barrier then nop else acts [windowFault, bad]
      | some ctx =>
        if !movPass s ctx d then acts [windowFault, bad]
        else match d.op with
          | 1 => acts [modMov id (fun x => { x with left := (movParts d).length }),
                       each (movParts d) fun p => sendAccess (.mov id) (d.src + p.1) (.load p.2)]
          | 2 => acts [modMov id (fun x => { x with left := 1 }), movReadPage id d]
          | 3 => acts [modMov id (fun x => { x with left := (movParts d).length }),
                       each (movParts d) fun p => sendAccess (.mov id) (d.dst + p.1) (.store (fillBytes d.pattern p.2))]
          | _ => nop

/-- A descriptor of a mover queue is accepted. -/
def movTake (q i : Nat) (bs : List Byte) : Act := look fun s =>
  let id := s.body.mover.next
  let m : Mov := { q := q, slot := i, qseq := s.get (qSeq .mov q), desc := bs, started := s.body.tick, gen := s.rd Reg.STM_TRACKER_GEN }
  acts [onBody (fun b => { b with mover := { b.mover with next := id + 1, live := tput b.mover.live id m } }), acceptSlot .mov q i]

/-- The next descriptor of a mover queue is accepted and starts (R224): where its opcode is the row's, or none of R226; fewer than
MOV_CAPS.INFLIGHT of the queue run, and none where it is a BARRIER or has FENCE_BEFORE. -/
def movAccept (op q : Nat) : Act := look fun s =>
  match nextDesc s .mov q with
  | none => nop
  | some (i, bs) =>
    let d := movDescOf bs
    let running := (s.body.mover.live.filter fun e => e.2.q == q).length
    if d.op != op && 1 ≤ d.op && d.op ≤ 4 then nop
    else if s.get Fld.MOV_CAPS_INFLIGHT ≤ running || ((d.fence || d.op == MovOp.barrier) && running != 0) then nop
    else acts [movTake q i bs, movStart s.body.mover.next]

/-- A descriptor leaves: its completion record is written, then its arrival counter raised (R227). -/
def endMov (id : Nat) (m : Mov) : Act :=
  acts [onBody (fun b => { b with mover := { b.mover with live := tdel b.mover.live id } }),
        endSlot .mov m.q m.slot m.qseq m.status (movDescOf m.desc).tag m.started, arrive (movDescOf m.desc).arrival (.mov m.status)]

/-- MOVER_DESCRIPTOR_END: all a descriptor has sent out is answered (its fence, R212): its completion record, then its arrival counter
(R227). -/
def actMoverEnd (id : Nat) : Act := look fun s =>
  match tget s.body.mover.live id with
  | none => nop
  | some m =>
    if m.left != 0 then nop
    else acts [endMov id m, restartQueue .mov m.q]

/-- An answer to a COPY_PAGE's page read that brings no page ends it with a status. -/
def movNoPage (id st : Nat) : Act := movStep id st 0

def execMovDoorbell (q tail : Nat) (s : State) :=
  done (when (q < 64 && tail < 256) (qDoorbell .mov q tail)) s
def execCopy (q : Nat) (s : State) :=
  done (when (q < 64) (movAccept MovOp.copy q)) s
def execCopyPage (q : Nat) (s : State) :=
  done (when (q < 64) (movAccept MovOp.copyPage q)) s
def execFill (q : Nat) (s : State) :=
  done (when (q < 64) (movAccept MovOp.fill q)) s
def execBarrier (q : Nat) (s : State) :=
  done (when (q < 64) (movAccept MovOp.barrier q)) s
def execMoverEnd (id : Nat) (s : State) := done (actMoverEnd id) s
def execPageData (m : CohMsg) (hb data scale : List Byte) (s : State) :=
  done (when (m.wf) (actPageData movPage m hb data scale)) s
def execGenStale (m : CohMsg) (found : List (Nat × Nat)) (s : State) :=
  done (when (m.wf) (actGenStale movNoPage m found)) s
def execNotSealed (m : CohMsg) (s : State) :=
  done (when (m.wf) (actNotSealed movNoPage m)) s

end Sys2Proof.Machine
end

