-- ==== Sys2Proof/Machine/Requester.lean ====
section
/-! DEFINITION. What this chip's requesters do with the answers to their accesses (R212, R213, R247, R249): answers, timeouts, fences. -/

namespace Sys2Proof.Machine

/-- What a requester does with the outcome of one of its accesses. -/
def accessOver (a : Access) (status : Nat) (data : List Byte) : Act := look fun s =>
  let ok := status == Ans.ok
  match a.who with
  | .job id => outputAnswered id ok
  | .smp id => smpAnswered id ok
  | .mov id => movAnswered id a status data
  | .event _ => when (!ok) eventFail
  | .page _ => nop
  | .sketch h l i =>
    when ok (acts [onScent (fun x => { x with remote := x.remote.filter (fun e => !(e.1 == h && e.2.1 == l && e.2.2.1 == i)) ++ [(h, l, i, data.take 64)] }),
      match (s.loc h).bind s.locModel with
      | some m => loadRowWhole h l i m
      | none => nop])
  | .mirror h l i => when ok (modLayer h l fun y => { y with ackPages := y.ackPages.filter (fun p => p.1 != i) ++ [(i, leNat (data.take 8))] })
where
  /-- the row of a page's group is loaded once every sketch of the group is at hand -/
  loadRowWhole (h l i : Nat) (m : Model) : Act := look fun s =>
    match s.loc h with
    | none => nop
    | some c =>
      let g := i / m.groupPages
      let idx := (List.range m.groupPages).map fun k => g * m.groupPages + k
      when (idx.all fun k => (((c.layer l).pages[k]?).bind fun r => sketchOf s h l k r).isSome) (loadRow h l g)

/-- Accesses that a requester's fence held back go out, in their order. -/
def releaseHeld (who : Requester) : Act := look fun s =>
  let mine := s.body.fabric.held.filter fun e => e.1 == who
  acts [onFabric (fun f => { f with held := f.held.filter fun e => e.1 != who }), each mine fun e => sendAccess who e.2.2 e.2.1]

/-- A requester's fence is complete once none of its accesses waits: with an error where one has timed out (R212, R213). -/
def fenceDone (who : Requester) : Act := look fun s =>
  let f := s.body.fabric
  when (f.fences.contains who && !f.waiting.any fun e => e.2.who == who)
    (acts [emit (.fenced who (!f.failed.any fun e => e.1 == who)),
           onFabric (fun f => { f with fences := f.fences.filter (· != who), failed := f.failed.filter fun e => e.1 != who }),
           releaseHeld who])

/-- ACCESS_ANSWER: the answer to an access of this chip (R207, R213, R249). One that comes after its access has timed out names no
access any more. -/
def actAccessAnswer (tag status : Nat) (data : List Byte) : Act := look fun s =>
  match tget s.body.fabric.waiting tag with
  | none => nop
  | some a =>
    acts [onFabric (fun f => { f with waiting := tdel f.waiting tag }),
          when (status == Ans.reject) (acts [count Reg.MOV_REJECTED 1, raise Blk.mov 1]),
          when (status == Ans.ue) (raise Blk.mov 4),
          accessOver a status data, fenceDone a.who]

/-- Requesters that do not fence of themselves at an operation's end: software's, which R247 holds to their next fence. -/
def holdsToFence : Requester → Bool
  | .event _ => true
  | _ => false

/-- An access has failed with TIMEOUT (R213). -/
def timeoutAccess (tag : Nat) : Act := look fun s =>
  match tget s.body.fabric.waiting tag with
  | none => nop
  | some a =>
    acts [onFabric (fun f => { f with waiting := tdel f.waiting tag,
                                      failed := if holdsToFence a.who then f.failed ++ [(a.who, faMember a.addr)] else f.failed }),
          count Reg.MOV_TIMEOUTS 1, raise Blk.mov 3, accessOver a Ans.timeout [], fenceDone a.who]

/-- A page read of this chip has failed with TIMEOUT: an uncorrectable read (R32, R213), or the end of its COPY_PAGE with BUSY_RETRY. -/
def timeoutRead (tag : Nat) : Act := look fun s =>
  match tget s.body.pages.reads tag with
  | none => nop
  | some r =>
    if refChip r.src = s.chipId ∨ 1 < refTier r.src then nop
    else acts [count Reg.MOV_TIMEOUTS 1, raise Blk.mov 3, stallSync 0,
               match r.mov with
               | some id => acts [dropRead tag, movStep id St.busyRetry 0]
               | none => readFailed tag,
               stallSync 0]

/-- LOAD_TIMEOUT: no answer within MOV_CTL.LOAD_TIMEOUT, to an access or to a page read. -/
def actLoadTimeout (page : Bool) (tag : Nat) : Act := if page then timeoutRead tag else timeoutAccess tag

/-- FABRIC_FENCE: a requester fences; its later accesses are held until every earlier one is acknowledged (R212). -/
def actFabricFence (who : Requester) : Act := look fun s =>
  if s.body.fabric.fences.contains who then nop
  else acts [onFabric (fun f => { f with fences := f.fences ++ [who] }), fenceDone who]

def execAccessAnswer (tag status : Nat) (data : List Byte) (s : State) := done (actAccessAnswer tag status data) s
def execLoadTimeout (page : Bool) (tag : Nat) (s : State) := done (actLoadTimeout page tag) s
def execFabricFence (who : Requester) (s : State) := done (actFabricFence who) s

end Sys2Proof.Machine
end

