-- ==== Sys2Proof/Machine/Links.lean ====
section
/-! DEFINITION. Parig links (R238 to R247, 09_transport_and_links.md): flits received, replay, retraining, ports going up and down, lanes
and their spares. -/

namespace Sys2Proof.Machine

/-- The credits a partner advertises when a link comes up: its whole buffer of each virtual channel (R243). -/
def freshCredits : List Nat := [256, 512, 64, 512]

/-- The acknowledgement and the credits of a flit (R239, R241, R244). -/
def linkAck (p : Nat) (f : Flit) : Act := look fun s =>
  let l := s.link p
  let n := (f.ackSeq + 1 + 4096 - l.base) % 4096
  let k := if f.ackValid ∧ n ≤ l.unacked then n else 0
  acts [setLink p { l with base := (l.base + k) % 4096, unacked := l.unacked - k, replays := if k = 0 then l.replays else 0,
                           credits := l.credits.set (f.crVc % 4) (l.credits.getD (f.crVc % 4) 0 + f.crCount) },
        when (f.crCount != 0) (eff (.credReturn (some p) f.crCount))]

/-- FLIT_RECEIVE (R241): a flit in sequence with a good CRC is accepted, and its slot's credit goes back at once; another is discarded,
with one NAK for the gap. IDLE flits take no part in the sequence. A flit of the reserved TYPE is discarded. -/
def actFlitReceive (p : Nat) (f : Flit) : Act := look fun s =>
  let l := s.link p
  if !s.portUp p then nop
  else
    let nak := when (!l.nakSent)
      (acts [modLink p (fun l => { l with nakSent := true }), emit (.idle p ((l.rxNext + 4095) % 4096) true 0 0)])
    acts [count (Reg.FAB_FEC_CORR p) f.fec,
      if !f.crcGood then
        acts [count (Reg.FAB_CRC_ERR p) 1, raiseWith Blk.fab 0 { unit := p }, when (f.type != 0) nak]
      else match f.type with
        | 0 => acts [linkAck p f, pumpLink p]
        | 1 | 2 =>
          if f.seq % 4096 = l.rxNext then
            acts [count (Reg.FAB_FLITS_RX p) 1, linkAck p f, modLink p (fun l => { l with rxNext := (l.rxNext + 1) % 4096, nakSent := false }),
                  emit (.idle p l.rxNext false (f.vc % 4) (if f.type = 1 then 1 else 0)), pumpLink p]
          else nak
        | _ => nop]

/-- Every unacknowledged flit is sent again, in SEQ order (R241). -/
def replayLink (p : Nat) : Act := look fun s =>
  let l := s.link p
  if !s.portUp p || l.retraining || l.unacked == 0 then nop
  else acts [setLink p { l with replays := l.replays + 1 }, emit (.replay p l.base l.unacked), count (Reg.FAB_REPLAYS p) 1,
             count (Reg.FAB_REPLAY_FLITS p) l.unacked, raiseWith Blk.fab 1 { unit := p }]

/-- NAK: the partner asks for a replay from ACK_SEQ + 1; a flit with a bad CRC is discarded (R241). -/
def actNak (p : Nat) (f : Flit) : Act := look fun s =>
  if !s.portUp p then nop
  else acts [count (Reg.FAB_FEC_CORR p) f.fec,
    if !f.crcGood then acts [count (Reg.FAB_CRC_ERR p) 1, raiseWith Blk.fab 0 { unit := p }]
    else acts [linkAck p f, replayLink p, pumpLink p]]

/-- REPLAY_TIMEOUT: the oldest unacknowledged flit has waited too long. -/
def actReplayTimeout (p : Nat) : Act := replayLink p

/-- RETRAIN: REPLAY_MAX replays have brought no advance of ACK_SEQ (R242). -/
def actRetrain (p : Nat) : Act := look fun s =>
  let l := s.link p
  if !s.portUp p || l.retraining || l.replays < s.get Fld.FAB_CTL_REPLAY_MAX then nop
  else acts [setLink p { l with retraining := true }, count (Reg.FAB_RETRAINS p) 1, raiseWith Blk.fab 2 { unit := p }]

/-- RETRAIN_DONE: SEQ, replay buffer and credits are kept; replay continues (R242). -/
def actRetrainDone (p : Nat) : Act := look fun s =>
  when (s.link p).retraining (acts [modLink p (fun l => { l with retraining := false, replays := 0 }), replayLink p, pumpLink p])

/-- Members that a port's fall has left without a route: UNREACHABLE, their accesses fail at once, and what the remote page cache holds
of their pages goes (R221, R247). -/
def loseRoutes (before : List Nat) : Act := look fun s =>
  each (before.filter fun m => (memberRoutes s m).isEmpty) fun m =>
    acts [raiseWith Blk.fab 7 { unit := m },
          look fun s => each (s.body.fabric.waiting.filter fun e => faMember e.2.addr == m) fun e => timeoutAccess e.1,
          look fun s => each (s.body.coh.cache.filter fun e => e.2.home == m) fun e => match e.2.st with
            | .valid =>
              if s.body.pages.busy.any (fun b => b.2 == e.2.key) then onCoh fun x => { x with cache := tput x.cache e.1 { e.2 with st := .doomed } }
              else acts [onCoh (fun x => { x with cache := tdel x.cache e.1 }), freeFrame e.2.key]
            | _ => nop,
          look fun s => each (s.body.pages.reads.filter fun e => s.chipMember (refChip e.2.src) == some m && refTier e.2.src ≤ 1) fun e => timeoutRead e.1]

/-- The members that have a route now. -/
def reachable (s : State) : List Nat :=
  (List.range 256).filter fun m => m != s.member && (s.memberChip m).isSome && !(memberRoutes s m).isEmpty

/-- A port goes down (R242): its replay buffer is discarded, its credits in flight are flushed. -/
def portDown (p : Nat) : Act := look fun s =>
  if !s.portUp p then nop
  else
    let c := credGet s.led (some p)
    acts [setFld (Fld.FAB_PORT_STATUS_UP p) 0, setFld (Fld.FAB_PORT_STATUS_WIDTH p) 0, setFld (Fld.FAB_PORT_STATUS_PEER_ID p) 0,
          setLink p { lanesOut := (s.link p).lanesOut }, eff (.credFlush (some p) c.inflight), raiseWith Blk.fab 8 { unit := p },
          loseRoutes (reachable s)]

/-- RETRAIN_TIMEOUT: a retrain has not completed within 1 ms. -/
def actRetrainTimeout (p : Nat) : Act := look fun s => when (s.link p).retraining (portDown p)

/-- PORT_UP: an enabled port comes up on its good lanes, at most `width`; SEQ starts at 0, credits are fresh (R242, R243). -/
def actPortUp (p width peer : Nat) : Act := look fun s =>
  let l := s.link p
  let spared := s.is (Fld.FAB_PORT_STATUS_SPARED p)
  let w := min width (min 4 ((4 - l.lanesOut.length) + if spared then 1 else 0))
  if 15 < p || s.portUp p || !s.is (Fld.FAB_PORT_CFG_ENABLE p) || w == 0 || s.body.plat.clocksLost.contains (2 + p / 4) then nop
  else acts [herderSync, setLink p { lanesOut := l.lanesOut, credits := freshCredits }, setFld (Fld.FAB_PORT_STATUS_UP p) 1,
             setFld (Fld.FAB_PORT_STATUS_WIDTH p) w, setFld (Fld.FAB_PORT_STATUS_DEGRADED p) (if w < 4 then 1 else 0),
             setFld (Fld.FAB_PORT_STATUS_PEER_ID p) (if s.is (Fld.FAB_PORT_CFG_AGENT p) then 0 else peer), tagPort p]

/-- The two ends exchange the lane map of a port by a CONTROL flit, which takes a SEQ and a place in the replay buffer (R241, R245). -/
def exchangeLanes (p : Nat) (lanes : List Nat) : Act := look fun s =>
  let l := s.link p
  acts [emit (.laneMap p lanes), setLink p { l with txNext := (l.txNext + 1) % 4096, unacked := l.unacked + 1 }, count (Reg.FAB_FLITS_TX p) 1]

/-- The spare lane of a port's group, where it serves this port. -/
def spareOf (s : State) (p : Nat) : Option Nat :=
  if s.is (Fld.FAB_SPARE_MAP_IN_USE (p / 4)) && s.get (Fld.FAB_SPARE_MAP_LANE (p / 4)) / 4 == p then some (64 + p / 4) else none

/-- The lanes a port runs on. -/
def lanesOf (s : State) (p : Nat) : List Nat :=
  ((List.range 4).map (4 * p + ·) ++ (spareOf s p).toList).filter fun x => !(s.link p).lanesOut.contains x

/-- LANE_FAIL: a lane of a running port fails; the port goes on at reduced width, or goes down with its last lane (R245). -/
def actLaneFail (p lane : Nat) : Act := look fun s =>
  if !s.portUp p || !(lanesOf s p).contains lane then nop
  else
    let rest := (lanesOf s p).filter (· != lane)
    acts [raiseWith Blk.fab 3 { unit := lane }, modLink p (fun l => { l with lanesOut := l.lanesOut ++ [lane] }),
          when (64 ≤ lane) (setFld (Fld.FAB_PORT_STATUS_SPARED p) 0),
          if rest.isEmpty then portDown p
          else acts [setFld (Fld.FAB_PORT_STATUS_WIDTH p) rest.length, setFld (Fld.FAB_PORT_STATUS_DEGRADED p) (if rest.length < 4 then 1 else 0), exchangeLanes p rest]]

/-- SPARE_LANE_TRAINED: the spare of the port's group, free until now, takes the place of the first failed lane (R245). -/
def actSpareLaneTrained (p : Nat) : Act := look fun s =>
  let k := p / 4
  match (s.link p).lanesOut.find? (· < 64) with
  | none => nop
  | some lane =>
    if !s.portUp p || !s.is Fld.FAB_CTL_SPARE_AUTO || s.is (Fld.FAB_SPARE_MAP_IN_USE k) || s.sparesLeft 7 == 0 then nop
    else acts [setFld (Fld.FAB_SPARE_MAP_LANE k) lane, setFld (Fld.FAB_SPARE_MAP_IN_USE k) 1, setFld (Fld.FAB_PORT_STATUS_SPARED p) 1,
               useSpare 7 lane, look fun s =>
                 let now := lanesOf s p
                 acts [setFld (Fld.FAB_PORT_STATUS_WIDTH p) now.length, setFld (Fld.FAB_PORT_STATUS_DEGRADED p) (if now.length < 4 then 1 else 0),
                       exchangeLanes p now]]

def execFlitReceive (p : Nat) (f : Flit) (s : State) :=
  done (when (p < 16 && f.wf) (actFlitReceive p f)) s
def execNak (p : Nat) (f : Flit) (s : State) :=
  done (when (p < 16 && f.wf) (actNak p f)) s
def execReplayTimeout (p : Nat) (s : State) :=
  done (when (p < 16) (actReplayTimeout p)) s
def execRetrain (p : Nat) (s : State) :=
  done (when (p < 16) (actRetrain p)) s
def execRetrainDone (p : Nat) (s : State) :=
  done (when (p < 16) (actRetrainDone p)) s
def execRetrainTimeout (p : Nat) (s : State) :=
  done (when (p < 16) (actRetrainTimeout p)) s
def execPortUp (p width peer : Nat) (s : State) :=
  done (when (p < 16 && width < 5 && chipWf peer) (actPortUp p width peer)) s
def execLaneFail (p lane : Nat) (s : State) :=
  done (when (p < 16 && lane < 68) (actLaneFail p lane)) s
def execSpareLaneTrained (p : Nat) (s : State) :=
  done (when (p < 16) (actSpareLaneTrained p)) s

end Sys2Proof.Machine
end

