-- ==== Sys2Proof/Machine/Apply.lean ====
section
/-! DEFINITION. What takes effect when the value of an RWL register, a model record or a tenant record changes (R19, 01_request_life.md;
R275, R276, R283, 10_sharing_and_scheduling.md; R86, 03_attention_engines.md; R119, 04_scent.md), and the commit that changes them (R349 to
R352, 12_host_interface.md). The checks of a commit are in Validate.lean. -/

namespace Sys2Proof.Machine

def onConf (f : Conf → Conf) : Act := onBody fun b => { b with conf := f b.conf }

/-! ### Registers -/

/-- The bits of a register's fields of one access type. -/
def accMask (d : RegDesc) (k : Acc) : Nat :=
  (d.fields.filter fun f => f.acc == k).foldl (fun m f => m + (2 ^ f.w - 1) * 2 ^ f.lo) 0

/-- A register's value with the fields of one access type taken from another value. -/
def withAcc (d : RegDesc) (k : Acc) (old v : Nat) : Nat :=
  (d.fields.filter fun f => f.acc == k).foldl (fun m f => withBits m f.lo f.w (bitsOf v f.lo f.w)) old

/-- A register that has an RWL field. -/
def isRwl (a : Nat) : Bool := match regAt a with
  | some d => d.fields.any fun f => f.acc == .rwl
  | none => false

/-- The index of an array register. -/
def regIndex (base stride a : Nat) : Nat := (a - base) / stride

/-- An address lies in an array of registers. -/
def inArray (base stride count a : Nat) : Bool := base ≤ a && (a - base) % stride == 0 && (a - base) / stride < count

/-- The start of a queue that a change of its configuration register calls for: an enable starts it, at once or when its accepted
descriptors have ended; so does another geometry of a queue that stays enabled (R86). -/
def requeue (was now moved live : Bool) (start wait : Act) : Act :=
  if now && (!was || moved) then (if live then wait else start) else nop

/-- What follows from a change of a Collar's register (R283). -/
def collarChanged (t k : Nat) (was : Bool) : Act := look fun s =>
  let on := colOn s t k
  if on && !was then
    acts [onJobs (fun x => { x with refill := tput x.refill (2 * t + k) s.body.tick }), refill t k]
  else if was && !on then
    acts [when (decide (0 < colBalance s t k)) (eff (.colExpire (2 * t + k) (colBalance s t k).toNat)), walkTenant t]
  else nop

/-- What follows from the change of an RWL register from an old value. -/
def rwlChanged (a old : Nat) : Act := look fun s =>
  if a = Reg.GLB_PERS then acts [setGenMacros (s.get Fld.GLB_PERS_SCT_GEN), afterFree]
  else if inArray 0x051000 16 256 a then
    let q := regIndex 0x051000 16 a
    requeue (bitsOf old 24 1 == 1) (s.is (Fld.DAE_JQ_CFG_ENABLE q)) (bitsOf old 0 20 != bitsOf (s.rd a) 0 20)
      (s.body.jobs.jobs.any fun e => e.2.q == q) (startJobQueue q)
      (onJobs fun x => { x with reenable := if x.reenable.contains q then x.reenable else x.reenable ++ [q] })
  else if inArray 0x181000 16 16 a then
    let q := regIndex 0x181000 16 a
    requeue (bitsOf old 7 1 == 1) (bitsOf (s.rd a) 7 1 == 1) (bitsOf old 0 4 != bitsOf (s.rd a) 0 4)
      (s.body.sampling.live.any fun e => e.2.q == q) (startSmpQueue q)
      (onSmp fun x => { x with reenable := if x.reenable.contains q then x.reenable else x.reenable ++ [q] })
  else if inArray 0x202000 16 64 a || inArray 0x401000 16 64 a then
    let k := if a < 0x400000 then QKind.mov else QKind.xpt
    let q := if a < 0x400000 then regIndex 0x202000 16 a else regIndex 0x401000 16 a
    requeue (bitsOf old 4 1 == 1) (s.is (qEnable k q)) (bitsOf old 0 4 != bitsOf (s.rd a) 0 4) (qLive s k q) (startQueue k q)
      (onQueues k fun x e r => (x, e, if r.contains q then r else r ++ [q]))
  else if inArray 0x400800 16 64 a then
    let r := regIndex 0x400800 16 a
    when (bitsOf old 54 1 == 0 && s.is (Fld.XPT_RCQ_BASE_ENABLE r)) (startRcq r)
  else if inArray 0x610000 16 1024 a then collarChanged (regIndex 0x610000 16 a) 0 (bitsOf old 56 1 == 1)
  else if inArray 0x610008 16 1024 a then collarChanged (regIndex 0x610008 16 a) 1 (bitsOf old 56 1 == 1)
  else if inArray 0x081000 256 16 a then
    let p := regIndex 0x081000 256 a
    when (!s.is (Fld.FAB_PORT_CFG_ENABLE p)) (portDown p)
  else nop

/-- The RWL fields of a register take a value. What the Herder has been given is queued first, under the weights and shapers of
before (R275). -/
def setConfigReg (a v : Nat) : Act := look fun s =>
  match regAt a with
  | none => nop
  | some d =>
    acts [when (0x140000 ≤ a && a < 0x180000) herderSync, setReg a (withAcc d .rwl (s.rd a) v), rwlChanged a (s.rd a)]

/-! ### Items -/

/-- Whether two items have one target. -/
def sameTarget : Item → Item → Bool
  | .reg a _, .reg b _ => a == b
  | .model a _, .model b _ => a == b
  | .tenant a _, .tenant b _ => a == b
  | _, _ => false

/-- An item joins a list; a later one with the same target takes the place of the earlier (R349). -/
def addItem (l : List Item) (i : Item) : List Item :=
  if l.any (sameTarget i) then l.map fun x => if sameTarget i x then i else x else l ++ [i]

/-- A record is put in a table, or taken out where it has no bytes. -/
def putRecord (t : List (Nat × List Byte)) (k : Nat) (bs : List Byte) : List (Nat × List Byte) :=
  if bs.isEmpty then tdel t k else tput t k bs

/-- An item takes effect. -/
def applyItem : Item → Act
  | .reg a v => setConfigReg a v
  | .model m bs => onConf fun c => { c with models := putRecord c.models m bs }
  | .tenant t bs => onConf fun c => { c with tenants := putRecord c.tenants t bs }

/-- The RWL registers that do not hold their reset value, as items. -/
def liveRegs (s : State) : List Item := (s.regs.map (·.1)).filterMap fun a =>
  match regAt a with
  | some d =>
    let m := accMask d .rwl
    if (s.rd a) &&& m = (regReset a).toNat &&& m then none else some (.reg a ((s.rd a) &&& m))
  | none => none

/-- The running configuration: all that differs from reset (R352). -/
def runningItems (s : State) : List Item :=
  liveRegs s ++ s.body.conf.models.map (fun e => Item.model e.1 e.2) ++ s.body.conf.tenants.map fun e => Item.tenant e.1 e.2

/-- The items that bring back an earlier configuration: its own, and for what it does not list, reset. -/
def restoreItems (s : State) (prev : List Item) : List Item :=
  prev ++ (runningItems s).filterMap fun i =>
    if prev.any (sameTarget i) then none
    else match i with
      | .reg a _ => some (.reg a (regReset a).toNat)
      | .model m _ => some (.model m [])
      | .tenant t _ => some (.tenant t [])

/-! ### The configuration's state machine (R352) -/

/-- A commit or Heel takes effect and completes (R19 steps 5 and 6). -/
def finishRun (r : CfgRun) : Act := look fun s =>
  let old := s.get Fld.GLB_CFG_VER_RUNNING
  let snap := runningItems s
  acts [each r.items applyItem,
    if r.heel then
      acts [setReg Reg.GLB_CFG_VER r.version, setReg Reg.GLB_CFG_PEND 0, setReg Reg.GLB_CFG_DEADLINE 0, setFld Fld.GLB_STATUS_CFG_PENDING 0,
            onConf fun c => { c with previous := none, run := none, heelDue := false }, raise Blk.glb (if r.auto then 0 else 1),
            match r.ref with
            | some f => finOk f (leBytes 4 r.version)
            | none => nop]
    else
      acts [setReg Reg.GLB_CFG_VER (r.version + old * 2 ^ 32),
            onConf fun c => { c with locked := true, staged := [], previous := some snap, run := none },
            when (r.confirm != 0) (acts [setReg Reg.GLB_CFG_PEND r.version, setReg Reg.GLB_CFG_DEADLINE (wrapAdd 64 s.body.tick r.confirm),
                                         setFld Fld.GLB_STATUS_CFG_PENDING 1]),
            match r.ref with
            | some f => fin f St.ok
            | none => nop]]

/-- A commit or Heel starts. One that changes the personality waits until the units whose kind changes are idle (R19 steps 3 and 4); any
other takes effect at once. -/
def startRun (r : CfgRun) : Act := acts [onConf fun c => { c with run := some r }, look fun s =>
  match s.nextPers with
  | some p => if p = s.rd Reg.GLB_PERS then finishRun r else nop
  | none => finishRun r]

/-- The island of a group of an engine (R366). -/
def groupIsland (e g : Nat) : Nat := if e = 0 then 12 + g / 2 else 4 + g / 2

/-- PERSONALITY_REASSIGN: no sub-job runs on a unit whose kind changes, and none of their islands is in reset; the units are reassigned and
the commit or Heel completes (R19, R382). -/
def actPersReassign : Act := look fun s =>
  match s.body.conf.run with
  | none => nop
  | some r =>
    let free (e : Nat) : Bool := (List.range 16).all fun g => !changing s e g ||
      (bitsOf (if e = 0 then s.get Fld.DAE_STATUS_GROUPS_BUSY else s.get Fld.PAE_STATUS_GROUPS_BUSY) g 1 == 0 && s.isl (groupIsland e g) != IslSt.reset)
    if free 0 && free 1 then finishRun r else nop

/-- The return to the previous configuration (R352). -/
def heel (ref : Option CmdRef) (auto : Bool) : Act := look fun s =>
  match s.body.conf.previous with
  | none => nop
  | some l => startRun { ref := ref, version := s.get Fld.GLB_CFG_VER_PREVIOUS, items := restoreItems s l, confirm := 0, heel := true, auto := auto }

/-- CONFIG_CONFIRM_TIMEOUT: the pending version's deadline has come: the automatic Heel, or at the end of a firmware activation that
runs (R352, R393). -/
def actConfirmTimeout : Act := look fun s =>
  if !s.is Fld.GLB_STATUS_CFG_PENDING || s.body.conf.run.isSome then nop
  else if s.body.plat.fwAct.isSome then onConf fun c => { c with heelDue := true }
  else heel none true

/-- HEEL. -/
def opHeel (ref : CmdRef) (_ : Cmd) : Act := look fun s =>
  if s.body.conf.run.isSome || s.body.plat.fwAct.isSome then fin ref St.busyRetry
  else if s.body.conf.previous.isNone then finInvalid ref 0
  else heel (some ref) false

/-- CONFIG_CONFIRM. -/
def opConfirm (ref : CmdRef) (c : Cmd) : Act := look fun s =>
  if s.body.conf.run.isSome then fin ref St.busyRetry
  else if s.is Fld.GLB_STATUS_CFG_PENDING && s.get Fld.GLB_CFG_PEND_PENDING == c.arg 0 32 then
    acts [setFld Fld.GLB_STATUS_CFG_PENDING 0, setReg Reg.GLB_CFG_PEND 0, setReg Reg.GLB_CFG_DEADLINE 0, onConf (fun x => { x with heelDue := false }),
          fin ref St.ok]
  else finInvalid ref 0

/-- CONFIG_DISCARD. -/
def opDiscard (ref : CmdRef) (_ : Cmd) : Act := look fun s =>
  if s.body.conf.run.isSome then fin ref St.busyRetry else acts [onConf fun c => { c with staged := [] }, fin ref St.ok]

/-! ### Staging and reading items (R349) -/

/-- The reserved bits of a model record (R350) and of a tenant record (R351) are zero. -/
def modelForm (bs : List Byte) : Bool :=
  let v := leNat bs
  [(36, 4), (89, 7), (101, 3), (118, 2), (122, 6), (139, 5), (148, 12), (181, 75), (384, 128)].all fun e => bitsOf v e.1 e.2 == 0
def tenantForm (bs : List Byte) : Bool :=
  let v := leNat bs
  [(28, 4), (39, 25), (96, 32)].all fun e => bitsOf v e.1 e.2 == 0

/-- One item of the payload, and the bytes it takes with its padding; none where its form is wrong. -/
def parseItem (bs : List Byte) : Option (Item × Nat) :=
  let n (off w : Nat) : Nat := leNat ((bs.drop off).take w)
  match n 0 2 with
  | 0 =>
    match blockMap[n 4 2]? with
    | some (base, size) =>
      if bs.length < 24 || n 2 2 != 0 || n 6 2 != 0 || n 12 4 != 0 || size ≤ n 8 4 || !isRwl (base + n 8 4) then none
      else some (.reg (base + n 8 4) (n 16 8), 32)
    | none => none
  | 1 =>
    let r := (bs.drop 16).take 64
    if bs.length < 80 || n 2 14 != 0 || !modelForm r then none else some (.model (n 0x14 1 % 16) r, 80)
  | 2 =>
    let r := (bs.drop 16).take 16
    if bs.length < 32 || n 2 14 != 0 || !tenantForm r then none else some (.tenant (n 16 2 % 1024) r, 32)
  | _ => none

/-- The items of a payload, or the index of the first faulty one; the first argument bounds their number. -/
def parseItems : Nat → List Byte → Nat → List Item → Except Nat (List Item)
  | _, [], _, acc => .ok acc
  | 0, _ :: _, i, _ => .error i
  | k + 1, bs, i, acc =>
    match parseItem bs with
    | none => .error i
    | some (it, n) => parseItems k (bs.drop n) (i + 1) (addItem acc it)

/-- CONFIG_STAGE. -/
def opStage (ref : CmdRef) (c : Cmd) : Act := look fun s =>
  if s.body.conf.run.isSome then fin ref St.busyRetry
  else
    let bs := cmdInput s ref.src c
    match parseItems bs.length bs 0 s.body.conf.staged with
    | .error i => finInvalid ref i
    | .ok l => acts [onConf fun x => { x with staged := l }, finOk ref (leBytes 4 l.length)]

/-- The block of an address and the offset within it. -/
def blockOf (a : Nat) : Nat × Nat :=
  match (List.range 25).find? fun i => match blockMap[i]? with
    | some (b, n) => b ≤ a && a < b + n
    | none => false with
  | some i => (i, a - ((blockMap[i]?).map (·.1)).getD 0)
  | none => (0, a)

/-- An item's bytes (R349). -/
def itemBytes : Item → List Byte
  | .reg a v =>
    let b := blockOf a
    leBytes 4 0 ++ leBytes 4 b.1 ++ leBytes 8 b.2 ++ leBytes 8 v ++ leBytes 8 0
  | .model _ bs => leBytes 16 1 ++ bs
  | .tenant _ bs => leBytes 16 2 ++ bs

/-- The items CONFIG_READ asks for: 0 running, 1 previous, 2 staged. -/
def configItems (s : State) (which : Nat) : List Item := match which with
  | 0 => runningItems s
  | 1 => s.body.conf.previous.getD []
  | _ => s.body.conf.staged

/-- CONFIG_READ. -/
def opConfigRead (ref : CmdRef) (c : Cmd) : Act := look fun s => finOut ref c [] ((configItems s (c.arg 0 8)).flatMap itemBytes) nop

def execHeel (src : Src) (s : State) := done (runOp 0x0106 src opHeel) s
def execConfigConfirm (src : Src) (s : State) := done (runOp 0x0105 src opConfirm) s
def execConfigDiscard (src : Src) (s : State) := done (runOp 0x0108 src opDiscard) s
def execConfigStage (src : Src) (s : State) := done (runOp 0x0103 src opStage) s
def execConfigRead (src : Src) (s : State) := done (runOp 0x0107 src opConfigRead) s
def execConfirmTimeout (s : State) := done actConfirmTimeout s
def execPersReassign (s : State) := done actPersReassign s

end Sys2Proof.Machine
end

