-- ==== Sys2Proof/Machine/Validate.lean ====
section
/-! DEFINITION. The checks of CONFIG_COMMIT (R349 to R352, 12_host_interface.md) and the ranges of the chapters that own the values: R20, R23,
R54, R86, R91, R118, R124, R146, R168, R200, R235, R237, R262, R273, R283, R285, R292, R324, R333, R336, R399, R403, R421, R444, R445. A
range of a unit with its own enable binds only while it is enabled (R445). -/

namespace Sys2Proof.Machine

/-- A value within a range. -/
def inRange (lo hi v : Nat) : Bool := lo ≤ v && v ≤ hi

/-- The bits of the register at an address of the state. -/
def State.bitsAt (s : State) (a lo w : Nat) : Nat := bitsOf (s.rd a) lo w

/-- No two ranges (start, length) share a number. -/
def disjoint : List (Nat × Nat) → Bool
  | [] => true
  | a :: l => l.all (fun b => a.1 + a.2 ≤ b.1 || b.1 + b.2 ≤ a.1 || a.2 == 0 || b.2 == 0) && disjoint l

/-- Channel partition n is enabled (R54), and its channels. -/
def fpartOn (s : State) (n : Nat) : Bool := s.bitsAt (Reg.STM_FPART n) 8 5 != 0 && s.bitsAt (Reg.STM_FPART n) 32 16 != 0
def fpartChans (s : State) (n : Nat) : Nat × Nat := (s.bitsAt (Reg.STM_FPART n) 0 6, 8 * 2 ^ s.bitsAt (Reg.STM_FPART n) 6 2)
def fpartsOk (s : State) : Bool := disjoint (((List.range 8).filter (fpartOn s)).map (fpartChans s))

/-- The step-job queues' pool slots (R86). -/
def jqRanges (s : State) : List (Nat × Nat) :=
  ((List.range 256).filter fun q => s.is (Fld.DAE_JQ_CFG_ENABLE q)).map fun q => (s.bitsAt (Reg.DAE_JQ_CFG q) 0 16, 2 ^ s.bitsAt (Reg.DAE_JQ_CFG q) 16 4)

/-- The windows' counter ranges (R237). -/
def twRanges (s : State) : List (Nat × Nat) := (List.range 64).map fun w => (s.get (Fld.ACN_TW_BASE w), s.get (Fld.ACN_TW_COUNT w))

/-- The personality holds the real-time reserve, and the reserve the class-0 width (R20, R285, R362). -/
def persOk (s : State) : Bool :=
  let p := s.get Fld.GLB_PERS_PAE_PROMPT
  let g := s.get Fld.GLB_PERS_DAE_GEN
  let rd := s.get Fld.COL_ENG_CFG_RT_DAE_GROUPS
  let rp := s.get Fld.COL_ENG_CFG_RT_PAE_GROUPS
  p + s.get Fld.GLB_PERS_PAE_GEN ≤ 16 && g ≤ 16 && s.get Fld.GLB_PERS_SCT_GEN ≤ 64 &&
  (rd == 0 || (s.get (Fld.DAE_CLASS_CFG_DAE_GROUPS 0) ≤ rd && rd ≤ g)) && (rp == 0 || (s.get (Fld.DAE_CLASS_CFG_PAE_GROUPS 0) ≤ rp && rp ≤ p))

/-- A power of two from 1 to 16. -/
def width16 (n : Nat) : Bool := [1, 2, 4, 8, 16].contains n

/-- The queues of a kind that a tenant window owns, ascending (R333). -/
def ownedBy (s : State) (k : QKind) (w : Nat) : List Nat :=
  (List.range 64).filter fun q => s.is (qEnable k q) && s.get (qOwner k q) == 2 && s.get (qWindow k q) == w

/-- A mover or send queue (R235, R273, R333). -/
def queueOk (s : State) (k : QKind) (q : Nat) : Bool :=
  !s.is (qEnable k q) ||
  (inRange 4 8 (s.get (qDepthLog2 k q)) && s.get (qOwner k q) != 3 &&
   (s.get (qOwner k q) != 2 ||
    (let w := s.get (qWindow k q)
     s.get (qDepthLog2 k q) ≤ 6 && (ownedBy s k w).length ≤ 2 && bitsOf (s.rd (Reg.HRD_SLOT_WMASK (s.get (qTraffic k q) % 64))) w 1 == 1)))

/-- A Collar (R283). -/
def collarCfgOk (v floor : Nat) : Bool :=
  bitsOf v 56 1 == 0 || (floor ≤ bitsOf v 20 20 && bitsOf v 40 16 != 0 && bitsOf v 0 20 ≤ bitsOf v 20 20)

/-- A receive completion ring (R262, R336): its range lies in the shared region or in the host buffer region. -/
def rcqOk (s : State) (r : Nat) : Bool :=
  let v := s.rd (Reg.XPT_RCQ_BASE r)
  let a := bitsOf v 0 48
  let n := 32 * 2 ^ bitsOf v 49 5
  bitsOf v 54 1 == 0 ||
  (inRange 6 16 (bitsOf v 49 5) && bitsOf v 55 2 != 3 && a % 4096 == 0 &&
   if bitsOf v 48 1 == 1 then 0xE00000000 ≤ a && a + n ≤ 0x1000000000 else a + n ≤ s.get Fld.MOV_CTL_SHARED_MIB * 2 ^ 20)

/-- The value of an RWL register keeps the rules of its chapter. -/
def checkReg (s : State) (a : Nat) : Bool :=
  let f (lo w : Nat) : Nat := s.bitsAt a lo w
  if a = Reg.GLB_PERS ∨ a = Reg.COL_ENG_CFG then persOk s && f 0 5 ≤ 16 && f 8 5 ≤ 16
  else if a = Reg.RQT_CTL then
    inRange 5 255 (f 0 8) && inRange 5 255 (f 8 8) && 1 ≤ f 16 8 && 1 ≤ f 24 8 && 2 * 10 * f 16 8 ≤ 100 * f 24 8 &&
    1 ≤ f 32 8 && 2 * 10 * f 16 8 ≤ 100 * f 32 8 && 1 ≤ f 40 8 && (f 48 8 == 0 || 10 ≤ f 48 8)
  else if a = Reg.RQT_FETCH_CFG then inRange 1 1600 (f 0 16) && 1 ≤ f 16 4
  else if a = Reg.STM_PREFETCH_CTL then inRange 1 4 (f 0 3)
  else if a = Reg.STM_MIG_CTL then 8 ≤ f 0 8 && inRange 1 256 (f 16 9)
  else if inArray 0x030180 8 8 a then
    let n := regIndex 0x030180 8 a
    !fpartOn s n || ((fpartChans s n).1 % (fpartChans s n).2 == 0 && fpartsOk s)
  else if inArray 0x050080 8 8 a then width16 (f 0 5) && width16 (f 8 5) && (a != Reg.DAE_CLASS_CFG 0 || persOk s)
  else if inArray 0x051000 16 256 a then
    f 24 1 == 0 || (inRange 4 12 (f 16 4) && f 0 16 % 2 ^ f 16 4 == 0 && disjoint (jqRanges s))
  else if a = Reg.SCT_CTL then
    inRange 1 4 (f 0 4) && inRange 1 4 (f 4 3) && inRange 2 8 (f 8 4) && inRange 1 8 (f 12 4) && inRange 6 12 (f 16 4)
  else if inArray 0x060100 8 16 a then f 40 1 == 0 || (1 ≤ f 0 10 && !inRange 1 3 (f 36 4))
  else if a = Reg.TRC_CTL then inRange 6 14 (f 0 4) && 1 ≤ f 12 3
  else if inArray 0x070100 8 16 a then f 0 20 ≤ 1000000 && f 23 2 != 3 && f 25 2 != 3 && inRange 3 12 (f 35 4)
  else if a = Reg.FAB_CTL then 5 ≤ f 0 8 && 1 ≤ f 8 4 && 1 ≤ f 12 16
  else if inArray 0x080100 8 256 a || inArray 0x200400 8 256 a then
    let m := if a < 0x200000 then regIndex 0x080100 8 a else regIndex 0x200400 8 a
    m == s.member || !s.is (Fld.MOV_MEMBER_VALID m) || s.bitsAt (Reg.FAB_ROUTE m) 0 16 != 0
  else if a = Reg.KNL_CTL then
    2 ≤ f 0 4 && inRange 1 (f 0 4 - 1) (f 4 4) && 64 ≤ f 8 10 && 100 ≤ f 18 12 && 8 ≤ f 30 8 && inRange 4 (f 30 8 - 4) (f 38 8)
  else if a = Reg.LDG_CTL then f 0 16 == 0 || 100 ≤ f 0 16
  else if a = Reg.ISL_CTL then 16 ≤ f 0 16
  else if a = Reg.PWR_CTL then inRange 70 99 (f 0 8) && inRange 1 10 (f 8 4)
  else if a = Reg.SEC_CTL then inRange 10 60000 (f 0 16)
  else if a = Reg.HRD_CTL then inRange 8 14 (f 8 4) && 2 ≤ f 12 6
  else if a = Reg.HRD_CLASS_SLOT then (List.range 8).all fun c => 2 ≤ f (6 * c) 6
  else if inArray 0x150000 16 1024 a then 1 ≤ f 0 16 && (f 16 1 == 0 || 4192 ≤ f 40 24)
  else if a = Reg.SMP_CTL then inRange 8 4096 (f 0 13) && 10 ≤ f 16 16
  else if a = Reg.SMP_EMB_CFG then f 16 13 % 32 == 0 && f 16 13 ≤ 4096
  else if inArray 0x181000 16 16 a then f 7 1 == 0 || inRange 4 8 (f 0 4)
  else if a = Reg.MOV_CTL then 150 ≤ f 8 8 && inRange 20 1000 (f 16 10) && f 26 11 ≤ 1024
  else if inArray 0x201000 16 256 a || inArray 0x201008 16 256 a then
    let hi := s.rd (if a % 16 = 0 then a + 8 else a)
    s.bitsAt (if a % 16 = 0 then a else a - 8) 29 1 == 0 ||
      (inRange 12 52 (bitsOf hi 40 6) && bitsOf hi 0 40 % 2 ^ (bitsOf hi 40 6 - 12) == 0)
  else if inArray 0x202000 16 64 a then queueOk s .mov (regIndex 0x202000 16 a)
  else if inArray 0x401000 16 64 a then queueOk s .xpt (regIndex 0x401000 16 a)
  else if a = Reg.XPT_CTL then 5 ≤ f 0 8 && 1 ≤ f 8 4 && f 0 8 * f 8 4 ≤ 300 && 600 ≤ f 12 16
  else if inArray 0x400800 16 64 a then rcqOk s (regIndex 0x400800 16 a)
  else if a = Reg.COL_CTL then 100 ≤ f 0 16
  else if inArray 0x600100 8 16 a then 1 ≤ f 0 16 && 1 ≤ f 16 16
  else if inArray 0x610000 16 1024 a then collarCfgOk (s.rd a) 16
  else if inArray 0x610008 16 1024 a then collarCfgOk (s.rd a) 1024
  else if inArray 0x801000 16 256 a then f 0 2 != 2 || f 2 11 < (if f 19 1 == 1 then 8 else 128)
  else if inArray 0x801008 16 256 a then f 0 64 % 16 == 0
  else if inArray 0x802000 8 64 a then f 0 16 % 16 == 0 && f 16 10 % 16 == 0 && f 16 10 ≤ 512 && disjoint (twRanges s)
  else true

/-- A model record keeps its ranges (R23, R91, R124, R350); slots that share a SEED_SLOT share ROT_SEED. -/
def checkModel (s : State) (bs : List Byte) : Bool :=
  let m := modelOf bs
  let b := m.bytesPerPos
  let h := m.heads
  let dm := m.headDim * (if m.latent then 1 else 2)
  let kexp := signedOf 8 m.kexp
  inRange 1 1024 m.layers && m.headDim % 32 == 0 && inRange 1 512 m.headDim && inRange 6 8 m.rotLog2 && m.headDim % 2 ^ m.rotLog2 == 0 &&
  inRange 1 (16 * h) m.queryHeads && m.queryHeads % h == 0 && m.kvhLog2 ≤ 4 && (!m.latent || m.kvhLog2 == 0) &&
  m.kFmt ≤ 1 && m.vFmt ≤ 1 && inRange 1 32 m.lrRank && m.lrRank * dm ≤ 32768 && decide (-16 ≤ kexp ∧ kexp ≤ 15) &&
  inRange 1 (2 ^ 20) m.vocab && b ≤ 2048 && scentWhole m &&
  s.body.conf.models.all fun e => (modelOf e.2).seedSlot != m.seedSlot || (modelOf e.2).rotSeed == m.rotSeed
where
  /-- C and F of R89 are whole numbers: C = 128 / H components and F = d / C terms -/
  scentWhole (m : Model) : Bool := 128 % m.heads == 0 && m.headDim % (128 / m.heads) == 0

/-- Whether a tenant has live requests: at their home here, or with state on this chip (R350, R351; DEDUCED, log entry 24). -/
def tenantLive (s : State) (t : Nat) : Bool :=
  s.body.home.reqs.any (fun e => e.2.record.tenant == t && phaseLive e.2.record.phase) || s.body.locs.any fun e => e.2.tenant == t && (hasLeash e.2 || e.2.isMirror)

/-- A change of a model slot that a tenant with live requests uses, or of a live tenant's ENABLE or MODEL_SLOT, is refused. -/
def liveOk (old new : State) : Bool :=
  old.body.conf.tenants.all fun e => !tenantLive old e.1 ||
    (let r := leNat e.2
     old.modelRec (tenantModel r) == new.modelRec (tenantModel r) &&
     match new.tenantRec e.1 with
     | some n => (tenantEnabled n || !tenantEnabled r) && tenantModel n == tenantModel r
     | none => false)

/-- No window is named in two tenant records (R333). -/
def windowsOk (s : State) : Bool :=
  (List.range 64).all fun w => (s.body.conf.tenants.filter fun e => tenantWindow (leNat e.2) == some w).length ≤ 1

/-- The share of every work kind that an owned request's phase needs stays non-zero (R20). -/
def sharesOk (old new : State) : Bool := old.body.locs.all fun e =>
  match e.2.st with
  | .owner _ | .draining _ | .offering _ => match e.2.phase with
    | .prompting | .generating | .listening => new.hasShare e.2.phase
    | _ => true
  | _ => true

/-- What the configuration would be. -/
def tentative (s : State) (l : List Item) : State := l.foldl (fun t i => match i with
  | .reg a v => match regAt a with
    | some d => { t with regs := regPut t.regs a (withAcc d .rwl (t.rd a) v) }
    | none => t
  | .model m bs => { t with body := { t.body with conf := { t.body.conf with models := putRecord t.body.conf.models m bs } } }
  | .tenant k bs => { t with body := { t.body with conf := { t.body.conf with tenants := putRecord t.body.conf.tenants k bs } } }) s

/-- A staged item's own checks. -/
def itemOk (old new : State) : Item → Bool
  | .reg a _ => checkReg new a && (a != Reg.GLB_PERS || sharesOk old new)
  | .model _ bs => checkModel new bs
  | .tenant _ _ => windowsOk new

/-- The whole configuration's checks. -/
def configOk (old new : State) : Bool :=
  (new.regs.all fun e => !isRwl e.1 || checkReg new e.1) && persOk new && sharesOk old new &&
  (new.body.conf.models.all fun e => checkModel new e.2) && windowsOk new && liveOk old new

/-- CONFIG_COMMIT (R352): the first faulty staged item gives DETAIL, the first item where none is faulty by itself. -/
def opCommit (ref : CmdRef) (c : Cmd) : Act := look fun s =>
  let v := c.arg 0 32
  let l := s.body.conf.staged
  let new := tentative s l
  if s.body.conf.run.isSome || s.body.plat.fwAct.isSome || s.is Fld.GLB_STATUS_CFG_PENDING then fin ref St.busyRetry
  else if v ≤ s.get Fld.GLB_CFG_VER_RUNNING then finInvalid ref 0
  else if !configOk s new then finInvalid ref ((l.findIdx? fun i => !itemOk s new i).getD 0)
  else startRun { ref := some ref, version := v, items := l, confirm := c.arg 8 64, heel := false, auto := false }

def execConfigCommit (src : Src) (s : State) := done (runOp 0x0104 src opCommit) s

end Sys2Proof.Machine
end

