-- ==== Sys2Proof/Machine/HostCmds.lean ====
section
/-! DEFINITION. The commands of a host that open the interface, ask about tenants, admit and close requests, make shared prefixes, load
pages and embedding rows, and post receive buffers (R14, 01_request_life.md; R33 to R35, 02_state_memory.md; R164, 06_sampler.md; R171,
07_ownership_and_recovery.md; R257, R258, 09_transport_and_links.md; R345 to R358, 12_host_interface.md). -/

namespace Sys2Proof.Machine

/-! ### The interface (R347) -/

/-- The minor version agreed on: the smaller one. -/
def agreedMinor (s : State) (c : Cmd) : Nat := min (c.arg 1 8) (s.get Fld.GLB_VERSION_IFACE_MINOR)

/-- A source has negotiated a minor version. -/
def setIface (src : Src) (minor : Nat) : Act := look fun s => match src with
  | .ring r => acts [setRing r { s.ring r with iface := some minor }, setFld (Fld.MBX_RING_PTR_IFACE_OPEN r) 1]
  | .mailbox => setMbox { s.body.mbox with iface := some minor }

/-- IFACE_OPEN: with major version 3 the smaller minor version is agreed. -/
def opIfaceOpen (ref : CmdRef) (c : Cmd) : Act := look fun s =>
  if c.arg 0 8 ≠ s.get Fld.GLB_VERSION_IFACE_MAJOR then fin ref St.versionMismatch
  else acts [setIface ref.src (agreedMinor s c),
             finOk ref (leBytes 1 (c.arg 0 8) ++ leBytes 1 (agreedMinor s c) ++ leBytes 2 0 ++ leBytes 4 (s.rd Reg.GLB_VERSION))]

/-- The RESULT of IDENTIFY, and its output: a window's ring also gets its tenant's record. -/
def identifyResult (s : State) : List Byte :=
  leBytes 2 s.chipId ++ leBytes 1 s.member ++ leBytes 1 (s.get Fld.GLB_IDENT_STEPPING) ++ leBytes 4 (s.get Fld.GLB_CFG_VER_RUNNING)
    ++ leBytes 8 (s.rd Reg.GLB_SERIAL)
def identifyOut (s : State) (src : Src) : List Byte := match srcWindow src with
  | some w => ((s.windowTenant w).bind fun t => tget s.body.conf.tenants t).getD []
  | none => []

/-- IDENTIFY. -/
def opIdentify (ref : CmdRef) (c : Cmd) : Act := look fun s => finOut ref c (identifyResult s) (identifyOut s ref.src) nop

/-- The output of TENANT_QUERY: the tenant's record and its window's areas STM to KNL. -/
def tenantReport (s : State) (t : Nat) : List Byte := trecBytes s t ++ (List.range 192).flatMap fun i => leBytes 8 (treg s t (0x1000 + 8 * i))

/-- TENANT_QUERY. -/
def opTenantQuery (ref : CmdRef) (c : Cmd) : Act := look fun s => finOut ref c [] (tenantReport s (c.arg 0 16)) nop

/-! ### Admission (R11, R171, R188, R335) -/

/-- The 4 KiB units a token log takes (R174, R335). -/
def logUnits (maxPositions : Nat) : Nat := ceilDiv (4 * (maxPositions + 16) + 8192) 4096

/-- The logs in the pool: offset and length. -/
def logsLive (s : State) : List (Nat × Nat) :=
  (s.body.home.reqs.filter fun e => phaseLive e.2.record.phase).map fun e => (e.2.record.logPtr, 4096 * logUnits e.2.record.maxPositions)

/-- Where a log of so many bytes finds room in the pool: the lowest place (DESIGN CHOICE, log entry 5). -/
def placeLog (s : State) (n : Nat) : Option Nat :=
  let l := logsLive s
  let free (a : Nat) : Bool := a + n ≤ 0xE00000000 && l.all fun e => a + n ≤ e.1 || e.1 + e.2 ≤ a
  match ((0x100000000 :: l.map fun e => e.1 + e.2).filter free) with
  | [] => none
  | a :: t => some (t.foldl min a)

/-- The lowest slot whose last request has ended (DESIGN CHOICE, log entry 5). -/
def admitSlot (s : State) : Option Nat :=
  let used := (s.body.home.reqs.filter fun e => phaseLive e.2.record.phase && handleHome e.1 == s.chipId).map fun e => handleSlot e.1
  firstFrom (fun n => !used.contains n) (min 65536 (used.length + 1)) 0

/-- The incarnation after one: never zero (R171). -/
def nextInc (n : Nat) : Nat := if 2 ^ 32 ≤ n + 1 then 1 else n + 1

/-- The prefixes a REQ_ADMIT names: here, of its tenant, their length a multiple of P (R33, R34). Two prefixes cover the positions of
the longer (PRESUMED, log entry 25). -/
def admitPrefixes (s : State) (t : Nat) (m : Model) (hs : List Nat) : Option (List Prefix) :=
  let l := hs.map s.prefixOf
  if l.any Option.isNone then none
  else
    let ps := l.filterMap id
    if ps.all fun p => p.tenant == t && p.positions % 2 ^ m.pLog2 == 0 then some ps else none

/-- The longest prefix of a list. -/
def longest (l : List Prefix) : Option Prefix := match l with
  | [] => none
  | p :: ps => some (ps.foldl (fun a b => if a.positions < b.positions then b else a) p)

/-- The handle of the next request of a slot (R171). -/
def admitHandle (s : State) (slot : Nat) : Nat := mkHandle s.chipId slot (nextInc ((tget s.body.home.incs slot).getD 0))

/-- The position limit a REQ_ADMIT asks for; 0 asks for the default of 32,768 (R28; DEDUCED, log entry 26). -/
def admitMax (c : Cmd) : Nat := if c.arg 4 32 = 0 then 32768 else c.arg 4 32

/-- The state mirror a REQ_ADMIT names. -/
def admitMirror (c : Cmd) : Option Nat := if c.arg 3 8 % 2 = 1 then some (c.arg 12 16) else none

/-- The record of a newly admitted request (R9, R171, R172). -/
def admitRecord (s : State) (c : Cmd) (slot log pos : Nat) : Rec :=
  { handle := admitHandle s slot, phase := .admitted, prePhase := .admitted, targetPhase := .admitted, cls := c.arg 2 8, tenant := c.arg 0 16,
    mirrored := (admitMirror c).isSome, replayPending := false, replaying := false, late := false, mode := 0, epoch := 1,
    owner := some s.chipId, receiver := 0, stateMirror := (admitMirror c).getD 0, pageListRef := Config.free s.body.fresh, positions := pos,
    maxPositions := admitMax c, budgetUs := c.arg 8 32, budgetTick := s.body.tick, logPtr := log, log := [], turnRecs := [], turns := 0,
    logStep := 0, logCount := 0, lastTokens := [], holders := [], replayFrom := 0, replayTo := 0, mirrorPos := 0, prefix0 := c.arg 16 64,
    prefix1 := c.arg 24 64, prefixPos := pos }

/-- Its Leash state at the home, which is its owner at epoch 1; its page lists name the pages of the longest prefix. -/
def admitLoc (s : State) (c : Cmd) (m : Model) (ps : List Prefix) (pos : Nat) : Loc :=
  { st := .owner 1, epoch := 1, home := s.chipId, phase := .admitted, cls := c.arg 2 8, tenant := c.arg 0 16, maxPositions := admitMax c,
    budget := c.arg 8 32, budgetTick := s.body.tick, listRef := Config.free s.body.fresh,
    layers := (List.range m.layers).map fun l => (l, { pages := ((longest ps).bind fun p => tget p.pages l).getD [], count := pos }),
    stateMirror := admitMirror c, prefix0 := c.arg 16 64, prefix1 := c.arg 24 64, prefixPos := pos }

/-- A request is admitted: its record, its Leash state, its references on the prefixes it names, the requests ledger. -/
def admitReq (s : State) (c : Cmd) (m : Model) (ps : List Prefix) (slot log pos : Nat) : Act :=
  let h := admitHandle s slot
  let t := c.arg 0 16
  acts [drawFree,
        onHome (fun x => { x with incs := tput x.incs slot (handleInc h),
                                  reqs := x.reqs.filter fun e => !(handleHome e.1 == s.chipId && handleSlot e.1 == slot) }),
        putReq h { record := admitRecord s c slot log pos, replayChip := 0 }, setLoc h (admitLoc s c m ps pos),
        eff .reqAdmit, fun s => [.treg (tkey t TReg.RQT_TLIVE) (s.trd t TReg.RQT_TLIVE + 1)],
        each ps (fun p => joinPrefix h p.handle)]

/-- REQ_ADMIT. -/
def opReqAdmit (ref : CmdRef) (c : Cmd) : Act := look fun s =>
  let t := c.arg 0 16
  match s.tenantRec t, s.modelOfTenant t with
  | some r, some m =>
    match admitPrefixes s t m ([c.arg 16 64, c.arg 24 64].filter (· != 0)) with
    | none => finInvalid ref 6
    | some ps =>
      let pos := ((longest ps).map (·.positions)).getD 0
      if s.homeMode = 2 then fin ref St.busyRetry
      else if !tenantEnabled r then finInvalid ref 0
      else if admitMax c < pos then finInvalid ref 3
      else if (admitMirror c).any fun x => !s.inPod x || x == s.chipId then finInvalid ref 5
      else match admitSlot s, placeLog s (4096 * logUnits (admitMax c)) with
        | some slot, some log =>
          acts [admitReq s c m ps slot log pos, homeFin ref St.ok (leBytes 8 (admitHandle s slot) ++ leBytes 8 log)]
        | _, _ => fin ref St.noResource
  | _, _ => finInvalid ref 0

/-- REQ_CLOSE (R13, R14). -/
def opReqClose (ref : CmdRef) (c : Cmd) : Act :=
  let h := c.arg 0 64
  withReq ref h fun q =>
    if !phaseLive q.record.phase then homeFin ref St.ok []
    else if q.closing then setReq h { q with closeCmds := q.closeCmds ++ [ref] }
    else acts [setReq h { q with closing := true, closeCmds := [ref] }, sendClose h]

/-! ### Shared prefixes (R33 to R35, R356) -/

/-- The first n pages of each layer, where all are sealed and lie on this chip; layer by layer. -/
def prefixSource (s : State) (c : Loc) (n : Nat) : Option (List (Nat × List Nat)) :=
  let l := c.layers.map fun e => (e.1, e.2.pages.take n)
  let ok (r : Nat) : Bool := refChip r == s.chipId && match placeOf s r with
    | .near k | .far k => ((s.frame k).map fun f => f.hdr.isSealed) == some true
    | _ => false
  if l.all fun e => e.2.length == n && e.2.all ok then some l else none

/-- A page becomes a shared prefix's: SHARED, and the prefix its owner, where it is not a prefix's already. -/
def sharePage (h r : Nat) : Act := look fun s =>
  let mark (k : Nat) : Act := modHdr k fun x => if x.shared then x else { x with shared := true, owner := h }
  match s.resolve r with
  | some k => acts [mark k, match backingOf s k with | some b => mark b | none => nop]
  | none => nop

/-- The handle of the next shared prefix of a slot. -/
def prefixHandle (s : State) (i : Nat) : Nat := mkHandle s.chipId i (nextInc ((tget s.body.pages.prefixIncs i).getD 0))

/-- A shared prefix of n positions comes to be in slot i, from pages of a request: the prefix holds a reference on each page, the host
one, and the request uses it (R34, R356). -/
def makePrefix (s : State) (h : Nat) (q : HomeReq) (i n : Nat) (pages : List (Nat × List Nat)) : Act :=
  let r := q.record
  let ph := prefixHandle s i
  let p : Prefix := { handle := ph, tenant := r.tenant, positions := n, pages := pages, users := [h] }
  let a0 := if r.prefix0 = 0 then ph else r.prefix0
  let a1 := if r.prefix0 = 0 then r.prefix1 else ph
  acts [onPages (fun x => { x with prefixIncs := tput x.prefixIncs i (handleInc ph), prefixes := tput x.prefixes i p }),
        each p.refs (fun r => acts [sharePage ph r, takeRef r, takeRef r]),
        modLoc h (fun l => { l with prefix0 := a0, prefix1 := a1, prefixPos := max l.prefixPos n }),
        putReq h { q with record := { r with prefix0 := a0, prefix1 := a1, prefixPos := max r.prefixPos n } }]

/-- The lowest free slot of a shared prefix. -/
def prefixSlot (s : State) : Option Nat := firstBelow 4096 fun i => (tget s.body.pages.prefixes i).isNone

/-- PREFIX_CREATE. -/
def opPrefixCreate (ref : CmdRef) (c : Cmd) : Act :=
  let h := c.arg 0 64
  let n := c.arg 8 32
  withLive ref h fun q => look fun s =>
    match s.loc h, s.modelOfTenant q.record.tenant with
    | some l, some m =>
      if (q.record.phase != .admitted && q.record.phase != .listening) || q.record.owner != some s.chipId || l.st != .owner q.record.epoch then
        finInvalid ref 0
      else if n = 0 ∨ n % 2 ^ m.pLog2 ≠ 0 then finInvalid ref 1
      else match prefixSource s l (n / 2 ^ m.pLog2) with
        | none => finInvalid ref 1
        | some pages =>
          match prefixSlot s with
          | none => fin ref St.noResource
          | some i =>
            if q.record.prefix0 ≠ 0 ∧ q.record.prefix1 ≠ 0 then fin ref St.noResource
            else acts [makePrefix s h q i n pages, homeFin ref St.ok (leBytes 8 (prefixHandle s i))]
    | _, _ => finInvalid ref 0

/-- PREFIX_RELEASE: the host's reference on each page is dropped (R34). -/
def opPrefixRelease (ref : CmdRef) (c : Cmd) : Act := look fun s =>
  let h := c.arg 0 64
  match s.prefixOf h with
  | none => finInvalid ref 0
  | some p =>
    if !p.hostRef then finInvalid ref 0
    else acts [each p.refs dropRef, modPrefix h (fun p => { p with hostRef := false }), reapPrefix h, fin ref St.ok]

/-- A prefix page is brought into near state, its basis with it, and pinned there; none where there is no room. -/
def pinPage (s : State) (p : Prefix) (l i r : Nat) : Option Act :=
  let group := s.group p.tenant
  let pin (k : Nat) : Act := modHdr k fun x => { x with pinned := true }
  match placeOf s r with
  | .near k => some (pin k)
  | .far fk => match s.frame fk with
    | none => none
    | some f =>
      let basis : Option Act :=
        if f.hdr.lowRank then match s.resolve f.hdr.lrBasisRef with
          | some b => (copyBasis s b 0 (nearBasisPlace f.hdr.owner l f.hdr.basisSeq group .sharedPrefix)).map (·.2)
          | none => some nop
        else some nop
      basis.bind fun a1 => (placeNear (run a1 s) p.handle l i .sharedPrefix group 4).map fun q =>
        acts [a1, q.2, takeFrame q.1 { hdr := stagingHdr s p.handle l p.tenant, kind := .sharedPrefix }, promote fk q.1 .sharedPrefix, pin q.1]
  | _ => none

/-- Every page of a list is pinned, or none. -/
def pinPages (p : Prefix) : List (Nat × Nat × Nat) → State → Option Act
  | [], _ => some nop
  | x :: rest, s => match pinPage s p x.1 x.2.1 x.2.2 with
    | none => none
    | some a => (pinPages p rest (run a s)).map fun b => acts [a, b]

/-- A page is not pinned any more. -/
def unpinPage (r : Nat) : Act := look fun s =>
  match s.resolve r with
  | some k => modHdr k fun x => { x with pinned := false }
  | none => nop

/-- The pages of a prefix: layer, index, reference. -/
def Prefix.places (p : Prefix) : List (Nat × Nat × Nat) := p.pages.flatMap fun e => e.2.zipIdx.map fun x => (e.1, x.2, x.1)

/-- PREFIX_PIN: every page is brought into near state and kept there, or given free again (R35). Of a demoted prefix, whose pages are in
the Kennel, the command may be given again once they have come back (DEDUCED, log entry 27). -/
def opPrefixPin (ref : CmdRef) (c : Cmd) : Act := look fun s =>
  let h := c.arg 0 64
  match s.prefixOf h with
  | none => finInvalid ref 0
  | some p =>
    if c.arg 8 8 = 0 then acts [each p.refs unpinPage, modPrefix h (fun p => { p with pinned := false }), fin ref St.ok]
    else if p.refs.any fun r => refTier r == 2 then fin ref St.busyRetry
    else match pinPages p p.places s with
      | none => fin ref St.noResource
      | some a => acts [a, modPrefix h (fun p => { p with pinned := true }), fin ref St.ok]

/-! ### Loading pages and embedding rows (R357, R358) -/

/-- The pages of a PAGE_LOAD payload: each record and its data; none where the payload does not hold exactly so many. -/
def loadPages : Nat → List Byte → Option (List (ImgPage × Nat))
  | 0, bs => if bs.isEmpty then some [] else none
  | n + 1, bs =>
    let r := pageOfRecord [] (bs.take 96)
    let len := leNat ((bs.drop 0x10).take 2)
    let sl := leNat ((bs.drop 0x12).take 2)
    let p := { r.1 with bytes := (bs.drop 96).take len, scales := (bs.drop (96 + len)).take sl }
    if bs.length < 96 + len + sl then none else (loadPages n (bs.drop (96 + len + sl))).map fun l => (p, r.2) :: l

/-- A page of a PAGE_LOAD is as it must be: sealed and full, or frozen and last; whole, of full rank, in a stored format, its CRC right. -/
def loadPageOk (m : Model) (layer first : Nat) (last : Bool) (p : ImgPage) (crc : Nat) : Bool :=
  let size := 2 ^ m.pLog2
  let elems := p.count * m.bytesPerPos
  p.layer == layer && p.first == first && !p.missing && !p.lowRank && p.kFmt ≤ 3 && p.vFmt ≤ 3 && (p.kFmt ≤ 1) == (p.vFmt ≤ 1) &&
  (if p.isSealed then !p.frozen && p.count == size else p.frozen && last && 1 ≤ p.count && p.count ≤ size) &&
  p.bytes.length == (if p.kFmt ≤ 1 then elems else elems / 2) && p.scales.length == elems / 32 && p.crc == crc

/-- The pages of a PAGE_LOAD, of so many positions, follow those of a layer; a state mirror gets them too (R188). -/
def appendPages (h layer : Nat) (refs : List Nat) (total : Nat) : Act := look fun s =>
  let n := (((s.loc h).map fun l => (l.layer layer).pages.length)).getD 0
  acts [modLayer h layer (fun y => { y with pages := y.pages ++ refs, count := y.count + total }),
        each (List.range refs.length) (fun i => mirrorPage h layer (n + i))]

/-- The positions of a list of pages. -/
def pagePositions (ps : List (ImgPage × Nat)) : Nat := (ps.map fun e => e.1.count).foldl (· + ·) 0

/-- The pages of a PAGE_LOAD are as they must be, after the positions a layer has, and within the request's limit. -/
def loadOk (m : Model) (l : Loc) (layer : Nat) (ps : List (ImgPage × Nat)) : Bool :=
  let y := l.layer layer
  let size := 2 ^ m.pLog2
  (ps.zipIdx.all fun e => loadPageOk m layer (y.count + size * e.2) (e.2 + 1 == ps.length) e.1.1 e.1.2)
    && (ps.isEmpty || y.count % size == 0) && y.count + pagePositions ps ≤ l.maxPositions

/-- The pages of a PAGE_LOAD as pages to be put in place. -/
def loadImage (m : Model) (ps : List (ImgPage × Nat)) : List BackPage :=
  ps.map fun e => { page := e.1, index := e.1.first / 2 ^ m.pLog2, spans := [], lost := false }

/-- PAGE_LOAD: all pages or none. A page record's DATA_OFFSET is not used, its data following it (DEDUCED, log entry 28). -/
def opPageLoad (ref : CmdRef) (c : Cmd) : Act :=
  let h := c.arg 0 64
  let layer := c.arg 8 16
  withLive ref h fun q => look fun s =>
    match s.loc h, s.modelOfTenant q.record.tenant with
    | some l, some m =>
      if (q.record.phase != .admitted && q.record.phase != .listening) || l.st != .owner q.record.epoch then finInvalid ref 0
      else if m.layers ≤ layer then finInvalid ref 1
      else match loadPages (c.arg 10 16) (cmdInput s ref.src c) with
        | none => finInvalid ref 2
        | some ps =>
          if !loadOk m l layer ps then finInvalid ref 2
          else match restorePages s h l.tenant m [] (loadImage m ps) with
            | none => fin ref St.noResource
            | some (refs, a) =>
              acts [a, appendPages h layer (refs.map (·.2)) (pagePositions ps), finOk ref (leBytes 4 ((l.layer layer).count + pagePositions ps))]
    | _, _ => finInvalid ref 0

/-- The far frames that rows of the embedding slice table still need; none where there is no room. -/
def embFrames : List Nat → State → Option Act
  | [], _ => some nop
  | i :: rest, s =>
    if (tget s.body.sampling.emb i).isSome then embFrames rest s
    else match placeFar s .generation 0 with
      | none => none
      | some (k, a) =>
        let act := acts [a, takeFrame k { hdr := { storedLen := 32768 }, kind := .generation },
                         clearMem (payloadAt k) 32768, onSmp fun x => { x with emb := tput x.emb i k }]
        (embFrames rest (run act s)).map fun b => acts [act, b]

/-- The groups of rows of the embedding slice table that a range of rows touches, one frame each. -/
def embGroups (per first rows : Nat) : List Nat :=
  if rows = 0 then [] else (List.range ((first + rows - 1) / per - first / per + 1)).map (first / per + ·)

/-- Rows of w bytes are stored in the embedding slice table. -/
def storeRows (w first rows : Nat) (bs : List Byte) : Act := each (List.range rows) fun i => look fun s =>
  match tget s.body.sampling.emb ((first + i) / (32768 / w)) with
  | some k => store (payloadAt k + (first + i) % (32768 / w) * w) ((bs.drop (i * w)).take w)
  | none => nop

/-- The vocabulary that bounds the rows: the largest of the model records. -/
def largestVocab (s : State) : Nat := (s.body.conf.models.map fun e => (modelOf e.2).vocab).foldl max 0

/-- EMB_LOAD (R164, R358). The VOCAB that bounds the rows is the largest of the model records (DEDUCED, log entry 29). -/
def opEmbLoad (ref : CmdRef) (c : Cmd) : Act := look fun s =>
  let w := sliceSize s
  let first := c.arg 0 32
  let rows := c.arg 4 32
  let bs := cmdInput s ref.src c
  if w = 0 ∨ bs.length ≠ rows * w then finInvalid ref 1
  else if rows ≠ 0 ∧ largestVocab s < first + rows then finInvalid ref 0
  else
    match embFrames (embGroups (32768 / w) first rows) s with
    | none => fin ref St.noResource
    | some a => acts [a, storeRows w first rows bs, fin ref St.ok]

/-! ### Receive buffers (R257, R258) -/

/-- A range lies where a receive buffer may: in the shared region or in the host buffer region (R336). -/
def bufRange (s : State) (hostwin : Bool) (a n : Nat) : Bool :=
  a % 64 == 0 && if hostwin then 0xE00000000 ≤ a && a + n ≤ 0x1000000000 else a + n ≤ s.get Fld.MOV_CTL_SHARED_MIB * 2 ^ 20

/-- A window's command may name a buffer: FREE, or its own (R354). -/
def bufMine (w : Option Nat) (b : Buf) : Bool := match w with
  | none => true
  | some w => b.st == .free || (b.owner == 2 && b.window == w)

/-- Whether a window owns a receive completion ring. -/
def rcqMine (s : State) (w : Option Nat) (r : Nat) : Bool := match w with
  | none => true
  | some w => s.bitsAt (Reg.XPT_RCQ_BASE r) 55 2 == 2 && s.bitsAt (Reg.XPT_RCQ_BASE r) 57 6 == w

/-- The buffer that a BUF_POST from a tenant window or from PF0 posts. -/
def postedBuf (b : Buf) (w : Option Nat) (c : Cmd) : Buf :=
  { b with addr := c.arg 8 64, length := c.arg 4 32, gen := (b.gen + 1) % 65536, st := .posted, hostwin := c.arg 19 8 == 1,
           owner := if w.isSome then 2 else 1, window := w.getD 0, arrival := c.arg 16 16, rcq := c.arg 18 8, ctx := none }

/-- A posted or filling buffer is withdrawn: it is free, under the next generation. -/
def freeBuf (ref : CmdRef) (id : Nat) : Act := look fun s =>
  let b := s.buf id
  acts [setBuf id { b with st := .free, gen := (b.gen + 1) % 65536, ctx := none }, eff .bufWithdraw, finOk ref (leBytes 2 ((b.gen + 1) % 65536))]

/-- BUF_POST. -/
def opBufPost (ref : CmdRef) (c : Cmd) : Act := look fun s =>
  let id := c.arg 0 32
  let len := c.arg 4 32
  let b := s.buf id
  let w := srcWindow ref.src
  let rcq := c.arg 18 8
  let host := c.arg 19 8 == 1
  let named := s.get (Fld.XPT_RCQ_PTR_BUFFERS rcq) - (if b.st == .complete && b.rcq == rcq then 1 else 0)
  if !bufMine w b || !rcqMine s w rcq then fin ref St.denied
  else if b.st != .free && b.st != .complete then finInvalid ref 0
  else if !(1 ≤ len && len ≤ 16777216) then finInvalid ref 1
  else if !bufRange s host (c.arg 8 64) len then finInvalid ref 2
  else if !s.is (Fld.XPT_RCQ_BASE_ENABLE rcq) then finInvalid ref 4
  else if 2 ^ s.get (Fld.XPT_RCQ_BASE_SIZE_LOG2 rcq) ≤ named then fin ref St.noResource
  else acts [when (b.st == .complete) (dropFld (Fld.XPT_RCQ_PTR_BUFFERS b.rcq) 1), bumpFld (Fld.XPT_RCQ_PTR_BUFFERS rcq) 1,
             setBuf id (postedBuf b w c), eff .bufPost, finOk ref (leBytes 2 ((b.gen + 1) % 65536))]

/-- BUF_WITHDRAW. -/
def opBufWithdraw (ref : CmdRef) (c : Cmd) : Act := look fun s =>
  let id := c.arg 0 32
  let b := s.buf id
  if !bufMine (srcWindow ref.src) b then fin ref St.denied
  else match b.st with
    | .free => finInvalid ref 0
    | .complete => acts [dropFld (Fld.XPT_RCQ_PTR_BUFFERS b.rcq) 1, setBuf id { b with st := .free }, finOk ref (leBytes 2 b.gen)]
    | .posted => acts [dropFld (Fld.XPT_RCQ_PTR_BUFFERS b.rcq) 1, freeBuf ref id]
    | .filling => acts [dropFld (Fld.XPT_RCQ_PTR_BUFFERS b.rcq) 1, abandonFill id b .posted, freeBuf ref id]

def execIfaceOpen (src : Src) (s : State) := done (runOp 0x0101 src opIfaceOpen) s
def execIdentify (src : Src) (s : State) := done (runOp 0x0102 src opIdentify) s
def execTenantQuery (src : Src) (s : State) := done (runOp 0x0201 src opTenantQuery) s
def execReqAdmit (src : Src) (s : State) := done (runOp 0x0301 src opReqAdmit) s
def execReqClose (src : Src) (s : State) := done (runOp 0x0303 src opReqClose) s
def execPrefixCreate (src : Src) (s : State) := done (runOp 0x0401 src opPrefixCreate) s
def execPrefixRelease (src : Src) (s : State) := done (runOp 0x0402 src opPrefixRelease) s
def execPrefixPin (src : Src) (s : State) := done (runOp 0x0404 src opPrefixPin) s
def execPageLoad (src : Src) (s : State) := done (runOp 0x0405 src opPageLoad) s
def execEmbLoad (src : Src) (s : State) := done (runOp 0x0406 src opEmbLoad) s
def execBufPost (src : Src) (s : State) := done (runOp 0x0601 src opBufPost) s
def execBufWithdraw (src : Src) (s : State) := done (runOp 0x0602 src opBufWithdraw) s

end Sys2Proof.Machine
end

