-- ==== Sys2Proof/Machine/RegWrite.lean ====
section
/-! DEFINITION. Writes of the host to registers, of PF0 and of a tenant window, and its accesses to the host window (R7, 00_scope.md;
R325, R329 to R334, R336, R360, 12_host_interface.md; R379, 13_resilience.md). -/

namespace Sys2Proof.Machine

/-! ### One register -/

/-- Which part of a register a write covers. -/
inductive Part where
  | whole | low | high
deriving DecidableEq, Repr

/-- The bits written, in their place, with zeros elsewhere; and with the register's old bits elsewhere. -/
def Part.only (p : Part) (v : Nat) : Nat := match p with
  | .whole => v % 2 ^ 64
  | .low => v % 2 ^ 32
  | .high => v % 2 ^ 32 * 2 ^ 32
def Part.ovr (p : Part) (old v : Nat) : Nat := match p with
  | .whole => v % 2 ^ 64
  | .low => old / 2 ^ 32 * 2 ^ 32 + v % 2 ^ 32
  | .high => v % 2 ^ 32 * 2 ^ 32 + old % 2 ^ 32

/-- A write by the access types of the register's fields (R7): what is read-only or reserved is kept; bits written 1 of a
write-1-to-clear field are cleared and of a write-1-to-set field set; a field locked after the first commit takes the value only
before it. -/
def typedWrite (d : RegDesc) (a : Nat) (p : Part) (v : Nat) : Act := look fun s =>
  let old := s.rd a
  let v1 := p.only v
  let clear := accMask d .rw1c &&& v1
  let set := accMask d .rw1s &&& v1
  let kept := old ^^^ (old &&& clear)
  let new := withAcc d .rw (kept ||| set) (p.ovr old v)
  acts [when (new != old) (setReg a new),
        when (!s.body.conf.locked && d.fields.any fun f => f.acc == .rwl) (setConfigReg a (p.ovr old v))]

/-- The register of an array whose write is a command: the ring registers (R342, R343), the doorbells (R70), SCT_CAL_REQ (R107) and
BRK_OVF_REARM (R379). -/
def commandWrite (a : Nat) (p : Part) (v : Nat) : Option Act :=
  let low := p.only v % 2 ^ 32
  let atLow (x : Act) : Option Act := some (match p with
    | .high => nop
    | _ => x)
  if inArray 0x010100 32 144 a then some (look fun s => ringCfgWrite (regIndex 0x010100 32 a) (p.ovr (s.rd a) v))
  else if inArray 0x010110 32 144 a then atLow (actRingDoorbell (regIndex 0x010110 32 a) (low % 4096))
  else if inArray 0x010118 32 144 a then atLow (actCplHeadWrite (regIndex 0x010118 32 a) (low % 4096))
  else if inArray 0x052000 8 256 a then atLow (actJobDoorbell (regIndex 0x052000 8 a) (low % 4096))
  else if inArray 0x060020 8 2 a then some (actCalReqWrite (regIndex 0x060020 8 a) (p.only v))
  else if a = Reg.BRK_OVF_REARM then atLow (eff (.barkRearm low))
  else if inArray 0x181200 8 16 a then atLow (actSmpDoorbell (regIndex 0x181200 8 a) (low % 256))
  else if inArray 0x202400 8 64 a then atLow (qDoorbell .mov (regIndex 0x202400 8 a) (low % 256))
  else if inArray 0x401400 8 64 a then atLow (qDoorbell .xpt (regIndex 0x401400 8 a) (low % 256))
  else none

/-- A write of part of the register at an address. -/
def writePart (d : RegDesc) (a : Nat) (p : Part) (v : Nat) : Act := (commandWrite a p v).getD (typedWrite d a p v)

/-- A write of four bytes to the register space: a register of that size, or half of a larger one; else nothing (R332). -/
def writeHalf (a v : Nat) : Act :=
  match regAt a with
  | some d => writePart d a (if d.size = 4 then .whole else .low) (v % 2 ^ 32)
  | none => match regAt (a - 4) with
    | some d => if a % 8 = 4 && d.size == 8 then writePart d (a - 4) .high v else nop
    | none => nop

/-! ### Slots and counters in the register space -/

/-- Bytes stored to the slots of sample queue q, at an offset in its slots (R148). -/
def smpSlotStore (q o : Nat) (d : List Byte) : Act := look fun s =>
  if sqOpen s q && (o + d.length + 63) / 64 ≤ s.sqDepth q then store (Mem.smpSlot q 0 + o) d else smpRange

/-- Bytes stored to the slots of a mover or send queue (R224, R253). -/
def qSlotStore (k : QKind) (q o : Nat) (d : List Byte) : Act := look fun s =>
  if qOpen s k q && (o + d.length + 63) / 64 ≤ s.qDepth k q then store (k.slot q 0 + o) d else k.range

/-- A write of bytes to the slots or counters of PF0's register space, where an address lies in them. -/
def blockStore (a : Nat) (d : List Byte) : Option Act :=
  let within (base queues : Nat) : Bool := base ≤ a && a < base + 0x4000 * queues
  if within 0x190000 16 then some (smpSlotStore ((a - 0x190000) / 0x4000) ((a - 0x190000) % 0x4000) d)
  else if within 0x210000 64 then some (qSlotStore .mov ((a - 0x210000) / 0x4000) ((a - 0x210000) % 0x4000) d)
  else if within 0x410000 64 then some (qSlotStore .xpt ((a - 0x410000) / 0x4000) ((a - 0x410000) % 0x4000) d)
  else if 0x900000 ≤ a ∧ a < 0x900000 + 32 * 65536 then some (acnStore none (a - 0x900000) d)
  else none

/-- A write of 4 or 8 bytes to PF0's register space, at an address that is a multiple of its size: before the firmware is ready only to the
CXL blocks (R337); of any other size or alignment, nothing. -/
def regWrite (a size v : Nat) : Act := look fun s =>
  if !(size == 4 || size == 8) || a % size != 0 || !regServed s a then nop
  else match blockStore a (leBytes size v) with
    | some x => x
    | none =>
      if size = 4 then writeHalf a v
      else match regAt a with
        | some d => if d.size = 8 then writePart d a .whole v else acts [writeHalf a v, writeHalf (a + 4) (v / 2 ^ 32)]
        | none => acts [writeHalf a v, writeHalf (a + 4) (v / 2 ^ 32)]

/-- The same through aperture 4, which leaves the SEC block alone (14_security.md, Views and the test port). -/
def apertureWrite (a size v : Nat) : Act :=
  if 0x0E0000 ≤ a ∧ a < 0x0F0000 then acts [count Reg.SEC_AP4_DISCARD 1, raise Blk.sec 5] else regWrite a size v

/-! ### Tenant windows (R332, R333) -/

/-- The ring register of PF0 that an offset of a window's ring area shows. -/
def windowRingReg (w o : Nat) : Option Nat :=
  if o < 0x20 then some (Reg.MBX_RING_CFG (16 + 2 * w) + o)
  else if 0x40 ≤ o ∧ o < 0x60 then some (Reg.MBX_RING_CFG (17 + 2 * w) + (o - 0x40))
  else none

/-- The queue a window's owned-queue area k shows: mover queues 0 and 1, send queues 2 and 3 (R333). -/
def windowQueue (s : State) (w k : Nat) : Option (QKind × Nat) :=
  if k < 2 then (ownedBy s .mov w)[k]?.map fun q => (.mov, q)
  else (ownedBy s .xpt w)[k - 2]?.map fun q => (.xpt, q)

/-- A write of 4 or 8 bytes to a tenant window. Its areas of counters and records are read-only, and reserved offsets ignore writes. -/
def windowWrite (w o size v : Nat) : Act := look fun s =>
  if !(size == 4 || size == 8) || o % size != 0 || 63 < w || !s.is Fld.GLB_STATUS_FW_READY then nop
  else if o < 0x1000 then
    match windowRingReg w o with
    | some a => regWrite a size v
    | none => nop
  else if 0x4000 ≤ o ∧ o < 0x8000 then acnStore (some w) (32 * s.get (Fld.ACN_TW_BASE w) + (o - 0x4000)) (leBytes size v)
  else if 0x8000 ≤ o ∧ o < 0x10000 then
    let k := (o - 0x8000) / 0x2000
    let x := (o - 0x8000) % 0x2000
    match windowQueue s w k with
    | none => nop
    | some (kind, q) =>
      if x < 0x1000 then qSlotStore kind q x (leBytes size v)
      else if x = 0x1800 then qDoorbell kind q (v % 256)
      else nop
  else nop

/-! ### The CXL port -/

/-- HDM_DECODER_COMMIT: one decoder, 1-way, of exactly 64 GiB with its base aligned to 256 MiB (R325); anything else is not committed. -/
def actHdmCommit (base size ways : Nat) : Act :=
  if size = 2 ^ 36 ∧ base % 2 ^ 28 = 0 ∧ ways = 1 then onBody fun b => { b with cxl := { b.cxl with hdmBase := some base } }
  else raise Blk.cxl 3

/-- The host window is reached: the link runs in CXL mode, memory is active and the decoder committed (R326, R334, R337). -/
def State.windowServed (s : State) : Bool :=
  s.get Fld.GLB_STATUS_HOST_MODE == 1 && s.is Fld.GLB_STATUS_MEM_ACTIVE && s.body.cxl.hdmBase.isSome

/-- The bytes of a host write that lie outside the device-written regions. -/
def hostBytes : Nat → List Byte → List Eff
  | _, [] => []
  | o, b :: bs => (if deviceWritten o then [] else [.mem (Mem.hostWindow + o) b]) ++ hostBytes (o + 1) bs

/-- HOST_WINDOW_WRITE (R334): what falls in a region that the device alone writes is discarded, and the write counted. -/
def actWindowWrite (off : Nat) (d : List Byte) : Act := look fun s =>
  if !s.windowServed then nop
  else acts [fun _ => hostBytes off d,
             when ((List.range d.length).any fun i => deviceWritten (off + i)) (acts [count Reg.CXL_WR_DISCARD 1, raise Blk.cxl 1])]

/-- HOST_WINDOW_READ (R329): the bytes at an offset; where far state has an uncorrectable error there, all ones, its address recorded, MEM_UE with
its record, and an AER report. Whether one is met is the world's. -/
def actWindowRead (off n : Nat) (ue : Bool) : Act := look fun s =>
  if !s.windowServed then nop
  else if ue then
    acts [emit (.hostRead (List.replicate n 255)), setReg Reg.CXL_MEM_UE_ADDR off, raiseWith Blk.cxl 0 { addr := off }, emit .aer]
  else emit (.hostRead (windowBytes s off n))

/-! ### Executions -/

/-- REGISTER_WRITE: by PF0, or through a tenant window. -/
def execRegisterWrite (window : Option Nat) (addr size value : Nat) (s : State) :=
  done (when (window.all (· < 64)) (match window with
    | none => regWrite addr size value
    | some w => windowWrite w addr size value)) s
/-- BRK_OVF_REARM, before the firmware is ready ignored as any other register write (R337). -/
def execBrkOvfRearm (mask : Nat) (s : State) :=
  done (when (mask < 2 ^ 32) (regWrite Reg.BRK_OVF_REARM 8 (mask % 2 ^ 32))) s
def execHdmDecoderCommit (base size ways : Nat) (s : State) := done (actHdmCommit base size ways) s
/-- An access beyond the 64 GiB of the host window has no address to go to. -/
def execHostWindowWrite (off : Nat) (bytes : List Byte) (s : State) : Host.Outcome State Fault Refusal :=
  if Mem.hostWindowSize < off + bytes.length then .fault .outsideHostWindow else done (actWindowWrite off bytes) s
def execHostWindowRead (off len : Nat) (ue : Bool) (s : State) : Host.Outcome State Fault Refusal :=
  if Mem.hostWindowSize < off + len then .fault .outsideHostWindow else done (actWindowRead off len ue) s

end Sys2Proof.Machine
end

