-- ==== Sys2Proof/Machine/Access.lean ====
section
/-! DEFINITION. Accesses that reach this chip (R69, 03_attention_engines.md; R202 to R211, R223, 08_fabric_memory_semantics.md): loads,
stores, atomics and hints of pod members and of agents, and their answers. -/

namespace Sys2Proof.Machine

/-! ### Whose access it is -/

/-- The name answers go to: a member's number, or 256 and an agent's id. -/
def accTag : AccFrom → Nat
  | .member m => m
  | .agent i => 256 + i

/-- An access of a member has passed its own chip's check; one of an agent is checked here, against the entries with AGENT set, and must
have a form of R208 (R205, R206). -/
def admits (s : State) (src : AccFrom) (addr : Nat) (k : AccKind) : Bool := match src with
  | .member _ => true
  | .agent i => accShape addr k false && agentPass s i addr k

/-- The answer to an access. -/
def answer (src : AccFrom) (tag status : Nat) (data : List Byte) : Act := emit (.answer (accTag src) tag status data)

/-- A refused access (R207): a store answers REJECT, a load or atomic RANGE. Each is counted, as the summary of MOV_TGT_DISCARD says of
accesses (R234; DEDUCED, log entry 109). -/
def refuse (src : AccFrom) (tag : Nat) (isStore : Bool) : Act :=
  acts [count Reg.MOV_TGT_DISCARD 1, raise Blk.mov 2,
        answer src tag (if isStore then Ans.reject else Ans.range) []]

/-- An access that is admitted goes on; one of an agent that no entry admits is refused and counted in MOV_WIN_FAULT (R206). -/
def withAdmission (src : AccFrom) (tag addr : Nat) (k : AccKind) (isStore : Bool) (a : Act) : Act := look fun s =>
  if admits s src addr k then a else acts [windowFault, refuse src tag isStore]

/-! ### Loads (R69, R203, R208, R228) -/

/-- Bytes of a page-list table or of a page-reference array at a local address (R28): the table of the request whose page-list reference
names the place has 16 bytes for each layer: the array's address and its count. Where a table lies is the frame its reference
names, in bytes (PRESUMED, log entry 30); what no table or array covers reads as unwritten memory. -/
def listByte (s : State) (a : Nat) : Byte :=
  let tables := s.body.locs.filterMap fun e =>
    let base := refFrame e.2.listRef * 32768
    if base ≤ a ∧ a < base + 16 * e.2.layers.length then some (e.1, e.2, a - base) else none
  match tables with
  | (h, c, o) :: _ =>
    (leBytes 8 (Config.listArray h (o / 16)) ++ leBytes 4 (c.layer (o / 16)).pages.length ++ leBytes 4 0).getD (o % 16) 0
  | [] =>
    let arrays := s.body.locs.flatMap fun e => e.2.layers.filterMap fun l =>
      let base := Config.listArray e.1 l.1
      if base ≤ a ∧ a < base + 8 * l.2.pages.length then some ((leBytes 8 (l.2.pages.getD ((a - base) / 8) 0)).getD ((a - base) % 8) 0) else none
    arrays.headD (memDefault a)

/-- Whether an aperture 2 load touches a queue that is not enabled or a slot beyond its depth (R69). -/
def jobLoadRange (s : State) (o n : Nat) : Bool :=
  let touches (base stride size : Nat) (ok : Nat → Nat → Bool) : Bool :=
    base ≤ o && o < base + 256 * stride && (List.range n).any fun i =>
      let x := o + i - base
      !ok (x / stride) (x % stride / size)
  touches 0 0x40000 64 (jobSlotOk s) || touches 0x4000000 8 8 (fun q _ => jqOpen s q) || touches 0x4001000 8 8 (fun q _ => jqOpen s q)
    || touches 0x8000000 0x10000 16 (jobSlotOk s)

/-- A byte of aperture 2 as loads see it (R69): heads, completion records and the job buffer; every other offset reads zero. -/
def jobByte (s : State) (o : Nat) : Byte :=
  if 0x4001000 ≤ o ∧ o < 0x4001800 then
    let q := (o - 0x4001000) / 8
    if jqOpen s q then (leBytes 8 (s.get (Fld.DAE_JQ_PTR_HEAD q))).getD (o % 8) 0 else 0
  else if 0x8000000 ≤ o ∧ o < 0x9000000 then
    let q := (o - 0x8000000) / 0x10000
    let i := (o - 0x8000000) % 0x10000 / 16
    if jobSlotOk s q i then s.byte (Mem.jobRecord q i + o % 16) else 0
  else if 0x10000000 ≤ o ∧ o < 0x14000000 then s.byte (Mem.jobBuffer + (o - 0x10000000))
  else 0

/-- The bytes a load of n bytes returns; none where the chip refuses it (R203, R207). -/
def loadBytes (s : State) (addr n : Nat) : Option (List Byte) :=
  let ap := faAperture addr
  let o := faOffset addr
  let i := faInner addr
  let lim := if ap = 0 then s.get Fld.STM_CAPS_NEAR_FRAMES else s.get Fld.STM_CAPS_FAR_FRAMES
  let frames (size : Nat) : Bool := (i + n - 1) / size < lim
  match ap with
  | 0 | 1 =>
    match faRegion addr with
    | 0 => if frames 32768 then some (s.bytes (payloadAt (fkey ap (i / 32768)) + i % 32768) n) else none
    | 1 => if frames 1024 then some (s.bytes (scaleAt (fkey ap (i / 1024)) + i % 1024) n) else none
    | 2 =>
      let byte (x : Nat) : Byte := match s.frame (fkey ap (x / 256)) with
        | some f => (hdrBytes f.hdr).getD (x % 256) 0
        | none => 0
      if frames 256 then some ((List.range n).map fun j => byte (i + j)) else none
    | 3 => if ap = 1 then some ((List.range n).map fun j => listByte s (i + j)) else none
    | 4 => if ap = 1 && i + n ≤ s.get Fld.MOV_CTL_SHARED_MIB * 2 ^ 20 then some (s.bytes (Mem.shared + i) n) else none
    | _ => none
  | 2 => if o + n ≤ 0x14000000 then some ((List.range n).map fun j => jobByte s (o + j)) else none
  | 3 =>
    if o + n ≤ 32 * 65536 then some ((List.range n).map fun j => (acnBytes (s.counter ((o + j) / 32))).getD ((o + j) % 32) 0) else none
  | 4 =>
    if o + n ≤ 0x1000000 then
      some (if n ≤ 8 then leBytes n (readReg s o n) else (List.range (n / 8)).flatMap fun j => leBytes 8 (readReg s (o + 8 * j) 8))
    else none
  | _ => none

/-- The record of an uncorrectable read (R40, R46). -/
def loadUe (addr : Nat) : Act := match faAperture addr with
  | 0 => raiseWith Blk.stm 1 { addr := addr }
  | 1 => if faRegion addr = 0 then farUe (fkey 1 (faInner addr / 32768))
         else if faRegion addr = 1 then farUe (fkey 1 (faInner addr / 1024))
         else raiseWith Blk.stm 2 { addr := addr }
  | _ => nop

/-- LOAD: performed, refused, or met with an error that cannot be corrected, which is the world's (R207, R208, R213). -/
def actLoad (src : AccFrom) (tag addr size : Nat) (ue : Bool) : Act :=
  withAdmission src tag addr (.load size) false <| look fun s =>
    match loadBytes s addr size with
    | none => refuse src tag false
    | some d =>
      acts [when (faAperture addr == 2 && jobLoadRange s (faOffset addr) size) jobRange,
            if ue then acts [loadUe addr, answer src tag Ans.ue []] else answer src tag Ans.ok d]

/-! ### Stores (R69, R207, R208, R228) -/

/-- The effect of a store; none where the chip refuses it. A doorbell of aperture 2 takes a 4-byte store at its place alone. -/
def performStore (s : State) (addr : Nat) (d : List Byte) : Option Act :=
  let o := faOffset addr
  match faAperture addr with
  | 0 | 1 => plainStore s addr d
  | 2 =>
    if 0x4000000 ≤ o ∧ o < 0x4000800 then
      some (if d.length = 4 ∧ o % 8 = 0 then actJobDoorbell ((o - 0x4000000) / 8) (leNat d % 4096) else nop)
    else plainStore s addr d
  | 3 => if o + d.length ≤ 32 * 65536 then some (acnStore none o d) else none
  | 4 => if o + d.length ≤ 0x1000000 then some (apertureWrite o d.length (leNat d)) else none
  | _ => none

/-- STORE: performed and acknowledged, or refused under the seal rule (R207). The 16-byte event store of an arrival counter comes from
members alone (R208, R231). -/
def actStore (src : AccFrom) (tag addr : Nat) (d : List Byte) : Act :=
  withAdmission src tag addr (.store d) true <| look fun s =>
    match performStore s addr d with
    | none => refuse src tag true
    | some a => acts [a, answer src tag Ans.ok []]

/-! ### Atomics (R209) -/

/-- Where an atomic's target lies in memory: the shared region or the job buffer, alone (R207). -/
def atomicAt (s : State) (addr width : Nat) : Option Nat :=
  let i := faInner addr
  let o := faOffset addr
  if i % width ≠ 0 then none
  else match faAperture addr with
    | 1 => if faRegion addr = 4 ∧ i + width ≤ s.get Fld.MOV_CTL_SHARED_MIB * 2 ^ 20 then some (Mem.shared + i) else none
    | 2 => if 0x10000000 ≤ o ∧ o + width ≤ 0x14000000 then some (Mem.jobBuffer + (o - 0x10000000)) else none
    | _ => none

/-- The old value of width bytes becomes a new one in one action; the answer is the old value, or nothing with NORET. -/
def atomic (op width : Nat) (f : Nat → Nat) (src : AccFrom) (tag addr : Nat) (a b : Nat) (noret : Bool) : Act :=
  withAdmission src tag addr (.atomic op width a b) false <| look fun s =>
    match atomicAt s addr width with
    | none => refuse src tag false
    | some p =>
      let old := s.num p width
      acts [storeNum p width (f old % 2 ^ (8 * width)), answer src tag Ans.ok (if noret then [] else leBytes width old)]

/-- The operations, on words of w bits. -/
def fadd (a old : Nat) : Nat := old + a
def cas (w compare new old : Nat) : Nat := if old = compare % 2 ^ w then new else old
def umin (w a old : Nat) : Nat := min old (a % 2 ^ w)
def umax (w a old : Nat) : Nat := max old (a % 2 ^ w)
def smin (w a old : Nat) : Nat := if signedOf w a < signedOf w old then a else old
def smax (w a old : Nat) : Nat := if signedOf w old < signedOf w a then a else old
def fpadd (a old : Nat) : Nat := f32Add old (a % 2 ^ 32)

/-! ### Hints (R223) -/

/-- A page a hint may bring into near state: this chip's, in far state, of the frame's present generation, sealed or frozen, neither
resident nor on its way. -/
def hintFrame (s : State) (r : Nat) : Option Frame :=
  if refChip r ≠ s.chipId ∨ refTier r ≠ 1 ∨ (readOf s r).isSome then none
  else match s.exact r, placeOf s r with
    | some k, .far _ => match s.frame k with
      | some f => if f.hdr.isSealed || f.hdr.frozen then some f else none
      | none => none
    | _, _ => none

/-- HINT_FETCH: the 16 bytes of a hint store. The page is read as a prefetch is, with evictions up to class 2; otherwise the hint is
dropped. Either way the store is performed. -/
def actHintFetch (src : AccFrom) (tag addr : Nat) (d : List Byte) : Act :=
  let r := leNat (d.take 8)
  withAdmission src tag addr (.hint r) true <|
    if faAperture addr ≠ 1 ∨ faRegion addr ≠ 5 ∨ faInner addr ≠ 0 ∨ d.length ≠ 16 then refuse src tag true
    else look fun s =>
      let dropped := count Reg.MOV_HINT_DROPPED 1
      acts [if leNat (d.drop 8) ≠ 0 then dropped
            else match hintFrame s r with
              | none => dropped
              | some f =>
                match issueRead s f.hdr.owner f.hdr.layer (f.hdr.firstPos / 2 ^ f.hdr.pLog2) f.hdr.tenant f.kind r 2 with
                | none => dropped
                | some a => acts [a, count Reg.MOV_HINT_PLACED 1],
            answer src tag Ans.ok []]

/-! ### Executions -/
def execLoad (src : AccFrom) (tag addr size : Nat) (ue : Bool) (s : State) :=
  done (when (accWf src addr) (actLoad src tag addr size ue)) s
def execStore (src : AccFrom) (tag addr : Nat) (d : List Byte) (s : State) :=
  done (when (accWf src addr) (actStore src tag addr d)) s
def execHintFetch (src : AccFrom) (tag addr : Nat) (d : List Byte) (s : State) :=
  done (when (accWf src addr) (actHintFetch src tag addr d)) s
def execFadd32 (src : AccFrom) (tag addr a : Nat) (noret : Bool) (s : State) :=
  done (when (atomicWf src addr 32 [a]) (atomic 0 4 (fadd a) src tag addr a 0 noret)) s
def execFadd64 (src : AccFrom) (tag addr a : Nat) (noret : Bool) (s : State) :=
  done (when (atomicWf src addr 64 [a]) (atomic 1 8 (fadd a) src tag addr a 0 noret)) s
def execCas32 (src : AccFrom) (tag addr compare new : Nat) (noret : Bool) (s : State) :=
  done (when (atomicWf src addr 32 [compare, new]) (atomic 2 4 (cas 32 compare new) src tag addr compare new noret)) s
def execCas64 (src : AccFrom) (tag addr compare new : Nat) (noret : Bool) (s : State) :=
  done (when (atomicWf src addr 64 [compare, new]) (atomic 3 8 (cas 64 compare new) src tag addr compare new noret)) s
def execUmin32 (src : AccFrom) (tag addr a : Nat) (noret : Bool) (s : State) :=
  done (when (atomicWf src addr 32 [a]) (atomic 4 4 (umin 32 a) src tag addr a 0 noret)) s
def execUmin64 (src : AccFrom) (tag addr a : Nat) (noret : Bool) (s : State) :=
  done (when (atomicWf src addr 64 [a]) (atomic 5 8 (umin 64 a) src tag addr a 0 noret)) s
def execUmax32 (src : AccFrom) (tag addr a : Nat) (noret : Bool) (s : State) :=
  done (when (atomicWf src addr 32 [a]) (atomic 6 4 (umax 32 a) src tag addr a 0 noret)) s
def execUmax64 (src : AccFrom) (tag addr a : Nat) (noret : Bool) (s : State) :=
  done (when (atomicWf src addr 64 [a]) (atomic 7 8 (umax 64 a) src tag addr a 0 noret)) s
def execSmin32 (src : AccFrom) (tag addr a : Nat) (noret : Bool) (s : State) :=
  done (when (atomicWf src addr 32 [a]) (atomic 8 4 (smin 32 a) src tag addr a 0 noret)) s
def execSmin64 (src : AccFrom) (tag addr a : Nat) (noret : Bool) (s : State) :=
  done (when (atomicWf src addr 64 [a]) (atomic 9 8 (smin 64 a) src tag addr a 0 noret)) s
def execSmax32 (src : AccFrom) (tag addr a : Nat) (noret : Bool) (s : State) :=
  done (when (atomicWf src addr 32 [a]) (atomic 10 4 (smax 32 a) src tag addr a 0 noret)) s
def execSmax64 (src : AccFrom) (tag addr a : Nat) (noret : Bool) (s : State) :=
  done (when (atomicWf src addr 64 [a]) (atomic 11 8 (smax 64 a) src tag addr a 0 noret)) s
def execFpadd32 (src : AccFrom) (tag addr a : Nat) (noret : Bool) (s : State) :=
  done (when (atomicWf src addr 32 [a]) (atomic 12 4 (fpadd a) src tag addr a 0 noret)) s

end Sys2Proof.Machine
end

