-- ==== Sys2Proof/Machine/Security.lean ====
section
/-! DEFINITION. The security core (R404 to R421, 14_security.md), the live firmware update (R394 to R396, 13_resilience.md), and the reports
of HEALTH, SPARE_MAP and FW_INFO (R354, 12_host_interface.md). Whether a signature, a hash or a key's tag verifies is the world's: the private
keys and the signed bytes come from outside. -/

namespace Sys2Proof.Machine

def onSec (f : Sec → Sec) : Act := onBody fun b => { b with sec := f b.sec }

/-- The security core does not serve: it restarts or re-enters (R383, R411). -/
def secBusy (s : State) : Bool := !s.is Fld.ISL_STATUS_SEC_OK || s.body.sec.reentering

/-! ### Images (R405, R406) -/

/-- n bytes of the image header of a slot, as a number. -/
def imgNum (s : State) (slot off n : Nat) : Nat := s.num (Mem.fwSlot slot + off) n
def imgLen (s : State) (slot : Nat) : Nat := imgNum s slot 0x008 4
def imgSvn (s : State) (slot : Nat) : Nat := imgNum s slot 0x00C 1 % 128
def imgRevoke (s : State) (slot : Nat) : Nat := imgNum s slot 0x00D 1 % 16
def imgKey (s : State) (slot : Nat) : Nat := imgNum s slot 0x006 1 % 4
/-- COMPONENT_c: offset, length, SHA-384. -/
def compOff (s : State) (slot c : Nat) : Nat := imgNum s slot (0x020 + 64 * c) 4
def compLen (s : State) (slot c : Nat) : Nat := imgNum s slot (0x024 + 64 * c) 4
def compHash (s : State) (slot c : Nat) : List Byte := s.bytes (Mem.fwSlot slot + (0x030 + 64 * c)) 48

/-- A signing key is fused and not revoked. -/
def keyServes (s : State) (k : Nat) : Bool :=
  bitsOf (s.get Fld.SEC_FUSE_KEYS_VALID) k 1 == 1 && bitsOf (s.get Fld.SEC_FUSE_KEYS_REVOKED) k 1 == 0

/-- What R406 asks of an image besides its hashes and its signature. -/
def imageForm (s : State) (slot : Nat) : Bool :=
  imgNum s slot 0 4 == 0x4B514246 && imgNum s slot 4 2 == 1 && imgNum s slot 0x018 3 == 0xC00640 && 512 ≤ imgLen s slot && imgLen s slot ≤ 0x1E00000
  && compLen s slot 0 != 0 && ((List.range 4).all fun c => compLen s slot c == 0 || compOff s slot c + compLen s slot c ≤ imgLen s slot)
  && keyServes s (imgKey s slot) && bitsOf (imgRevoke s slot) (imgKey s slot) 1 == 0 && s.get Fld.SEC_ARB_ARB_COUNT ≤ imgSvn s slot

/-- What SEC_ARB shows of a slot after a check: its SVN, 0 if invalid, and whether it can boot. -/
def showSlot (slot : Nat) (ok : Bool) : Act := look fun s =>
  let svn := if ok then imgSvn s slot else 0
  let b := if ok then 1 else 0
  if slot = 0 then acts [setFld Fld.SEC_ARB_SVN_A svn, setFld Fld.SEC_ARB_A_BOOTABLE b]
  else acts [setFld Fld.SEC_ARB_SVN_B svn, setFld Fld.SEC_ARB_B_BOOTABLE b]

/-- The anti-rollback count rises to the SVN of the slot's image, and the keys its REVOKE names are revoked; a slot left below the count, or
signed with a revoked key, can no longer boot (R409). -/
def raiseCount (slot : Nat) : Act := acts [look fun s =>
  acts [setFld Fld.SEC_ARB_ARB_COUNT (max (s.get Fld.SEC_ARB_ARB_COUNT) (imgSvn s slot)),
        setFld Fld.SEC_FUSE_KEYS_REVOKED (s.get Fld.SEC_FUSE_KEYS_REVOKED ||| imgRevoke s slot)],
  look fun s =>
    let fails (x svn : Nat) : Bool := svn < s.get Fld.SEC_ARB_ARB_COUNT || bitsOf (s.get Fld.SEC_FUSE_KEYS_REVOKED) (imgKey s x) 1 == 1
    acts [when (fails 0 (s.get Fld.SEC_ARB_SVN_A)) (setFld Fld.SEC_ARB_A_BOOTABLE 0),
          when (fails 1 (s.get Fld.SEC_ARB_SVN_B)) (setFld Fld.SEC_ARB_B_BOOTABLE 0)]]

/-- A boot control record names the preferred slot (R404, R410). -/
def writeRecord (slot : Nat) : Act := onSec fun x => { x with bootSeq := wrapAdd 32 x.bootSeq 1, prefSlot := slot }

/-- GLB_VERSION shows the version of a slot's image (R405). -/
def showVersion (slot : Nat) : Act := look fun s =>
  acts [setFld Fld.GLB_VERSION_FW_MAJOR (imgNum s slot 0x010 1), setFld Fld.GLB_VERSION_FW_MINOR (imgNum s slot 0x011 1),
        setFld Fld.GLB_VERSION_FW_PATCH (imgNum s slot 0x012 2), setFld Fld.GLB_VERSION_IFACE_MINOR (imgNum s slot 0x014 1)]

/-- The security core boots a slot (R407): its components are measured, the boot nonce is drawn, the management core starts. -/
def bootSlot (slot : Nat) : Act := look fun s =>
  acts [onSec fun x => { x with runSlot := slot, measures := (List.range 3).map (compHash s slot), stagedSec := [], reentering := false,
                                unlockFails := 0, unlockUntil := none },
        setFld Fld.GLB_STATUS_BOOT_SLOT slot, showVersion slot, setFld Fld.SEC_STATUS_RECOVERY 0, setFld Fld.SEC_STATUS_SEC_STAGED 0,
        setFld Fld.ISL_STATUS_SEC_OK 1,
        each (List.range 4) (fun i => look fun s => acts [drawFree, setReg (Reg.SEC_BOOT_NONCE i) (Config.free s.body.fresh)]),
        onPlat fun p => { p with booted := true, mgmtUp := true }]

/-- The boot from ROM (R407): the preferred slot where it is valid, else the other, else recovery; with the recovery strap, recovery
regardless of the slots (R434). Which slots are valid is the world's. -/
def bootRom (okA okB : Bool) : Act := look fun s =>
  let pref := s.body.sec.prefSlot
  let ok (slot : Nat) : Bool := if slot = 0 then okA else okB
  let enter := acts [setFld Fld.SEC_STATUS_RECOVERY 1, setFld Fld.ISL_STATUS_SEC_OK 1, onPlat fun p => { p with booted := false, mgmtUp := true }]
  acts [showSlot 0 okA, showSlot 1 okB,
        if s.is Fld.PWR_STRAPS_RECOVERY then enter
        else if ok pref then bootSlot pref
        else if ok (1 - pref) then acts [raise Blk.sec 0, bootSlot (1 - pref), setFld Fld.SEC_STATUS_BOOT_FALLBACK 1, raise Blk.sec 1]
        else acts [raise Blk.sec 0, raise Blk.sec 0, enter]]

/-! ### FW_INFO, FW_STAGE, FW_ACTIVATE (R354, R394, R410) -/

/-- FW_INFO: the versions of slots A and B, the active slot, the preferred one, SEC_ARB. The order of the fields is the model's
(DESIGN CHOICE, log entry 31). -/
def fwInfo (s : State) : List Byte :=
  leBytes 4 (imgNum s 0 0x010 4) ++ leBytes 4 (imgNum s 1 0x010 4) ++ leBytes 1 s.body.sec.runSlot ++ leBytes 1 s.body.sec.prefSlot ++ leBytes 2 0
    ++ leBytes 8 (s.rd Reg.SEC_ARB)
def opFwInfo (ref : CmdRef) (c : Cmd) : Act := look fun s => finOut ref c [] (fwInfo s) nop

/-- Whether bytes may be staged: no activation runs, the core serves, the slot is not the running one, and they fit the slot: the status that
refuses them. -/
def stageFault (s : State) (slot off n : Nat) : Option Nat :=
  if s.body.plat.fwAct.isSome || secBusy s then some St.busyRetry
  else if (s.body.plat.booted && slot == s.body.sec.runSlot) || 0x1E00000 < off + n then some St.invalid
  else none

/-- FW_STAGE: image bytes into the slot that is not running (R410). -/
def opFwStage (ref : CmdRef) (c : Cmd) : Act := look fun s =>
  let d := cmdInput s ref.src c
  match stageFault s (c.arg 0 8) (c.arg 4 32) d.length with
  | some st => fin ref st
  | none => acts [store (Mem.fwSlot (c.arg 0 8) + c.arg 4 32) d, fin ref St.ok]

/-- The units a live activation updates, in order (R394, steps 4 to 7): control cores, the spares first; the standby management core, the
move of the role, the former active core. Without a standby the active core takes the image alone (DEDUCED, log entry 32). -/
def updateOrder (s : State) : List Nat :=
  (([16, 17, 18, 19] ++ List.range 16).filter fun c => !s.body.plat.coresOut.contains c)
    ++ (if s.is Fld.ISL_STATUS_STANDBY_OK then [20, 21, 22] else [22])

/-- The CXL return code of a status (CXL 2.0; PRESUMED, log entry 4). -/
def cxlCode (status : Nat) : Nat := if status = St.ok then cxlSuccess else if status = St.busyRetry then cxlBusy else cxlInvalidInput

/-- Where the outcome of an activation goes: to its command, or to the Activate FW of R327 that is still in the primary mailbox. -/
def fwAnswer (ref : Option CmdRef) (status detail : Nat) : Act := look fun s =>
  match ref, s.body.mbox.cxlCmd with
  | some f, _ => finish f status detail [] []
  | none, some (0x0202, _) => setMbox { s.body.mbox with cxlCmd := none, retCode := cxlCode status, output := [] }
  | none, _ => nop

/-- An activation of a slot starts, live or for the next full reset (R394 step 3, R408, R409, R410). `verifies`: the public key's hash is the
fused one, the signature verifies, and every component's hash matches. -/
def activate (ref : Option CmdRef) (slot mode : Nat) (verifies : Bool) : Act := look fun s =>
  if s.body.plat.fwAct.isSome || secBusy s then
    fwAnswer ref St.busyRetry 0
  else
    let ok := imageForm s slot && verifies
    acts [showSlot slot ok,
      if !ok then acts [raise Blk.sec 0, fwAnswer ref St.invalid 0]
      else if s.is Fld.SEC_STATUS_RECOVERY then acts [writeRecord slot, bootSlot slot, fwAnswer ref St.ok 0]
      else if mode = 1 then acts [writeRecord slot, onSec (fun x => { x with raiseArb := true }), fwAnswer ref St.ok 0]
      else acts [onPlat fun p => { p with fwAct := some { ref := ref, slot := slot, left := updateOrder s } }, setFld Fld.GLB_STATUS_FW_ACTIVATING 1]]

/-- FW_ACTIVATE. -/
def opFwActivate (verifies : Bool) (ref : CmdRef) (c : Cmd) : Act := activate (some ref) (c.arg 0 8) (c.arg 1 8) verifies

/-- A Heel whose deadline came during the activation runs at its end (R393). -/
def afterActivation : Act := look fun s =>
  acts [onPlat (fun p => { p with fwAct := none }), setFld Fld.GLB_STATUS_FW_ACTIVATING 0,
        when s.body.conf.heelDue (acts [onConf (fun c => { c with heelDue := false }), heel none true])]

/-- The activation ends: the security core stages its own component, the count and the record are written, GLB_VERSION shows the new version,
and only then the command completes with OK (R394 steps 8 and 9, R409, R410). -/
def activationEnds (a : FwAct) : Act := look fun s =>
  acts [raiseCount a.slot, writeRecord a.slot, setFld Fld.SEC_STATUS_SEC_STAGED 1,
        onSec (fun x => { x with runSlot := a.slot, stagedSec := compHash s a.slot 0,
                                 measures := x.measures.take 1 ++ [compHash s a.slot 1, compHash s a.slot 2] }),
        setFld Fld.GLB_STATUS_BOOT_SLOT a.slot, showVersion a.slot, afterActivation, fwAnswer a.ref St.ok 0]

/-- The management role moves between the cores (R384, R394 step 6). -/
def moveRole : Act := look fun s =>
  setFld Fld.ISL_STATUS_MGMT_ACTIVE (1 - s.get Fld.ISL_STATUS_MGMT_ACTIVE)

/-- FW_CORE_UPDATE_DONE: the unit whose turn it is has drained, loaded and checked itself, or failed its check: then the activation is reversed
(R396). -/
def actFwCoreUpdateDone (ok : Bool) : Act := look fun s =>
  match s.body.plat.fwAct with
  | none => nop
  | some a =>
    match a.left with
    | [] => activationEnds a
    | c :: rest =>
      if ok then
        acts [when (c == 21) (acts [moveRole, setFld Fld.ISL_STATUS_STANDBY_OK 0, raise Blk.isl 7]),
              when (c == 22 && a.updated.contains 21) (setFld Fld.ISL_STATUS_STANDBY_OK 1),
              onPlat (fun p => { p with fwAct := some { a with left := rest, updated := a.updated ++ [c] } }),
              when rest.isEmpty (activationEnds { a with left := [], updated := a.updated ++ [c] })]
      else
        acts [when (a.updated.contains 21) (acts [moveRole, setFld Fld.ISL_STATUS_STANDBY_OK 1]),
              writeRecord s.body.sec.runSlot, raiseWith Blk.isl 14 { unit := c }, afterActivation, fwAnswer a.ref St.invalid c]

/-! ### Attestation and certificates (R413, R414) -/

/-- CERT_READ's output: identity, wrapping and Device CA certificates, at most 8 KiB. -/
def certOutput : List Byte :=
  leBytes 4 3 ++ (List.range 3).flatMap fun i =>
    let der := (Config.certificate i).take 2724
    leBytes 4 der.length ++ der ++ List.replicate ((4 - der.length % 4) % 4) 0

def opCertRead (ref : CmdRef) (c : Cmd) : Act := look fun s => if secBusy s then fin ref St.busyRetry else finOut ref c [] certOutput nop

/-- SPARE_MAP: the spare kinds, the repairs burned, and those of the log (R354, R388). The order of the fields is the model's (DESIGN CHOICE,
log entry 31). -/
def spareMap (s : State) : List Byte :=
  let list (l : List Repair) : List Byte := leBytes 4 l.length ++ l.flatMap fun r => leBytes 4 r.kind ++ leBytes 4 r.unit
  ((List.range 10).flatMap fun k => leBytes 8 (s.rd (Reg.ISL_SPARE k))) ++ list s.body.plat.fuses ++ list s.body.plat.repairLog
def opSpareMap (ref : CmdRef) (c : Cmd) : Act := look fun s => finOut ref c [] (spareMap s) nop

/-- HEALTH: the spare margin of each kind, the temperatures of the islands, the Kennel's state (R354, R415). The order of the fields is the
model's (DESIGN CHOICE, log entry 31). -/
def health (s : State) : List Byte :=
  ((List.range 10).flatMap fun k => leBytes 8 (s.rd (Reg.ISL_SPARE k))) ++ ((List.range 56).flatMap fun n => leBytes 2 (s.get (Fld.ISL_STATE_TEMP n)))
    ++ leBytes 8 (s.rd Reg.KNL_STATUS)
def opHealth (ref : CmdRef) (c : Cmd) : Act := look fun s => finOut ref c [] (health s) nop

/-- The SVN of the running image. -/
def runSvn (s : State) : Nat := if s.body.sec.runSlot = 0 then s.get Fld.SEC_ARB_SVN_A else s.get Fld.SEC_ARB_SVN_B

/-- Bytes 0x000 to 0x19F of a quote (R414). -/
def quoteBody (s : State) (nonce : List Byte) : List Byte :=
  let f (b : Bool) (i : Nat) : Nat := if b then 2 ^ i else 0
  let m (i : Nat) : List Byte := (s.body.sec.measures.getD i [] ++ List.replicate 48 0).take 48
  leBytes 2 1 ++ leBytes 2 512 ++ leBytes 2 (if s.is Fld.GLB_CHIP_VALID then s.chipId else 0) ++ leBytes 2 0xC0 ++ leBytes 8 (s.rd Reg.GLB_SERIAL)
  ++ (nonce ++ List.replicate 32 0).take 32 ++ leBytes 8 s.body.tick ++ leBytes 4 (s.get Fld.GLB_CFG_VER_RUNNING)
  ++ leBytes 4 (runSvn s % 128 + 256 * s.get Fld.SEC_ARB_ARB_COUNT + f (s.body.sec.runSlot == 1) 16 + f (s.is Fld.GLB_STATUS_CFG_PENDING) 17
      + f (s.is Fld.SEC_STATUS_SEC_STAGED) 18 + f (s.is Fld.SEC_STATUS_TEST_UNLOCKED) 19 + f (s.is Fld.SEC_STATUS_UNLOCKED_SINCE_BOOT) 20
      + f (s.is Fld.SEC_STATUS_BOOT_FALLBACK) 21)
  ++ ((List.range 48).map Config.romMeasure) ++ m 0 ++ m 1 ++ m 2 ++ sha384 ((runningItems s).flatMap itemBytes) ++ sha384 (spareMap s)
  ++ List.replicate 64 0

/-- The 512 bytes of a quote. -/
def quote (s : State) (nonce : List Byte) : List Byte :=
  let b := quoteBody s nonce
  b ++ (List.range 96).map (Config.signature b s.body.fresh)

/-- No quote is signed between steps 2 and 9 of a live activation, during a commit or Heel, or without the core (R414). -/
def quoteBlocked (s : State) : Bool := s.body.plat.fwAct.isSome || s.body.conf.run.isSome || secBusy s

def opAttestQuote (ref : CmdRef) (c : Cmd) : Act := look fun s =>
  if quoteBlocked s then fin ref St.busyRetry
  else if c.outLen < 512 then fin ref St.noResource
  else acts [drawFree, count Reg.SEC_QUOTES 1, finish ref St.ok 0 [] (quote s c.args)]

/-! ### Keys (R417, R418) -/

/-- What R417 asks of a wrapped key besides its curve point and its tag. -/
def wrapForm (d : List Byte) (purpose keyLen bind tenant : Nat) : Bool :=
  let n (off w : Nat) : Nat := leNat ((d.drop off).take w)
  d.length == 0x78 + keyLen + 16 && n 0 1 == 1 && n 1 1 == purpose && n 2 2 == keyLen && n 4 4 == bind && n 8 2 == tenant

/-- A wrapped key is refused. -/
def wrapFail (ref : CmdRef) : Act := acts [count Reg.SEC_WRAP_FAIL 1, raise Blk.sec 2, fin ref St.invalid]

/-- Scope bit 1 or 2 of the test port is open: no key is installed (R419). -/
def keysBarred (s : State) : Bool := s.is Fld.SEC_STATUS_TEST_UNLOCKED && 2 ≤ s.get Fld.SEC_STATUS_UNLOCK_SCOPE

/-- POD_KEY_INSTALL: `key` is what the wrapped key opens to, none where its point or its tag fails. -/
def opPodKeyInstall (key : Option (List Byte)) (ref : CmdRef) (c : Cmd) : Act := look fun s =>
  let e := c.arg 0 16
  if secBusy s then fin ref St.busyRetry
  else if keysBarred s then fin ref St.invalid
  else if !wrapForm (cmdInput s ref.src c) 1 32 e 0 then wrapFail ref
  else match key with
    | none => wrapFail ref
    | some k =>
      let cur := s.body.sec.podCur
      let staged := s.body.sec.podStaged
      let ahead := match cur with
        | some (ce, _) => (e + 65536 - ce) % 65536
        | none => 1
      if cur = some (e, k) ∨ staged.map (fun x => (x.1, x.2.1)) = some (e, k) then fin ref St.ok
      else if ahead = 0 ∨ 32767 < ahead ∨ staged.map (·.1) = some e then fin ref St.invalid
      else if staged.isSome then fin ref St.busyRetry
      else acts [onSec (fun x => { x with podStaged := some (e, k, s.body.tick + 1000000 * s.get Fld.SEC_CTL_SEAL_DELAY_MS) }),
                 setFld Fld.SEC_STATUS_KEY_STAGED 1, setFld Fld.SEC_STATUS_STAGED_EPOCH e, fin ref St.ok]

/-- XPT_KEY_STATUS shows the epochs held (R252). -/
def showEpochs : Act := look fun s =>
  let show_ (k : Option (Nat × List Byte)) (e v : Fld) : Act := acts [setFld e ((k.map (·.1)).getD 0), setFld v (if k.isSome then 1 else 0)]
  acts [show_ s.body.sec.podCur Fld.XPT_KEY_STATUS_CUR_EPOCH Fld.XPT_KEY_STATUS_CUR_VALID,
        show_ s.body.sec.podPrev Fld.XPT_KEY_STATUS_PREV_EPOCH Fld.XPT_KEY_STATUS_PREV_VALID]

/-- POD_KEY_ROTATE: the staged key becomes current and the current one previous; the former previous epoch goes with its cached keys
(R252, R418). -/
def actPodKeyRotate : Act := look fun s =>
  match s.body.sec.podStaged with
  | none => nop
  | some (e, k, _) =>
    let gone := (s.body.sec.podPrev.map (·.1)).toList
    acts [onSec (fun x => { x with podPrev := x.podCur, podCur := some (e, k), podStaged := none }),
          onXpt (fun x => { x with keys := x.keys.filter fun p => !gone.contains p.2 }),
          look fun s => setFld Fld.XPT_STATUS_SA_USED s.body.xpt.keys.length,
          setFld Fld.SEC_STATUS_KEY_STAGED 0, setFld Fld.SEC_STATUS_STAGED_EPOCH 0, showEpochs]

/-- The tenant key table changes. -/
def setKnlKeys (l : List (Nat × List Byte)) : Act := acts [onSec (fun x => { x with knlKeys := l }), setFld Fld.SEC_STATUS_KNL_KEYS_LOADED l.length]

/-- A durable image, or one being written, uses a key. -/
def keyUsed (s : State) (t id : Nat) : Bool :=
  s.kr.images.any fun e => (e.2.st == .durable || e.2.st == .writing) && e.2.encrypted && e.2.tenant == t && e.2.keyId == id

/-- KNL_KEY_LOAD: at most two keys a tenant; a third replaces one that no durable or writing image uses, the lower key id where either may go
(DESIGN CHOICE, log entry 5). -/
def opKnlKeyLoad (key : Option (List Byte)) (ref : CmdRef) (c : Cmd) : Act := look fun s =>
  let t := c.arg 0 16
  let id := c.arg 4 32
  if secBusy s then fin ref St.busyRetry
  else if keysBarred s then fin ref St.invalid
  else if !wrapForm (cmdInput s ref.src c) 2 64 id t then wrapFail ref
  else match key with
    | none => wrapFail ref
    | some k =>
      let l := s.body.sec.knlKeys
      let new := t * 2 ^ 32 + id
      let mine := (l.filter fun e => e.1 / 2 ^ 32 == t).map (·.1)
      match tget l new with
      | some k' => if k' = k then fin ref St.ok else fin ref St.invalid
      | none =>
        if mine.length < 2 then
          if l.length < 2048 then acts [setKnlKeys (tput l new k), fin ref St.ok] else fin ref St.noResource
        else match mine.find? fun n => !keyUsed s t (n % 2 ^ 32) with
          | some n => acts [setKnlKeys (tput (tdel l n) new k), fin ref St.ok]
          | none => fin ref St.noResource

/-! ### The test port (R419) -/

/-- The pod keys, the staged key and every Kennel key are zeroed. -/
def zeroKeys : Act :=
  acts [onSec (fun x => { x with podCur := none, podPrev := none, podStaged := none }), onXpt (fun x => { x with keys := [] }),
        setFld Fld.XPT_STATUS_SA_USED 0, setFld Fld.SEC_STATUS_KEY_STAGED 0, setFld Fld.SEC_STATUS_STAGED_EPOCH 0, showEpochs, setKnlKeys []]

/-- The boot nonce, 32 bytes. -/
def bootNonce (s : State) : List Byte := (List.range 4).flatMap fun i => leBytes 8 (s.rd (Reg.SEC_BOOT_NONCE i))

/-- What a token must say of this device and boot. -/
def tokenForm (s : State) (d : List Byte) : Bool :=
  d.length == 264 && leNat (d.take 2) == 1 && leNat ((d.drop 8).take 8) == s.rd Reg.GLB_SERIAL && (d.drop 0x10).take 32 == bootNonce s

/-- TEST_UNLOCK: `verifies`: the public key is the fused one and the signature verifies. After eight failures of a boot no token is looked
at. -/
def opTestUnlock (verifies : Bool) (ref : CmdRef) (c : Cmd) : Act := look fun s =>
  let d := cmdInput s ref.src c
  let scope := leNat ((d.drop 2).take 1) % 8
  let secs := leNat ((d.drop 0x30).take 4)
  if secBusy s then fin ref St.busyRetry
  else if 8 ≤ s.body.sec.unlockFails then fin ref St.invalid
  else if !(tokenForm s d && verifies) then
    acts [onSec (fun x => { x with unlockFails := x.unlockFails + 1 }), count Reg.SEC_UNLOCK_FAIL 1, raise Blk.sec 3, fin ref St.invalid]
  else
    acts [when (decide (2 ≤ scope)) zeroKeys,
          onSec (fun x => { x with unlockUntil := if secs = 0 then none else some (s.body.tick + 1000000000 * secs) }),
          setFld Fld.SEC_STATUS_TEST_UNLOCKED 1, setFld Fld.SEC_STATUS_UNLOCKED_SINCE_BOOT 1, setFld Fld.SEC_STATUS_UNLOCK_SCOPE scope,
          setFld Fld.TST_STATUS_LOCKED 0, setFld Fld.TST_STATUS_SCOPE scope, raise Blk.sec 4, fin ref St.ok]

/-- The port is locked; a private instruction in force gives way to BYPASS. -/
def lockPort : Act := look fun s =>
  acts [onSec (fun x => { x with unlockUntil := none }), setFld Fld.SEC_STATUS_TEST_UNLOCKED 0, setFld Fld.SEC_STATUS_UNLOCK_SCOPE 0,
        setFld Fld.TST_STATUS_LOCKED 1, setFld Fld.TST_STATUS_SCOPE 0,
        when (decide (0x80 ≤ s.get Fld.TST_STATUS_INSTRUCTION)) (setTap 0xFF)]

/-- TEST_RELOCK: the duration of an unlock has passed; one of duration 0 lasts until reset. -/
def actTestRelock : Act := look fun s => when (s.is Fld.SEC_STATUS_TEST_UNLOCKED && s.body.sec.unlockUntil.isSome) lockPort

/-! ### Executions -/
def execFwInfo (src : Src) (s : State) := done (runOp 0x0801 src opFwInfo) s
def execFwStage (src : Src) (s : State) := done (runOp 0x0802 src opFwStage) s
def execFwActivate (src : Src) (verifies : Bool) (s : State) := done (runOp 0x0803 src (opFwActivate verifies)) s
def execFwCoreUpdateDone (ok : Bool) (s : State) := done (actFwCoreUpdateDone ok) s
def execAttestQuote (src : Src) (s : State) := done (runOp 0x0804 src opAttestQuote) s
def execCertRead (src : Src) (s : State) := done (runOp 0x0805 src opCertRead) s
def execTestUnlock (src : Src) (verifies : Bool) (s : State) := done (runOp 0x0806 src (opTestUnlock verifies)) s
def execTestRelock (s : State) := done actTestRelock s
def execHealth (src : Src) (s : State) := done (runOp 0x0701 src opHealth) s
def execSpareMap (src : Src) (s : State) := done (runOp 0x0704 src opSpareMap) s
def execPodKeyInstall (src : Src) (key : Option (List Byte)) (s : State) := done (runOp 0x0603 src (opPodKeyInstall key)) s
def execPodKeyRotate (s : State) := done actPodKeyRotate s
def execKnlKeyLoad (src : Src) (key : Option (List Byte)) (s : State) := done (runOp 0x0506 src (opKnlKeyLoad key)) s

end Sys2Proof.Machine
end

