-- ==== Sys2Proof/Machine/Faults.lean ====
section
/-! DEFINITION. Unit faults and the patrol (R40, R46, 02_state_memory.md; R81 to R83, 03_attention_engines.md; R145, 05_transcoder.md; R163,
06_sampler.md; R386, 13_resilience.md). -/

namespace Sys2Proof.Machine

/-! ### Runs that fail (R81, R82) -/

/-- A job's run is abandoned: nothing of it is committed, its groups are free, its credit is returned. -/
def abandonRun (id : Nat) (j : Job) : Act :=
  acts [freeGroups j, eff (.credReturn none 1), modJob id fun x => { x with st := .faulted, groups := [], tiles := [] }]

/-- A running job's run fails: it waits for its internal replay; after REPLAY_MAX of them it ends with BUSY_RETRY. One that a close or a cancel
has marked ends with its mark. -/
def failRun (id : Nat) : Act := look fun s =>
  match s.job id with
  | none => nop
  | some j =>
    if j.st != .running then nop
    else acts [abandonRun id j,
      match j.endWith with
      | some st => endJob id st
      | none => when (decide (s.get Fld.DAE_CTL_REPLAY_MAX ≤ j.replays))
          (acts [raiseWith Blk.dae 5 { handle := j.d.handle, epoch := j.d.epoch, step := j.d.step }, endJob id St.busyRetry])]

/-- A running job's run fails for good, with a status. -/
def endRunWith (id status : Nat) : Act := look fun s =>
  match s.job id with
  | none => nop
  | some j => if j.st == .running then acts [abandonRun id j, endJob id status] else nop

/-- The running jobs that hold a group of an engine. -/
def jobsOnGroup (s : State) (e g : Nat) : List Nat :=
  (s.body.jobs.jobs.filter fun x => x.2.st == .running &&
    ((engineOf x.2.d == e && x.2.groups.contains g) || (e == 1 && x.2.tiles.contains g))).map (·.1)

/-- The running jobs that name a near frame. -/
def jobsOnFrame (s : State) (p : Nat → Bool) : List Nat :=
  (s.body.jobs.jobs.filter fun x => x.2.st == .running && s.body.pages.busy.any fun b => b.1 == x.1 && p b.2).map (·.1)

/-! ### Lanes and tiles (R83) -/

/-- Units of an engine that serve from manufacture, and in all; units of a group; spare kind; the map register of a unit. -/
def engUnits (e : Nat) : Nat := if e = 0 then 256 else 128
def engAll (e : Nat) : Nat := if e = 0 then 272 else 136
def groupUnits (e : Nat) : Nat := if e = 0 then 16 else 8
def engSpare (e : Nat) : Nat := if e = 0 then 3 else 2
def engMap (e w : Nat) : Nat := if e = 0 then Reg.DAE_LANE_MAP w else Reg.PAE_TILE_MAP w
/-- A unit is mapped out. -/
def unitOut (s : State) (e n : Nat) : Bool := bitsOf (s.rd (engMap e (n / 64))) (n % 64) 1 == 1
/-- The island of a unit (R366). -/
def unitIsland (e n : Nat) : Nat :=
  if n < engUnits e then (if e = 0 then 12 + n / 32 else 4 + n / 16) else (if e = 0 then 12 + (n - 256) / 2 else 4 + (n - 128))
/-- The place a unit stands for: its own, or the one a spare has taken. -/
def unitPlace (s : State) (e n : Nat) : Option Nat := if n < engUnits e then some n else tget s.body.jobs.spareFor (e * 1024 + n)

/-- A free spare for a unit: of its own island where there is one, else the lowest (DESIGN CHOICE, log entry 5). -/
def freeSpare (s : State) (e n : Nat) : Option Nat :=
  let l := ((List.range (engAll e)).drop (engUnits e)).filter fun k => !unitOut s e k && (tget s.body.jobs.spareFor (e * 1024 + k)).isNone
  match l.find? fun k => unitIsland e k == unitIsland e n with
  | some k => some k
  | none => l.head?

/-- A group takes no job any more. -/
def breakGroup (e g : Nat) : Act := look fun s =>
  let k := e * 16 + g
  if s.body.jobs.broken.contains k then nop
  else acts [onJobs (fun x => { x with broken := x.broken ++ [k] }), dropFld (if e = 0 then Fld.DAE_STATUS_LANES_OK else Fld.PAE_STATUS_TILES_OK) (groupUnits e)]

/-- A lane or tile is mapped out: a spare takes its place while there is one, else its group is out of service; a spare that serves no place
leaves its kind's count (R83, R386). -/
def mapOut (e n : Nat) : Act := look fun s =>
  if engAll e ≤ n || unitOut s e n then nop
  else
    let map := setReg (engMap e (n / 64)) (withBits (s.rd (engMap e (n / 64))) (n % 64) 1 1)
    match unitPlace s e n with
    | none => acts [map, loseSpare (engSpare e)]
    | some p =>
      acts [map, onJobs (fun x => { x with spareFor := tdel x.spareFor (e * 1024 + n) }),
        match if s.sparesLeft (engSpare e) = 0 then none else freeSpare s e n with
        | some k => acts [onJobs (fun x => { x with spareFor := tput x.spareFor (e * 1024 + k) p }), useSpare (engSpare e) n]
        | none => breakGroup e (p / groupUnits e)]

/-- A lane or tile fails: the flag, the unit's end, and the replay of the jobs that hold its group. -/
def unitFails (e n : Nat) : Act := look fun s =>
  let island := unitIsland e n
  acts [raiseWith (if e = 0 then Blk.dae else Blk.pae) 0 { island := island, unit := n },
        match unitPlace s e n with
        | some p => each (jobsOnGroup s e (p / groupUnits e)) failRun
        | none => nop,
        mapOut e n]

/-! ### Memory (R40, R46) -/

/-- The requests whose page lists name a page: handle, layer, index. -/
def usersOf (s : State) (r : Nat) : List (Nat × Nat × Nat) :=
  s.body.locs.flatMap fun e => e.2.layers.flatMap fun l =>
    ((List.range l.2.pages.length).filter fun i => l.2.pages.getD i 0 == r).map fun i => (e.1, l.1, i)

/-- The state die of a near frame, and one of its spare rows used (R36, R40, R55). -/
def frameDie (k : Nat) : Nat := keyFrame k / 65536
def useRow (k : Nat) : Act := acts [useSpare 0 (keyFrame k), dropFld (Fld.STM_SPARE_ROWS_LEFT (frameDie k)) 1]

/-- A near-state read that cannot be corrected. A page that has a copy elsewhere is dropped, and the jobs that read it run again; a page that has
none is lost, and they end with FAILED_REPLAY_PENDING. -/
def nearFails (k : Nat) : Act := look fun s =>
  match s.frame k with
  | none => acts [raiseWith Blk.stm 1 { addr := k }, useRow k]
  | some f =>
    let head := raiseWith Blk.stm 1 { addr := s.refOf k, handle := f.hdr.owner }
    let jobs := jobsOnFrame s (· == k)
    if f.kind == .remoteCache then acts [head, each jobs failRun, dropCached k, freeFrame k, useRow k]
    else if f.hdr.isSealed && f.hdr.backingRef != 0 then
      acts [head, each jobs failRun, renameRef (s.refOf k) f.hdr.backingRef, freeFrame k, useRow k]
    else acts [head, each jobs (fun id => endRunWith id St.replayPending), each (usersOf s (s.refOf k)) (fun u => pageLost u.1 u.2.1 u.2.2), useRow k]

/-- A far-state frame that cannot be read: the region is replaced, and a page that has no near copy is lost to its requests. -/
def farFails (k : Nat) : Act := look fun s =>
  let r := s.refOf k
  acts [farUe k, when (s.frame k).isSome (each (usersOf s r) fun u => when (!(residentKey s r).isSome) (pageLost u.1 u.2.1 u.2.2))]

/-! ### UNIT_FAULT -/

/-- A transcoder pipe fails: it is mapped out, and a job whose intake it served is replayed; a write, copy or park starts again from its source,
which has not changed (R145). -/
def pipeFails (i : Nat) (job : Option Nat) : Act := look fun s =>
  if 15 < i || bitsOf (s.get Fld.TRC_STATUS_PIPES_OK) i 1 = 0 then nop
  else
    let left := withBits (s.get Fld.TRC_STATUS_PIPES_OK) i 1 0
    acts [raiseWith Blk.trc 0 { island := 35 + i / 4, unit := i % 4 }, setFld Fld.TRC_STATUS_PIPES_OK left,
          when (((List.range 16).filter fun x => bitsOf left x 1 == 1).length < 12) (raise Blk.trc 3),
          match job with
          | some id => failRun id
          | none => nop]

/-- An uncorrectable read of the job buffer ends its reader with BUSY_RETRY: its inputs are lost (R81, R163). -/
def jobBufferFails (smp : Bool) (id : Nat) : Act := look fun s =>
  if smp then
    match s.smp id with
    | some x => when (x.st == .logging || x.st == .faulted) (acts [raiseWith Blk.smp 1 { handle := x.handle, step := x.step }, endSmp id St.busyRetry])
    | none => nop
  else match s.job id with
    | some j =>
      let head := raiseWith Blk.dae 4 { handle := j.d.handle, epoch := j.d.epoch, step := j.d.step }
      if j.st == .running then acts [head, endRunWith id St.busyRetry]
      else when (j.st == .waiting || j.st == .evaluating) (acts [head, endJob id St.busyRetry])
    | none => nop

/-- The sampler fails a sample, which it replays (R163). -/
def samplerFails (id : Nat) : Act := look fun s =>
  match s.smp id with
  | none => nop
  | some x =>
    if x.st != .logging then nop
    else acts [raiseWith Blk.smp 0 { island := 47, handle := x.handle, step := x.step },
               if s.get Fld.DAE_CTL_REPLAY_MAX ≤ x.replays then endSmp id St.busyRetry else modSmp id fun y => { y with st := .faulted }]

/-- The count table of a request cannot be read: it is cleared (R163). -/
def countTableFails (h : Nat) : Act := look fun s =>
  match ((s.loc h).bind (·.sampler)).bind s.resolve with
  | none => nop
  | some k => acts [clearMem (payloadAt k) 32768, raiseWith Blk.smp 2 { handle := h }]

/-- UNIT_FAULT. -/
def actUnitFault : FaultUnit → Act
  | .lane n => unitFails 0 n
  | .tile n => unitFails 1 n
  | .near k => nearFails k
  | .jobBuffer smp id => jobBufferFails smp id
  | .block => count Reg.DAE_BLOCK_RESEND 1
  | .sampler id => samplerFails id
  | .countTable h => countTableFails h
  | .pipe i job => pipeFails i job

/-! ### PATROL_TEST -/

/-- A unit that work holds is not tested: a test yields to it. -/
def patrolIdle (s : State) : PatrolUnit → Bool
  | .lane n => match unitPlace s 0 n with
    | some p => bitsOf (s.get Fld.DAE_STATUS_GROUPS_BUSY) (p / 16) 1 == 0
    | none => true
  | .tile n => match unitPlace s 1 n with
    | some p => bitsOf (s.get Fld.PAE_STATUS_GROUPS_BUSY) (p / 8) 1 == 0
    | none => true
  | _ => true

/-- What a failed test does, by the rules of the unit. -/
def patrolFails : PatrolUnit → Act
  | .lane n => mapOut 0 n
  | .tile n => mapOut 1 n
  | .macro_ n => when (n < 68) (retireMacro n)
  | .core n => actCoreFault n
  | .pipe i => pipeFails i none
  | .portLane p lane => actLaneFail p lane
  | .near k _ => nearFails k
  | .far k => farFails k

/-- Corrected errors of a near-state bank: counted; more of them in an interval than BANK_ERR_LIMIT bring in a spare bank (R40). -/
def bankErrors (k n : Nat) : Act := look fun s =>
  acts [each (List.range n) (fun _ => raiseWith Blk.stm 0 { addr := k }),
        when (decide (s.get Fld.STM_MIG_CTL_BANK_ERR_LIMIT < n) && s.sparesLeft 1 != 0)
          (acts [useSpare 1 (keyFrame k), dropFld (Fld.STM_SPARE_BANKS_LEFT (frameDie k)) 1])]

/-- PATROL_TEST: whether the unit fails is the world's. -/
def actPatrolTest (u : PatrolUnit) (fails : Bool) : Act := look fun s =>
  if !s.is Fld.ISL_CTL_PATROL_EN || !patrolIdle s u then nop
  else acts [count Reg.ISL_PATROL_RUNS 1,
             match u with
             | .near k n => bankErrors k n
             | _ => nop,
             when fails (acts [count Reg.ISL_PATROL_FAILS 1, raise Blk.isl 9, patrolFails u])]

def execUnitFault (u : FaultUnit) (s : State) :=
  done (when (u.wf) (actUnitFault u)) s
def execPatrolTest (u : PatrolUnit) (fails : Bool) (s : State) :=
  done (when (u.wf) (actPatrolTest u fails)) s

end Sys2Proof.Machine
end

