-- ==== Sys2Proof/Machine/Resets.lean ====
section
/-! DEFINITION. Resets of the device, of its host interface and of its islands, the CXL link, firmware-ready, and the reference clocks
(R326, R337, R338, 12_host_interface.md; R367, R371 to R373, R388, 13_resilience.md; R426, R428, R432, 15_package_power_test.md). -/

namespace Sys2Proof.Machine

/-! ### The host interface (R338) -/

/-- The port's registers show no link. -/
def portReset : Act :=
  acts [setFld Fld.GLB_STATUS_FW_READY 0, setFld Fld.GLB_STATUS_HOST_MODE 0, setFld Fld.CXL_LINK_STATUS_WIDTH 0,
        setFld Fld.CXL_LINK_STATUS_RATE 0, setFld Fld.CXL_LINK_STATUS_MODE 0]

/-- A ring returns to reset; the commands it has taken and not completed run on without an entry. -/
def ringReset (g : Ring) : Ring :=
  { taken := g.taken, cmds := (g.cmds.filter (!·.isDone)).map fun c => { c with lost := true } }

/-- The registers of the rings. -/
def ringRegs : List Nat := (List.range 144).flatMap fun r => [Reg.MBX_RING_CFG r, Reg.MBX_RING_PTR r, Reg.MBX_CPL_HEAD r]

/-- A host-interface reset. -/
def hostifReset : Act := look fun s =>
  acts [portReset, each (ringRegs.filter fun a => s.rd a != 0) (fun a => setReg a 0),
        onBody (fun b => { b with rings := b.rings.map (fun e => (e.1, ringReset e.2)), mbox := { taken := b.mbox.taken },
                                  cxl := { b.cxl with hdmBase := none } }),
        raise Blk.glb 3]

/-! ### What resets keep -/

/-- Registers of hardware state and of repairs, which a reset reapplies: eFuses, boot flash and the spares' counts (R388, R405, R409). -/
def keptRegs : List Nat :=
  [Reg.SEC_ARB, Reg.SEC_FUSE_KEYS, Reg.ISL_EFUSE, Reg.FAB_SPARE_MAP] ++ (List.range 10).map Reg.ISL_SPARE ++ (List.range 3).map Reg.PAE_TILE_MAP
    ++ (List.range 5).map Reg.DAE_LANE_MAP ++ (List.range 4).map Reg.STM_SPARE ++ (List.range 64).map Reg.SCT_LMAP ++ (List.range 2).map Reg.SCT_RETIRED

/-- Fields of the same kind; of a physical macro its state, out of calibration, and its logical number. -/
def keptFlds : List Fld :=
  [Fld.SCT_STATUS_IN_SERVICE, Fld.SCT_STATUS_SPARES_LEFT, Fld.PAE_STATUS_TILES_OK, Fld.DAE_STATUS_LANES_OK, Fld.TRC_STATUS_PIPES_OK,
   Fld.ISL_STATUS_CORES_OK] ++ (List.range 68).map Fld.SCT_MACRO_LOGICAL ++ (List.range 16).map Fld.FAB_PORT_STATUS_SPARED

/-- Repairs and fuses are reapplied: the kept registers take their values of before the reset, and what follows from them is set again. -/
def reapply (old : State) : Act :=
  acts [each (keptRegs.filter fun a => old.rd a != (regReset a).toNat) (fun a => setReg a (old.rd a)),
        each (keptFlds.filter fun f => old.get f != bitsOf (regReset f.addr).toNat f.lo f.w) (fun f => setFld f (old.get f)),
        each ((List.range 68).filter fun m => old.mac m != MacSt.calibrating && old.mac m != bitsOf (regReset (Reg.SCT_MACRO m)).toNat 0 2)
          (fun m => setFld (Fld.SCT_MACRO_STATE m) (old.mac m)),
        setFld Fld.SCT_STATUS_GEN_MACROS (min 64 (old.get Fld.SCT_STATUS_IN_SERVICE)),
        setFld Fld.SCT_STATUS_ROWS_FREE (8192 * min 64 (old.get Fld.SCT_STATUS_IN_SERVICE)),
        setFld Fld.ISL_STATUS_STANDBY_OK (if old.sparesLeft 6 = 0 then 0 else 1)]

/-- What a full reset keeps of the state besides registers: the flash, the boot flash, the repairs; the nonce counter resumes from its floor
plus 2^48 (R251, R388, R404, R409). The model's counter of free values and what has left the device stay. -/
def keptBody (b : Body) : Body :=
  { fresh := b.fresh
    out := b.out
    plat := { repairLog := b.plat.repairLog, fuses := b.plat.fuses, toBurn := b.plat.toBurn, coresOut := b.plat.coresOut }
    sec := { bootSeq := b.sec.bootSeq, prefSlot := b.sec.prefSlot, raiseArb := b.sec.raiseArb }
    jobs := { broken := b.jobs.broken, spareFor := b.jobs.spareFor }
    scent := { gone := b.scent.gone }
    herder := { seen := b.out.length }
    links := b.links.map fun e => (e.1, { lanesOut := e.2.lanesOut })
    xpt := { nonce := b.xpt.floor + 2 ^ 48, floor := b.xpt.floor + 2 ^ 48 }
    knl := { flash := { b.knl.flash with lost := b.knl.flash.formatted } } }

/-- What a warm reset keeps besides: the local counter, the pins, the clocks and the I3C address, of islands 54 and 55, which it does not
reset (R373). -/
def keptWarm (b : Body) : Body :=
  { keptBody b with
    tick := b.tick
    cxl := { perst := b.cxl.perst }
    plat := { (keptBody b).plat with clocksLost := b.plat.clocksLost, i3cAddr := b.plat.i3cAddr, ibi := b.plat.ibi, boundary := b.plat.boundary,
                                     bypassBit := b.plat.bypassBit, pinsTaken := b.plat.pinsTaken, highZ := b.plat.highZ } }

/-- A full reset: everything but what it keeps, repairs, boot from ROM (R337, R338, R388). -/
def fullReset (okA okB : Bool) : Act := look fun s =>
  acts [eff (.restart keptBody), setReg Reg.PWR_STRAPS (s.rd Reg.PWR_STRAPS), reapply s, bootRom okA okB]

/-- Registers of islands 54 and 55 that a warm reset keeps: readings, flags, straps and the instruction in force; not their configuration and
their counters (R373). -/
def warmRegs : List Nat :=
  [Reg.PWR_STATUS, Reg.PWR_ERR_FLAGS, Reg.PWR_STRAPS, Reg.PWR_ENERGY, Reg.PWR_LEAK, Reg.TST_ERR_FLAGS] ++ (List.range 8).map Reg.PWR_BLOCK
    ++ (List.range 11).map Reg.PWR_RAIL

/-- A warm reset (R373). After a flush the Kennel stays in POWER_LOSS until a full reset. -/
def warmReset (okA okB : Bool) : Act := look fun s =>
  acts [eff (.restart keptWarm),
        each (warmRegs.filter fun a => s.rd a != (regReset a).toNat) (fun a => setReg a (s.rd a)),
        setFld Fld.TST_STATUS_INSTRUCTION (s.get Fld.TST_STATUS_INSTRUCTION),
        when (s.knlState == KnlSt.powerLoss) (setFld Fld.KNL_STATUS_STATE KnlSt.powerLoss),
        reapply s, bootRom okA okB, lockPort, raise Blk.isl 15, raise Blk.glb 3]

/-! ### Power-on, PERST_N, WARM_RESET_N -/

/-- POWER_ON_RESET: the straps are sampled (R434) and the boot begins; a thermal trip ends with it (R430). -/
def actPowerOnReset (straps : Nat) (okA okB : Bool) : Act := look fun s =>
  acts [eff (.restart keptBody), setReg Reg.PWR_STRAPS (straps % 32), reapply s, bootRom okA okB]

/-- A fall of PERST_N: while the Kennel is in POWER_LOSS a full reset, else a host-interface reset (R338); during a flush it is held
(R428). -/
def actPerstFall (okA okB : Bool) : Act := look fun s =>
  if s.get Fld.PWR_STATUS_PF_STATE = 1 then onPlat fun p => { p with heldPerst := true }
  else if s.is Fld.PWR_STATUS_TRIP then nop
  else if s.knlState = KnlSt.powerLoss then fullReset okA okB
  else acts [onBody (fun b => { b with cxl := { b.cxl with perst := false } }), hostifReset]

/-- PERST_N rises: training starts (R337, steps 3 and 4). -/
def actPerstRise : Act := onBody fun b => { b with cxl := { b.cxl with perst := true } }

/-- WARM_RESET_N low; during a flush it is held (R428). -/
def actWarmReset (okA okB : Bool) : Act := look fun s =>
  if s.get Fld.PWR_STATUS_PF_STATE = 1 then onPlat fun p => { p with heldWarm := true }
  else if s.is Fld.PWR_STATUS_TRIP then nop
  else warmReset okA okB

/-- KNL_FLUSH_COMPLETE: the flush ends in POWER_LOSS; a fall of PERST_N or WARM_RESET_N held during it applies now (R314, R428). -/
def actFlushComplete (okA okB : Bool) : Act := look fun s =>
  let p := s.body.plat
  if s.get Fld.PWR_STATUS_PF_STATE ≠ 1 then nop
  else acts [actKnlFlush, onPlat (fun p => { p with heldPerst := false, heldWarm := false }),
             if p.heldPerst then fullReset okA okB else if p.heldWarm then warmReset okA okB else nop]

/-! ### Firmware-ready and the CXL link (R326, R337) -/

/-- FW_READY: far state is trained, the firmware is up and the link has trained: FW_READY and Memory_Active are set. After an activation with
MODE 1 the first one in the new image raises the anti-rollback count (R409). -/
def actFwReady : Act := look fun s =>
  if !s.body.plat.booted || s.is Fld.SEC_STATUS_RECOVERY || !s.body.cxl.perst || s.get Fld.GLB_STATUS_HOST_MODE = 0 || s.is Fld.GLB_STATUS_FW_READY then nop
  else acts [setFld Fld.GLB_STATUS_MEM_ACTIVE 1, setFld Fld.GLB_STATUS_FW_READY 1,
             when (s.body.sec.raiseArb && s.body.sec.runSlot == s.body.sec.prefSlot)
               (acts [raiseCount s.body.sec.runSlot, onSec fun x => { x with raiseArb := false }])]

/-- A width, a rate code and a mode the port can train to (R325, R326): CXL mode needs 8 GT/s or more. -/
def linkForm (width rate mode : Nat) : Bool :=
  [4, 8, 16].contains width && 1 ≤ rate && rate ≤ 5 && (mode == 2 || (mode == 1 && 3 ≤ rate))

/-- CXL_LINK_UP: the link reaches L0. -/
def actCxlLinkUp (width rate mode : Nat) : Act := look fun s =>
  if !s.body.cxl.perst || s.body.plat.clocksLost.contains 1 || !linkForm width rate mode then nop
  else acts [setFld Fld.CXL_LINK_STATUS_WIDTH width, setFld Fld.CXL_LINK_STATUS_RATE rate, setFld Fld.CXL_LINK_STATUS_MODE mode,
             setFld Fld.CXL_LINK_STATUS_TRAININGS (min 65535 (s.get Fld.CXL_LINK_STATUS_TRAININGS + 1)), setFld Fld.GLB_STATUS_HOST_MODE mode]

/-- SURPRISE_LINK_DOWN: as a host-interface reset, and reported (R325, R338). -/
def actLinkDown : Act := look fun s =>
  when (s.get Fld.GLB_STATUS_HOST_MODE != 0) (acts [raise Blk.cxl 2, emit .aer, hostifReset])

/-! ### Islands (R371, R372, R382) -/

/-- The running jobs. -/
def runningJobs (s : State) (p : Nat × Job → Bool) : List Nat := (s.body.jobs.jobs.filter fun x => x.2.st == .running && p x).map (·.1)

/-- What fails with an island's reset besides its crossings: the work that used its units (R371, R382). -/
def islandWork (n : Nat) : Act := look fun s =>
  if n ≤ 3 then each (jobsOnFrame s fun k => keyTier k == 0 && frameDie k == n) failRun
  else if n ≤ 11 then each [2 * (n - 4), 2 * (n - 4) + 1] fun g => look fun s => each (jobsOnGroup s 1 g) failRun
  else if n ≤ 19 then each [2 * (n - 12), 2 * (n - 12) + 1] fun g => look fun s => each (jobsOnGroup s 0 g) failRun
  else if 28 ≤ n ∧ n ≤ 31 then each (List.range 4) fun i => portDown (4 * (n - 28) + i)
  else if n = 32 then actLinkDown
  else if n = 44 ∨ n = 45 then when (s.get Fld.ISL_STATUS_MGMT_ACTIVE == n - 44) (onPlat fun p => { p with mgmtUp := false })
  else if n = 46 then actSecRestart false
  else if n = 47 then each ((s.body.sampling.live.filter fun e => e.2.st == .logging).map (·.1)) samplerFails
  else if n = 48 then each (tkeys s.body.mover.live) fun id => modMov id fun m => { m with status := movStatus m St.busyRetry }
  else if n = 51 then each (runningJobs s fun _ => true) failRun
  else nop

/-- ISL_RESET: an island is reset for a cause; `credits` of its crossings are discarded. -/
def actIslReset (n : Nat) (cause : ResetCause) (credits : Nat) : Act := acts [islandReset n IslSt.reset credits (causeFlag cause), islandWork n]

/-- LIMIT_BREACH: the offending island is halted. -/
def actLimitBreach (n credits : Nat) : Act := acts [islandReset n IslSt.halted credits (some 3), islandWork n]

/-! ### Reference clocks (R432): 0 REFCLK_SYS, 1 REFCLK_CXL, 2 + k REFCLK_PG[k] -/

/-- The islands clocked from REFCLK_SYS (R366): not the ports', the CXL port's, nor the always-on one, whose counter goes on. -/
def sysIslands : List Nat := (List.range 56).filter fun n => !(28 ≤ n && n ≤ 32) && n != 54

/-- REFCLK_LOSS. -/
def actRefclkLoss (c : Nat) : Act := look fun s =>
  if 5 < c || s.body.plat.clocksLost.contains c then nop
  else acts [onPlat (fun p => { p with clocksLost := p.clocksLost ++ [c] }), raiseWith Blk.pwr 4 { unit := c },
    if c = 0 then acts [each sysIslands fun n => actIslReset n .clock 0, eff (.credFlush none s.led.chip.inflight),
                        onPlat fun p => { p with heldReset := sysIslands, mgmtUp := false }]
    else if c = 1 then actLinkDown
    else each (List.range 4) fun i => portDown (4 * (c - 2) + i)]

/-- REFCLK_RESTORE: operation resumes without a device reset. -/
def actRefclkRestore (c : Nat) : Act := look fun s =>
  if !s.body.plat.clocksLost.contains c then nop
  else acts [onPlat (fun p => { p with clocksLost := p.clocksLost.filter (· != c) }),
    when (c == 0) (acts [each s.body.plat.heldReset (fun n => setIsl n IslSt.run), actSecRestart true,
                         onPlat fun p => { p with heldReset := [], mgmtUp := true }])]

/-! ### Executions -/
def execPowerOnReset (straps : Nat) (okA okB : Bool) (s : State) :=
  doneAlways (when (straps < 32) (actPowerOnReset straps okA okB)) s
def execPerstFall (okA okB : Bool) (s : State) := doneAlways (actPerstFall okA okB) s
def execPerstRise (s : State) := doneAlways actPerstRise s
def execWarmReset (okA okB : Bool) (s : State) := doneAlways (actWarmReset okA okB) s
def execFlushComplete (okA okB : Bool) (s : State) := doneAlways (actFlushComplete okA okB) s
def execFwReady (s : State) := done actFwReady s
def execCxlLinkUp (width rate mode : Nat) (s : State) :=
  done (when (width < 32 && rate < 8 && mode < 4) (actCxlLinkUp width rate mode)) s
def execLinkDown (s : State) := done actLinkDown s
def execIslReset (n : Nat) (cause : ResetCause) (credits : Nat) (s : State) :=
  done (when (n < 56) (actIslReset n cause credits)) s
def execLimitBreach (n credits : Nat) (s : State) :=
  done (when (n < 56) (actLimitBreach n credits)) s
def execRefclkLoss (c : Nat) (s : State) :=
  done (when (c < 6) (actRefclkLoss c)) s
def execRefclkRestore (c : Nat) (s : State) :=
  done (when (c < 6) (actRefclkRestore c)) s

end Sys2Proof.Machine
end

