-- ==== Sys2Proof/Machine/CxlCmds.lean ====
section
/-! DEFINITION. The CXL memory-device commands of the primary mailbox (R327, 12_host_interface.md), and the requests of the baseboard
controller over MCTP (R415, 14_security.md; R435, 15_package_power_test.md). The layouts of the CXL commands' payloads are those of CXL 2.0
(PRESUMED, log entry 4). -/

namespace Sys2Proof.Machine

/-! ### Answers -/

/-- A CXL command ends with a return code and an output payload. -/
def cxlEnd (code : Nat) (out : List Byte) : Act := look fun s => setMbox { s.body.mbox with cxlCmd := none, retCode := code, output := out }
def cxlOk (out : List Byte) : Act := cxlEnd cxlSuccess out

/-- The row of a CXL command: the command waiting in the mailbox, if it is this opcode, runs on its payload. Recovery answers it busy
(R408). -/
def runCxl (op : Nat) (f : List Byte → Act) : Act := look fun s =>
  match s.body.mbox.cxlCmd with
  | none => nop
  | some (o, p) =>
    if o ≠ op ∨ s.body.plat.mgmtUp = false then nop
    else if s.is Fld.SEC_STATUS_RECOVERY then cxlEnd cxlBusy []
    else f p

/-- A command whose input payload has n bytes. -/
def sized (n : Nat) (p : List Byte) (a : Act) : Act := if p.length = n then a else cxlEnd cxlInvalidLength []

/-- n bytes of a payload at an offset. -/
def pnum (p : List Byte) (off n : Nat) : Nat := leNat ((p.drop off).take n)

/-! ### Event records -/

/-- The handle of an event record: never 0. -/
def evHandle (r : BarkRec) : Nat := r.seq % 65535 + 1

/-- The timestamp at a local counter value: that of Set Timestamp plus the nanoseconds since, 0 if none was set. -/
def stampAt (s : State) (tick : Nat) : Nat := match s.body.cxl.timestamp with
  | none => 0
  | some (v, t) => (v + (tick - t)) % 2 ^ 64

/-- An event record: the common header and the Bark record. -/
def evRecord (s : State) (r : BarkRec) : List Byte :=
  (List.range 16).map Config.eventUuid ++ leBytes 1 128 ++ leBytes 3 r.severity ++ leBytes 2 (evHandle r) ++ leBytes 2 0 ++ leBytes 8 (stampAt s r.tick)
    ++ List.replicate 16 0 ++ barkBytes r ++ List.replicate 16 0

/-- Get Event Records: the oldest records of a log, as many as the payload of 64 KiB holds. -/
def cxlGetEvents (p : List Byte) : Act := sized 1 p (look fun s =>
  match s.body.cxl.logs[pnum p 0 1]? with
  | none => cxlEnd cxlInvalidInput []
  | some l =>
    let shown := l.take 511
    cxlOk (leBytes 1 (if shown.length < l.length then 2 else 0) ++ List.replicate 19 0 ++ leBytes 2 shown.length ++ List.replicate 10 0
      ++ shown.flatMap (evRecord s)))

def setLog (i : Nat) (l : List BarkRec) : Act := onBody fun b => { b with cxl := { b.cxl with logs := b.cxl.logs.set i l } }

/-- Clear Event Records: a whole log, or its oldest records by their handles in order. -/
def cxlClearEvents (p : List Byte) : Act := look fun s =>
  let i := pnum p 0 1
  let n := pnum p 2 1
  let handles := (List.range n).map fun k => pnum p (6 + 2 * k) 2
  match s.body.cxl.logs[i]? with
  | none => cxlEnd cxlInvalidInput []
  | some l =>
    if p.length < 6 + 2 * n then cxlEnd cxlInvalidLength []
    else if pnum p 1 1 % 2 = 1 then acts [setLog i [], cxlOk []]
    else if (l.take n).map evHandle = handles then acts [setLog i (l.drop n), cxlOk []]
    else cxlEnd cxlInvalidHandle []

def cxlGetPolicy (p : List Byte) : Act := sized 0 p (look fun s => cxlOk (s.body.cxl.policy.flatMap (leBytes 1)))
def cxlSetPolicy (p : List Byte) : Act :=
  sized 4 p (acts [onBody fun b => { b with cxl := { b.cxl with policy := p.map (·.toNat) } }, cxlOk []])

/-! ### Firmware -/

/-- The revision of a slot's image as 16 bytes of ASCII digits and dots. -/
def fwRevision (s : State) (slot : Nat) : List Byte :=
  let d (n : Nat) : List Byte := (Nat.toDigits 10 n).map fun c => BitVec.ofNat 8 c.toNat
  let l := d (imgNum s slot 0x010 1) ++ [0x2E] ++ d (imgNum s slot 0x011 1) ++ [0x2E] ++ d (imgNum s slot 0x012 2)
  (l ++ List.replicate 16 0).take 16

/-- Get FW Info: slots 1 (A) and 2 (B); the active one; the one an offline activation has staged. -/
def cxlFwInfo (p : List Byte) : Act := sized 0 p (look fun s =>
  let staged := if s.body.sec.raiseArb then s.body.sec.prefSlot + 1 else 0
  cxlOk (leBytes 1 2 ++ leBytes 1 (s.body.sec.runSlot + 1 + 8 * staged) ++ leBytes 1 1 ++ List.replicate 13 0
    ++ fwRevision s 0 ++ fwRevision s 1 ++ List.replicate 32 0))

/-- Transfer FW, equivalent to FW_STAGE: 128 header bytes, then image bytes at an offset in units of 128; an abort writes nothing. -/
def cxlTransferFw (p : List Byte) : Act := look fun s =>
  let slot := pnum p 1 1
  let off := 128 * pnum p 4 4
  if p.length < 128 then cxlEnd cxlInvalidLength []
  else if 4 < pnum p 0 1 then cxlEnd cxlInvalidInput []
  else if pnum p 0 1 = 4 then cxlOk []
  else if slot ≠ 1 ∧ slot ≠ 2 then cxlEnd cxlInvalidSlot []
  else match stageFault s (slot - 1) off (p.length - 128) with
    | some st => cxlEnd (cxlCode st) []
    | none => acts [store (Mem.fwSlot (slot - 1) + off) (p.drop 128), cxlOk []]

/-- Activate FW, equivalent to FW_ACTIVATE: action 0 online, the live update; 1 offline, at the next full reset. -/
def cxlActivateFw (verifies : Bool) (p : List Byte) : Act := sized 2 p
  (if 1 < pnum p 0 1 then cxlEnd cxlInvalidInput []
   else if pnum p 1 1 ≠ 1 ∧ pnum p 1 1 ≠ 2 then cxlEnd cxlInvalidSlot []
   else activate none (pnum p 1 1 - 1) (pnum p 0 1) verifies)

/-! ### Timestamp, logs, identity, health -/

def cxlGetTimestamp (p : List Byte) : Act := sized 0 p (look fun s => cxlOk (leBytes 8 (stampAt s s.body.tick)))
def cxlSetTimestamp (p : List Byte) : Act :=
  sized 8 p (acts [onBody fun b => { b with cxl := { b.cxl with timestamp := some (leNat p, b.tick) } }, cxlOk []])

/-- The CXL opcodes below 0xC000 that the device supports. -/
def cxlOpcodes : List Nat :=
  [0x0100, 0x0101, 0x0102, 0x0103, 0x0200, 0x0201, 0x0202, 0x0300, 0x0301, 0x0400, 0x0401, 0x4000, 0x4200]

/-- The opcodes of the Onaraef commands (R354). -/
def onaraefOpcodes : List Nat := (List.range 0x900).filter fun op => (opcodeSpec op).isSome

/-- The identifier of the Command Effects Log, and the log: opcode and effects of every command. -/
def celUuid : List Byte := [0x0D, 0xA9, 0xC0, 0xB5, 0xBF, 0x41, 0x4B, 0x78, 0x8F, 0x79, 0x96, 0xB1, 0x62, 0x3B, 0x3F, 0x17]
def celBytes : List Byte :=
  (cxlOpcodes ++ onaraefOpcodes.map (0xC000 + ·)).flatMap fun op => leBytes 2 op ++ leBytes 2 (Config.commandEffects op).toNat

def cxlSupportedLogs (p : List Byte) : Act := sized 0 p (cxlOk (leBytes 2 1 ++ List.replicate 6 0 ++ celUuid ++ leBytes 4 celBytes.length))

def cxlGetLog (p : List Byte) : Act := sized 24 p
  (let off := pnum p 16 4
   let n := pnum p 20 4
   if p.take 16 ≠ celUuid ∨ celBytes.length < off + n then cxlEnd cxlInvalidInput [] else cxlOk ((celBytes.drop off).take n))

/-- Identify Memory Device: capacities in units of 256 MiB: 64 GiB volatile, nothing persistent, no poison list. -/
def cxlIdentify (p : List Byte) : Act := sized 0 p (look fun s =>
  cxlOk (fwRevision s s.body.sec.runSlot ++ leBytes 8 256 ++ leBytes 8 256 ++ leBytes 8 0 ++ leBytes 8 0
    ++ ((List.range 4).flatMap fun i => leBytes 2 (Config.eventLogSize i).toNat) ++ leBytes 4 0 ++ leBytes 3 0 ++ leBytes 2 0 ++ leBytes 2 0))

/-- The largest percentage of any spare kind consumed, its whole part. -/
def lifeUsed (s : State) : Nat :=
  (List.range 10).foldl (fun m k =>
    let n := s.get (Fld.ISL_SPARE_INITIAL k)
    max m (if n = 0 then 0 else 100 * (n - s.sparesLeft k) / n)) 0

/-- The temperature of the hottest sensor in °C, its floor. -/
def hottest (s : State) : Int := ((List.range 56).map fun n => signedOf 12 (s.get (Fld.ISL_STATE_TEMP n)) / 8).foldl max (-256)

/-- Get Health Info. The spec does not say what health, media and additional status and the count of corrected errors show: free values. -/
def cxlHealth (p : List Byte) : Act := sized 0 p (look fun s =>
  let v := Config.free s.body.fresh
  acts [drawFree, cxlOk (leBytes 3 v ++ leBytes 1 (lifeUsed s) ++ leBytes 2 (wordOf 16 (hottest s)) ++ leBytes 4 0 ++ leBytes 4 (v / 2 ^ 24) ++ leBytes 4 0)])

/-- CXL_UNSUPPORTED_OPCODE: the waiting command's opcode is none of those supported. -/
def actCxlUnsupported : Act := look fun s =>
  match s.body.mbox.cxlCmd with
  | none => nop
  | some (o, _) => if cxlOpcodes.contains o then nop else runCxl o (fun _ => cxlEnd cxlUnsupported [])

/-! ### MCTP -/

/-- A request over MCTP: both interfaces stop at a power failure and with their pins taken; a core that does not run answers BUSY_RETRY. -/
def mctpReply (runs : State → Bool) (ok : Act) : Act := look fun s =>
  if s.get Fld.PWR_STATUS_PF_STATE ≠ 0 ∨ s.body.plat.pinsTaken then nop
  else if runs s then ok
  else emit (.mctp St.busyRetry [])

/-- The security core's firmware, and a management core's, run. -/
def secRuns (s : State) : Bool := !secBusy s && s.body.plat.booted && !s.is Fld.PWR_STATUS_TRIP
def mgmtRuns (s : State) : Bool := s.body.plat.mgmtUp && s.body.plat.booted && !s.is Fld.PWR_STATUS_TRIP

def actMctpCertificates : Act := mctpReply secRuns (emit (.mctp St.ok certOutput))
def actMctpQuote (nonce : List Byte) : Act :=
  mctpReply (fun s => secRuns s && !quoteBlocked s) (look fun s => acts [drawFree, count Reg.SEC_QUOTES 1, emit (.mctp St.ok (quote s nonce))])
def actMctpHealth : Act := mctpReply mgmtRuns (look fun s => emit (.mctp St.ok (health s)))
def powerStatus (s : State) : List Byte :=
  leBytes 8 (s.rd Reg.PWR_STATUS) ++ leBytes 8 (s.rd Reg.PWR_ERR_FLAGS) ++ (List.range 56).flatMap fun n => leBytes 2 (s.get (Fld.ISL_STATE_TEMP n))
def actMctpPower : Act := mctpReply (fun _ => true) (look fun s => emit (.mctp St.ok (powerStatus s)))

/-! ### Executions -/
def execGetEventRecords (s : State) := done (runCxl 0x0100 cxlGetEvents) s
def execClearEventRecords (s : State) := done (runCxl 0x0101 cxlClearEvents) s
def execGetEventPolicy (s : State) := done (runCxl 0x0102 cxlGetPolicy) s
def execSetEventPolicy (s : State) := done (runCxl 0x0103 cxlSetPolicy) s
def execGetFwInfo (s : State) := done (runCxl 0x0200 cxlFwInfo) s
def execTransferFw (s : State) := done (runCxl 0x0201 cxlTransferFw) s
def execActivateFw (verifies : Bool) (s : State) := done (runCxl 0x0202 (cxlActivateFw verifies)) s
def execGetTimestamp (s : State) := done (runCxl 0x0300 cxlGetTimestamp) s
def execSetTimestamp (s : State) := done (runCxl 0x0301 cxlSetTimestamp) s
def execGetSupportedLogs (s : State) := done (runCxl 0x0400 cxlSupportedLogs) s
def execGetLog (s : State) := done (runCxl 0x0401 cxlGetLog) s
def execIdentifyMemory (s : State) := done (runCxl 0x4000 cxlIdentify) s
def execGetHealthInfo (s : State) := done (runCxl 0x4200 cxlHealth) s
def execCxlUnsupported (s : State) := done actCxlUnsupported s
def execMctpCertificates (s : State) := doneAlways actMctpCertificates s
def execMctpQuote (nonce : List Byte) (s : State) :=
  doneAlways (when (nonce.length == 32) (actMctpQuote nonce)) s
def execMctpHealth (s : State) := doneAlways actMctpHealth s
def execMctpPower (s : State) := doneAlways actMctpPower s

end Sys2Proof.Machine
end

