-- ==== Sys2Proof/Machine/Dispatch.lean ====
section
/-! DEFINITION. The dispatcher: one arm per command of the table. -/

namespace Sys2Proof.Machine

def exec (i : Instr) (s : State) : Host.Outcome State Fault Refusal :=
  match i with
  | .ifaceOpen src => Sys2Proof.Machine.execIfaceOpen src s
  | .identify src => Sys2Proof.Machine.execIdentify src s
  | .configStage src => Sys2Proof.Machine.execConfigStage src s
  | .configCommit src => Sys2Proof.Machine.execConfigCommit src s
  | .configConfirm src => Sys2Proof.Machine.execConfigConfirm src s
  | .heel src => Sys2Proof.Machine.execHeel src s
  | .configRead src => Sys2Proof.Machine.execConfigRead src s
  | .configDiscard src => Sys2Proof.Machine.execConfigDiscard src s
  | .configConfirmTimeout => Sys2Proof.Machine.execConfirmTimeout s
  | .personalityReassign => Sys2Proof.Machine.execPersReassign s
  | .tenantQuery src => Sys2Proof.Machine.execTenantQuery src s
  | .reqAdmit src => Sys2Proof.Machine.execReqAdmit src s
  | .reqHandoff src => Sys2Proof.Machine.execReqHandoff src s
  | .reqClose src => Sys2Proof.Machine.execReqClose src s
  | .reqLogAppend src => Sys2Proof.Machine.execReqLogAppend src s
  | .reqReplay src => Sys2Proof.Machine.execReqReplay src s
  | .reqStatus src => Sys2Proof.Machine.execReqStatus src s
  | .reqChipDown src => Sys2Proof.Machine.execReqChipDown src s
  | .reqSetPartner src => Sys2Proof.Machine.execReqSetPartner src s
  | .reqSetMirror src => Sys2Proof.Machine.execReqSetMirror src s
  | .prefixCreate src => Sys2Proof.Machine.execPrefixCreate src s
  | .prefixRelease src => Sys2Proof.Machine.execPrefixRelease src s
  | .prefixDemote src => Sys2Proof.Machine.execPrefixDemote src s
  | .prefixPin src => Sys2Proof.Machine.execPrefixPin src s
  | .pageLoad src => Sys2Proof.Machine.execPageLoad src s
  | .embLoad src => Sys2Proof.Machine.execEmbLoad src s
  | .knlPark src missing => Sys2Proof.Machine.execKnlPark src missing s
  | .knlResume src => Sys2Proof.Machine.execKnlResume src s
  | .knlProfileLoad src pop => Sys2Proof.Machine.execKnlProfile src pop s
  | .knlFormat src => Sys2Proof.Machine.execKnlFormat src s
  | .knlHealth src => Sys2Proof.Machine.execKnlHealth src s
  | .knlKeyLoad src key => Sys2Proof.Machine.execKnlKeyLoad src key s
  | .bufPost src => Sys2Proof.Machine.execBufPost src s
  | .bufWithdraw src => Sys2Proof.Machine.execBufWithdraw src s
  | .podKeyInstall src key => Sys2Proof.Machine.execPodKeyInstall src key s
  | .health src => Sys2Proof.Machine.execHealth src s
  | .barkAck src => Sys2Proof.Machine.execBarkAck src s
  | .ledgerAudit src hold => Sys2Proof.Machine.execLedgerAudit src hold s
  | .spareMap src => Sys2Proof.Machine.execSpareMap src s
  | .fwInfo src => Sys2Proof.Machine.execFwInfo src s
  | .fwStage src => Sys2Proof.Machine.execFwStage src s
  | .fwActivate src verifies => Sys2Proof.Machine.execFwActivate src verifies s
  | .fwCoreUpdateDone ok => Sys2Proof.Machine.execFwCoreUpdateDone ok s
  | .attestQuote src => Sys2Proof.Machine.execAttestQuote src s
  | .certRead src => Sys2Proof.Machine.execCertRead src s
  | .testUnlock src verifies => Sys2Proof.Machine.execTestUnlock src verifies s
  | .testRelock => Sys2Proof.Machine.execTestRelock s
  | .getEventRecords => Sys2Proof.Machine.execGetEventRecords s
  | .clearEventRecords => Sys2Proof.Machine.execClearEventRecords s
  | .getEventInterruptPolicy => Sys2Proof.Machine.execGetEventPolicy s
  | .setEventInterruptPolicy => Sys2Proof.Machine.execSetEventPolicy s
  | .getFwInfo => Sys2Proof.Machine.execGetFwInfo s
  | .transferFw => Sys2Proof.Machine.execTransferFw s
  | .activateFw verifies => Sys2Proof.Machine.execActivateFw verifies s
  | .getTimestamp => Sys2Proof.Machine.execGetTimestamp s
  | .setTimestamp => Sys2Proof.Machine.execSetTimestamp s
  | .getSupportedLogs => Sys2Proof.Machine.execGetSupportedLogs s
  | .getLog => Sys2Proof.Machine.execGetLog s
  | .identifyMemoryDevice => Sys2Proof.Machine.execIdentifyMemory s
  | .getHealthInfo => Sys2Proof.Machine.execGetHealthInfo s
  | .cxlUnsupportedOpcode => Sys2Proof.Machine.execCxlUnsupported s
  | .mailboxDoorbell opcode payload => Sys2Proof.Machine.execMailboxDoorbell opcode payload s
  | .ringDoorbell r tail => Sys2Proof.Machine.execRingDoorbell r tail s
  | .cplHeadWrite r head => Sys2Proof.Machine.execCplHeadWrite r head s
  | .ringEnable r sizeLog2 irqEn coalesce => Sys2Proof.Machine.execRingEnable r sizeLog2 irqEn coalesce s
  | .ringDisable r sizeLog2 irqEn coalesce => Sys2Proof.Machine.execRingDisable r sizeLog2 irqEn coalesce s
  | .ringDisableDone r => Sys2Proof.Machine.execRingDisableDone r s
  | .commandComplete r => Sys2Proof.Machine.execCommandComplete r s
  | .coalesceWindowEnd r => Sys2Proof.Machine.execCoalesceWindowEnd r s
  | .registerWrite window addr size value => Sys2Proof.Machine.execRegisterWrite window addr size value s
  | .sctCalReqWrite w value => Sys2Proof.Machine.execCalReqWrite w value s
  | .brkOvfRearm mask => Sys2Proof.Machine.execBrkOvfRearm mask s
  | .hdmDecoderCommit base size ways => Sys2Proof.Machine.execHdmDecoderCommit base size ways s
  | .hostWindowWrite off bytes => Sys2Proof.Machine.execHostWindowWrite off bytes s
  | .hostWindowRead off len ue => Sys2Proof.Machine.execHostWindowRead off len ue s
  | .jobQueueDoorbell q tail => Sys2Proof.Machine.execJobDoorbell q tail s
  | .jobQueueReenable q => Sys2Proof.Machine.execJobReenable q s
  | .promptChunk q => Sys2Proof.Machine.execPromptChunk q s
  | .decode q => Sys2Proof.Machine.execDecode q s
  | .verifyChain q => Sys2Proof.Machine.execVerifyChain q s
  | .verifyTree q => Sys2Proof.Machine.execVerifyTree q s
  | .partial_ q => Sys2Proof.Machine.execPartial q s
  | .prefixPartial q => Sys2Proof.Machine.execPrefixPartial q s
  | .merge q => Sys2Proof.Machine.execMerge q s
  | .scentEval id noise outs wait => Sys2Proof.Machine.execScentEval id noise outs wait s
  | .jobDispatch pae => Sys2Proof.Machine.execJobDispatch pae s
  | .subjobEnd id cycles highWater => Sys2Proof.Machine.execSubjobEnd id cycles highWater s
  | .jobEnd id cycles highWater => Sys2Proof.Machine.execJobEnd id cycles highWater s
  | .stallLimit id => Sys2Proof.Machine.execStallLimit id s
  | .unitFault u => Sys2Proof.Machine.execUnitFault u s
  | .internalReplay smp id => Sys2Proof.Machine.execInternalReplay smp id s
  | .sampleQueueDoorbell q tail => Sys2Proof.Machine.execSmpDoorbell q tail s
  | .sample q ns => Sys2Proof.Machine.execSample q ns s
  | .acceptChain q ns => Sys2Proof.Machine.execAcceptChain q ns s
  | .acceptTree q ns => Sys2Proof.Machine.execAcceptTree q ns s
  | .gather q ns => Sys2Proof.Machine.execGather q ns s
  | .logTimeout id => Sys2Proof.Machine.execLogTimeout id s
  | .handoffStart m => Sys2Proof.Machine.execHandoffStart m s
  | .offer m tbl => Sys2Proof.Machine.execOffer m tbl s
  | .offerAck m => Sys2Proof.Machine.execOfferAck m s
  | .leashCas m => Sys2Proof.Machine.execLeashCas m s
  | .casResult m => Sys2Proof.Machine.execCasResult m s
  | .leashRelease m => Sys2Proof.Machine.execLeashRelease m s
  | .leashQuery m => Sys2Proof.Machine.execLeashQuery m s
  | .queryResult m => Sys2Proof.Machine.execQueryResult m s
  | .handoffCancel m => Sys2Proof.Machine.execHandoffCancel m s
  | .holdDrop m => Sys2Proof.Machine.execHoldDrop m s
  | .holdFree m => Sys2Proof.Machine.execHoldFree m s
  | .leashGrant m tbl => Sys2Proof.Machine.execLeashGrant m tbl s
  | .ping m => Sys2Proof.Machine.execPing m s
  | .pingAck m => Sys2Proof.Machine.execPingAck m s
  | .tokenAppend m => Sys2Proof.Machine.execTokenAppend m s
  | .tokenResult m => Sys2Proof.Machine.execTokenResult m s
  | .homeMoved m => Sys2Proof.Machine.execHomeMoved m s
  | .close m => Sys2Proof.Machine.execClose m s
  | .homeReleased m => Sys2Proof.Machine.execHomeReleased m s
  | .holdEmpty m => Sys2Proof.Machine.execHoldEmpty m s
  | .replayReport h chip epoch positions => Sys2Proof.Machine.execReplayReport h chip epoch positions s
  | .offerTimeout h => Sys2Proof.Machine.execOfferTimeout h s
  | .casTimeout h => Sys2Proof.Machine.execCasTimeout h s
  | .handoffLimit h => Sys2Proof.Machine.execHandoffLimit h s
  | .fetchStart => Sys2Proof.Machine.execFetchStart s
  | .fetchComplete h => Sys2Proof.Machine.execFetchComplete h s
  | .pingInterval => Sys2Proof.Machine.execPingInterval s
  | .ownerTimeout chip => Sys2Proof.Machine.execOwnerTimeout chip s
  | .homeFence => Sys2Proof.Machine.execHomeFence s
  | .partnerTakeover => Sys2Proof.Machine.execPartnerTakeover s
  | .backupReadTimer tag => Sys2Proof.Machine.execBackupReadTimer tag s
  | .farReadDone tag good refresh => Sys2Proof.Machine.execFarReadDone tag good refresh s
  | .prefetchRetry => Sys2Proof.Machine.execPrefetchRetry s
  | .copydownHoldExpiry k => Sys2Proof.Machine.execCopydownExpiry k s
  | .migrationStart k dst => Sys2Proof.Machine.execMigrationStart k dst s
  | .migrationCopyComplete k => Sys2Proof.Machine.execMigrationCopyComplete k s
  | .migrationFlipDone k => Sys2Proof.Machine.execMigrationFlipDone k s
  | .migrationDestFail k => Sys2Proof.Machine.execMigrationDestFail k s
  | .trackerGenAdvance => Sys2Proof.Machine.execTrackerAdvance s
  | .pageRead m => Sys2Proof.Machine.execPageRead m s
  | .pageData m hb data scale => Sys2Proof.Machine.execPageData m hb data scale s
  | .genStale m found => Sys2Proof.Machine.execGenStale m found s
  | .notSealed m => Sys2Proof.Machine.execNotSealed m s
  | .inval m => Sys2Proof.Machine.execInval m s
  | .invalAck m => Sys2Proof.Machine.execInvalAck m s
  | .drop m => Sys2Proof.Machine.execDrop m s
  | .fenceNotice m => Sys2Proof.Machine.execFenceNotice m s
  | .fenced m => Sys2Proof.Machine.execFenced m s
  | .flushDone m => Sys2Proof.Machine.execFlushDone m s
  | .invalTimeout k => Sys2Proof.Machine.execInvalTimeout k s
  | .load_ src tag addr size ue => Sys2Proof.Machine.execLoad src tag addr size ue s
  | .store_ src tag addr bytes => Sys2Proof.Machine.execStore src tag addr bytes s
  | .hintFetch src tag addr bytes => Sys2Proof.Machine.execHintFetch src tag addr bytes s
  | .fadd32 src tag addr value noret => Sys2Proof.Machine.execFadd32 src tag addr value noret s
  | .fadd64 src tag addr value noret => Sys2Proof.Machine.execFadd64 src tag addr value noret s
  | .cas32 src tag addr compare new noret => Sys2Proof.Machine.execCas32 src tag addr compare new noret s
  | .cas64 src tag addr compare new noret => Sys2Proof.Machine.execCas64 src tag addr compare new noret s
  | .umin32 src tag addr value noret => Sys2Proof.Machine.execUmin32 src tag addr value noret s
  | .umin64 src tag addr value noret => Sys2Proof.Machine.execUmin64 src tag addr value noret s
  | .umax32 src tag addr value noret => Sys2Proof.Machine.execUmax32 src tag addr value noret s
  | .umax64 src tag addr value noret => Sys2Proof.Machine.execUmax64 src tag addr value noret s
  | .smin32 src tag addr value noret => Sys2Proof.Machine.execSmin32 src tag addr value noret s
  | .smin64 src tag addr value noret => Sys2Proof.Machine.execSmin64 src tag addr value noret s
  | .smax32 src tag addr value noret => Sys2Proof.Machine.execSmax32 src tag addr value noret s
  | .smax64 src tag addr value noret => Sys2Proof.Machine.execSmax64 src tag addr value noret s
  | .fpadd32 src tag addr value noret => Sys2Proof.Machine.execFpadd32 src tag addr value noret s
  | .accessAnswer tag status data => Sys2Proof.Machine.execAccessAnswer tag status data s
  | .loadTimeout page tag => Sys2Proof.Machine.execLoadTimeout page tag s
  | .fabricFence who => Sys2Proof.Machine.execFabricFence who s
  | .acnArm window counter target route => Sys2Proof.Machine.execAcnArm window counter target route s
  | .acnDisarm window counter target route => Sys2Proof.Machine.execAcnDisarm window counter target route s
  | .acnSignal window counter value => Sys2Proof.Machine.execAcnSignal window counter value s
  | .movQueueDoorbell q tail => Sys2Proof.Machine.execMovDoorbell q tail s
  | .copy_ q => Sys2Proof.Machine.execCopy q s
  | .copyPage q => Sys2Proof.Machine.execCopyPage q s
  | .fill q => Sys2Proof.Machine.execFill q s
  | .barrier q => Sys2Proof.Machine.execBarrier q s
  | .moverDescriptorEnd id => Sys2Proof.Machine.execMoverEnd id s
  | .sendQueueDoorbell q tail => Sys2Proof.Machine.execSendDoorbell q tail s
  | .send q read => Sys2Proof.Machine.execSend q read s
  | .dataPacketReceive packet resends blockFail => Sys2Proof.Machine.execDataPacket packet resends blockFail s
  | .ackPacketReceive packet => Sys2Proof.Machine.execAckPacket packet s
  | .rtoExpiry seq read => Sys2Proof.Machine.execRtoExpiry seq read s
  | .sendGiveUp seq => Sys2Proof.Machine.execSendGiveUp seq s
  | .fillTimeout buf => Sys2Proof.Machine.execFillTimeout buf s
  | .flitReceive p f => Sys2Proof.Machine.execFlitReceive p f s
  | .nak p f => Sys2Proof.Machine.execNak p f s
  | .replayTimeout p => Sys2Proof.Machine.execReplayTimeout p s
  | .retrain p => Sys2Proof.Machine.execRetrain p s
  | .retrainDone p => Sys2Proof.Machine.execRetrainDone p s
  | .retrainTimeout p => Sys2Proof.Machine.execRetrainTimeout p s
  | .portUp p width peer => Sys2Proof.Machine.execPortUp p width peer s
  | .laneFail p lane => Sys2Proof.Machine.execLaneFail p lane s
  | .spareLaneTrained p => Sys2Proof.Machine.execSpareLaneTrained p s
  | .herderSelect p => Sys2Proof.Machine.execHerderSelect p s
  | .shaperRefill => Sys2Proof.Machine.execShaperRefill s
  | .collarRefill t k => Sys2Proof.Machine.execCollarRefill t k s
  | .resvTimeout kind h step => Sys2Proof.Machine.execResvTimeout kind h step s
  | .sctCalibrationStart macroNo => Sys2Proof.Machine.execCalStart macroNo s
  | .sctCalibrationEnd macroNo gain offset temp ok => Sys2Proof.Machine.execCalEnd macroNo gain offset temp ok s
  | .knlProgramDone unit => Sys2Proof.Machine.execKnlProgramDone unit s
  | .knlProgramFail unit => Sys2Proof.Machine.execKnlProgramFail unit s
  | .knlReadDone what e => Sys2Proof.Machine.execKnlReadDone what e s
  | .knlEraseDone sb failed => Sys2Proof.Machine.execKnlEraseDone sb failed s
  | .knlJournalTimer => Sys2Proof.Machine.execKnlJournalTimer s
  | .knlGcStart g => Sys2Proof.Machine.execKnlGcStart g s
  | .knlFold => Sys2Proof.Machine.execKnlFold s
  | .knlWlMove => Sys2Proof.Machine.execKnlWlMove s
  | .knlRestart => Sys2Proof.Machine.execKnlRestart s
  | .knlFlushComplete okA okB => Sys2Proof.Machine.execFlushComplete okA okB s
  | .knlTempMinute temp => Sys2Proof.Machine.execKnlTempMinute temp s
  | .knlDieFail die => Sys2Proof.Machine.execKnlDieFail die s
  | .islIdleStop island => Sys2Proof.Machine.execIslIdleStop island s
  | .whistle island => Sys2Proof.Machine.execWhistle island s
  | .islReset island cause credits => Sys2Proof.Machine.execIslReset island cause credits s
  | .islResetEnd island => Sys2Proof.Machine.execIslResetEnd island s
  | .islThrottle island freq temp cause => Sys2Proof.Machine.execIslThrottle island freq temp cause s
  | .limitBreach island credits => Sys2Proof.Machine.execLimitBreach island credits s
  | .barkIrqWindowEnd => Sys2Proof.Machine.execBarkIrqWindowEnd s
  | .ledgerAuditTimer hold => Sys2Proof.Machine.execLedgerAuditTimer hold s
  | .patrolTest u fails => Sys2Proof.Machine.execPatrolTest u fails s
  | .coreFault core => Sys2Proof.Machine.execCoreFault core s
  | .mgmtTakeover => Sys2Proof.Machine.execMgmtTakeover s
  | .secRestart back => Sys2Proof.Machine.execSecRestart back s
  | .secReentry back => Sys2Proof.Machine.execSecReentry back s
  | .podKeyRotate => Sys2Proof.Machine.execPodKeyRotate s
  | .repairBurn => Sys2Proof.Machine.execRepairBurn s
  | .powerOnReset straps okA okB => Sys2Proof.Machine.execPowerOnReset straps okA okB s
  | .fwReady => Sys2Proof.Machine.execFwReady s
  | .perstNFall okA okB => Sys2Proof.Machine.execPerstFall okA okB s
  | .perstNRise => Sys2Proof.Machine.execPerstRise s
  | .cxlLinkUp width rate mode => Sys2Proof.Machine.execCxlLinkUp width rate mode s
  | .surpriseLinkDown => Sys2Proof.Machine.execLinkDown s
  | .warmResetN okA okB => Sys2Proof.Machine.execWarmReset okA okB s
  | .pwrfailFall => Sys2Proof.Machine.execPwrfailFall s
  | .railUv rail => Sys2Proof.Machine.execRailUv rail s
  | .railOv rail => Sys2Proof.Machine.execRailOv rail s
  | .thermAlert island temp => Sys2Proof.Machine.execThermAlert island temp s
  | .thermAlertRelease => Sys2Proof.Machine.execThermRelease s
  | .thermalTrip island => Sys2Proof.Machine.execThermalTrip island s
  | .refclkLoss clock => Sys2Proof.Machine.execRefclkLoss clock s
  | .refclkRestore clock => Sys2Proof.Machine.execRefclkRestore clock s
  | .tapIdcode => Sys2Proof.Machine.execTapIdcode s
  | .tapSamplePreload cells => Sys2Proof.Machine.execTapSample cells s
  | .tapExtest => Sys2Proof.Machine.execTapExtest s
  | .tapExtestPulse => Sys2Proof.Machine.execTapExtestPulse s
  | .tapExtestTrain => Sys2Proof.Machine.execTapExtestTrain s
  | .tapHighz => Sys2Proof.Machine.execTapHighz s
  | .tapClamp => Sys2Proof.Machine.execTapClamp s
  | .tapBypass enc => Sys2Proof.Machine.execTapBypass enc s
  | .tapScanBist enc => Sys2Proof.Machine.execTapScanBist enc s
  | .tapCoreDebug enc => Sys2Proof.Machine.execTapCoreDebug enc s
  | .tapEfuseRead enc => Sys2Proof.Machine.execTapEfuseRead enc s
  | .trst => Sys2Proof.Machine.execTrst s
  | .mctpCertificates => Sys2Proof.Machine.execMctpCertificates s
  | .mctpQuote nonce => Sys2Proof.Machine.execMctpQuote nonce s
  | .mctpHealth => Sys2Proof.Machine.execMctpHealth s
  | .mctpPowerStatus => Sys2Proof.Machine.execMctpPower s
  | .i3cSetdasa static dyn => Sys2Proof.Machine.execSetdasa static dyn s
  | .i3cEntdaa dyn => Sys2Proof.Machine.execEntdaa dyn s
  | .mirrorUpdate home n u => Sys2Proof.Machine.execMirrorUpdate home n u s
  | .mirrorAck n => Sys2Proof.Machine.execMirrorAck n s
  | .islandRestart island => Sys2Proof.Machine.execIslandRestart island s
  | .sctRecalTemperature macroNo temp => Sys2Proof.Machine.execRecalTemp macroNo temp s
  | .firstPassComplete h l => Sys2Proof.Machine.execFirstPassComplete h l s

end Sys2Proof.Machine
end

