-- ==== Sys2Proof/Machine/Step.lean ====
section
/-! DEFINITION. One step of the block: the command at the front of the queue is carried out with the queue's rest. With no
command waiting the block idles for one tick of its local 1 GHz counter (DESIGN CHOICE, log entry 15). -/

namespace Sys2Proof.Machine

/-- A step with nothing to do: the local counter counts one tick (R174, GLB_LOCAL_CTR). -/
def idle (s : State) : State := { s with body := { s.body with tick := s.body.tick + 1 } }

/-- One step. -/
def step (s : State) : Host.Outcome State Fault Refusal :=
  match s.pending with
  | [] => .next (idle s)
  | c :: rest => exec c { s with pending := rest }

/-- The command a table word spells, put at the front of the queue. -/
def State.withFetchWord (s : State) (nbits w : Nat) : State :=
  match decodeTableWord nbits w with
  | some c => { s with pending := c :: s.pending }
  | none => s

end Sys2Proof.Machine
end

