-- ==== Sys2Proof/Safety.lean ====
section
/-! DEFINITION. What a run keeps and when it is safe, in the terms statements use: the canonical form of memory and registers, the six ledger
identities (R389, R282, 13_resilience.md), the accounting of the Bark ring (R378), runs, and the commands that a stopped device still
carries out. -/

namespace Sys2Proof.Machine

/-- The memory's canonical form: addresses strictly rising, no byte equal to what an unwritten one reads as. -/
def Memory.wf (m : List Host.Cell) : Bool := canon memDefault m

/-- The register file's canonical form, and that of the tenant-window counters. -/
def regsWf (m : List (Nat × W64)) : Bool := canon regReset m
def tregWf (m : List (Nat × Nat)) : Bool := canon (fun _ => 0) m

/-- Everything kept as canonical lists is in its canonical form. -/
def State.canonical (s : State) : Prop := Memory.wf s.mem = true ∧ regsWf s.regs = true ∧ tregWf s.treg = true

/-- ISSUED = RETURNED + INFLIGHT + FLUSHED (R243, R369). -/
def Credits.balanced (c : Credits) : Prop := c.issued = c.returned + c.inflight + c.flushed

/-- GRANTED = SPENT + HELD + EXPIRED, with HELD the balance and the reserved tokens (R282). -/
def CollarAcct.balanced (c : CollarAcct) : Prop := (c.granted : Int) = c.spent + (c.balance + c.reserved) + c.expired

/-- The six identities of R389 hold; the counts by status keep one entry for each status. -/
structure Ledger.balanced (l : Ledger) : Prop where
  credits : l.chip.balanced ∧ ∀ e ∈ l.ports, Credits.balanced e.2
  buffers : l.bufPosted = l.bufCompleted + l.bufOutstanding + l.bufWithdrawn
  collars : ∀ e ∈ l.collars, CollarAcct.balanced e.2
  arrivals : l.increments = sumCounts l.jobStatus + sumCounts l.smpDone + sumCounts l.movDone + l.signals + l.msgDone
  requests : l.admitted = l.closed + l.failed + l.live
  references : l.refTaken = l.refDropped + l.refLive
  rising : risingKeys l.jobStatus = true ∧ risingKeys l.smpDone = true ∧ risingKeys l.movDone = true

/-- BRK_MADE = BRK_STORED + BRK_OVF_TOTAL, and never more than the 4,096 entries of the ring are unacknowledged (R378). -/
structure Bark.accounted (b : Bark) : Prop where
  made : b.made = b.stored + b.ovf
  head : b.head ≤ b.stored
  room : b.stored ≤ b.head + 4096

/-- The block answers n steps from s with s'. -/
def Reaches : Nat → State → State → Prop
  | 0, s, t => s = t
  | n + 1, s, t => ∃ u, step s = .next u ∧ Reaches n u t

/-- A safe run: n steps that end in no fault and no refusal. -/
def Safe (n : Nat) (s : State) : Prop := ∃ t, Reaches n s t

/-- Commands that the stopped device carries out too (R428, R430, R435, R440): the pins, supplies and clocks of the always-on island, the
TAP, the management bus, and the flush of the Kennel. -/
def runsStopped : Instr → Bool
  | .pwrfailFall | .railUv _ | .railOv _ | .thermAlertRelease | .thermalTrip _ => true
  | .tapIdcode | .tapSamplePreload _ | .tapExtest | .tapExtestPulse | .tapExtestTrain | .tapHighz | .tapClamp | .tapBypass _ => true
  | .tapScanBist _ | .tapCoreDebug _ | .tapEfuseRead _ | .trst => true
  | .i3cSetdasa _ _ | .i3cEntdaa _ | .mctpCertificates | .mctpQuote _ | .mctpHealth | .mctpPowerStatus => true
  | .powerOnReset _ _ _ | .perstNFall _ _ | .perstNRise | .warmResetN _ _ | .knlFlushComplete _ _ => true
  | .knlProgramDone _ | .knlProgramFail _ => true
  | _ => false

/-- Rows that change registers, the Bark ring and the rest of the state, and neither memory nor ledgers. -/
def quietRow : Instr → Bool
  | .getEventRecords | .clearEventRecords | .getEventInterruptPolicy | .setEventInterruptPolicy | .getFwInfo | .getTimestamp => true
  | .setTimestamp | .getSupportedLogs | .getLog | .identifyMemoryDevice | .getHealthInfo | .cxlUnsupportedOpcode => true
  | .brkOvfRearm _ | .hdmDecoderCommit _ _ _ | .hostWindowRead _ _ _ | .sctRecalTemperature _ _ | .knlTempMinute _ | .knlJournalTimer => true
  | .islIdleStop _ | .whistle _ | .islResetEnd _ | .islThrottle _ _ _ _ | .islandRestart _ | .barkIrqWindowEnd => true
  | .coreFault _ | .mgmtTakeover | .secRestart _ | .secReentry _ | .podKeyRotate | .repairBurn | .testRelock => true
  | .fwReady | .perstNRise | .cxlLinkUp _ _ _ | .surpriseLinkDown | .pwrfailFall | .railUv _ | .railOv _ | .thermAlert _ _ | .thermAlertRelease => true
  | .thermalTrip _ | .tapIdcode | .tapSamplePreload _ | .tapExtest | .tapExtestPulse | .tapExtestTrain | .tapHighz | .tapClamp | .tapBypass _ => true
  | .tapScanBist _ | .tapCoreDebug _ | .tapEfuseRead _ | .trst | .mctpCertificates | .mctpQuote _ | .mctpHealth | .mctpPowerStatus => true
  | .i3cSetdasa _ _ | .i3cEntdaa _ => true
  | _ => false

/-! ### When a command has its own effect -/

/-- A command that the device carries out: the device works, and the command names what the device has. -/
structure Takes (s : State) (c : Instr) : Prop where
  works : s.works = true
  form : c.wf = true

/-- An Onaraef command counts as running (R342). -/
def State.begun (s : State) (src : Src) (c : Cmd) : State := run (setCmdStatus { src := src, seq := c.seq } .running) s

/-- An Onaraef command runs: the device works, the command is the first of its opcode that its source has taken, that waits, and whose
objects no earlier command of the source holds (R342), and it passes the common checks of R348; u is the state in which it counts as
running. -/
structure Runs (s : State) (src : Src) (op : Nat) (c : Cmd) (u : State) : Prop where
  works : s.works = true
  turn : pickCmd s src op = some c
  checks : commonCheck s src c = none
  begun : u = s.begun src c

/-- A command names a request homed at this chip, which is not fenced: its entry, after the look at its budget (R13, R173, R193, R353). -/
structure AtRequest (v : State) (h : Nat) (u : State) (q : HomeReq) : Prop where
  here : (v.req h).isSome = true
  mode : v.homeMode ≠ 2
  looked : u = run (lateCheck h) v
  entry : u.req h = some q

/-- It names a live request that is not closing and that no replay holds (R13, R14). -/
structure AtLive (v : State) (h : Nat) (u : State) (q : HomeReq) : Prop extends AtRequest v h u q where
  live : phaseLive q.record.phase = true
  open_ : q.closing = false ∨ q.record.phase = .handoff
  noReplay : q.record.replayPending = false ∧ q.record.replaying = false

/-- A message for the home of a live request homed at this chip: its entry, after the look at its budget (R173, R182). -/
structure AtHome (s : State) (m : Msg) (u : State) (q : HomeReq) : Prop where
  works : s.works = true
  form : m.wf = true
  here : (s.req m.handle).any (fun q => phaseLive q.record.phase) = true
  looked : u = run (lateCheck m.handle) s
  entry : u.req m.handle = some q

/-- A message for a chip that R180 does not discard: its handle is not of an older incarnation, and its epoch is not older than the
chip's, unless the chip is the request's home or the message is the result it asked for. -/
structure AtChip (s : State) (result : Bool) (m : Msg) : Prop where
  works : s.works = true
  form : m.wf = true
  current : staleHandle s m.handle = false
  epoch : ∀ c, s.loc m.handle = some c → result = true ∨ (s.req m.handle).isSome = true ∨ locEpoch c ≤ m.epoch

/-- The next descriptor of a job queue is that of slot i, of an opcode, and waits for no acceptance (R64, R70). -/
structure AtSlot (s : State) (q i op : Nat) : Prop where
  next : nextSlot s q = some i
  opcode : (slotDesc s q i).op = op
  free : awaitsCommit s (slotDesc s q i) = false

/-- A CXL memory-device command waits in the primary mailbox, and a management core takes it; the device is not in recovery (R327, R408). -/
structure CxlRuns (s : State) (op : Nat) (p : List Byte) : Prop where
  works : s.works = true
  cmd : s.body.mbox.cxlCmd = some (op, p)
  mgmt : s.body.plat.mgmtUp = true
  normal : s.is Fld.SEC_STATUS_RECOVERY = false

/-- An atomic has put a new word of w bytes at a place, has left every other byte and every register as they were, and has answered with
the old word, or with nothing where NORET is set (R209). -/
structure AtomicDone (s t : State) (src : AccFrom) (tag p w new : Nat) (noret : Bool) : Prop where
  value : t.num p w = new
  others : ∀ a, a < p ∨ p + w ≤ a → t.byte a = s.byte a
  answered : t.body.out = s.body.out ++ [Output.answer (accTag src) tag Ans.ok (if noret then [] else leBytes w (s.num p w))]
  regs : t.regs = s.regs

end Sys2Proof.Machine
end

