-- ==== Sys2Proof/Certificates/Slice0/Obligations.lean ====
section
/-! DEFINITION. The statements for the provers: what each command does where it has its own effect, and what every step keeps. -/

open Sys2Proof Sys2Proof.Machine

/-- A step with a command at the front of the queue is that command on the state with the queue's rest. The queue and its step are the model's
own form of a block (log entry 15). -/
def Obligations.StepRunsFront : Prop :=
  ∀ (c : Instr) (q : List Instr) (s : State), step { s with pending := c :: q } = exec c { s with pending := q }

/-- A command that answers a next state leaves the queue of waiting commands as it is. The queue is the model's own (log entry 15). -/
def Obligations.ExecKeepsQueue : Prop :=
  ∀ (c : Instr) (s t : State), exec c s = .next t → t.pending = s.pending

/-- On an empty queue a step advances the local counter by one and changes nothing else; that time passes on an empty queue is the model's
choice (log entry 15). -/
def Obligations.IdleIsOneTick : Prop :=
  ∀ s : State, s.pending = [] →
    step s = .next { s with body := { s.body with tick := s.body.tick + 1 } }

/-- IFACE_OPEN with the device's major version agrees on the smaller minor version, for the ring or the mailbox it came on, and completes with
OK. IDENTIFY and TENANT_QUERY complete with OK and their output where OUT_LEN holds it; the tenant's report has 1,792 bytes. -/
def Obligations.InterfaceCommands : Prop :=
  (∀ s src c u, Runs s src 0x0101 c u → c.arg 0 8 = u.get Fld.GLB_VERSION_IFACE_MAJOR →
    exec (.ifaceOpen src) s = .next (run (acts [setIface src (min (c.arg 1 8) (u.get Fld.GLB_VERSION_IFACE_MINOR)),
      finOk ⟨src, c.seq⟩ (leBytes 1 (c.arg 0 8) ++ leBytes 1 (min (c.arg 1 8) (u.get Fld.GLB_VERSION_IFACE_MINOR)) ++ leBytes 2 0
        ++ leBytes 4 (u.rd Reg.GLB_VERSION))]) u)) ∧
  (∀ s r minor, (run (setIface (.ring r) minor) s).negotiated (.ring r) = true) ∧
  (∀ s minor, (run (setIface .mailbox minor) s).negotiated .mailbox = true) ∧
  (∀ s src c u, Runs s src 0x0102 c u → (identifyOut u src).length ≤ c.outLen →
    exec (.identify src) s = .next (run (finish ⟨src, c.seq⟩ St.ok 0 (identifyResult u) (identifyOut u src)) u)) ∧
  (∀ s src c u, Runs s src 0x0201 c u → 1792 ≤ c.outLen →
    exec (.tenantQuery src) s = .next (run (finish ⟨src, c.seq⟩ St.ok 0 [] (tenantReport u (c.arg 0 16))) u)) ∧
  (∀ s t, (tenantReport s t).length = 1792)

/-- CONFIG_STAGE puts its items in the staged set and answers their number; CONFIG_READ answers the items asked for; CONFIG_DISCARD empties the
staged set; CONFIG_CONFIRM of the pending version settles it; CONFIG_COMMIT of a greater version that passes validation, HEEL and the
automatic Heel take effect at once, or, where they change the personality, start and take effect at PERSONALITY_REASSIGN once no sub-job
runs on a unit whose kind changes. -/
def Obligations.ConfigurationCommands : Prop :=
  (∀ s src c u l, Runs s src 0x0103 c u → u.body.conf.run = none →
    parseItems (cmdInput u src c).length (cmdInput u src c) 0 u.body.conf.staged = .ok l →
    exec (.configStage src) s = .next (run (acts [onConf fun x => { x with staged := l }, finOk ⟨src, c.seq⟩ (leBytes 4 l.length)]) u)) ∧
  (∀ s src c u, Runs s src 0x0107 c u → ((configItems u (c.arg 0 8)).flatMap itemBytes).length ≤ c.outLen →
    exec (.configRead src) s = .next (run (finish ⟨src, c.seq⟩ St.ok 0 [] ((configItems u (c.arg 0 8)).flatMap itemBytes)) u)) ∧
  (∀ s src c u, Runs s src 0x0108 c u → u.body.conf.run = none →
    exec (.configDiscard src) s = .next (run (acts [onConf fun x => { x with staged := [] }, fin ⟨src, c.seq⟩ St.ok]) u)) ∧
  (∀ s src c u, Runs s src 0x0105 c u → u.body.conf.run = none → u.is Fld.GLB_STATUS_CFG_PENDING = true →
    u.get Fld.GLB_CFG_PEND_PENDING = c.arg 0 32 →
    exec (.configConfirm src) s = .next (run (acts [setFld Fld.GLB_STATUS_CFG_PENDING 0, setReg Reg.GLB_CFG_PEND 0, setReg Reg.GLB_CFG_DEADLINE 0,
      onConf (fun x => { x with heelDue := false }), fin ⟨src, c.seq⟩ St.ok]) u)) ∧
  (∀ s src c u r, Runs s src 0x0104 c u → u.body.conf.run = none → u.body.plat.fwAct = none → u.is Fld.GLB_STATUS_CFG_PENDING = false →
    u.get Fld.GLB_CFG_VER_RUNNING < c.arg 0 32 → configOk u (tentative u u.body.conf.staged) = true →
    r = ⟨some ⟨src, c.seq⟩, c.arg 0 32, u.body.conf.staged, c.arg 8 64, false, false⟩ →
    exec (.configCommit src) s = .next (run (startRun r) u)) ∧
  (∀ s src c u l, Runs s src 0x0106 c u → u.body.conf.run = none → u.body.plat.fwAct = none → u.body.conf.previous = some l →
    exec (.heel src) s = .next (run (startRun ⟨some ⟨src, c.seq⟩, u.get Fld.GLB_CFG_VER_PREVIOUS, restoreItems u l, 0, true, false⟩) u)) ∧
  (∀ s l, s.works = true → s.is Fld.GLB_STATUS_CFG_PENDING = true → s.body.conf.run = none → s.body.plat.fwAct = none →
    s.body.conf.previous = some l →
    exec .configConfirmTimeout s = .next (run (startRun ⟨none, s.get Fld.GLB_CFG_VER_PREVIOUS, restoreItems s l, 0, true, true⟩) s)) ∧
  (∀ s r, (∀ p, (run (onConf fun x => { x with run := some r }) s).nextPers = some p → p = s.rd Reg.GLB_PERS) →
    run (startRun r) s = run (finishRun r) (run (onConf fun x => { x with run := some r }) s)) ∧
  (∀ s r p, (run (onConf fun x => { x with run := some r }) s).nextPers = some p → p ≠ s.rd Reg.GLB_PERS →
    run (startRun r) s = run (onConf fun x => { x with run := some r }) s) ∧
  (∀ s r, s.works = true → s.body.conf.run = some r →
    (∀ e g, e < 2 → g < 16 → changing s e g = true →
      bitsOf (if e = 0 then s.get Fld.DAE_STATUS_GROUPS_BUSY else s.get Fld.PAE_STATUS_GROUPS_BUSY) g 1 = 0 ∧ s.isl (groupIsland e g) ≠ IslSt.reset) →
    exec .personalityReassign s = .next (run (finishRun r) s))

/-- When a commit takes effect, its version is the running version and the version that ran is the previous one, the staged set is empty, and
the reset-locked state begins; with no confirmation count the configuration is settled. A Heel makes the previous version the running one,
and no previous version remains. The registers are in their canonical form. -/
def Obligations.CommitSetsVersion : Prop :=
  (∀ s r, s.canonical → r.heel = false → r.version < 2 ^ 32 →
    (run (finishRun r) s).get Fld.GLB_CFG_VER_RUNNING = r.version ∧
    (run (finishRun r) s).get Fld.GLB_CFG_VER_PREVIOUS = s.get Fld.GLB_CFG_VER_RUNNING) ∧
  (∀ s r, s.canonical → r.heel = true → r.version < 2 ^ 32 →
    (run (finishRun r) s).get Fld.GLB_CFG_VER_RUNNING = r.version ∧
    (run (finishRun r) s).get Fld.GLB_CFG_VER_PREVIOUS = 0)

/-- A REQ_ADMIT of an enabled tenant whose prefixes, limit and state mirror are as they must be, with a free slot and room for the log, admits
the request: the state is that of the admission followed by its completion with the handle and the log's place. Its record is ADMITTED at
OWNER_EPOCH 1 with the home as owner and holds what the command says; its Leash state is that of the owner at epoch 1; an incarnation of
zero is never issued. -/
def Obligations.AdmissionCompletes : Prop :=
  (∀ s src c u r m ps slot log, Runs s src 0x0301 c u → u.tenantRec (c.arg 0 16) = some r → u.modelOfTenant (c.arg 0 16) = some m →
    admitPrefixes u (c.arg 0 16) m ([c.arg 16 64, c.arg 24 64].filter (· != 0)) = some ps → u.homeMode ≠ 2 → tenantEnabled r = true →
    ((longest ps).map (·.positions)).getD 0 ≤ admitMax c →
    (∀ x, admitMirror c = some x → u.inPod x = true ∧ x ≠ u.chipId) →
    admitSlot u = some slot → placeLog u (4096 * logUnits (admitMax c)) = some log →
    exec (.reqAdmit src) s = .next (run (homeFin ⟨src, c.seq⟩ St.ok (leBytes 8 (admitHandle u slot) ++ leBytes 8 log))
      (run (admitReq u c m ps slot log (((longest ps).map (·.positions)).getD 0)) u))) ∧
  (∀ s c slot log pos, (admitRecord s c slot log pos).phase = .admitted ∧ (admitRecord s c slot log pos).epoch = 1 ∧
    (admitRecord s c slot log pos).owner = some s.chipId ∧ (admitRecord s c slot log pos).tenant = c.arg 0 16 ∧
    (admitRecord s c slot log pos).cls = c.arg 2 8 ∧ (admitRecord s c slot log pos).maxPositions = admitMax c ∧
    (admitRecord s c slot log pos).budgetUs = c.arg 8 32 ∧ (admitRecord s c slot log pos).logPtr = log) ∧
  (∀ s c m ps pos, (admitLoc s c m ps pos).st = .owner 1) ∧
  (∀ n, n < 2 ^ 32 → 0 < nextInc n ∧ nextInc n < 2 ^ 32) ∧
  (∀ s c m slot log pos, s.homeMode = 0 → s.chipId < 2 ^ 16 → slot < 2 ^ 16 →
    (∃ q, (run (admitReq s c m [] slot log pos) s).req (admitHandle s slot) = some q ∧ q.record = admitRecord s c slot log pos) ∧
    (run (admitReq s c m [] slot log pos) s).loc (admitHandle s slot) = some (admitLoc s c m [] pos) ∧
    (run (admitReq s c m [] slot log pos) s).led.admitted = s.led.admitted + 1 ∧
    (run (admitReq s c m [] slot log pos) s).led.live = s.led.live + 1)

/-- REQ_STATUS answers the 128-byte record. The first REQ_CLOSE of a live request is accepted, and CLOSE goes out once any hand-off has settled;
a further one waits for the same end; one of an ended request completes with OK and changes nothing. A REQ_LOG_APPEND at LOG_LEN whose
tokens are the host's, with a note only where there is a turn record, appends its tokens to the log and to the turn; a resent one completes
with OK. -/
def Obligations.RequestCommands : Prop :=
  (∀ s src c v u q, Runs s src 0x0306 c v → AtRequest v (c.arg 0 64) u q → (recordBytes q.record).length ≤ c.outLen →
    exec (.reqStatus src) s = .next (run (finish ⟨src, c.seq⟩ St.ok 0 [] (recordBytes q.record)) u)) ∧
  (∀ s src c v u q, Runs s src 0x0303 c v → AtRequest v (c.arg 0 64) u q → phaseLive q.record.phase = true → q.closing = false →
    exec (.reqClose src) s = .next (run (sendClose (c.arg 0 64))
      (run (setReq (c.arg 0 64) { q with closing := true, closeCmds := [⟨src, c.seq⟩] }) u))) ∧
  (∀ s src c v u q, Runs s src 0x0303 c v → AtRequest v (c.arg 0 64) u q → phaseLive q.record.phase = true → q.closing = true →
    exec (.reqClose src) s = .next (run (setReq (c.arg 0 64) { q with closeCmds := q.closeCmds ++ [⟨src, c.seq⟩] }) u)) ∧
  (∀ s src c v u q, Runs s src 0x0303 c v → AtRequest v (c.arg 0 64) u q → phaseLive q.record.phase = false →
    exec (.reqClose src) s = .next (run (homeFin ⟨src, c.seq⟩ St.ok []) u)) ∧
  (∀ s src c v u q toks, Runs s src 0x0304 c v → AtLive v (c.arg 0 64) u q →
    toks = ((List.range (c.arg 12 16)).map fun i => leNat (((cmdInput u src c).drop (4 * i)).take 4)) →
    4 * c.arg 12 16 + (if c.arg 14 8 = 1 then 16 else 0) ≤ (cmdInput u src c).length → (∀ t ∈ toks, t < 2 ^ 20) →
    c.arg 8 32 = q.record.log.length → (c.arg 14 8 = 1 → q.record.turnRecs ≠ []) →
    q.record.log.length + c.arg 12 16 ≤ q.record.maxPositions + 16 →
    ∃ r, r.log = q.record.log ++ toks ∧ r.phase = q.record.phase ∧ r.epoch = q.record.epoch ∧ r.owner = q.record.owner ∧
      exec (.reqLogAppend src) s = .next (run (homeFin ⟨src, c.seq⟩ St.ok (leBytes 4 r.log.length))
        (run (putReq (c.arg 0 64) { q with record := r }) u))) ∧
  (∀ s src c v u q toks, Runs s src 0x0304 c v → AtLive v (c.arg 0 64) u q →
    toks = ((List.range (c.arg 12 16)).map fun i => leNat (((cmdInput u src c).drop (4 * i)).take 4)) →
    4 * c.arg 12 16 + (if c.arg 14 8 = 1 then 16 else 0) ≤ (cmdInput u src c).length → (∀ t ∈ toks, t < 2 ^ 20) →
    c.arg 8 32 < q.record.log.length → (q.record.log.drop (c.arg 8 32)).take (c.arg 12 16) = toks →
    c.arg 8 32 + c.arg 12 16 ≤ q.record.log.length →
    exec (.reqLogAppend src) s = .next (run (finOk ⟨src, c.seq⟩ (leBytes 4 q.record.log.length)) u))

/-- A REQ_HANDOFF to another chip than the owner with an allowed target phase records receiver, target and budget, enters HANDOFF and sends
HANDOFF_START to the owner; one whose target is the home as owner, with the share, changes the phase at the same epoch and completes with
OK; one whose target is another chip as owner asks that owner by HANDOFF_START; a hand-off that has already settled completes with OK and
changes nothing. -/
def Obligations.HandoffCommandTakesEffect : Prop :=
  (∀ s src c v u q target o, Runs s src 0x0302 c v → AtLive v (c.arg 0 64) u q → phaseOf (c.arg 10 8) = some target →
    handoffAllowed q.record.phase target = true → q.phaseChg = none → q.record.owner = some o → o ≠ c.arg 8 16 →
    (c.arg 11 8 = 2 → u.inPod (c.arg 8 16) = true ∧ u.inPod o = true) →
    exec (.reqHandoff src) s = .next (run (homeSend o .handoffStart { handle := c.arg 0 64, epoch := q.record.epoch, chip := c.arg 8 16, phase := phaseCode target, flags := c.arg 11 8, budget := c.arg 12 32 })
      (run (putReq (c.arg 0 64) { q with record := { q.record with phase := .handoff, prePhase := q.record.phase, targetPhase := target, receiver := c.arg 8 16, mode := c.arg 11 8, budgetUs := c.arg 12 32, budgetTick := u.body.tick }, handoffCmd := some ⟨src, c.seq⟩ }) u))) ∧
  (∀ s src c v u q target, Runs s src 0x0302 c v → AtLive v (c.arg 0 64) u q → phaseOf (c.arg 10 8) = some target →
    handoffAllowed q.record.phase target = true → q.phaseChg = none → q.record.owner = some u.chipId → c.arg 8 16 = u.chipId →
    u.hasShare target = true →
    exec (.reqHandoff src) s = .next (run (homeFin ⟨src, c.seq⟩ St.ok (leBytes 4 q.record.epoch)) (run (localPhase (c.arg 0 64) target)
      (run (putReq (c.arg 0 64) { q with record := { enterPhase u.body.tick target q.record with budgetUs := c.arg 12 32, budgetTick := u.body.tick } }) u)))) ∧
  (∀ s src c v u q target, Runs s src 0x0302 c v → AtLive v (c.arg 0 64) u q → phaseOf (c.arg 10 8) = some target →
    handoffAllowed q.record.phase target = true → q.phaseChg = none → q.record.owner = some (c.arg 8 16) → c.arg 8 16 ≠ u.chipId →
    exec (.reqHandoff src) s = .next (run (homeSend (c.arg 8 16) .handoffStart { handle := c.arg 0 64, epoch := q.record.epoch, chip := c.arg 8 16, phase := phaseCode target, flags := c.arg 11 8, budget := c.arg 12 32 })
      (run (setReq (c.arg 0 64) { q with phaseChg := some (⟨src, c.seq⟩, target) }) u))) ∧
  (∀ s src c v u q, Runs s src 0x0302 c v → AtLive v (c.arg 0 64) u q → phaseOf (c.arg 10 8) = some q.record.phase →
    q.record.owner = some (c.arg 8 16) → handoffAllowed q.record.phase .prompting || handoffAllowed q.record.phase .listening →
    exec (.reqHandoff src) s = .next (run (homeFin ⟨src, c.seq⟩ St.ok (leBytes 4 q.record.epoch)) u)) ∧
  (∀ tick p r, (enterPhase tick p r).phase = p ∧ (enterPhase tick p r).epoch = r.epoch ∧ (enterPhase tick p r).log = r.log)

/-- REQ_REPLAY of a pending request without an owner, naming a chip that is not failed and, if it is this chip, has the shares, grants that chip
the Leash at epoch + 1 with no source and completes with OK; repeated for the chip in force it completes with OK. REQ_CHIP_DOWN naming
another chip than the partner and the home this chip mirrors declares it failed. REQ_SET_PARTNER of a solo home with no requests pairs it at
once; with requests it sends copies of all records first. REQ_SET_MIRROR sets or clears the state mirror. -/
def Obligations.RecoveryCommands : Prop :=
  (∀ s src c v u q, Runs s src 0x0305 c v → AtRequest v (c.arg 0 64) u q → phaseLive q.record.phase = true → q.closing = false →
    q.record.replayPending = true → q.record.replaying = false → q.record.owner = none → (c.arg 8 16) ∉ u.body.home.failedChips →
    (c.arg 8 16 = u.chipId → u.hasPrompt = true ∧ u.hasShare q.record.phase = true) →
    ∃ r, r.epoch = wrapAdd 32 q.record.epoch 1 ∧ r.owner = some (c.arg 8 16) ∧ r.replayPending = false ∧
      r.replaying = (q.record.replayFrom != q.record.replayTo) ∧ r.log = q.record.log ∧
      exec (.reqReplay src) s = .next (run (homeFin ⟨src, c.seq⟩ St.ok [])
        (run (homeSend (c.arg 8 16) .leashGrant { handle := c.arg 0 64, epoch := r.epoch, flags := if q.record.replayFrom != q.record.replayTo then 1 else 0, source := 0, replayFrom := q.record.replayFrom, replayTo := q.record.replayTo, stepFloor := q.record.logStep, phase := phaseCode r.phase })
          (run (putReq (c.arg 0 64) { q with record := r, replayChip := c.arg 8 16 }) u)))) ∧
  (∀ s src c v u q, Runs s src 0x0305 c v → AtRequest v (c.arg 0 64) u q → phaseLive q.record.phase = true → q.closing = false →
    q.record.replaying = true → (c.arg 8 16) ∉ u.body.home.failedChips → q.replayChip = c.arg 8 16 →
    exec (.reqReplay src) s = .next (run (homeFin ⟨src, c.seq⟩ St.ok []) u)) ∧
  (∀ s src c u, Runs s src 0x0307 c u → c.arg 0 16 ≠ u.chipId →
    (u.is Fld.RQT_PARTNER_VALID = true → u.get Fld.RQT_PARTNER_PARTNER ≠ c.arg 0 16) → u.body.home.mirrorOf ≠ some (c.arg 0 16) →
    exec (.reqChipDown src) s = .next (run (homeFin ⟨src, c.seq⟩ St.ok []) (run (declareFailed (c.arg 0 16)) u))) ∧
  (∀ s src c u, Runs s src 0x0308 c u → u.homeMode = 0 → u.body.home.setPartner = none → c.arg 0 16 ≠ 0 → c.arg 0 16 ≠ u.chipId →
    u.body.home.reqs = [] →
    exec (.reqSetPartner src) s = .next (run (acts [setFld Fld.RQT_PARTNER_PARTNER (c.arg 0 16), setFld Fld.RQT_PARTNER_VALID 1,
      setFld Fld.RQT_STATUS_HOME_MODE 1, fin ⟨src, c.seq⟩ St.ok]) u)) ∧
  (∀ s src c u, Runs s src 0x0308 c u → u.homeMode = 0 → u.body.home.setPartner = none → c.arg 0 16 ≠ 0 → c.arg 0 16 ≠ u.chipId →
    u.body.home.reqs ≠ [] →
    ∃ t, exec (.reqSetPartner src) s = .next t ∧
      t.body.out = u.body.out ++ u.body.home.reqs.zipIdx.map (fun e =>
        Output.mirror (c.arg 0 16) (u.body.home.mirrorSent + e.2 + 1) (.record e.1.2.record)) ∧
      t.body.home.setPartner = some (⟨src, c.seq⟩, c.arg 0 16, u.body.home.mirrorSent + u.body.home.reqs.length)) ∧
  (∀ s src c u, Runs s src 0x0308 c u → u.homeMode ≠ 2 → u.body.home.setPartner = none → c.arg 0 16 = 0 →
    exec (.reqSetPartner src) s = .next (run (acts [setFld Fld.RQT_PARTNER_PARTNER 0, setFld Fld.RQT_PARTNER_VALID 0,
      setFld Fld.RQT_STATUS_HOME_MODE 0, onHome (fun x => { x with mirrorAcked := x.mirrorSent }),
      releaseWithheld u.body.home.mirrorSent, fin ⟨src, c.seq⟩ St.ok]) u)) ∧
  (∀ s src c v u q, Runs s src 0x0309 c v → AtLive v (c.arg 0 64) u q → q.record.phase ≠ .handoff → q.record.phase ≠ .parking →
    q.record.phase ≠ .resuming → q.record.mirrored = false → c.arg 8 16 ≠ 0 → u.inPod (c.arg 8 16) = true → q.record.owner ≠ some (c.arg 8 16) →
    exec (.reqSetMirror src) s = .next (run (homeFin ⟨src, c.seq⟩ St.ok []) (run (setMirror (c.arg 0 64) (some (c.arg 8 16)))
      (run (putReq (c.arg 0 64) { q with record := { q.record with mirrored := true, stateMirror := c.arg 8 16, mirrorPos := 0 } }) u)))) ∧
  (∀ s src c v u q, Runs s src 0x0309 c v → AtLive v (c.arg 0 64) u q → q.record.phase ≠ .handoff → q.record.phase ≠ .parking →
    q.record.phase ≠ .resuming → q.record.mirrored = true → c.arg 8 16 = 0 → q.record.stateMirror ≠ 0 →
    exec (.reqSetMirror src) s = .next (run (homeFin ⟨src, c.seq⟩ St.ok [])
      (run (homeSend q.record.stateMirror .holdFree { handle := c.arg 0 64, epoch := q.record.epoch, chip := q.record.stateMirror })
        (run (setMirror (c.arg 0 64) none)
          (run (putReq (c.arg 0 64) { q with record := { q.record with mirrored := false, stateMirror := 0, mirrorPos := 0 } }) u)))))

/-- PREFIX_CREATE of an ADMITTED or LISTENING request owned here, for a whole number of pages that are all sealed and on this chip, makes the
prefix and answers its handle; PREFIX_RELEASE drops the host's references; PREFIX_PIN with PIN 0 frees the pages again, and with PIN 1,
where each has or finds a place in near state, pins them there; PREFIX_DEMOTE of an unpinned prefix whose users are all PARKED begins its
image in the Kennel, or takes the pages away where its image is there already. The new prefix has the request as its user and the host's
reference. -/
def Obligations.PrefixCommands : Prop :=
  (∀ s src c v u q l m pages i, Runs s src 0x0401 c v → AtLive v (c.arg 0 64) u q → u.loc (c.arg 0 64) = some l →
    u.modelOfTenant q.record.tenant = some m → q.record.phase = .admitted ∨ q.record.phase = .listening → q.record.owner = some u.chipId →
    l.st = .owner q.record.epoch → 0 < c.arg 8 32 → 2 ^ m.pLog2 ∣ c.arg 8 32 → prefixSource u l (c.arg 8 32 / 2 ^ m.pLog2) = some pages →
    prefixSlot u = some i → q.record.prefix0 = 0 ∨ q.record.prefix1 = 0 →
    exec (.prefixCreate src) s = .next (run (homeFin ⟨src, c.seq⟩ St.ok (leBytes 8 (prefixHandle u i)))
      (run (makePrefix u (c.arg 0 64) q i (c.arg 8 32) pages) u))) ∧
  (∀ s src c u p, Runs s src 0x0402 c u → u.prefixOf (c.arg 0 64) = some p → p.hostRef = true →
    exec (.prefixRelease src) s = .next (run (acts [each p.refs dropRef, modPrefix (c.arg 0 64) (fun p => { p with hostRef := false }),
      reapPrefix (c.arg 0 64), fin ⟨src, c.seq⟩ St.ok]) u)) ∧
  (∀ s src c u p, Runs s src 0x0404 c u → u.prefixOf (c.arg 0 64) = some p → c.arg 8 8 = 0 →
    exec (.prefixPin src) s = .next (run (acts [each p.refs unpinPage, modPrefix (c.arg 0 64) (fun p => { p with pinned := false }),
      fin ⟨src, c.seq⟩ St.ok]) u)) ∧
  (∀ s src c u p a, Runs s src 0x0404 c u → u.prefixOf (c.arg 0 64) = some p → c.arg 8 8 ≠ 0 → (∀ r ∈ p.refs, refTier r ≠ 2) →
    pinPages p p.places u = some a →
    exec (.prefixPin src) s = .next (run (acts [a, modPrefix (c.arg 0 64) (fun p => { p with pinned := true }), fin ⟨src, c.seq⟩ St.ok]) u)) ∧
  (∀ s src c u p m slot bytes, Runs s src 0x0403 c u → u.prefixOf (c.arg 0 64) = some p → p.pinned = false →
    (∀ w ∈ p.users, (u.req w).map (·.record.phase) = some .parked) → u.knlState ≠ KnlSt.recovering → prefixImage u (c.arg 0 64) = none →
    u.modelOfTenant p.tenant = some m → u.isProt p.tenant = false → (imageBytes (prefixParts u p m)).1 = bytes → bytes.length ≤ 2 ^ 32 →
    freeSlot u = some slot → parksAccepted u = true → usedUnits u + (unitsOfBytes bytes).length ≤ capacity u →
    (∀ e ∈ u.kr.parks, e.2.handle ≠ c.arg 0 64) →
    exec (.prefixDemote src) s = .next (run (startImage slot { handle := c.arg 0 64, tenant := p.tenant, units := (unitsOfBytes bytes).length, length := bytes.length, exact := true, encrypted := false, keyId := ((u.tenantRec p.tenant).map tenantKey).getD 0, isPrefix := true } ⟨src, c.seq⟩ bytes) u)) ∧
  (∀ s src c u p slot, Runs s src 0x0403 c u → u.prefixOf (c.arg 0 64) = some p → p.pinned = false →
    (∀ w ∈ p.users, (u.req w).map (·.record.phase) = some .parked) → u.knlState ≠ KnlSt.recovering → prefixImage u (c.arg 0 64) = some slot →
    exec (.prefixDemote src) s = .next (run (acts [demoteAll (c.arg 0 64) slot, finOk ⟨src, c.seq⟩ []]) u))

/-- PAGE_LOAD of pages that all pass, for an ADMITTED or LISTENING request owned here, where far state has room, puts them after the layer's
pages and answers the new position count. EMB_LOAD of whole rows below the vocabulary replaces them, each as its bytes stand in the input. -/
def Obligations.LoadCommands : Prop :=
  (∀ s src c v u q l m ps refs a, Runs s src 0x0405 c v → AtLive v (c.arg 0 64) u q → u.loc (c.arg 0 64) = some l →
    u.modelOfTenant q.record.tenant = some m → q.record.phase = .admitted ∨ q.record.phase = .listening → l.st = .owner q.record.epoch →
    c.arg 8 16 < m.layers → loadPages (c.arg 10 16) (cmdInput u src c) = some ps → loadOk m l (c.arg 8 16) ps = true →
    restorePages u (c.arg 0 64) l.tenant m [] (loadImage m ps) = some (refs, a) →
    exec (.pageLoad src) s = .next (run (acts [a, appendPages (c.arg 0 64) (c.arg 8 16) (refs.map (·.2)) (pagePositions ps),
      finOk ⟨src, c.seq⟩ (leBytes 4 ((l.layer (c.arg 8 16)).count + pagePositions ps))]) u)) ∧
  (∀ s src c u a, Runs s src 0x0406 c u → sliceSize u ≠ 0 → (cmdInput u src c).length = c.arg 4 32 * sliceSize u →
    (c.arg 4 32 ≠ 0 → c.arg 0 32 + c.arg 4 32 ≤ largestVocab u) →
    embFrames (embGroups (32768 / sliceSize u) (c.arg 0 32) (c.arg 4 32)) u = some a →
    exec (.embLoad src) s = .next (run (acts [a, storeRows (sliceSize u) (c.arg 0 32) (c.arg 4 32) (cmdInput u src c), fin ⟨src, c.seq⟩ St.ok]) u)) ∧
  (∀ m l layer ps, loadOk m l layer ps = true → (l.layer layer).count + pagePositions ps ≤ l.maxPositions ∧
    ∀ e ∈ ps, e.1.layer = layer ∧ e.1.crc = e.2 ∧ (e.1.isSealed = true → e.1.count = 2 ^ m.pLog2))

/-- BUF_POST of a FREE buffer the source may name, with an allowed length and range and a ring with room, makes it POSTED under the next
generation and counts one buffer posted; BUF_WITHDRAW of a POSTED one makes it FREE under the next generation and counts one withdrawn; of a
COMPLETE one, FREE under the same generation. The other buffers keep their state. -/
def Obligations.BufferCommands : Prop :=
  (∀ s src c u, Runs s src 0x0601 c u → bufMine (srcWindow src) (u.buf (c.arg 0 32)) = true → rcqMine u (srcWindow src) (c.arg 18 8) = true →
    (u.buf (c.arg 0 32)).st = .free → 1 ≤ c.arg 4 32 → c.arg 4 32 ≤ 16777216 → bufRange u (c.arg 19 8 == 1) (c.arg 8 64) (c.arg 4 32) = true →
    u.is (Fld.XPT_RCQ_BASE_ENABLE (c.arg 18 8)) = true →
    u.get (Fld.XPT_RCQ_PTR_BUFFERS (c.arg 18 8)) < 2 ^ u.get (Fld.XPT_RCQ_BASE_SIZE_LOG2 (c.arg 18 8)) →
    ∃ t, exec (.bufPost src) s = .next t ∧ t.buf (c.arg 0 32) = postedBuf (u.buf (c.arg 0 32)) (srcWindow src) c ∧
      (∀ i, i ≠ c.arg 0 32 → t.buf i = u.buf i) ∧ t.led.bufPosted = u.led.bufPosted + 1) ∧
  (∀ b w c, (postedBuf b w c).st = .posted ∧ (postedBuf b w c).gen = (b.gen + 1) % 65536 ∧ (postedBuf b w c).addr = c.arg 8 64 ∧
    (postedBuf b w c).length = c.arg 4 32) ∧
  (∀ s src c u, Runs s src 0x0602 c u → bufMine (srcWindow src) (u.buf (c.arg 0 32)) = true → (u.buf (c.arg 0 32)).st = .posted →
    ∃ t, exec (.bufWithdraw src) s = .next t ∧ (t.buf (c.arg 0 32)).st = .free ∧
      (t.buf (c.arg 0 32)).gen = ((u.buf (c.arg 0 32)).gen + 1) % 65536 ∧
      (∀ i, i ≠ c.arg 0 32 → t.buf i = u.buf i) ∧ t.led.bufWithdrawn = u.led.bufWithdrawn + 1) ∧
  (∀ s src c u, Runs s src 0x0602 c u → bufMine (srcWindow src) (u.buf (c.arg 0 32)) = true → (u.buf (c.arg 0 32)).st = .complete →
    ∃ t, exec (.bufWithdraw src) s = .next t ∧ (t.buf (c.arg 0 32)).st = .free ∧ (t.buf (c.arg 0 32)).gen = (u.buf (c.arg 0 32)).gen ∧
      (∀ i, i ≠ c.arg 0 32 → t.buf i = u.buf i) ∧ t.led.bufWithdrawn = u.led.bufWithdrawn)

/-- A doorbell of an enabled ring with a tail below N moves the tail and the device takes commands; a completion head up to CPL_TAIL is taken;
setting ENABLE with a size of 16 to 4,096 starts the ring afresh, its indices 0; clearing it starts the drain, which ends when no command of
the ring is left; completions at the front are written and signalled; a coalescing window ends with its message or closes. A mailbox
doorbell with an empty foreground takes the command of its payload, and the CXL opcodes wait for their own rows. -/
def Obligations.RingRowsTakeEffect : Prop :=
  (∀ s r tail, Takes s (.ringDoorbell r tail) → s.is Fld.GLB_STATUS_FW_READY = true → s.is (Fld.MBX_RING_CFG_ENABLE r) = true → tail < s.ringSize r →
    exec (.ringDoorbell r tail) s = .next (run (takeCmds r (s.ringSize r)) (run (setFld (Fld.MBX_RING_PTR_CMD_TAIL r) tail) s))) ∧
  (∀ s r head, Takes s (.cplHeadWrite r head) → s.is Fld.GLB_STATUS_FW_READY = true → head < s.ringSize r →
    (head + s.ringSize r - s.get (Fld.MBX_CPL_HEAD_HEAD r)) % s.ringSize r
      ≤ (s.get (Fld.MBX_RING_PTR_CPL_TAIL r) + s.ringSize r - s.get (Fld.MBX_CPL_HEAD_HEAD r)) % s.ringSize r →
    exec (.cplHeadWrite r head) s = .next (run (takeCmds r (s.ringSize r)) (run (setFld (Fld.MBX_CPL_HEAD_HEAD r) head) s))) ∧
  (∀ s r k irq coal, Takes s (.ringEnable r k irq coal) → s.is Fld.GLB_STATUS_FW_READY = true → s.ringsServed = true →
    s.is (Fld.MBX_RING_CFG_ENABLE r) = false → 4 ≤ k → k ≤ 12 → irq < 2 → coal < 256 →
    exec (.ringEnable r k irq coal) s = .next (run (acts [setFld (Fld.MBX_RING_CFG_IRQ_EN r) irq, setFld (Fld.MBX_RING_CFG_COALESCE_US r) coal,
      setFld (Fld.MBX_RING_CFG_SIZE_LOG2 r) k, setReg (Reg.MBX_RING_PTR r) 0, setReg (Reg.MBX_CPL_HEAD r) 0,
      setRing r { cmds := (s.ring r).cmds.filter (·.lost), taken := (s.ring r).taken }, freshCpl r (2 ^ k),
      setFld (Fld.MBX_RING_CFG_ENABLE r) 1]) s)) ∧
  (∀ s r k irq coal, Takes s (.ringDisable r k irq coal) → s.is Fld.GLB_STATUS_FW_READY = true → s.is (Fld.MBX_RING_CFG_ENABLE r) = true →
    (s.ring r).draining = false → irq < 2 → coal < 256 →
    exec (.ringDisable r k irq coal) s = .next (run (acts [setFld (Fld.MBX_RING_CFG_IRQ_EN r) irq, setFld (Fld.MBX_RING_CFG_COALESCE_US r) coal,
      setRing r { s.ring r with draining := true }]) s)) ∧
  (∀ s r, Takes s (.ringDisableDone r) → s.is (Fld.MBX_RING_CFG_ENABLE r) = true → (s.ring r).draining = true →
    (∀ c ∈ (s.ring r).cmds, c.lost = true) →
    exec (.ringDisableDone r) s = .next (run (acts [setFld (Fld.MBX_RING_CFG_ENABLE r) 0, setRing r { s.ring r with draining := false }]) s)) ∧
  (∀ s r l, Takes s (.commandComplete r) → s.body.plat.mgmtUp = true → s.ringsServed = true →
    frontDone s (.ring r) ((s.ring r).cmds.filter (!·.lost)) = l → l ≠ [] →
    ∃ t, exec (.commandComplete r) s = .next t ∧
      t = run (look fun s => takeCmds r (s.ringSize r)) (run (signalRing r) (run (each l fun e => writeCpl r e.1 e.2.1 e.2.2.1 e.2.2.2.1 e.2.2.2.2) s))) ∧
  (∀ s r, Takes s (.coalesceWindowEnd r) → (s.ring r).winOpen = true → (s.ring r).winPend = true →
    exec (.coalesceWindowEnd r) s = .next (run (acts [emit (ringVector r), setRing r { s.ring r with winOpen := true, winPend := false }]) s)) ∧
  (∀ s r, Takes s (.coalesceWindowEnd r) → (s.ring r).winOpen = true → (s.ring r).winPend = false →
    exec (.coalesceWindowEnd r) s = .next (run (setRing r { s.ring r with winOpen := false }) s)) ∧
  (∀ s op p, Takes s (.mailboxDoorbell op p) → s.is Fld.GLB_STATUS_FW_READY = true → s.is Fld.SEC_STATUS_RECOVERY = false → s.body.plat.mgmtUp = true →
    s.body.mbox.cmd = none → s.body.mbox.cxlCmd = none → op < 0xC000 →
    exec (.mailboxDoorbell op p) s = .next (run (setMbox { s.body.mbox with cxlCmd := some (op, p) }) s)) ∧
  (∀ s op p c, Takes s (.mailboxDoorbell op p) → s.is Fld.GLB_STATUS_FW_READY = true → s.is Fld.SEC_STATUS_RECOVERY = false → s.body.plat.mgmtUp = true →
    s.body.mbox.cmd = none → s.body.mbox.cxlCmd = none → 0xC000 ≤ op → c = mailboxEntry s.body.mbox.taken (op - 0xC000) p → 64 + c.inLen ≤ p.length →
    p.length ≤ 65536 → opcodeSpec c.opcode ≠ none →
    exec (.mailboxDoorbell op p) s = .next (run (setMbox { s.body.mbox with cmd := some c, taken := s.body.mbox.taken + 1 }) s))

/-- A command of a ring that runs and completes has its output stored at OUT_ADDR in the host window and waits in ring order with its status and
result. A mailbox command that completes leaves the foreground, returns Success, and its output payload is the 32-byte completion entry and
the output bytes. -/
def Obligations.CompletionIsWritten : Prop :=
  (∀ s r c st d res out, s.cmd ⟨.ring r, c.seq⟩ = some c → c.isDone = false → c.lost = false → (c.opcode = 0x0104 → st ≠ St.invalid) →
    run (finish ⟨.ring r, c.seq⟩ st d res out) s
      = run (setCmdStatus ⟨.ring r, c.seq⟩ (.done st d res out)) (run (store (Mem.hostWindow + c.outAddr) out) s)) ∧
  (∀ s c st d res out, s.cmd ⟨.mailbox, c.seq⟩ = some c → c.isDone = false → (c.opcode = 0x0104 → st ≠ St.invalid) →
    (run (finish ⟨.mailbox, c.seq⟩ st d res out) s).body.mbox.cmd = none ∧
    (run (finish ⟨.mailbox, c.seq⟩ st d res out) s).body.mbox.retCode = 0 ∧
    (run (finish ⟨.mailbox, c.seq⟩ st d res out) s).body.mbox.output = cplBytes st 0 c.cid c.opcode d out.length 0 res ++ out) ∧
  (∀ st ph cid op d w h res, (cplBytes st ph cid op d w h res).length = 32)

/-- At a home that is not fenced, a LEASH_CAS of a request in HANDOFF from its receiver with the home epoch, the giver having a place in HOLDER,
makes the sender the owner at epoch + 1, the giver a holder, and the phase the target phase; the result is OK to the sender, LEASH_RELEASE
goes to the giver, and REQ_HANDOFF completes. With another epoch or from another sender the record stays as it is and the result names the
refusal. -/
def Obligations.LeashCasGivesTheLeash : Prop :=
  (∀ s m u q g, AtHome s m u q → u.homeMode ≠ 2 → q.record.phase = .handoff → m.sender = q.record.receiver → m.epoch = q.record.epoch →
    q.record.owner = some g → (g ∈ q.record.holders.filter (· != m.sender) ∨ (q.record.holders.filter (· != m.sender)).length < 4) →
    ∃ q2, q2.record.epoch = wrapAdd 32 q.record.epoch 1 ∧ q2.record.owner = some m.sender ∧ q2.record.phase = q.record.targetPhase ∧
      g ∈ q2.record.holders ∧ q2.record.log = q.record.log ∧ q2.handoffCmd = none ∧
      q2.record.pageListRef = m.pageList ∧ q2.record.positions = m.positions ∧
      exec (.leashCas m) s = .next (run (acts [putReq m.handle q2, count Reg.RQT_HANDOFFS 1, result q2 m.sender .casResult St.ok 0,
        homeSend g .leashRelease { handle := m.handle, epoch := q2.record.epoch, flags := 1 },
        each q.handoffCmd.toList (fun c => homeFin c St.ok (leBytes 4 q2.record.epoch)), sendClose m.handle]) u)) ∧
  (∀ s m u q, AtHome s m u q → u.homeMode ≠ 2 → q.record.phase ≠ .handoff → q.record.owner = some m.sender → wrapAdd 32 m.epoch 1 = q.record.epoch →
    exec (.leashCas m) s = .next (run (acts [count Reg.RQT_CAS_REPEAT 1, result q m.sender .casResult St.ok 0]) u)) ∧
  (∀ s m u q, AtHome s m u q → u.homeMode ≠ 2 → q.record.phase = .handoff → m.sender ≠ q.record.receiver → m.epoch = q.record.epoch →
    exec (.leashCas m) s = .next (run (result q m.sender .casResult St.notOwner 0) u)) ∧
  (∀ s m u q, AtHome s m u q → u.homeMode ≠ 2 → m.epoch < q.record.epoch → ¬ (q.record.owner = some m.sender ∧ wrapAdd 32 m.epoch 1 = q.record.epoch) →
    exec (.leashCas m) s = .next (run (result q m.sender .casResult St.staleEpoch 0) u))

/-- LEASH_QUERY of the owner at the home epoch is answered that it is the owner, and cancels a hand-off under way; HOLD_DROP of the owner
outside a hand-off goes to the holder as HOLD_FREE; HOLD_EMPTY takes the sender off HOLDER, and from the owner of a closing request it
closes it; TOKEN_APPEND of the owner with the next STEP appends its tokens; REPLAY_REPORT of the owner at REPLAY_TO ends the replay. -/
def Obligations.HomeMessagesTakeEffect : Prop :=
  (∀ s m u q, AtHome s m u q → u.homeMode ≠ 2 → q.record.owner = some m.sender → m.epoch = q.record.epoch → q.record.phase ≠ .handoff →
    exec (.leashQuery m) s = .next (run (result q m.sender .queryResult St.ok 1) u)) ∧
  (∀ s m u q, AtHome s m u q → u.homeMode ≠ 2 → q.record.owner = some m.sender → m.epoch = q.record.epoch → q.record.phase = .handoff →
    exec (.leashQuery m) s = .next (run (acts [cancelHandoff m.handle q, result q m.sender .queryResult St.ok 1, sendClose m.handle]) u)) ∧
  (∀ s m u q, AtHome s m u q → u.homeMode ≠ 2 → q.record.owner ≠ some m.sender →
    exec (.leashQuery m) s = .next (run (result q m.sender .queryResult St.ok (if m.sender ∈ q.record.holders then 2 else 4)) u)) ∧
  (∀ s m u q, AtHome s m u q → q.record.owner = some m.sender → m.epoch = q.record.epoch → q.record.phase ≠ .handoff →
    exec (.holdDrop m) s = .next (run (homeSend m.chip .holdFree { handle := m.handle, epoch := q.record.epoch, chip := m.chip, flags := m.flags, refs := m.refs }) u)) ∧
  (∀ s m u q, AtHome s m u q → q.closing = false →
    exec (.holdEmpty m) s = .next (run (putReq m.handle { q with record := { q.record with holders := q.record.holders.filter (· != m.sender) } }) u)) ∧
  (∀ s m u q, AtHome s m u q → q.closing = true → q.closeSent = true → q.record.owner = some m.sender →
    exec (.holdEmpty m) s = .next (run (closeDone m.handle)
      (run (putReq m.handle { q with record := { q.record with holders := q.record.holders.filter (· != m.sender) } }) u))) ∧
  (∀ s m u q, AtHome s m u q → u.homeMode ≠ 2 → q.record.owner = some m.sender → m.epoch = q.record.epoch → q.record.replayPending = false →
    q.record.replaying = false → q.record.logStep < m.step → q.record.log.length + m.tokens.length ≤ q.record.maxPositions + 16 →
    ∃ r, r.log = q.record.log ++ m.tokens ∧ r.logStep = m.step ∧ r.epoch = q.record.epoch ∧ r.owner = q.record.owner ∧ r.phase = q.record.phase ∧
      exec (.tokenAppend m) s = .next (run (homeSend m.sender .tokenResult { handle := m.handle, epoch := q.record.epoch, status := St.ok, step := m.step })
        (run (putReq m.handle { q with record := r }) u))) ∧
  (∀ s m u q, AtHome s m u q → u.homeMode ≠ 2 → q.record.owner = some m.sender → m.epoch = q.record.epoch → q.record.replayPending = false →
    q.record.replaying = false → m.step = q.record.logStep → q.record.logCount ≠ 0 →
    exec (.tokenAppend m) s = .next (run (homeSend m.sender .tokenResult { handle := m.handle, epoch := q.record.epoch, status := St.ok, step := m.step, tokens := q.record.lastTokens }) u)) ∧
  (∀ s h chip e n q, Takes s (.replayReport h chip e n) → s.req h = some q → q.record.owner = some chip → q.record.epoch = e →
    q.record.replaying = true → q.record.replayTo ≤ n → q.record.phase ≠ .parked → q.record.phase ≠ .resuming →
    exec (.replayReport h chip e n) s = .next (run (putReq h { q with record := { q.record with replaying := false, positions := n } }) s))

/-- A PING is answered with PING_ACK, with TAKEN where this chip has taken the sender's requests; a PING_ACK is recorded, and one of the partner
without TAKEN ends a fence; the ping interval pings owners, holders and the partner; a watched chip without answer is declared failed; a
paired home fences itself; the partner takes over the records it mirrors; HOME_MOVED adds a redirect, HOME_RELEASED takes it away; a mirror
update is recorded and acknowledged; an acknowledgement releases what waited. -/
def Obligations.FailoverRowsTakeEffect : Prop :=
  (∀ s m, Takes s (.ping m) → (s.is Fld.RQT_PARTNER_TAKEN && s.get Fld.RQT_PARTNER_TAKEN_FROM == m.sender) = false → s.body.home.mirrorOf ≠ some m.sender →
    ∃ t, exec (.ping m) s = .next t ∧ t.body.out = s.body.out ++ [Output.msg m.sender .pingAck { sender := s.chipId, handle := m.handle, flags := 0 }] ∧
      t.body.home = s.body.home ∧ t.regs = s.regs ∧ t.mem = s.mem) ∧
  (∀ s m, Takes s (.ping m) → s.is Fld.RQT_PARTNER_TAKEN = true → s.get Fld.RQT_PARTNER_TAKEN_FROM = m.sender → s.body.home.mirrorOf ≠ some m.sender →
    ∃ t, exec (.ping m) s = .next t ∧ t.body.out = s.body.out ++ [Output.msg m.sender .pingAck { sender := s.chipId, handle := m.handle, flags := 1 }]) ∧
  (∀ s m, Takes s (.pingAck m) → s.homeMode ≠ 2 →
    exec (.pingAck m) s = .next (run (onHome fun x => { x with lastAck := tput x.lastAck m.sender s.body.tick }) s)) ∧
  (∀ s m, Takes s (.pingAck m) → s.homeMode = 2 → m.sender = s.get Fld.RQT_PARTNER_PARTNER → m.flags % 2 = 0 →
    exec (.pingAck m) s = .next (run (acts [onHome (fun x => { x with lastAck := tput x.lastAck m.sender s.body.tick }),
      setFld Fld.RQT_STATUS_HOME_MODE 1, releaseWithheld s.body.home.mirrorAcked]) s)) ∧
  (∀ s, Takes s .pingInterval →
    ∃ t, exec .pingInterval s = .next t ∧ t.body.out = s.body.out ++ (pingTargets s).map fun c => Output.msg c .ping { sender := s.chipId }) ∧
  (∀ s chip, Takes s (.ownerTimeout chip) → chip ≠ s.chipId → chip ∈ pingTargets s → chip ∉ s.body.home.failedChips → s.homeMode ≠ 2 →
    exec (.ownerTimeout chip) s = .next (run (acts [when (s.is Fld.RQT_PARTNER_VALID && s.get Fld.RQT_PARTNER_PARTNER == chip) (raise Blk.rqt 3),
      declareFailed chip]) s)) ∧
  (∀ s, Takes s .homeFence → s.homeMode = 1 →
    exec .homeFence s = .next (run (acts [setFld Fld.RQT_STATUS_HOME_MODE 2, raise Blk.rqt 2]) s)) ∧
  (∀ s home, Takes s .partnerTakeover → s.body.home.mirrorOf = some home →
    ∃ t, exec .partnerTakeover s = .next t ∧ t.body.home.mirrorOf = none ∧ t.body.home.setPartner = none ∧
      (∀ tgt, tgt ≠ s.chipId → tgt ∈ (List.range 256).filterMap (fun m => s.memberChip m) →
        Output.msg tgt .homeMoved { sender := s.chipId, chip := home } ∈ t.body.out)) ∧
  (∀ s m, Takes s (.homeMoved m) →
    exec (.homeMoved m) s = .next (run (onBody fun b => { b with locs := b.locs.map fun e => if e.2.home = m.chip then (e.1, { e.2 with home := m.sender }) else e })
      (run (redirect m.chip m.sender) s))) ∧
  (∀ s m n, Takes s (.homeReleased m) → s.redirOf m.chip = some n → exec (.homeReleased m) s = .next (run (setReg (Reg.RQT_REDIR n) 0) s)) ∧
  (∀ s home n r, Takes s (.mirrorUpdate home n (.record r)) →
    ∃ t, exec (.mirrorUpdate home n (.record r)) s = .next t ∧ t.body.home.mirrored = tput s.body.home.mirrored r.handle r ∧
      t.body.home.mirrorOf = some home ∧ t.body.out = s.body.out ++ [Output.mirrorAck home n]) ∧
  (∀ s home n h, Takes s (.mirrorUpdate home n (.remove h)) →
    ∃ t, exec (.mirrorUpdate home n (.remove h)) s = .next t ∧ t.body.home.mirrored = tdel s.body.home.mirrored h) ∧
  (∀ s n, Takes s (.mirrorAck n) → s.body.home.mirrorAcked < n → n ≤ s.body.home.mirrorSent → s.homeMode ≠ 2 → s.body.home.setPartner = none →
    exec (.mirrorAck n) s = .next (run (releaseWithheld n) (run (onHome fun x => { x with mirrorAcked := n }) s))) ∧
  (∀ s n ref p last, Takes s (.mirrorAck n) → s.body.home.mirrorAcked < n → n ≤ s.body.home.mirrorSent → s.homeMode ≠ 2 →
    s.body.home.setPartner = some (ref, p, last) → last ≤ n →
    exec (.mirrorAck n) s = .next (run (acts [onHome (fun x => { x with mirrorAcked := n }), releaseWithheld n,
      onHome (fun x => { x with setPartner := none }), setFld Fld.RQT_PARTNER_PARTNER p, setFld Fld.RQT_PARTNER_VALID 1,
      setFld Fld.RQT_STATUS_HOME_MODE 1, fin ref St.ok]) s))

/-- HANDOFF_START of the owner for another chip starts the drain under the greater epoch; for the owner itself it answers whether it has the
share, and changes the phase. OFFER_ACK with OK makes an offering giver wait; with another status the giver queries. An offer without answer
is sent again, up to three offers, then the giver queries; a waiting giver queries at HANDOFF_LIMIT. LEASH_RELEASE with HOLD at a newer
epoch makes the giver a holder, with FREE it frees everything; QUERY_RESULT with KEEP makes it the owner again. -/
def Obligations.HandoffAtTheGiver : Prop :=
  (∀ s m c e target, AtChip s false m → s.loc m.handle = some c → c.st = .owner e → phaseOf m.phase = some target → m.chip ≠ s.chipId →
    exec (.handoffStart m) s = .next (run (startDrain m (max e m.epoch) target) (run (fromHome m) s))) ∧
  (∀ s m c e target, AtChip s false m → s.loc m.handle = some c → c.st = .owner e → phaseOf m.phase = some target → m.chip = s.chipId →
    s.hasShare target = true →
    exec (.handoffStart m) s = .next (run (acts [fromHome m, modLoc m.handle (fun c => { c with st := .owner (max e m.epoch) }),
      toHome m.handle .offerAck { epoch := max e m.epoch, status := St.ok, chip := s.chipId, phase := m.phase }, localPhase m.handle target]) s)) ∧
  (∀ s m c e, Takes s (.offerAck m) → s.loc m.handle = some c → c.st = .offering e → c.peer = m.sender → m.epoch = e → m.status = St.ok →
    exec (.offerAck m) s = .next (run (modLoc m.handle fun c => { c with st := .waiting e }) s)) ∧
  (∀ s m c e, Takes s (.offerAck m) → s.loc m.handle = some c → c.st = .offering e → c.peer = m.sender → m.epoch = e → m.status ≠ St.ok →
    exec (.offerAck m) s = .next (run (sendQuery m.handle e) s)) ∧
  (∀ s m u q ref target, AtHome s m u q → s.loc m.handle = none → q.phaseChg = some (ref, target) → q.record.owner = some m.sender → m.status = St.ok →
    exec (.offerAck m) s = .next (run (acts [putReq m.handle { q with record := enterPhase u.body.tick target q.record, phaseChg := none },
      homeFin ref St.ok (leBytes 4 q.record.epoch)]) u)) ∧
  (∀ s h c e, Takes s (.offerTimeout h) → s.loc h = some c → c.st = .offering e → c.offers < 3 →
    exec (.offerTimeout h) s = .next (run (acts [modLoc h (fun c => { c with offers := c.offers + 1 }), count Reg.RQT_OFFER_RESENT 1, sendOffer h e]) s)) ∧
  (∀ s h c e, Takes s (.offerTimeout h) → s.loc h = some c → c.st = .offering e → 3 ≤ c.offers →
    exec (.offerTimeout h) s = .next (run (sendQuery h e) s)) ∧
  (∀ s h c e, Takes s (.handoffLimit h) → s.loc h = some c → c.st = .waiting e → exec (.handoffLimit h) s = .next (run (sendQuery h e) s)) ∧
  (∀ s m c e, AtChip s false m → s.loc m.handle = some c → c.st = .waiting e → e < m.epoch → m.flags % 2 = 1 →
    exec (.leashRelease m) s = .next (run (fromHome m) (run (acts [becomeHolder m.handle m.epoch, stopJobs m.handle St.notOwner]) s))) ∧
  (∀ s m c e, AtChip s false m → s.loc m.handle = some c → c.st = .waiting e → e < m.epoch → m.flags % 4 = 2 →
    exec (.leashRelease m) s = .next (run (fromHome m) (run (acts [freeAllOf m.handle, stopJobs m.handle St.notOwner]) s))) ∧
  (∀ s m c e, AtChip s true m → s.loc m.handle = some c → c.st = .waiting e → m.epoch = e → m.flags % 2 = 1 →
    exec (.queryResult m) s = .next (run (fromHome m) (run (acts [modLoc m.handle (fun c => { c with st := .owner e }), resumeAll m.handle,
      unitEnded m.handle]) s)))

/-- An OFFER of a request this chip has nothing of, for a phase it has the shares of and without a sampler frame to bring in, is acknowledged
with OK, and the chip is RECEIVING with the giver's table; one that repeats the epoch in force is acknowledged again. CAS_RESULT with OK and
the next epoch makes the casing chip the owner; STALE_EPOCH or NOT_OWNER makes it discard its copies. A compare-and-swap without answer is
sent again; HANDOFF_CANCEL discards the copies. A waiting Fetch starts in the order of R184, a complete one of an owner drops the holders it
emptied. A grant at a greater epoch raises the owner's. -/
def Obligations.HandoffAtTheReceiver : Prop :=
  (∀ s m tbl target md, AtChip s false m → s.loc m.handle = none → phaseOf m.phase = some target → s.modelOfTenant tbl.tenant = some md →
    target = .prompting ∨ target = .generating → s.hasShare target = true → tbl.sampler = none → goesCopyFree s m target tbl = true →
    ∃ l, l.st = .receiving m.epoch ∧ l.peer = m.sender ∧ l.target = target ∧ l.tenant = tbl.tenant ∧ l.layers = givenLayers md tbl ∧ l.copyFree = true ∧
      exec (.offer m tbl) s = .next (run (acts [setLoc m.handle l, drawFree, ackOffer m St.ok, count Reg.RQT_COPY_FREE 1,
        when (target == .generating) (tryAlloc m.handle)]) s)) ∧
  (∀ s m tbl target md, AtChip s false m → s.loc m.handle = none → phaseOf m.phase = some target → s.modelOfTenant tbl.tenant = some md →
    target = .prompting ∨ target = .generating → s.hasShare target = true → tbl.sampler = none → goesCopyFree s m target tbl = false →
    ∃ l, l.st = .receiving m.epoch ∧ l.peer = m.sender ∧ l.layers = givenLayers md tbl ∧ l.copyFree = false ∧
      exec (.offer m tbl) s = .next (run (acts [setLoc m.handle l, drawFree, ackOffer m St.ok, addFetch m.handle m.sender false,
        when (target == .generating) (tryAlloc m.handle)]) s)) ∧
  (∀ s m tbl c e, AtChip s false m → s.loc m.handle = some c → c.st = .receiving e → m.epoch ≤ e →
    exec (.offer m tbl) s = .next (run (ackOffer m St.ok) s)) ∧
  (∀ s m c e, AtChip s true m → s.loc m.handle = some c → c.st = .casing e → m.status = St.ok → m.epoch = wrapAdd 32 e 1 →
    exec (.casResult m) s = .next (run (takeOwner m.handle m.epoch) (run (fromHome m) s))) ∧
  (∀ s m c e, AtChip s true m → s.loc m.handle = some c → c.st = .casing e → m.status = St.staleEpoch ∨ m.status = St.notOwner →
    exec (.casResult m) s = .next (run (acts [discardCopies m.handle, stopJobs m.handle m.status]) (run (fromHome m) s))) ∧
  (∀ s h c e, Takes s (.casTimeout h) → s.loc h = some c → c.st = .casing e → c.dropping = none →
    exec (.casTimeout h) s = .next (run (sendCas h e) s)) ∧
  (∀ s m c e, AtChip s false m → s.loc m.handle = some c → c.st = .receiving e ∨ c.st = .casing e →
    exec (.handoffCancel m) s = .next (run (acts [discardCopies m.handle, stopJobs m.handle St.notOwner]) s)) ∧
  (∀ s, Takes s .fetchStart → exec .fetchStart s = .next (run (startFetches 1) s)) ∧
  (∀ s h c f, Takes s (.fetchComplete h) → s.loc h = some c → c.fetch = some f → f.running = true → fetchDone s h c = true →
    exec (.fetchComplete h) s = .next (run (endFetch h c f) s)) ∧
  (∀ s m tbl c e, AtChip s false m → s.loc m.handle = some c → c.st = .owner e → e < m.epoch → m.flags % 2 = 0 →
    exec (.leashGrant m tbl) s = .next (run (acts [modLoc m.handle (fun x => { x with st := .owner m.epoch, replay := c.replay }),
      raiseSteps m.handle m.stepFloor [], fromHome m]) s)) ∧
  (∀ s m tbl md, AtChip s false m → s.loc m.handle = none → s.modelOfTenant tbl.tenant = some md → m.source ≠ s.chipId → m.source ≠ 0 → tbl.sampler = none →
    phaseOf m.phase = some .listening →
    ∃ l, l.st = .owner m.epoch ∧ l.layers = givenLayers md tbl ∧ l.phase = .listening ∧
      exec (.leashGrant m tbl) s = .next (run (acts [setLoc m.handle { home := s.homeOf m.handle }, setLoc m.handle l, drawFree, settleHeld m.handle,
        raiseSteps m.handle m.stepFloor [], fromHome m, addFetch m.handle m.source false]) s))

/-- HOLD_FREE with ALL at a holder frees all it holds, which makes it none, and is answered with HOLD_EMPTY; CLOSE ends what has not begun and,
once nothing of the request runs, frees everything of it, with HOLD_EMPTY of an owner or holder; TOKEN_RESULT with OK of a request that is
not casing ends the samples that wait for it. -/
def Obligations.HolderAndCloseRows : Prop :=
  (∀ s m c, AtChip s false m → s.loc m.handle = some c → c.st = .holder → m.flags % 2 = 1 →
    exec (.holdFree m) s = .next (run (acts [fromHome m, freeHeld c.held, modLoc m.handle (fun c => { c with held := [], st := .none }),
      sendMsg m.sender .holdEmpty { handle := m.handle, epoch := m.epoch, sender := s.chipId }]) s)) ∧
  (∀ s m, AtChip s false m → s.loc m.handle = none → m.flags % 2 = 1 →
    exec (.holdFree m) s = .next (run (sendMsg m.sender .holdEmpty { handle := m.handle, epoch := m.epoch, sender := s.chipId }) s)) ∧
  (∀ s m c, AtChip s false m → s.loc m.handle = some c →
    exec (.close m) s = .next (run (acts [fromHome m, modLoc m.handle (fun c => { c with closing := true }),
      each (s.body.jobs.jobs.filter fun e => e.2.d.handle == m.handle && ofRequest e.2.d.op) (fun e => closeJob e.1 e.2), unitEnded m.handle]) s)) ∧
  (∀ s h c, s.loc h = some c → unitRuns s h = false → c.closing = true → run (unitEnded h) s = run (finishClose h) s) ∧
  (∀ s m c e, AtChip s true m → s.loc m.handle = some c → c.st = .owner e → m.status = St.ok →
    exec (.tokenResult m) s = .next (run (acts [fromHome m, tokenResult m]) s))

/-- A far read whose data are corrected and whose CRC is right puts the page into its near frame and wakes what waits; a first error is read
once more; a second, or a wrong CRC, maps the region out and gives the page up or takes the state mirror's copy; data of a read that is void
are discarded. A backup read goes to the state mirror's copy; the oldest read without a frame is tried again; the hold of a frame ends; a
first pass that has room builds its basis. -/
def Obligations.PageReadsTakeEffect : Prop :=
  (∀ s n tag r fk d f, Takes s (.farReadDone tag true n) → tget s.body.pages.reads tag = some r → refChip r.src = s.chipId → refTier r.src ≤ 1 → r.void = false →
    s.resolve r.src = some fk → keyTier fk ≠ 0 → s.frame r.dst = some d → s.frame fk = some f → f.hdr.payloadCrc = pageCrc s fk f.hdr.storedLen →
    exec (.farReadDone tag true n) s = .next (run (acts [wonRead tag r, promote fk r.dst d.kind, afterLand n]) s)) ∧
  (∀ s n tag r fk d f, Takes s (.farReadDone tag false n) → tget s.body.pages.reads tag = some r → refChip r.src = s.chipId → refTier r.src ≤ 1 → r.void = false →
    s.resolve r.src = some fk → keyTier fk ≠ 0 → s.frame r.dst = some d → s.frame fk = some f → r.retried = false →
    exec (.farReadDone tag false n) s = .next (run (acts [stallSync n, onPages (fun p => { p with reads := tmod p.reads tag fun x => { x with retried := true } }),
      stallSync 0]) s)) ∧
  (∀ s n tag r fk d f, Takes s (.farReadDone tag false n) → tget s.body.pages.reads tag = some r → refChip r.src = s.chipId → refTier r.src ≤ 1 → r.void = false →
    s.resolve r.src = some fk → keyTier fk ≠ 0 → s.frame r.dst = some d → s.frame fk = some f → r.retried = true →
    exec (.farReadDone tag false n) s = .next (run (acts [stallSync n, farUe fk, readFailed tag, stallSync 0]) s)) ∧
  (∀ s n tag r g, Takes s (.farReadDone tag g n) → tget s.body.pages.reads tag = some r → refChip r.src = s.chipId → refTier r.src ≤ 1 → r.void = true →
    exec (.farReadDone tag g n) s = .next (run (acts [count Reg.RQT_BACKUP_DISCARD 1, dropRead tag]) s)) ∧
  (∀ s tag r ref, Takes s (.backupReadTimer tag) → tget s.body.pages.reads tag = some r → mirrorCopyOf s r.handle r.layer r.index = some ref →
    r.backup = false → r.void = false → (∀ e ∈ s.body.pages.reads, e.1 ≠ tag → e.2.dst ≠ r.dst) →
    exec (.backupReadTimer tag) s = .next (run (acts [newRead { r with src := ref, backup := true, tracked := false, retried := false, issued := s.body.tick },
      count Reg.RQT_BACKUP 1, sendFetch ref]) s)) ∧
  (∀ s h l i rest c r, Takes s .prefetchRetry → s.body.pages.retry = (h, l, i) :: rest → s.loc h = some c → (c.layer l).pages[i]? = some r →
    exec .prefetchRetry s = .next (run (if (c.fetch.map (·.running)).getD false && fetchWants s c r then fetchPage h l i
      else prefetchPage h l i c.tenant (pageKind c.phase) r) (run (onPages fun p => { p with retry := rest }) s))) ∧
  (∀ s k f, Takes s (.copydownHoldExpiry k) → s.frame k = some f →
    ∃ t, exec (.copydownHoldExpiry k) s = .next t ∧ t.frame k = some { f with holdUntil := 0 } ∧ t.mem = s.mem ∧ t.regs = s.regs) ∧
  (∀ s h l c m a, Takes s (.firstPassComplete h l) → (h, l) ∈ s.body.pages.passes → s.loc h = some c → s.locModel c = some m → makeBasis s h l c m = some a →
    exec (.firstPassComplete h l) s = .next (run (acts [a, passOver h l, drawFree, count Reg.TRC_BASES_BUILT 1, modLayer h l (fun y => { y with lrRejects := 0 }),
      addBases h l, settleWaiting h l]) s))

/-- MIGRATION_START of a frame that is neither pinned nor migrating nor read, to a frame of this chip that may be taken, below MAX_ACTIVE and
4,096 tombstones, makes it MIGRATING and takes the destination; the end of the copy names the destination everywhere, blocks the frame and
tells its readers; the flip makes it a tombstone, serves what waited and counts a commit; a lost destination ends the migration and counts
it aborted. TRACKER_GEN_ADVANCE raises the generation by one, and frees no frame that is no tombstone. -/
def Obligations.MigrationTakesEffect : Prop :=
  (∀ s k dst f, Takes s (.migrationStart k dst) → s.frame k = some f → f.hdr.pinned = false → f.mig = none → f.staging = false →
    (f.hdr.shared = true → ∀ b ∈ s.body.pages.busy, b.2 ≠ k) → s.get Fld.STM_STATUS_MIG_ACTIVE < s.get Fld.STM_MIG_CTL_MAX_ACTIVE → tombstones s < 4096 →
    refChip dst = s.chipId → destOk s dst = true →
    exec (.migrationStart k dst) s = .next (run (acts [takeFrame (fkey (refTier dst) (refFrame dst)) { hdr := stagingHdr s f.hdr.owner f.hdr.layer f.hdr.tenant, kind := f.kind, staging := true },
      modFrame k (fun x => { x with mig := some { st := .migrating, dst := mkRef s.chipId (refTier dst) (refFrame dst) (s.gen (fkey (refTier dst) (refFrame dst))) }, hdr := { x.hdr with migrating := true } }),
      bumpFld Fld.STM_STATUS_MIG_ACTIVE 1]) s)) ∧
  (∀ s k f m dk, Takes s (.migrationCopyComplete k) → s.frame k = some f → f.mig = some m → m.st = .migrating → (∀ b ∈ s.body.pages.busy, b.2 ≠ k) →
    s.exact m.dst = some dk →
    exec (.migrationCopyComplete k) s = .next (run (acts [migContent k dk f, moveRefs (s.refOf k) m.dst k dk, freeBacking f (keyTier dk == 0),
      modFrame k (fun x => { x with mig := some { m with st := .blocked } }), dirEvent k false]) s)) ∧
  (∀ s k f m dk, Takes s (.migrationFlipDone k) → s.frame k = some f → f.mig = some m → m.st = .blocked → s.exact m.dst = some dk → m.heldUpds = [] →
    exec (.migrationFlipDone k) s = .next (run (acts [
      modFrame k (fun x => { x with mig := some { m with st := .tombstone, flipGen := s.rd Reg.STM_TRACKER_GEN, log := [], heldUpds := [], waits := [] } }),
      modFrame dk (fun x => { x with staging := false }), count Reg.STM_MIG_COMMIT 1, dropFld Fld.STM_STATUS_MIG_ACTIVE 1, bumpFld Fld.STM_STATUS_TOMBSTONES 1,
      each m.waits servePage, resumeAll f.hdr.owner, afterLand 0, refeed]) s)) ∧
  (∀ s k f m dk, Takes s (.migrationDestFail k) → s.frame k = some f → f.mig = some m → m.st = .migrating → s.exact m.dst = some dk → m.heldUpds = [] →
    exec (.migrationDestFail k) s = .next (run (acts [freeEntry dk, modFrame k (fun x => { x with mig := none, hdr := { x.hdr with migrating := false } }),
      count Reg.STM_MIG_ABORT 1, dropFld Fld.STM_STATUS_MIG_ACTIVE 1, resumeAll f.hdr.owner]) s)) ∧
  (∀ s, Takes s .trackerGenAdvance → (∀ e ∈ s.body.pages.frames, ∀ m, e.2.mig = some m → m.st ≠ .tombstone) →
    exec .trackerGenAdvance s = .next (run (setReg Reg.STM_TRACKER_GEN (wrapAdd 32 (s.rd Reg.STM_TRACKER_GEN) 1)) s))

/-- A PAGE_READ of a sealed page without a directory entry is answered with its data, and a tracked one makes its reader an entry; a fenced
reader is answered FENCED, an old reference GEN_STALE. INVAL is counted and acknowledged at once; INVAL_ACK and DROP take the sender off the
entry; FENCE_NOTICE and FENCED make the reader give up what it has of that home; FLUSH_DONE ends the fence; without an answer INVAL goes out
again, then the readers are fenced. GEN_STALE and NOT_SEALED end the reads of the page and have it read again; PAGE_DATA fills the frame of
its read. -/
def Obligations.CoherenceRowsTakeEffect : Prop :=
  (∀ s m r k f, Takes s (.pageRead m) → m.refs = [r] → m.sender ∉ s.body.coh.fenced → s.exact r = some k → s.frame k = some f → f.mig = none → f.staging = false →
    f.hdr.isSealed = true → tget s.body.coh.dir k = none → m.tracked = false →
    exec (.pageRead m) s = .next (run (sendPage m.sender r k) s)) ∧
  (∀ s m r k f, Takes s (.pageRead m) → m.refs = [r] → m.sender ∉ s.body.coh.fenced → s.exact r = some k → s.frame k = some f → f.mig = none → f.staging = false →
    tget s.body.coh.dir k = none → m.tracked = true → (s.body.coh.dir.filter fun e => dirSet e.1 == dirSet k).length < 16 →
    exec (.pageRead m) s = .next (run (sendPage m.sender r k) (run (grantReader k m.sender) s))) ∧
  (∀ s m r, Takes s (.pageRead m) → m.refs = [r] → m.sender ∈ s.body.coh.fenced → exec (.pageRead m) s = .next (run (sendCoh m.sender .fenced 0 []) s)) ∧
  (∀ s m r, Takes s (.pageRead m) → m.refs = [r] → m.sender ∉ s.body.coh.fenced → s.exact r = none →
    exec (.pageRead m) s = .next (run (acts [count Reg.MOV_GEN_STALE 1, answerRead m.sender .genStale r]) s)) ∧
  (∀ s m, Takes s (.inval m) → (∀ r ∈ m.refs, tget s.body.coh.cache r = none) →
    exec (.inval m) s = .next (run (acts [count Reg.MOV_INVAL_RECV 1,
      look (fun s => emit (.coh m.sender { type := .invalAck, sender := s.member, seq := m.seq, refs := m.refs } none [] [])), refeed]) s)) ∧
  (∀ s m r c, Takes s (.inval m) → m.refs = [r] → tget s.body.coh.cache r = some c → c.st = .valid → (∀ b ∈ s.body.pages.busy, b.2 ≠ c.key) →
    exec (.inval m) s = .next (run (acts [count Reg.MOV_INVAL_RECV 1, onCoh (fun x => { x with cache := tdel x.cache r }), freeFrame c.key,
      look (fun s => emit (.coh m.sender { type := .invalAck, sender := s.member, seq := m.seq, refs := m.refs } none [] [])), refeed]) s)) ∧
  (∀ s m, Takes s (.invalAck m) → exec (.invalAck m) s = .next (run (each m.refs (readerGone m.sender)) s)) ∧
  (∀ s m, Takes s (.drop m) → exec (.drop m) s = .next (run serveWays (run (each m.refs (readerGone m.sender)) s))) ∧
  (∀ s, s.body.coh.waitWay = [] → (run serveWays s).body = s.body) ∧
  (∀ s r ref d, tget s.body.coh.dir (fkey (refTier ref) (refFrame ref)) = some d → d.gen = refGen ref → d.blocked = false → d.readers.filter (· != r) ≠ [] →
    (tget (run (readerGone r ref) s).body.coh.dir (fkey (refTier ref) (refFrame ref))).map (·.readers) = some (d.readers.filter (· != r))) ∧
  (∀ s m, Takes s (.fenceNotice m) → exec (.fenceNotice m) s = .next (run (metFence m.sender) s)) ∧
  (∀ s m, Takes s (.fenced m) → exec (.fenced m) s = .next (run (metFence m.sender) s)) ∧
  (∀ s m, Takes s (.flushDone m) → ∃ t, exec (.flushDone m) s = .next t ∧ t.body.coh.fenced = s.body.coh.fenced.filter (· != m.sender) ∧ t.mem = s.mem ∧ t.regs = s.regs) ∧
  (∀ s k d, Takes s (.invalTimeout k) → tget s.body.coh.dir k = some d → d.blocked = true → d.resent = false →
    exec (.invalTimeout k) s = .next (run (acts [each d.pending (sendInval (mkRef s.chipId (keyTier k) (keyFrame k) d.gen)),
      onCoh fun c => { c with dir := tmod c.dir k fun x => { x with resent := true } }]) s)) ∧
  (∀ s k d, Takes s (.invalTimeout k) → tget s.body.coh.dir k = some d → d.blocked = true → d.resent = true →
    exec (.invalTimeout k) s = .next (run (acts [each (d.pending.filter fun r => !s.body.coh.fenced.contains r) fenceReader,
      each d.pending fun r => readerGone r (mkRef s.chipId (keyTier k) (keyFrame k) d.gen)]) s)) ∧
  (∀ s m found r new tag x, Takes s (.genStale m found) → m.refs = [r] → (s.body.pages.reads.filter fun e => e.2.src == r) = [(tag, x)] → x.mov = none →
    x.forFetch = true → tget found r = some new →
    exec (.genStale m found) s = .next (run (acts [giveUpRead tag, movedRef r new, fetchPage x.handle x.layer x.index, refeed]) s)) ∧
  (∀ s m r tag x, Takes s (.notSealed m) → m.refs = [r] → (s.body.pages.reads.filter fun e => e.2.src == r) = [(tag, x)] → x.mov = none →
    exec (.notSealed m) s = .next (run (acts [giveUpRead tag, addRetry x.handle x.layer x.index]) s)) ∧
  (∀ s m hb data scale ref k, Takes s (.pageData m hb data scale) → m.refs = [ref] → ref ≠ 0 → refChip ref = s.chipId → s.exact ref = some k → targetOpen s k = true →
    dataCrcOk (hdrOf hb) data scale = true →
    exec (.pageData m hb data scale) s = .next (run (emit (.answer m.sender m.seq Ans.ok [])) (run (writeTarget k (hdrOf hb) data scale m.tracked) s))) ∧
  (∀ s m hb data scale ref tag r, Takes s (.pageData m hb data scale) → m.refs = [ref] → ref ≠ 0 → refChip ref ≠ s.chipId →
    s.body.pages.reads.find? (fun e => refChip e.2.src != s.chipId && refTier e.2.src ≤ 1 && !e.2.needs && e.2.src == ref) = some (tag, r) → tget s.body.pages.reads tag = some r → r.void = false → r.mov = none → dataCrcOk (hdrOf hb) data scale = true → (hdrOf hb).pageRef = ref →
    exec (.pageData m hb data scale) s = .next (run (landPage tag r (hdrOf hb) data scale) s))

/-- An answer ends the access of its tag and goes to its requester; an answer to a tag that waits no more changes nothing; an access without
answer fails with TIMEOUT, counted and flagged; a fence holds the requester's later accesses until every earlier one is acknowledged, and is
complete at once where none waits. -/
def Obligations.RequesterRowsTakeEffect : Prop :=
  (∀ s tag data a, Takes s (.accessAnswer tag Ans.ok data) → tget s.body.fabric.waiting tag = some a →
    exec (.accessAnswer tag Ans.ok data) s = .next (run (acts [onFabric (fun f => { f with waiting := tdel f.waiting tag }), accessOver a Ans.ok data,
      fenceDone a.who]) s)) ∧
  (∀ s tag st data, Takes s (.accessAnswer tag st data) → tget s.body.fabric.waiting tag = none → exec (.accessAnswer tag st data) s = .next s) ∧
  (∀ s tag a, Takes s (.loadTimeout false tag) → tget s.body.fabric.waiting tag = some a → holdsToFence a.who = false →
    exec (.loadTimeout false tag) s = .next (run (acts [onFabric (fun f => { f with waiting := tdel f.waiting tag }), count Reg.MOV_TIMEOUTS 1, raise Blk.mov 3,
      accessOver a Ans.timeout [], fenceDone a.who]) s)) ∧
  (∀ s tag r, Takes s (.loadTimeout true tag) → tget s.body.pages.reads tag = some r → refChip r.src ≠ s.chipId → refTier r.src ≤ 1 → r.mov = none →
    exec (.loadTimeout true tag) s = .next (run (acts [count Reg.MOV_TIMEOUTS 1, raise Blk.mov 3, stallSync 0, readFailed tag, stallSync 0]) s)) ∧
  (∀ s who, Takes s (.fabricFence who) → who ∉ s.body.fabric.fences → (∃ e ∈ s.body.fabric.waiting, e.2.who = who) →
    ∃ t, exec (.fabricFence who) s = .next t ∧ t.body.fabric.fences = s.body.fabric.fences ++ [who] ∧ t.body.fabric.waiting = s.body.fabric.waiting ∧ t.body.out = s.body.out) ∧
  (∀ s who, Takes s (.fabricFence who) → who ∉ s.body.fabric.fences → (∀ e ∈ s.body.fabric.waiting, e.2.who ≠ who) → (∀ e ∈ s.body.fabric.failed, e.1 ≠ who) →
    (∀ e ∈ s.body.fabric.held, e.1 ≠ who) →
    ∃ t, exec (.fabricFence who) s = .next t ∧ t.body.out = s.body.out ++ [Output.fenced who true] ∧ t.body.fabric.waiting = s.body.fabric.waiting)

/-- An admitted load in range answers the bytes it reads and changes nothing, or UE and no data where they cannot be corrected; an admitted
store that the chip does not refuse is performed and acknowledged, a refused one answers REJECT and stores nothing, a refused load answers
RANGE. A load and a store of the shared region read and write its bytes. A hint of a far, sealed page of this chip with a frame to be had is
issued as a prefetch read and counted; another is dropped and counted. -/
def Obligations.AccessesTakeEffect : Prop :=
  (∀ s src tag addr n d, Takes s (.load_ src tag addr n false) → admits s src addr (.load n) = true → loadBytes s addr n = some d →
    (faAperture addr = 2 → jobLoadRange s (faOffset addr) n = false) →
    ∃ t, exec (.load_ src tag addr n false) s = .next t ∧ t.body.out = s.body.out ++ [Output.answer (accTag src) tag Ans.ok d] ∧ t.mem = s.mem ∧ t.regs = s.regs) ∧
  (∀ s src tag addr n d, Takes s (.load_ src tag addr n true) → admits s src addr (.load n) = true → loadBytes s addr n = some d →
    (faAperture addr = 2 → jobLoadRange s (faOffset addr) n = false) →
    exec (.load_ src tag addr n true) s = .next (run (answer src tag Ans.ue []) (run (loadUe addr) s))) ∧
  (∀ s src tag addr n ue, Takes s (.load_ src tag addr n ue) → admits s src addr (.load n) = true → loadBytes s addr n = none →
    exec (.load_ src tag addr n ue) s = .next (run (refuse src tag false) s)) ∧
  (∀ s addr n, faAperture addr = 1 → faRegion addr = 4 → faInner addr + n ≤ s.get Fld.MOV_CTL_SHARED_MIB * 2 ^ 20 →
    loadBytes s addr n = some (s.bytes (Mem.shared + faInner addr) n)) ∧
  (∀ s addr n, faAperture addr = 4 → n ≤ 8 → faOffset addr + n ≤ 0x1000000 → loadBytes s addr n = some (leBytes n (readReg s (faOffset addr) n))) ∧
  (∀ s src tag addr d a, Takes s (.store_ src tag addr d) → admits s src addr (.store d) = true → performStore s addr d = some a →
    exec (.store_ src tag addr d) s = .next (run (answer src tag Ans.ok []) (run a s))) ∧
  (∀ s src tag addr d, Takes s (.store_ src tag addr d) → admits s src addr (.store d) = true → performStore s addr d = none →
    ∃ t, exec (.store_ src tag addr d) s = .next t ∧ t.mem = s.mem ∧ t = run (refuse src tag true) s) ∧
  (∀ s src tag addr d, s.canonical → Takes s (.store_ src tag addr d) → admits s src addr (.store d) = true → faAperture addr = 1 → faRegion addr = 4 →
    faInner addr + d.length ≤ s.get Fld.MOV_CTL_SHARED_MIB * 2 ^ 20 →
    ∃ t, exec (.store_ src tag addr d) s = .next t ∧ t.bytes (Mem.shared + faInner addr) d.length = d ∧ t.regs = s.regs ∧
      ∀ x, x < Mem.shared + faInner addr ∨ Mem.shared + faInner addr + d.length ≤ x → t.byte x = s.byte x) ∧
  (∀ s src tag addr d f a, Takes s (.hintFetch src tag addr d) → admits s src addr (.hint (leNat (d.take 8))) = true → faAperture addr = 1 → faRegion addr = 5 →
    faInner addr = 0 → d.length = 16 → leNat (d.drop 8) = 0 → hintFrame s (leNat (d.take 8)) = some f →
    issueRead s f.hdr.owner f.hdr.layer (f.hdr.firstPos / 2 ^ f.hdr.pLog2) f.hdr.tenant f.kind (leNat (d.take 8)) 2 = some a →
    exec (.hintFetch src tag addr d) s = .next (run (acts [a, count Reg.MOV_HINT_PLACED 1, answer src tag Ans.ok []]) s)) ∧
  (∀ s src tag addr d, Takes s (.hintFetch src tag addr d) → admits s src addr (.hint (leNat (d.take 8))) = true → faAperture addr = 1 → faRegion addr = 5 →
    faInner addr = 0 → d.length = 16 → hintFrame s (leNat (d.take 8)) = none →
    exec (.hintFetch src tag addr d) s = .next (run (acts [count Reg.MOV_HINT_DROPPED 1, answer src tag Ans.ok []]) s))

/-- Each of the thirteen atomics, admitted and within the shared region or the job buffer, replaces the word of its width by the operation's
value, leaves every other byte and every register as they were, and answers the old word, or nothing with NORET: sum modulo 2^32 or 2^64,
the new value where the old equals the compare value, unsigned and two's-complement minimum and maximum, and the binary32 sum. The memory is
in its canonical form. -/
def Obligations.AtomicsTakeEffect : Prop :=
  (∀ s src tag addr a noret p, s.canonical → Takes s (.fadd32 src tag addr a noret) → admits s src addr (.atomic 0 4 a 0) = true → atomicAt s addr 4 = some p →
    ∃ t, exec (.fadd32 src tag addr a noret) s = .next t ∧ AtomicDone s t src tag p 4 ((s.num p 4 + a) % 2 ^ 32) noret) ∧
  (∀ s src tag addr a noret p, s.canonical → Takes s (.fadd64 src tag addr a noret) → admits s src addr (.atomic 1 8 a 0) = true → atomicAt s addr 8 = some p →
    ∃ t, exec (.fadd64 src tag addr a noret) s = .next t ∧ AtomicDone s t src tag p 8 ((s.num p 8 + a) % 2 ^ 64) noret) ∧
  (∀ s src tag addr a noret p, s.canonical → Takes s (.umin32 src tag addr a noret) → admits s src addr (.atomic 4 4 a 0) = true → atomicAt s addr 4 = some p →
    ∃ t, exec (.umin32 src tag addr a noret) s = .next t ∧ AtomicDone s t src tag p 4 (min (s.num p 4) a) noret) ∧
  (∀ s src tag addr a noret p, s.canonical → Takes s (.umin64 src tag addr a noret) → admits s src addr (.atomic 5 8 a 0) = true → atomicAt s addr 8 = some p →
    ∃ t, exec (.umin64 src tag addr a noret) s = .next t ∧ AtomicDone s t src tag p 8 (min (s.num p 8) a) noret) ∧
  (∀ s src tag addr a noret p, s.canonical → Takes s (.umax32 src tag addr a noret) → admits s src addr (.atomic 6 4 a 0) = true → atomicAt s addr 4 = some p →
    ∃ t, exec (.umax32 src tag addr a noret) s = .next t ∧ AtomicDone s t src tag p 4 (max (s.num p 4) a) noret) ∧
  (∀ s src tag addr a noret p, s.canonical → Takes s (.umax64 src tag addr a noret) → admits s src addr (.atomic 7 8 a 0) = true → atomicAt s addr 8 = some p →
    ∃ t, exec (.umax64 src tag addr a noret) s = .next t ∧ AtomicDone s t src tag p 8 (max (s.num p 8) a) noret) ∧
  (∀ s src tag addr a noret p, s.canonical → Takes s (.smin32 src tag addr a noret) → admits s src addr (.atomic 8 4 a 0) = true → atomicAt s addr 4 = some p →
    ∃ t, exec (.smin32 src tag addr a noret) s = .next t ∧ AtomicDone s t src tag p 4 (if (BitVec.ofNat 32 a).toInt < (BitVec.ofNat 32 (s.num p 4)).toInt then a else s.num p 4) noret) ∧
  (∀ s src tag addr a noret p, s.canonical → Takes s (.smin64 src tag addr a noret) → admits s src addr (.atomic 9 8 a 0) = true → atomicAt s addr 8 = some p →
    ∃ t, exec (.smin64 src tag addr a noret) s = .next t ∧ AtomicDone s t src tag p 8 (if (BitVec.ofNat 64 a).toInt < (BitVec.ofNat 64 (s.num p 8)).toInt then a else s.num p 8) noret) ∧
  (∀ s src tag addr a noret p, s.canonical → Takes s (.smax32 src tag addr a noret) → admits s src addr (.atomic 10 4 a 0) = true → atomicAt s addr 4 = some p →
    ∃ t, exec (.smax32 src tag addr a noret) s = .next t ∧ AtomicDone s t src tag p 4 (if (BitVec.ofNat 32 (s.num p 4)).toInt < (BitVec.ofNat 32 a).toInt then a else s.num p 4) noret) ∧
  (∀ s src tag addr a noret p, s.canonical → Takes s (.smax64 src tag addr a noret) → admits s src addr (.atomic 11 8 a 0) = true → atomicAt s addr 8 = some p →
    ∃ t, exec (.smax64 src tag addr a noret) s = .next t ∧ AtomicDone s t src tag p 8 (if (BitVec.ofNat 64 (s.num p 8)).toInt < (BitVec.ofNat 64 a).toInt then a else s.num p 8) noret) ∧
  (∀ s src tag addr x a noret p, s.canonical → Takes s (.cas32 src tag addr x a noret) → admits s src addr (.atomic 2 4 x a) = true → atomicAt s addr 4 = some p →
    ∃ t, exec (.cas32 src tag addr x a noret) s = .next t ∧ AtomicDone s t src tag p 4 (if s.num p 4 = x then a else s.num p 4) noret) ∧
  (∀ s src tag addr x a noret p, s.canonical → Takes s (.cas64 src tag addr x a noret) → admits s src addr (.atomic 3 8 x a) = true → atomicAt s addr 8 = some p →
    ∃ t, exec (.cas64 src tag addr x a noret) s = .next t ∧ AtomicDone s t src tag p 8 (if s.num p 8 = x then a else s.num p 8) noret) ∧
  (∀ s src tag addr a noret p, s.canonical → Takes s (.fpadd32 src tag addr a noret) → admits s src addr (.atomic 12 4 a 0) = true → atomicAt s addr 4 = some p →
    ∃ t, exec (.fpadd32 src tag addr a noret) s = .next t ∧ AtomicDone s t src tag p 4 (f32Add (s.num p 4) a % 2 ^ 32) noret)

/-- A SIGNAL store adds exactly 1 to COUNT, counts an increment and a signal, and fires the counter where it is armed and has reached its
target, else leaves ARMED and FIRED. An arming store sets target, route and ARMED and clears FIRED where the target is not reached, and
fires at once where it is; a disarming store clears ARMED and keeps COUNT, TARGET, ROUTE and FIRED. A store through a window to a counter
outside its range is ignored and sets RANGE. Every other counter stays as it is. -/
def Obligations.CountersTakeEffect : Prop :=
  (∀ s n v, Takes s (.acnSignal none n v) → ((s.counter n).armed = true → reached { s.counter n with count := wrapAdd 32 (s.counter n).count 1 } = false) →
    ∃ t, exec (.acnSignal none n v) s = .next t ∧ t.counter n = { s.counter n with count := wrapAdd 32 (s.counter n).count 1 } ∧
      (∀ k, k ≠ n → t.counter k = s.counter k) ∧ t.led.increments = s.led.increments + 1 ∧ t.led.signals = s.led.signals + 1 ∧ t.mem = s.mem) ∧
  (∀ s n v, Takes s (.acnSignal none n v) → (s.counter n).armed = true → reached { s.counter n with count := wrapAdd 32 (s.counter n).count 1 } = true →
    ∃ c, c.armed = false ∧ c.fired = true ∧ c.count = wrapAdd 32 (s.counter n).count 1 ∧ c.target = (s.counter n).target ∧
      exec (.acnSignal none n v) s = .next (run (acts [eff (.arrive .signal), setCounter n { s.counter n with count := wrapAdd 32 (s.counter n).count 1 },
        setCounter n c, dropFld Fld.ACN_STATUS_ARMED 1, raiseEvent n c]) s)) ∧
  (∀ s n tg r, Takes s (.acnArm none n tg r) → reached { s.counter n with target := tg, route := r, armed := true, fired := false } = false →
    ∃ t, exec (.acnArm none n tg r) s = .next t ∧ t.counter n = { s.counter n with target := tg, route := r, armed := true, fired := false } ∧
      (∀ k, k ≠ n → t.counter k = s.counter k) ∧ t.mem = s.mem ∧ t.led = s.led) ∧
  (∀ s n tg r, Takes s (.acnArm none n tg r) → (s.counter n).armed = true → reached { s.counter n with target := tg, route := r, armed := true, fired := false } = true →
    ∃ c, c.armed = false ∧ c.fired = true ∧ c.count = (s.counter n).count ∧ c.target = tg ∧ c.route = r ∧
      exec (.acnArm none n tg r) s = .next (run (acts [setCounter n { s.counter n with target := tg, route := r, armed := true, fired := false }, setCounter n c,
        dropFld Fld.ACN_STATUS_ARMED 1, raiseEvent n c]) s)) ∧
  (∀ s n tg r, Takes s (.acnArm none n tg r) → (s.counter n).armed = false → reached { s.counter n with target := tg, route := r, armed := true, fired := false } = true →
    ∃ c, c.armed = false ∧ c.fired = true ∧ c.count = (s.counter n).count ∧ c.target = tg ∧ c.route = r ∧
      exec (.acnArm none n tg r) s = .next (run (acts [setCounter n { s.counter n with target := tg, route := r, armed := true, fired := false },
        bumpFld Fld.ACN_STATUS_ARMED 1, setCounter n c, dropFld Fld.ACN_STATUS_ARMED 1, raiseEvent n c]) s)) ∧
  (∀ s n tg r, Takes s (.acnDisarm none n tg r) →
    ∃ t, exec (.acnDisarm none n tg r) s = .next t ∧ t.counter n = { s.counter n with armed := false } ∧ (∀ k, k ≠ n → t.counter k = s.counter k) ∧ t.mem = s.mem ∧
      t.led = s.led) ∧
  (∀ s w n v, Takes s (.acnSignal (some w) n v) → inAcnRange s w n = false → exec (.acnSignal (some w) n v) s = .next (run (raise Blk.acn 2) s)) ∧
  (∀ s w n v, Takes s (.acnSignal (some w) n v) → inAcnRange s w n = true → exec (.acnSignal (some w) n v) s = .next (run (arrive n .signal) s)) ∧
  (∀ s w n tg r, Takes s (.acnArm (some w) n tg r) → inAcnRange s w n = true →
    exec (.acnArm (some w) n tg r) s = .next (run (armStore n (tg + r * 2 ^ 32 + 2 ^ 40)) s)) ∧
  (∀ s w n tg r, Takes s (.acnDisarm (some w) n tg r) → inAcnRange s w n = true →
    exec (.acnDisarm (some w) n tg r) s = .next (run (armStore n (tg + r * 2 ^ 32)) s))

/-- A doorbell of an open queue within its depth moves the tail. COPY, COPY_PAGE, FILL and BARRIER at the head of a queue are accepted under the
inflight limit and their fence, and start: a COPY issues its loads, a FILL its stores, a COPY_PAGE its page read, a BARRIER nothing; one
that fails its checks ends with INVALID. A descriptor of which nothing is out ends with its completion record and then its arrival. -/
def Obligations.MoverTakesEffect : Prop :=
  (∀ s q tail, Takes s (.movQueueDoorbell q tail) → qOpen s .mov q = true → q ∉ s.qReenable .mov → tail < s.qDepth .mov q →
    exec (.movQueueDoorbell q tail) s = .next (run (setFld (qTail .mov q) tail) s)) ∧
  (∀ s q i bs, Takes s (.copy_ q) → nextDesc s .mov q = some (i, bs) → (movDescOf bs).op = 1 →
    (s.body.mover.live.filter fun e => e.2.q == q).length < s.get Fld.MOV_CAPS_INFLIGHT →
    ((movDescOf bs).fence = true → ∀ e ∈ s.body.mover.live, e.2.q ≠ q) → 
    exec (.copy_ q) s = .next (run (movStart s.body.mover.next) (run (movTake q i bs) s))) ∧
  (∀ s q i bs, Takes s (.copyPage q) → nextDesc s .mov q = some (i, bs) → (movDescOf bs).op = 2 →
    (s.body.mover.live.filter fun e => e.2.q == q).length < s.get Fld.MOV_CAPS_INFLIGHT →
    ((movDescOf bs).fence = true → ∀ e ∈ s.body.mover.live, e.2.q ≠ q) → 
    exec (.copyPage q) s = .next (run (movStart s.body.mover.next) (run (movTake q i bs) s))) ∧
  (∀ s q i bs, Takes s (.fill q) → nextDesc s .mov q = some (i, bs) → (movDescOf bs).op = 3 →
    (s.body.mover.live.filter fun e => e.2.q == q).length < s.get Fld.MOV_CAPS_INFLIGHT →
    ((movDescOf bs).fence = true → ∀ e ∈ s.body.mover.live, e.2.q ≠ q) → 
    exec (.fill q) s = .next (run (movStart s.body.mover.next) (run (movTake q i bs) s))) ∧
  (∀ s q i bs, Takes s (.barrier q) → nextDesc s .mov q = some (i, bs) → (movDescOf bs).op = 4 →
    (s.body.mover.live.filter fun e => e.2.q == q).length < s.get Fld.MOV_CAPS_INFLIGHT →
    ((movDescOf bs).fence = true → ∀ e ∈ s.body.mover.live, e.2.q ≠ q) → (∀ e ∈ s.body.mover.live, e.2.q ≠ q) → 
    exec (.barrier q) s = .next (run (movStart s.body.mover.next) (run (movTake q i bs) s))) ∧
  (∀ s id m ctx, tget s.body.mover.live id = some m → movFormOk m.desc (movDescOf m.desc) = true → qArrivalOk s .mov m.q (movDescOf m.desc).arrival = true →
    qCtx s .mov m.q = some ctx → movPass s ctx (movDescOf m.desc) = true → (movDescOf m.desc).op = 1 →
    run (movStart id) s = run (acts [modMov id (fun x => { x with left := (movParts (movDescOf m.desc)).length }),
      each (movParts (movDescOf m.desc)) fun p => sendAccess (.mov id) ((movDescOf m.desc).src + p.1) (.load p.2)]) s) ∧
  (∀ s id m ctx, tget s.body.mover.live id = some m → movFormOk m.desc (movDescOf m.desc) = true → qArrivalOk s .mov m.q (movDescOf m.desc).arrival = true →
    qCtx s .mov m.q = some ctx → movPass s ctx (movDescOf m.desc) = true → (movDescOf m.desc).op = 3 →
    run (movStart id) s = run (acts [modMov id (fun x => { x with left := (movParts (movDescOf m.desc)).length }),
      each (movParts (movDescOf m.desc)) fun p => sendAccess (.mov id) ((movDescOf m.desc).dst + p.1) (.store (fillBytes (movDescOf m.desc).pattern p.2))]) s) ∧
  (∀ s id m ctx, tget s.body.mover.live id = some m → movFormOk m.desc (movDescOf m.desc) = true → qArrivalOk s .mov m.q (movDescOf m.desc).arrival = true →
    qCtx s .mov m.q = some ctx → movPass s ctx (movDescOf m.desc) = true → (movDescOf m.desc).op = 2 →
    run (movStart id) s = run (acts [modMov id (fun x => { x with left := 1 }), movReadPage id (movDescOf m.desc)]) s) ∧
  (∀ s id m, tget s.body.mover.live id = some m → movFormOk m.desc (movDescOf m.desc) = false →
    run (movStart id) s = run (modMov id fun x => { x with status := St.invalid }) s) ∧
  (∀ s id m, Takes s (.moverDescriptorEnd id) → tget s.body.mover.live id = some m → m.left = 0 →
    exec (.moverDescriptorEnd id) s = .next (run (restartQueue .mov m.q) (run (endMov id m) s)))

/-- A doorbell of an open send queue within its depth moves its tail. A descriptor that passes its checks starts: its slot is accepted, the
message takes the next MSG_SEQ and an entry of the message table, and its packets are transmitted; one whose checks fail is accepted and
ends with INVALID. Without an answer every packet is sent again, up to RETRY_MAX times and 400 microseconds; after that it is given up with
BUSY_RETRY and its entry is freed. An opened ACK packet that matches ends its message with the status of its reason; one that matches none
is counted. -/
def Obligations.SendingTakesEffect : Prop :=
  (∀ s q tail, Takes s (.sendQueueDoorbell q tail) → qOpen s .xpt q = true → q ∉ s.qReenable .xpt → tail < s.qDepth .xpt q →
    exec (.sendQueueDoorbell q tail) s = .next (run (setFld (qTail .xpt q) tail) s)) ∧
  (∀ s q r i bs p, Takes s (.send q r) → nextDesc s .xpt q = some (i, bs) → sendSource s (sendDescOf bs) = some p → sendForm s q (sendDescOf bs) = true →
    sendWinOk s q (sendDescOf bs) = true → ((sendDescOf bs).dst = s.chipId ∨ s.body.sec.podCur.isSome = true) → s.body.xpt.sent.length < 16384 →
    orderedFree s (sendDescOf bs) = true → r.ue = none →
    exec (.send q r) s = .next (run (acts [acceptSlot .xpt q i,
      onXpt (fun t => { t with nextSeq := (s.body.xpt.nextSeq + 1) % 2 ^ 48, sent := tput t.sent s.body.xpt.nextSeq (startedMessage s q i bs p) }), syncSent,
      when (0 < r.resends) (count Reg.XPT_BLOCK_RESEND r.resends),
      transmit (s.get (qTraffic .xpt q) % 64) s.body.xpt.nextSeq bs (s.bytes p (sendDescOf bs).length) false r.lost (ceilDiv (sendDescOf bs).length 4096)]) s)) ∧
  (∀ s q r i bs p, Takes s (.send q r) → nextDesc s .xpt q = some (i, bs) → sendSource s (sendDescOf bs) = some p → sendForm s q (sendDescOf bs) = false →
    exec (.send q r) s = .next (run (acts [acceptSlot .xpt q i, endSend q i (s.get (qSeq .xpt q)) St.invalid bs s.body.tick]) s)) ∧
  (∀ s n r x, Takes s (.rtoExpiry n r) → tget s.body.xpt.sent n = some x → x.retx < s.get Fld.XPT_CTL_RETRY_MAX → s.body.tick ≤ x.first + 400000 → r.ue = none →
    exec (.rtoExpiry n r) s = .next (run (acts [onXpt (fun t => { t with sent := tput t.sent n { x with retx := x.retx + 1, last := s.body.tick } }),
      when (0 < r.resends) (count Reg.XPT_BLOCK_RESEND r.resends),
      transmit (s.get (qTraffic .xpt x.q) % 64) n x.desc x.data true r.lost (ceilDiv x.data.length 4096)]) s)) ∧
  (∀ s n r x, Takes s (.rtoExpiry n r) → tget s.body.xpt.sent n = some x → (s.get Fld.XPT_CTL_RETRY_MAX ≤ x.retx ∨ x.first + 400000 < s.body.tick) →
    ∃ t, exec (.rtoExpiry n r) s = .next t ∧ t.body.out = s.body.out ∧ t.regs = s.regs ∧ t.mem = s.mem ∧ (tget t.body.xpt.sent n).map (·.ovr) = some true) ∧
  (∀ s n x, Takes s (.sendGiveUp n) → tget s.body.xpt.sent n = some x → (x.ovr = true ∨ s.get Fld.XPT_CTL_RETRY_MAX ≤ x.retx) →
    exec (.sendGiveUp n) s = .next (run (endMessage n St.busyRetry) (run (raise Blk.xpt 3) s))) ∧
  (∀ s bs k x st, Takes s (.ackPacketReceive bs) → opens s bs = some k → (packetOf (bs.take 56)).kind = 1 → tget s.body.xpt.sent (packetOf (bs.take 56)).seq = some x →
    (sendDescOf x.desc).bufId = (packetOf (bs.take 56)).bufId → (sendDescOf x.desc).bufGen = (packetOf (bs.take 56)).bufGen →
    ackStatus ((packetOf (bs.take 56)).offset % 256) = some st →
    exec (.ackPacketReceive bs) s = .next (run (endMessage (packetOf (bs.take 56)).seq st) (run (useKey (packetOf (bs.take 56)).src (packetOf (bs.take 56)).epoch) s))) ∧
  (∀ s bs k, Takes s (.ackPacketReceive bs) → opens s bs = some k → (packetOf (bs.take 56)).kind = 1 → tget s.body.xpt.sent (packetOf (bs.take 56)).seq = none →
    exec (.ackPacketReceive bs) s = .next (run (count Reg.XPT_ACK_ORPHAN 1) (run (useKey (packetOf (bs.take 56)).src (packetOf (bs.take 56)).epoch) s)))

/-- A packet that does not open is dropped, counted and flagged. One that opens is received under the procedure: into a POSTED buffer of its
generation that is long enough a one-packet message is placed whole, the buffer completes, and the answer is DELIVERED; a packet of the
message a COMPLETE buffer holds is answered DELIVERED again and stores nothing; one of another generation is stale. A context without
packets returns its buffer to POSTED under the next generation, with a flag and a count. -/
def Obligations.ReceivingTakesEffect : Prop :=
  (∀ s bs n b, Takes s (.dataPacketReceive bs n b) → (packetOf (bs.take 56)).kind < 4 → podKeyOf s (packetOf (bs.take 56)).epoch = none →
    exec (.dataPacketReceive bs n b) s = .next (run (acts [acts [count Reg.XPT_AUTH_FAIL 1, raise Blk.xpt 0], raise Blk.xpt 1]) s)) ∧
  (∀ s bs n k, Takes s (.dataPacketReceive bs n false) → opens s bs = some k → (packetOf (bs.take 56)).kind = 0 →
    exec (.dataPacketReceive bs n false) s = .next (run (acts [useKey (packetOf (bs.take 56)).src (packetOf (bs.take 56)).epoch,
      when (0 < n) (count Reg.XPT_BLOCK_RESEND n), receive (packetOf (bs.take 56)) k (ackPacket (packetOf (bs.take 56)))]) s)) ∧
  (∀ s p k reply, p.wellFormed k.length = true → p.bufGen = (s.buf p.bufId).gen → (s.buf p.bufId).st = .posted → p.totalLen ≤ (s.buf p.bufId).length → p.totalLen ≤ 4096 →
    run (receive p k reply) s = run (completeBuf (s.buf p.bufId) p reply) (run (store (xptAddr (s.buf p.bufId).hostwin (s.buf p.bufId).addr p.offset) k) s)) ∧
  (∀ s p k reply, p.wellFormed k.length = true → p.bufGen = (s.buf p.bufId).gen → (s.buf p.bufId).st = .complete → (s.buf p.bufId).last = some (p.src, p.seq) →
    run (receive p k reply) s = run (count Reg.XPT_DUP_DISCARD 1) (run (reply 0) s)) ∧
  (∀ s p k reply, p.wellFormed k.length = true → p.bufGen ≠ (s.buf p.bufId).gen → (s.buf p.bufId).last ≠ some (p.src, p.seq) →
    run (receive p k reply) s = run (count Reg.XPT_STALE_DISCARD 1) (run (reply 1) s)) ∧
  (∀ s n, Takes s (.fillTimeout n) → (s.buf n).st = .filling →
    ∃ t, exec (.fillTimeout n) s = .next t ∧ t.buf n = { s.buf n with st := .posted, gen := ((s.buf n).gen + 1) % 65536, ctx := none } ∧
      t.led = s.led ∧ t.mem = s.mem)

/-- A flit in sequence with a good CRC is accepted, counted and acknowledged; a flit with a bad CRC is counted, and not acknowledged. A NAK and
a replay timeout send every unacknowledged flit again, in order. After REPLAY_MAX replays without advance the port retrains; a retrain keeps
the sequence and the credits; one that does not end takes the port down, which flushes the credits in flight. An enabled port comes up at
its good lanes with the sequence at 0 and fresh credits. -/
def Obligations.LinksTakeEffect : Prop :=
  (∀ s p f, Takes s (.flitReceive p f) → s.portUp p = true → f.crcGood = true → (f.type = 1 ∨ f.type = 2) → f.seq % 4096 = (s.link p).rxNext →
    exec (.flitReceive p f) s = .next (run (acts [count (Reg.FAB_FEC_CORR p) f.fec, count (Reg.FAB_FLITS_RX p) 1, linkAck p f,
      modLink p (fun l => { l with rxNext := (l.rxNext + 1) % 4096, nakSent := false }),
      emit (.idle p (s.link p).rxNext false (f.vc % 4) (if f.type = 1 then 1 else 0)), pumpLink p]) s)) ∧
  (∀ s p f, Takes s (.flitReceive p f) → s.portUp p = true → f.crcGood = true → f.type = 0 →
    exec (.flitReceive p f) s = .next (run (acts [count (Reg.FAB_FEC_CORR p) f.fec, linkAck p f, pumpLink p]) s)) ∧
  (∀ s p f, Takes s (.flitReceive p f) → s.portUp p = true → f.crcGood = false → (s.link p).nakSent = false → f.type ≠ 0 →
    exec (.flitReceive p f) s = .next (run (acts [count (Reg.FAB_FEC_CORR p) f.fec, count (Reg.FAB_CRC_ERR p) 1, raiseWith Blk.fab 0 { unit := p },
      modLink p (fun l => { l with nakSent := true }), emit (.idle p (((s.link p).rxNext + 4095) % 4096) true 0 0)]) s)) ∧
  (∀ s p f, Takes s (.nak p f) → s.portUp p = true → f.crcGood = true →
    exec (.nak p f) s = .next (run (acts [count (Reg.FAB_FEC_CORR p) f.fec, linkAck p f, replayLink p, pumpLink p]) s)) ∧
  (∀ s p, Takes s (.replayTimeout p) → s.portUp p = true → (s.link p).retraining = false → (s.link p).unacked ≠ 0 →
    exec (.replayTimeout p) s = .next (run (acts [setLink p { s.link p with replays := (s.link p).replays + 1 }, emit (.replay p (s.link p).base (s.link p).unacked),
      count (Reg.FAB_REPLAYS p) 1, count (Reg.FAB_REPLAY_FLITS p) (s.link p).unacked, raiseWith Blk.fab 1 { unit := p }]) s)) ∧
  (∀ s p, Takes s (.retrain p) → s.portUp p = true → (s.link p).retraining = false → s.get Fld.FAB_CTL_REPLAY_MAX ≤ (s.link p).replays →
    ∃ t, exec (.retrain p) s = .next t ∧ t.link p = { s.link p with retraining := true } ∧ t.led = s.led ∧ t.mem = s.mem) ∧
  (∀ s p, Takes s (.retrainDone p) → (s.link p).retraining = true →
    exec (.retrainDone p) s = .next (run (acts [modLink p (fun l => { l with retraining := false, replays := 0 }), replayLink p, pumpLink p]) s)) ∧
  (∀ s p, Takes s (.retrainTimeout p) → (s.link p).retraining = true → exec (.retrainTimeout p) s = .next (run (portDown p) s)) ∧
  (∀ s p w peer, Takes s (.portUp p w peer) → s.portUp p = false → s.is (Fld.FAB_PORT_CFG_ENABLE p) = true → (s.link p).lanesOut = [] → 0 < w →
    s.body.plat.clocksLost.contains (2 + p / 4) = false →
    exec (.portUp p w peer) s = .next (run (acts [herderSync, setLink p { credits := [256, 512, 64, 512] }, setFld (Fld.FAB_PORT_STATUS_UP p) 1,
      setFld (Fld.FAB_PORT_STATUS_WIDTH p) w, setFld (Fld.FAB_PORT_STATUS_DEGRADED p) (if w < 4 then 1 else 0),
      setFld (Fld.FAB_PORT_STATUS_PEER_ID p) (if s.is (Fld.FAB_PORT_CFG_AGENT p) then 0 else peer), tagPort p]) s))

/-- A lane of a running port that fails is flagged and named in the new lane map; the port goes on at the width of its remaining lanes, or goes
down with its last one. The free spare of the port's group, with SPARE_AUTO set, is recorded in the spare map, is used up, and the port runs
on the lanes it now has. -/
def Obligations.LanesAreSpared : Prop :=
  (∀ s p lane r, Takes s (.laneFail p lane) → s.portUp p = true → (lanesOf s p).contains lane = true → r = (lanesOf s p).filter (· != lane) → r ≠ [] →
    exec (.laneFail p lane) s = .next (run (acts [raiseWith Blk.fab 3 { unit := lane }, modLink p (fun l => { l with lanesOut := l.lanesOut ++ [lane] }),
      when (64 ≤ lane) (setFld (Fld.FAB_PORT_STATUS_SPARED p) 0), setFld (Fld.FAB_PORT_STATUS_WIDTH p) r.length,
      setFld (Fld.FAB_PORT_STATUS_DEGRADED p) (if r.length < 4 then 1 else 0), exchangeLanes p r]) s)) ∧
  (∀ s p lane, Takes s (.laneFail p lane) → s.portUp p = true → lanesOf s p = [lane] →
    exec (.laneFail p lane) s = .next (run (acts [raiseWith Blk.fab 3 { unit := lane }, modLink p (fun l => { l with lanesOut := l.lanesOut ++ [lane] }),
      when (64 ≤ lane) (setFld (Fld.FAB_PORT_STATUS_SPARED p) 0), portDown p]) s)) ∧
  (∀ s p lane u, Takes s (.spareLaneTrained p) → (s.link p).lanesOut.find? (· < 64) = some lane → s.portUp p = true → s.is Fld.FAB_CTL_SPARE_AUTO = true →
    s.is (Fld.FAB_SPARE_MAP_IN_USE (p / 4)) = false → s.sparesLeft 7 ≠ 0 →
    u = run (acts [setFld (Fld.FAB_SPARE_MAP_LANE (p / 4)) lane, setFld (Fld.FAB_SPARE_MAP_IN_USE (p / 4)) 1, setFld (Fld.FAB_PORT_STATUS_SPARED p) 1, useSpare 7 lane]) s →
    exec (.spareLaneTrained p) s = .next (run (acts [setFld (Fld.FAB_PORT_STATUS_WIDTH p) (lanesOf u p).length,
      setFld (Fld.FAB_PORT_STATUS_DEGRADED p) (if (lanesOf u p).length < 4 then 1 else 0), exchangeLanes p (lanesOf u p)]) u))

/-- A free port starts the head of its control queue where that can be selected; else the queue whose finish tag is earlier than that of every
other one that can be selected; with a packet begun it starts nothing new. At a refill instant an enabled shaper holds the lesser of DEPTH
and its tokens plus RATE. -/
def Obligations.HerderSelectsAndRefills : Prop :=
  (∀ s p u, Takes s (.herderSelect p) → u = run herderSync s → u.portUp p = true → (u.link p).retraining = false → (u.link p).left = none →
    selectable u p (64 * p) = true → exec (.herderSelect p) s = .next (run (startPacket p (64 * p)) u)) ∧
  (∀ s p u n, Takes s (.herderSelect p) → u = run herderSync s → u.portUp p = true → (u.link p).retraining = false → (u.link p).left = none →
    selectable u p (64 * p) = false → 64 * p < n → n < 64 * p + 64 → selectable u p n = true →
    (∀ x, 64 * p < x → x < 64 * p + 64 → x ≠ n → selectable u p x = true →
      earlier (u.tq n).finish (u.tq x).finish = true ∧ earlier (u.tq x).finish (u.tq n).finish = false) →
    exec (.herderSelect p) s = .next (run (startPacket p n) u)) ∧
  (∀ s p u, Takes s (.herderSelect p) → u = run herderSync s → (u.link p).left ≠ none → exec (.herderSelect p) s = .next u) ∧
  (∀ s n, s.canonical → Takes s .shaperRefill → n < 1024 → s.is (Fld.HRD_Q_CFG_SHAPE n) = true → shapeOn s n = true →
    ∃ t, exec .shaperRefill s = .next t ∧ t.mem = s.mem ∧ t.led = s.led ∧ shapeOn t n = true ∧
      t.get (Fld.HRD_Q_STATE_TOKENS n) = wordOf 32 (min (s.get (Fld.HRD_Q_CFG_DEPTH n) : Int) (tokensOf s n + s.get (Fld.HRD_Q_CFG_RATE n))))

/-- A refill of an enabled Collar without deferred jobs leaves the lesser of CAP and the balance plus RATE, and counts RATE as granted; a
disabled one is not refilled. A reservation past its timeout is released, flagged, and its tenant's deferred jobs are looked at. -/
def Obligations.CollarsRefillAndRelease : Prop :=
  (∀ s x k, Takes s (.collarRefill x k) → colOn s x k = true → tget s.body.jobs.deferred x = none →
    ∃ t, exec (.collarRefill x k) s = .next t ∧ colBalance t x k = min (colBalance s x k + colRate s x k) (colCap s x k) ∧
      (acctGet t.led (2 * x + k)).granted = (acctGet s.led (2 * x + k)).granted + colRate s x k ∧
      (acctGet t.led (2 * x + k)).reserved = (acctGet s.led (2 * x + k)).reserved ∧ (∀ j, j ≠ 2 * x + k → acctGet t.led j = acctGet s.led j) ∧
      t.mem = s.mem ∧ t.regs = s.regs) ∧
  (∀ s x k, Takes s (.collarRefill x k) → colOn s x k = true →
    exec (.collarRefill x k) s = .next (run (refill x k) s)) ∧
  (∀ s x k, Takes s (.collarRefill x k) → colOn s x k = false → exec (.collarRefill x k) s = .next s) ∧
  (∀ s k h n r, Takes s (.resvTimeout k h n) → resvOf s k h n = some r →
    exec (.resvTimeout k h n) s = .next (run (acts [releaseResv r, raise Blk.col 1, walkTenant r.1]) s))

/-- A doorbell of an open job queue within its depth moves its tail; a queue whose accepted jobs have ended starts again under its new geometry.
The next descriptor of a queue, of the row's opcode and not waiting for an acceptance, is accepted: its slot is taken; where checks 1 to 8
pass it is charged and begins; where a check of 1 to 7 fails it ends with that check's status; where its Collar does not cover it, it is
deferred. -/
def Obligations.StepJobsAreAccepted : Prop :=
  (∀ s q tail, Takes s (.jobQueueDoorbell q tail) → jqOpen s q = true → s.body.jobs.reenable.contains q = false → tail < s.jqDepth q →
    exec (.jobQueueDoorbell q tail) s = .next (run (setFld (Fld.DAE_JQ_PTR_TAIL q) tail) s)) ∧
  (∀ s q tail, Takes s (.jobQueueDoorbell q tail) → jqOpen s q = false → exec (.jobQueueDoorbell q tail) s = .next (run jobRange s)) ∧
  (∀ s q, Takes s (.jobQueueReenable q) → s.body.jobs.reenable.contains q = true → (∀ e ∈ s.body.jobs.jobs, e.2.q ≠ q) →
    exec (.jobQueueReenable q) s = .next (run (startJobQueue q) s)) ∧
  (∀ s q i, Takes s (.promptChunk q) → AtSlot s q i Op.promptChunk → checkJob s (slotBytes s q i) (slotDesc s q i) = none →
    behindDeferred s ((jobTenant s (slotDesc s q i)).getD 0) (slotDesc s q i) = false → covers s ((jobTenant s (slotDesc s q i)).getD 0) (slotDesc s q i) = true →
    exec (.promptChunk q) s = .next (run (acts [takeSlot q i, reserve ((jobTenant s (slotDesc s q i)).getD 0) (slotDesc s q i), beginJob s.body.jobs.next,
      endFailed s.body.jobs.next]) s)) ∧
  (∀ s q i, Takes s (.decode q) → AtSlot s q i Op.decode → checkJob s (slotBytes s q i) (slotDesc s q i) = none →
    behindDeferred s ((jobTenant s (slotDesc s q i)).getD 0) (slotDesc s q i) = false → covers s ((jobTenant s (slotDesc s q i)).getD 0) (slotDesc s q i) = true →
    exec (.decode q) s = .next (run (acts [takeSlot q i, reserve ((jobTenant s (slotDesc s q i)).getD 0) (slotDesc s q i), beginJob s.body.jobs.next,
      endFailed s.body.jobs.next]) s)) ∧
  (∀ s q i, Takes s (.verifyChain q) → AtSlot s q i Op.verifyChain → checkJob s (slotBytes s q i) (slotDesc s q i) = none →
    behindDeferred s ((jobTenant s (slotDesc s q i)).getD 0) (slotDesc s q i) = false → covers s ((jobTenant s (slotDesc s q i)).getD 0) (slotDesc s q i) = true →
    exec (.verifyChain q) s = .next (run (acts [takeSlot q i, reserve ((jobTenant s (slotDesc s q i)).getD 0) (slotDesc s q i), beginJob s.body.jobs.next,
      endFailed s.body.jobs.next]) s)) ∧
  (∀ s q i, Takes s (.verifyTree q) → AtSlot s q i Op.verifyTree → checkJob s (slotBytes s q i) (slotDesc s q i) = none →
    behindDeferred s ((jobTenant s (slotDesc s q i)).getD 0) (slotDesc s q i) = false → covers s ((jobTenant s (slotDesc s q i)).getD 0) (slotDesc s q i) = true →
    exec (.verifyTree q) s = .next (run (acts [takeSlot q i, reserve ((jobTenant s (slotDesc s q i)).getD 0) (slotDesc s q i), beginJob s.body.jobs.next,
      endFailed s.body.jobs.next]) s)) ∧
  (∀ s q i, Takes s (.partial_ q) → AtSlot s q i Op.partial_ → checkJob s (slotBytes s q i) (slotDesc s q i) = none →
    behindDeferred s ((jobTenant s (slotDesc s q i)).getD 0) (slotDesc s q i) = false → covers s ((jobTenant s (slotDesc s q i)).getD 0) (slotDesc s q i) = true →
    exec (.partial_ q) s = .next (run (acts [takeSlot q i, reserve ((jobTenant s (slotDesc s q i)).getD 0) (slotDesc s q i), beginJob s.body.jobs.next,
      endFailed s.body.jobs.next]) s)) ∧
  (∀ s q i, Takes s (.prefixPartial q) → AtSlot s q i Op.prefixPartial → checkJob s (slotBytes s q i) (slotDesc s q i) = none →
    behindDeferred s ((jobTenant s (slotDesc s q i)).getD 0) (slotDesc s q i) = false → covers s ((jobTenant s (slotDesc s q i)).getD 0) (slotDesc s q i) = true →
    exec (.prefixPartial q) s = .next (run (acts [takeSlot q i, reserve ((jobTenant s (slotDesc s q i)).getD 0) (slotDesc s q i), beginJob s.body.jobs.next,
      endFailed s.body.jobs.next]) s)) ∧
  (∀ s q i, Takes s (.merge q) → AtSlot s q i Op.merge → checkJob s (slotBytes s q i) (slotDesc s q i) = none →
    behindDeferred s ((jobTenant s (slotDesc s q i)).getD 0) (slotDesc s q i) = false → covers s ((jobTenant s (slotDesc s q i)).getD 0) (slotDesc s q i) = true →
    exec (.merge q) s = .next (run (acts [takeSlot q i, reserve ((jobTenant s (slotDesc s q i)).getD 0) (slotDesc s q i), beginJob s.body.jobs.next,
      endFailed s.body.jobs.next]) s)) ∧
  (∀ s q i st, Takes s (.promptChunk q) → AtSlot s q i Op.promptChunk → checkJob s (slotBytes s q i) (slotDesc s q i) = some st →
    exec (.promptChunk q) s = .next (run (endPlain s.body.jobs.next st) (run (takeSlot q i) s))) ∧
  (∀ s q i st, Takes s (.decode q) → AtSlot s q i Op.decode → checkJob s (slotBytes s q i) (slotDesc s q i) = some st →
    exec (.decode q) s = .next (run (endPlain s.body.jobs.next st) (run (takeSlot q i) s))) ∧
  (∀ s q i st, Takes s (.verifyChain q) → AtSlot s q i Op.verifyChain → checkJob s (slotBytes s q i) (slotDesc s q i) = some st →
    exec (.verifyChain q) s = .next (run (endPlain s.body.jobs.next st) (run (takeSlot q i) s))) ∧
  (∀ s q i st, Takes s (.verifyTree q) → AtSlot s q i Op.verifyTree → checkJob s (slotBytes s q i) (slotDesc s q i) = some st →
    exec (.verifyTree q) s = .next (run (endPlain s.body.jobs.next st) (run (takeSlot q i) s))) ∧
  (∀ s q i st, Takes s (.partial_ q) → AtSlot s q i Op.partial_ → checkJob s (slotBytes s q i) (slotDesc s q i) = some st →
    exec (.partial_ q) s = .next (run (endPlain s.body.jobs.next st) (run (takeSlot q i) s))) ∧
  (∀ s q i st, Takes s (.prefixPartial q) → AtSlot s q i Op.prefixPartial → checkJob s (slotBytes s q i) (slotDesc s q i) = some st →
    exec (.prefixPartial q) s = .next (run (endPlain s.body.jobs.next st) (run (takeSlot q i) s))) ∧
  (∀ s q i st, Takes s (.merge q) → AtSlot s q i Op.merge → checkJob s (slotBytes s q i) (slotDesc s q i) = some st →
    exec (.merge q) s = .next (run (endPlain s.body.jobs.next st) (run (takeSlot q i) s))) ∧
  (∀ s q i, Takes s (.decode q) → AtSlot s q i Op.decode → checkJob s (slotBytes s q i) (slotDesc s q i) = none →
    covers s ((jobTenant s (slotDesc s q i)).getD 0) (slotDesc s q i) = false →
    exec (.decode q) s = .next (run (defer s.body.jobs.next ((jobTenant s (slotDesc s q i)).getD 0) (slotDesc s q i)) (run (takeSlot q i) s))) ∧
  (∀ s q i, ∃ t, run (takeSlot q i) s = t ∧ t.job s.body.jobs.next = some (newJob s q i) ∧ (∀ k, k ≠ s.body.jobs.next → t.job k = s.job k) ∧ t.mem = s.mem ∧ t.led = s.led)

/-- With a job of class 0 that fits the free groups, an engine dispatches the first of them in queue order. A dispatched job that still passes
its checks and whose intake succeeds starts on its groups. The end of a sub-job that is not the last leaves the job ready for the next; the
end of the last gives its groups back and settles the job. A job whose stall exceeds the limit ends with BUSY_RETRY; a failed one runs
again. A job without outstanding marks that may write goes on to its outputs. -/
def Obligations.StepJobsRunAndEnd : Prop :=
  (∀ s pae u x f, Takes s (.jobDispatch pae) → u = run (liftGroups (if pae then 1 else 0)) s →
    (inQueueOrder u (if pae then 1 else 0) ((readyJobs u (if pae then 1 else 0)).filter fun x => x.2.cls == 0)).head? = some x → fitJob u x.2 = some f →
    exec (.jobDispatch pae) s = .next (run (liftGroups (if pae then 1 else 0)) (run (dispatchJob x.1 f) u))) ∧
  (∀ s pae u x f, Takes s (.jobDispatch pae) → u = run (liftGroups (if pae then 1 else 0)) s → (∀ y ∈ readyJobs u (if pae then 1 else 0), y.2.cls ≠ 0) →
    chooseJob u (if pae then 1 else 0) (readyJobs u (if pae then 1 else 0)) = some x → fitJob u x.2 = some f →
    exec (.jobDispatch pae) s = .next (run (liftGroups (if pae then 1 else 0)) (run (dispatchJob x.1 f) u))) ∧
  (∀ s id j f u v w, s.job id = some j → j.begun = false → checkTurn s j.d = none → u = run (stallJob 0 id) s → v = run (intake id) u → v.job id = some w → w.endWith = none →
    run (dispatchJob id f) s = run (startJob id f.1 f.2.1 f.2.2.1 f.2.2.2) v) ∧
  (∀ s id j gs res ts fb, s.job id = some j → ∃ t, run (startJob id gs res ts fb) s = t ∧
    (t.job id).map (·.st) = some .running ∧ (t.job id).map (·.groups) = some gs ∧ t.led.chip.inflight = s.led.chip.inflight + 1 ∧ t.mem = s.mem) ∧
  (∀ s id n hw j, Takes s (.subjobEnd id n hw) → s.job id = some j → j.st = .running → j.subDone + 1 < j.subs → j.endWith = none →
    exec (.subjobEnd id n hw) s = .next (run (modJob id fun x => { x with st := .between, subDone := x.subDone + 1 }) (run (endRun id n hw) s))) ∧
  (∀ s id n hw j, Takes s (.jobEnd id n hw) → s.job id = some j → j.st = .running → j.subs ≤ j.subDone + 1 → onPae j.d.op = true →
    exec (.jobEnd id n hw) s = .next (run (settleRun id) (run (modJob id fun x => { x with subDone := x.subDone + 1 }) (run (endRun id n hw) s)))) ∧
  (∀ s id n hw j, Takes s (.jobEnd id n hw) → s.job id = some j → j.st = .running → j.subs ≤ j.subDone + 1 → onPae j.d.op = false → j.d.op ≠ Op.merge →
    exec (.jobEnd id n hw) s = .next (run (acts [endRun id n hw, modJob id (fun x => { x with subDone := x.subDone + 1 }),
      count Reg.DAE_MERGES (j.subs - 1 + j.d.parts), settleRun id]) s)) ∧
  (∀ s id j, s.job id = some j → j.endWith = none → ofRequest j.d.op = false → run (settleRun id) s = run (writeOutput id) s) ∧
  (∀ s id j c, s.job id = some j → j.endWith = none → ofRequest j.d.op = true → s.loc j.d.handle = some c → c.st = .owner j.d.epoch → tailBlocked s j = false →
    run (settleRun id) s = run (writeOutput id) s) ∧
  (∀ s id j, Takes s (.stallLimit id) → s.job id = some j → j.st = .waiting → jobResident s j = false →
    exec (.stallLimit id) s = .next (run (endJob id St.busyRetry) (run (count Reg.STM_STALL_ABORT 1) (run (stallJob 0 id) s)))) ∧
  (∀ s id j, Takes s (.internalReplay false id) → s.job id = some j → j.st = .faulted →
    exec (.internalReplay false id) s = .next (run (acts [modJob id (fun x => { x with st := .waiting, fReplay := true, replays := x.replays + 1, subDone := 0, subs := 1 }),
      count Reg.DAE_INT_REPLAYS 1, feedJob id, nameFrames id, endFailed id, stallSync 0]) s)) ∧
  (∀ s id x, Takes s (.internalReplay true id) → s.smp id = some x → x.st = .faulted →
    exec (.internalReplay true id) s = .next (run (sendTokens id) (run (modSmp id fun y => { y with fReplay := true, replays := y.replays + 1 }) s)))

/-- A failing lane or tile is flagged, the running jobs that hold its group fail their run, and it is mapped out; a block resend is counted; a
transcoder pipe is mapped out and its job's run fails; the sampler's failure leaves the sample for its internal replay; a count table that
cannot be read is cleared. A near frame of a sealed page with a far copy is dropped after its readers' runs have failed. A patrol that is
enabled tests an idle unit and counts the run; one that fails is treated by the rules of its unit. -/
def Obligations.UnitFaultsTakeEffect : Prop :=
  (∀ s n p, Takes s (.unitFault (.lane n)) → unitPlace s 0 n = some p →
    exec (.unitFault (.lane n)) s = .next (run (acts [raiseWith Blk.dae 0 { island := unitIsland 0 n, unit := n }, each (jobsOnGroup s 0 (p / 16)) failRun, mapOut 0 n]) s)) ∧
  (∀ s n p, Takes s (.unitFault (.tile n)) → unitPlace s 1 n = some p →
    exec (.unitFault (.tile n)) s = .next (run (acts [raiseWith Blk.pae 0 { island := unitIsland 1 n, unit := n }, each (jobsOnGroup s 1 (p / 8)) failRun, mapOut 1 n]) s)) ∧
  (∀ s id j, s.job id = some j → j.st = .running → j.endWith = none → j.replays < s.get Fld.DAE_CTL_REPLAY_MAX → run (failRun id) s = run (abandonRun id j) s) ∧
  (∀ s, Takes s (.unitFault .block) → exec (.unitFault .block) s = .next (run (count Reg.DAE_BLOCK_RESEND 1) s)) ∧
  (∀ s k f, Takes s (.unitFault (.near k)) → s.frame k = some f → f.kind ≠ .remoteCache → f.hdr.isSealed = true → f.hdr.backingRef ≠ 0 →
    exec (.unitFault (.near k)) s = .next (run (acts [raiseWith Blk.stm 1 { addr := s.refOf k, handle := f.hdr.owner }, each (jobsOnFrame s (· == k)) failRun,
      renameRef (s.refOf k) f.hdr.backingRef, freeFrame k, useRow k]) s)) ∧
  (∀ s id j, Takes s (.unitFault (.jobBuffer false id)) → s.job id = some j → j.st = .running →
    exec (.unitFault (.jobBuffer false id)) s = .next (run (endRunWith id St.busyRetry)
      (run (raiseWith Blk.dae 4 { handle := j.d.handle, epoch := j.d.epoch, step := j.d.step }) s))) ∧
  (∀ s id x, Takes s (.unitFault (.sampler id)) → s.smp id = some x → x.st = .logging → x.replays < s.get Fld.DAE_CTL_REPLAY_MAX →
    exec (.unitFault (.sampler id)) s = .next (run (modSmp id fun y => { y with st := .faulted }) (run (raiseWith Blk.smp 0 { island := 47, handle := x.handle, step := x.step }) s))) ∧
  (∀ s h k, Takes s (.unitFault (.countTable h)) → ((s.loc h).bind (·.sampler)).bind s.resolve = some k →
    exec (.unitFault (.countTable h)) s = .next (run (raiseWith Blk.smp 2 { handle := h }) (run (clearMem (payloadAt k) 32768) s))) ∧
  (∀ s i, Takes s (.unitFault (.pipe i none)) → i < 16 → bitsOf (s.get Fld.TRC_STATUS_PIPES_OK) i 1 = 1 →
    12 ≤ ((List.range 16).filter fun x => bitsOf (withBits (s.get Fld.TRC_STATUS_PIPES_OK) i 1 0) x 1 == 1).length →
    exec (.unitFault (.pipe i none)) s = .next (run (setFld Fld.TRC_STATUS_PIPES_OK (withBits (s.get Fld.TRC_STATUS_PIPES_OK) i 1 0))
      (run (raiseWith Blk.trc 0 { island := 35 + i / 4, unit := i % 4 }) s))) ∧
  (∀ s n, Takes s (.patrolTest (.lane n) false) → s.is Fld.ISL_CTL_PATROL_EN = true → patrolIdle s (.lane n) = true →
    exec (.patrolTest (.lane n) false) s = .next (run (count Reg.ISL_PATROL_RUNS 1) s)) ∧
  (∀ s n, Takes s (.patrolTest (.tile n) true) → s.is Fld.ISL_CTL_PATROL_EN = true → patrolIdle s (.tile n) = true →
    exec (.patrolTest (.tile n) true) s = .next (run (acts [count Reg.ISL_PATROL_RUNS 1, count Reg.ISL_PATROL_FAILS 1, raise Blk.isl 9, mapOut 1 n]) s)) ∧
  (∀ s k n, Takes s (.patrolTest (.near k n) false) → s.is Fld.ISL_CTL_PATROL_EN = true →
    exec (.patrolTest (.near k n) false) s = .next (run (bankErrors k n) (run (count Reg.ISL_PATROL_RUNS 1) s)))

/-- An evaluation in its turn at macros that are not calibrating and are valid leaves its counts and statistics, and its codes make the job's
selection; where too few candidates exceed TOPK and no audit is due, the job reads the pages of the guaranteed groups and of the selected
candidates. A request of calibration marks macros DUE; a due macro with the greatest temperature difference starts, under MAX_CAL; a
calibration that meets its check records the temperature and clears DUE and CAL_FAILS, one that does not counts the failure and at the limit
retires the macro; a temperature away from CAL_TEMP marks the macro DUE. -/
def Obligations.ScentTakesEffect : Prop :=
  (∀ s id noise outs wait j0 j c m inp u, Takes s (.scentEval id noise outs wait) → s.job id = some j0 → j0.st = .evaluating → evalAhead s id j0 = false →
    u = run (readInputs id) s → u.job id = some j → u.loc j.d.handle = some c → jobModel u j.d = some m → j.inp = some inp → badInputs u j = false →
    u.body.scent.loaded.contains j.d.handle = true → ((macrosOf u j.d.handle j.d.layer).any fun n => u.mac (u.lmap n) == MacSt.calibrating) = false →
    ((macrosOf u j.d.handle j.d.layer).any fun n => outs.any fun o => o.macroNo == n && 2 ≤ o.bad) = false →
    exec (.scentEval id noise outs wait) s = .next (run (pickPages id m j c (scentCodes u m j inp noise)) (run (macroNotes (macrosOf u j.d.handle j.d.layer) outs wait) u))) ∧
  (∀ s id m j c codes g, g = jobGuaranteed s m j c → (candidates codes g).length ≤ s.get (Fld.SCT_PROF_TOPK (s.scentProf j.tenant)) →
    s.get (Fld.SCT_PROF_AUDIT_LOG2 (s.scentProf j.tenant)) = 0 →
    ∃ t, run (pickPages id m j c codes) s = run (startReading id) (run (modJob id fun x => { x with st := .waiting, emit := pagesIn m j.range (g ++ (candidates codes g).map (·.1)) }) t) ∧
      t.mem = s.mem ∧ t.led = s.led ∧ t.body.jobs = s.body.jobs) ∧
  (∀ k margin cand g, k < cand.length → (g ∈ selectGroups k margin cand ↔ ∃ e ∈ cand, e.1 = g ∧ kthLargest k (cand.map (·.2)) ≤ e.2 + margin)) ∧
  (∀ s v, Takes s (.sctCalReqWrite 0 v) → s.is Fld.GLB_STATUS_FW_READY = true →
    exec (.sctCalReqWrite 0 v) s = .next (run (each ((List.range 64).filter fun i => bitsOf v i 1 == 1 && s.mac i != MacSt.retired) fun i =>
      acts [look fun s => setReg (Reg.SCT_CAL_REQ 0) (withBits (s.rd (Reg.SCT_CAL_REQ 0)) i 1 1), markDue i]) s)) ∧
  (∀ s m temp, Takes s (.sctRecalTemperature m temp) →
    8 * s.get Fld.SCT_CTL_RECAL_DEG ≤ (signedOf 12 temp - signedOf 12 (s.get (Fld.SCT_MACRO_CAL_TEMP m))).natAbs →
    exec (.sctRecalTemperature m temp) s = .next (run (acts [setFld (Fld.ISL_STATE_TEMP (m / 17)) temp, markDue m,
      onScent fun x => { x with dueDiff := tput x.dueDiff m (signedOf 12 temp - signedOf 12 (s.get (Fld.SCT_MACRO_CAL_TEMP m))).natAbs }]) s)) ∧
  (∀ s m temp, Takes s (.sctRecalTemperature m temp) →
    (signedOf 12 temp - signedOf 12 (s.get (Fld.SCT_MACRO_CAL_TEMP m))).natAbs < 8 * s.get Fld.SCT_CTL_RECAL_DEG →
    exec (.sctRecalTemperature m temp) s = .next (run (setFld (Fld.ISL_STATE_TEMP (m / 17)) temp) s)) ∧
  (∀ s m, s.canonical → Takes s (.sctCalibrationStart m) → s.calDue m = true → s.get Fld.SCT_STATUS_CALIBRATING < s.get Fld.SCT_CTL_MAX_CAL →
    (∀ k, k < 68 → s.calDue k = true → s.dueDiff k ≤ s.dueDiff m) →
    ∃ t, exec (.sctCalibrationStart m) s = .next t ∧ t.mac m = MacSt.calibrating ∧ (∀ k, k < 68 → k ≠ m → t.mac k = s.mac k) ∧
      t.get Fld.SCT_STATUS_CALIBRATING = s.get Fld.SCT_STATUS_CALIBRATING + 1 ∧ t.body = s.body ∧ t.mem = s.mem ∧ t.led = s.led) ∧
  (∀ s m gain off temp, Takes s (.sctCalibrationEnd m gain off temp true) → s.mac m = MacSt.calibrating →
    exec (.sctCalibrationEnd m gain off temp true) s = .next (run (acts [setFld (Fld.SCT_MACRO_STATE m) MacSt.service, dropFld Fld.SCT_STATUS_CALIBRATING 1,
      setFld (Fld.SCT_MACRO_GAIN_TRIM m) gain, setFld (Fld.SCT_MACRO_OFFSET_TRIM m) off,
      setReg (Reg.SCT_CAL_REQ (m / 64)) (withBits (s.rd (Reg.SCT_CAL_REQ (m / 64))) (m % 64) 1 0),
      setFld (Fld.SCT_MACRO_CAL_TEMP m) temp, setFld (Fld.SCT_MACRO_DUE m) 0, setFld (Fld.SCT_MACRO_CAL_FAILS m) 0,
      onScent (fun x => { x with dueDiff := tdel x.dueDiff m }), reloadRows (s.get (Fld.SCT_MACRO_LOGICAL m))]) s)) ∧
  (∀ s m gain off temp, Takes s (.sctCalibrationEnd m gain off temp false) → s.mac m = MacSt.calibrating → s.get Fld.SCT_CTL_CAL_FAIL_LIMIT ≤ s.get (Fld.SCT_MACRO_CAL_FAILS m) + 1 →
    ∃ t, exec (.sctCalibrationEnd m gain off temp false) s = .next (run (retireMacro m) (run (raiseWith Blk.sct 1 { unit := m }) t)) ∧
      t.body = s.body ∧ t.mem = s.mem ∧ t.led = s.led)

/-- A doorbell of an open sample queue moves its tail. A descriptor in its queue's turn is accepted; one that passes its checks runs, then the
next batch is loaded ahead. A STEP already done is answered with REPLAYED. Tokens that are drawn go to the home; without its acknowledgement
the descriptor ends with BUSY_RETRY. With temperature 0 the token is the first of the largest penalised logits; a row without a draft that
its sample reproduces ends an acceptance. -/
def Obligations.SamplesTakeEffect : Prop :=
  (∀ s q tail, Takes s (.sampleQueueDoorbell q tail) → sqOpen s q = true → s.body.sampling.reenable.contains q = false → tail < s.sqDepth q →
    exec (.sampleQueueDoorbell q tail) s = .next (run (setFld (Fld.SMP_SQ_PTR_TAIL q) tail) s)) ∧
  (∀ s q ns i bs, Takes s (.sample q ns) → nextSmp s q = some (i, bs) → (smpDescOf bs).op = Op.sample → smpTurn s q = true →
    sampleForm s bs = true → smpLive s (smpDescOf bs).handle (smpDescOf bs).epoch = none →
    exec (.sample q ns) s = .next (run (prefetchNext q (smpDescOf bs)) (run (runSample s.body.sampling.next (smpDescOf bs)) (run (takeSmp q i ns bs) s)))) ∧
  (∀ s q ns i bs, Takes s (.acceptChain q ns) → nextSmp s q = some (i, bs) → (smpDescOf bs).op = Op.acceptChain → smpTurn s q = true →
    sampleForm s bs = true → smpLive s (smpDescOf bs).handle (smpDescOf bs).epoch = none →
    exec (.acceptChain q ns) s = .next (run (prefetchNext q (smpDescOf bs)) (run (runSample s.body.sampling.next (smpDescOf bs)) (run (takeSmp q i ns bs) s)))) ∧
  (∀ s q ns i bs, Takes s (.acceptTree q ns) → nextSmp s q = some (i, bs) → (smpDescOf bs).op = Op.acceptTree → smpTurn s q = true →
    sampleForm s bs = true → smpLive s (smpDescOf bs).handle (smpDescOf bs).epoch = none →
    exec (.acceptTree q ns) s = .next (run (prefetchNext q (smpDescOf bs)) (run (runSample s.body.sampling.next (smpDescOf bs)) (run (takeSmp q i ns bs) s)))) ∧
  (∀ s q ns i bs g, Takes s (.gather q ns) → nextSmp s q = some (i, bs) → (smpDescOf bs).op = Op.gather → smpTurn s q = true →
    gatherForm s bs = true → segsOf s (smpDescOf bs) = some g →
    exec (.gather q ns) s = .next (run (prefetchNext q (smpDescOf bs)) (run (runGather s.body.sampling.next (smpDescOf bs) g) (run (takeSmp q i ns bs) s)))) ∧
  (∀ s q i ns bs, ∃ t, run (takeSmp q i ns bs) s = t ∧ t.smp s.body.sampling.next = some (newSmp s q i ns bs) ∧ t.mem = s.mem ∧ t.led = s.led) ∧
  (∀ s id d c m k, s.loc d.handle = some c → smpModel s d.handle = some m → samplerKey s d.handle = some k → d.step ≤ recLastStep s k → d.step ≠ recLastStep s k →
    run (runSample id d) s = run (endSmp id St.replayed) s) ∧
  (∀ s id x, Takes s (.logTimeout id) → s.smp id = some x → x.st = .logging →
    exec (.logTimeout id) s = .next (run (endSmp id St.busyRetry) (run (raise Blk.smp 3)
      (run (modSmp id fun y => { y with stalled := y.stalled + (s.body.tick - y.sent) }) s)))) ∧
  (∀ p c z u, f32IsZero p.temp = true → select p c z u = argmax (penalised p c z)) ∧
  (∀ pick drafts n x c, (∀ i, i < drafts.length → drafts.getD i (0, 0) ≠ (pick x c, x)) → acceptFrom pick drafts n x c = ([], pick x c)) ∧
  (∀ pick drafts n x c i, i < drafts.length → drafts.getD i (0, 0) = (pick x c, x) → (∀ k, k < i → drafts.getD k (0, 0) ≠ (pick x c, x)) →
    acceptFrom pick drafts (n + 1) x c = ((i + 1) :: (acceptFrom pick drafts n (i + 1) (countPlus c (pick x c))).1,
      (acceptFrom pick drafts n (i + 1) (countPlus c (pick x c))).2))

/-- KNL_PARK of a LISTENING request owned at its home, with its pages here, no unit running and room in the Kennel, begins the image in the
lowest free slot; without room it completes with KENNEL_FULL and the request stays as it was. KNL_RESUME of a PARKED request whose durable
image is here, its key loaded and far state with room, begins to read the image's units. -/
def Obligations.ParksAndResumesBegin : Prop :=
  (∀ s src missing c v u q l m p slot, Runs s src 0x0501 c v → AtLive v (c.arg 0 64) u q → q.record.phase = .listening → q.record.owner = some u.chipId →
    u.knlState ≠ KnlSt.recovering → u.loc (c.arg 0 64) = some l → u.locModel l = some m → parksAccepted u = true → pagesHere u l m = true → l.fetch = none →
    unitRuns u (c.arg 0 64) = false → (u.isProt l.tenant = true → (tenantKnlKey u l.tenant).isSome = true) → parkParts u (c.arg 0 64) q m missing = some p →
    (imageBytes p).1.length ≤ 2 ^ 32 → freeSlot u = some slot → usedUnits u + (unitsOfBytes (imageBytes p).1).length ≤ capacity u →
    exec (.knlPark src missing) s = .next (run (beginPark ⟨src, c.seq⟩ (c.arg 0 64) q l.tenant slot p) u)) ∧
  (∀ s src missing c v u q l m p, Runs s src 0x0501 c v → AtLive v (c.arg 0 64) u q → q.record.phase = .listening → q.record.owner = some u.chipId →
    u.knlState ≠ KnlSt.recovering → u.loc (c.arg 0 64) = some l → u.locModel l = some m → parksAccepted u = true → pagesHere u l m = true → l.fetch = none →
    unitRuns u (c.arg 0 64) = false → (u.isProt l.tenant = true → (tenantKnlKey u l.tenant).isSome = true) → parkParts u (c.arg 0 64) q m missing = some p →
    (imageBytes p).1.length ≤ 2 ^ 32 → capacity u < usedUnits u + (unitsOfBytes (imageBytes p).1).length →
    exec (.knlPark src missing) s = .next (run (refusePark ⟨src, c.seq⟩ l.tenant) u)) ∧
  (∀ s ref tenant, (run (refusePark ref tenant) s).body.home = s.body.home ∧ (run (refusePark ref tenant) s).body.knl = s.body.knl ∧ (run (refusePark ref tenant) s).led = s.led) ∧
  (∀ s src c v u q l slot, Runs s src 0x0502 c v → AtLive v (c.arg 0 64) u q → q.record.phase = .parked → q.record.owner = some u.chipId →
    u.knlState ≠ KnlSt.recovering → u.loc (c.arg 0 64) = some l → imageOf u (c.arg 0 64) = some slot →
    ((u.image slot).encrypted = true → (knlKey u (u.image slot).tenant (u.image slot).keyId).isSome = true) → (placeFar u .cache (u.group l.tenant)).isSome = true →
    exec (.knlResume src) s = .next (run (beginResume ⟨src, c.seq⟩ (c.arg 0 64) q slot (unitsToRead u slot (u.image slot))) u)) ∧
  (∀ s src c v u q, Runs s src 0x0502 c v → AtLive v (c.arg 0 64) u q → q.record.phase = .parking →
    exec (.knlResume src) s = .next (run (fin ⟨src, c.seq⟩ St.busyRetry) u)) ∧
  (∀ s src c v u q, Runs s src 0x0502 c v → AtLive v (c.arg 0 64) u q → q.record.phase = .resuming →
    exec (.knlResume src) s = .next (run (homeFin ⟨src, c.seq⟩ St.ok []) u))

/-- A profile that may be loaded, for a population within R295, takes effect: from OFF the Kennel enters RECOVERING, and the command answers
DIRTY_LIMIT; a profile whose interface mode does not match STRAP_NF_VCCQ is INVALID. KNL_FORMAT of a Kennel with no durable or writing image
erases it and answers the capacity. KNL_HEALTH answers the 256 bytes of its report. No number of dirty segments from 16 to 1,024 that fits
the flush is greater than DIRTY_LIMIT, and a limit other than 0 fits it. -/
def Obligations.ProfileFormatHealth : Prop :=
  (∀ s src pop c u, Runs s src 0x0503 c u → profBad (cmdInput u src c) = false → modeMismatch u pop = false → popBad pop = false → pop.rejected = false → u.knlState = KnlSt.off →
    exec (.knlProfileLoad src pop) s = .next (run (acts [loadProfile (cmdInput u src c) pop, setFld Fld.KNL_STATUS_STATE KnlSt.recovering,
      finOk ⟨src, c.seq⟩ (leBytes 2 (dirtyLimit (profWord (cmdInput u src c) 0) (profWord (cmdInput u src c) 2)))]) u)) ∧
  (∀ s src pop c u, Runs s src 0x0503 c u → profBad (cmdInput u src c) = false → modeMismatch u pop = false → popBad pop = false → pop.rejected = false → u.knlState ≠ KnlSt.off →
    exec (.knlProfileLoad src pop) s = .next (run (acts [loadProfile (cmdInput u src c) pop,
      writeExcess (dirtyLimit (profWord (cmdInput u src c) 0) (profWord (cmdInput u src c) 2)), syncKennel,
      finOk ⟨src, c.seq⟩ (leBytes 2 (dirtyLimit (profWord (cmdInput u src c) 0) (profWord (cmdInput u src c) 2)))]) u)) ∧
  (∀ s src pop c u, Runs s src 0x0503 c u → (u.is Fld.PWR_STRAPS_NF_VCCQ = true ∧ pop.mode = 1) ∨ (u.is Fld.PWR_STRAPS_NF_VCCQ = false ∧ pop.mode = 2) →
    exec (.knlProfileLoad src pop) s = .next (run (finInvalid ⟨src, c.seq⟩ 0) u)) ∧
  (∀ slc nat n, 16 ≤ n → n ≤ 1024 → flushFits slc nat n = true → n ≤ dirtyLimit slc nat) ∧
  (∀ slc nat, dirtyLimit slc nat ≠ 0 → flushFits slc nat (dirtyLimit slc nat) = true ∧ 16 ≤ dirtyLimit slc nat ∧ dirtyLimit slc nat ≤ 1024) ∧
  (∀ s src c u t, Runs s src 0x0504 c u → u.knlState ≠ KnlSt.off → u.knlState ≠ KnlSt.recovering → (∀ e ∈ u.kr.images, e.2.st ≠ .durable ∧ e.2.st ≠ .writing) →
    t = run formatAll u → exec (.knlFormat src) s = .next (run (finOk ⟨src, c.seq⟩ (leBytes 8 (capacity t))) (run (onRam fun r => { r with bufSize := bufSizeNow t }) t))) ∧
  (∀ s, (run formatAll s).kr.images = [] ∧ (run formatAll s).kf.units = [] ∧ (run formatAll s).kf.formatted = true ∧ (run formatAll s).led = s.led) ∧
  (∀ s src c u, Runs s src 0x0505 c u → 256 ≤ c.outLen → exec (.knlHealth src) s = .next (run (finish ⟨src, c.seq⟩ St.ok 0 [] (knlHealth u)) u)) ∧
  (∀ s, (knlHealth s).length = 256)

/-- A program that ends leaves its unit's content and tag on the flash, and parks and moves that wait for no other program end; one that fails
is written again and its block retired; during a power-fail flush only the flash takes it. A unit read without loss is taken off a resume's
list, and a lost one is read from its second copy where it has one. An erased superblock holds no unit. The journal's tail is committed by
its timer. Collection, folding and levelling take the superblock of their rule. A restart recovers the tables. The flush ends in POWER_LOSS,
and a reset held during it follows. The minute's temperature is counted in its bin; a failed die's units are copied away. -/
def Obligations.KennelRowsTakeEffect : Prop :=
  (∀ s u p, Takes s (.knlProgramDone u) → tget s.kr.progs u = some p →
    exec (.knlProgramDone u) s = .next (run (acts [endMoves, finishParks, pumpAll]) (run (programmed u p) s))) ∧
  (∀ s u p, flushing s = true → tget s.kr.progs u = some p → exec (.knlProgramDone u) s = .next (run (programmed u p) s)) ∧
  (∀ s u p, p.tag.kind ≠ 1 → tget (run (programmed u p) s).kf.units u = some p.tag ∧ tget (run (programmed u p) s).kr.progs u = none ∧ (run (programmed u p) s).led = s.led) ∧
  (∀ s u p, Takes s (.knlProgramFail u) → tget s.kr.progs u = some p →
    exec (.knlProgramFail u) s = .next (run (acts [onRam (fun r => { r with progs := tdel r.progs u }), writeAgain p, startRetire (physSb s u) (physDie u), pumpAll, endMoves, finishParks]) s)) ∧
  (∀ s u p, flushing s = true → tget s.kr.progs u = some p →
    ∃ t, exec (.knlProgramFail u) s = .next t ∧ tget t.kr.progs u = none ∧ t.kf = s.kf ∧ t.mem = s.mem ∧ t.led = s.led) ∧
  (∀ s slot n e x u, Takes s (.knlReadDone (.unit slot n) e) → tget s.kr.resumes slot = some x → x.toRead.find? (fun y => y.1 == n) = some (n, u) → e.lost = false →
    exec (.knlReadDone (.unit slot n) e) s = .next (run (unitRead slot fun y => { y with toRead := y.toRead.filter (·.1 != n) }) (run (countRead u e) s))) ∧
  (∀ s slot n e x u, Takes s (.knlReadDone (.unit slot n) e) → tget s.kr.resumes slot = some x → x.toRead.find? (fun y => y.1 == n) = some (n, u) → e.lost = true →
    exec (.knlReadDone (.unit slot n) e) s = .next (run (unitLost slot n x) (run (countRead u e) s))) ∧
  (∀ s r e, Takes s (.knlReadDone (.page r) e) → demotedPage s r = true → e.lost = false →
    exec (.knlReadDone (.page r) e) s = .next (run (promotePage r) (run (countRead 0 e) s))) ∧
  (∀ s k f, Takes s (.knlEraseDone k f) → k ∈ s.kr.erasing → readsSb s k = false →
    exec (.knlEraseDone k f) s = .next (run pumpAll (run syncKennel (run (erased k f) s)))) ∧
  (∀ s k, (∀ e ∈ (run (erased k none) s).kf.units, physSb s e.1 ≠ k) ∧ k ∉ (run (erased k none) s).kr.erasing ∧ tget (run (erased k none) s).kr.supers k = none) ∧
  (∀ s, Takes s .knlJournalTimer → s.kr.tail ≠ [] →
    ∃ t, exec .knlJournalTimer s = .next t ∧ t.kf.journal = s.kf.journal ++ s.kr.tail ∧ t.kr.tail = [] ∧ t.kf.units = s.kf.units ∧ t.mem = s.mem ∧ t.led = s.led) ∧
  (∀ s g e, Takes s (.knlGcStart g) → s.knlState = KnlSt.normal → g < knlGroups s → erasedCount s g < s.get Fld.KNL_CTL_GC_LOW →
    leastBy (fun e => (validUnits s e.1).length) ((supersOf s g).filter fun e => mayEmpty s e && !e.2.st.isSlc) = some e →
    exec (.knlGcStart g) s = .next (run (startMove { sb := e.1, why := .gc, left := validUnits s e.1 }) s)) ∧
  (∀ s e, Takes s .knlFold → s.knlState = KnlSt.normal → leastBy (fun e => e.2.seq) (s.kr.supers.filter fun e => mayEmpty s e && e.2.st.isSlc) = some e →
    exec .knlFold s = .next (run (startMove { sb := e.1, why := .fold, left := validUnits s e.1 }) s)) ∧
  (∀ f l e, leastBy f l = some e → e ∈ l ∧ ∀ x ∈ l, f e ≤ f x) ∧
  (∀ s low e d, Takes s .knlWlMove → s.knlState = KnlSt.normal → s.get Fld.KNL_CTL_WL_SPREAD < eraseSpread s →
    leastBy (fun e => sbErases s e.1) (s.kr.supers.filter fun e => mayEmpty s e && !e.2.st.isSlc) = some low →
    leastBy (fun e => e.2.seq) ((s.kr.supers.filter fun e => mayEmpty s e && !e.2.st.isSlc).filter fun e => sbErases s e.1 == sbErases s low.1) = some e → mostWorn s = some d →
    exec .knlWlMove s = .next (run (startMove { sb := e.1, why := .wear d, left := validUnits s e.1 }) (run (allocSb d false) s))) ∧
  (∀ s, Takes s .knlRestart → s.knlState = KnlSt.recovering → exec .knlRestart s = .next (run recover s)) ∧
  (∀ s slot, ((run recover s).image slot).st ≠ .writing) ∧
  (∀ s a b, s.get Fld.PWR_STATUS_PF_STATE = 1 → s.body.plat.heldPerst = false → s.body.plat.heldWarm = false →
    ∃ t, exec (.knlFlushComplete a b) s = .next t ∧ t.body.knl.flash = (run actKnlFlush s).body.knl.flash ∧ t.regs = (run actKnlFlush s).regs ∧ t.led = s.led) ∧
  (∀ s, s.canonical → s.get Fld.PWR_STATUS_PF_STATE = 1 → (run actKnlFlush s).get Fld.PWR_STATUS_PF_STATE = 2 ∧ (run actKnlFlush s).knlState = KnlSt.powerLoss) ∧
  (∀ s a b, s.get Fld.PWR_STATUS_PF_STATE = 1 → s.body.plat.heldPerst = true →
    exec (.knlFlushComplete a b) s = .next (run (fullReset a b) (run (onPlat fun p => { p with heldPerst := false, heldWarm := false }) (run actKnlFlush s)))) ∧
  (∀ s temp, Takes s (.knlTempMinute temp) → exec (.knlTempMinute temp) s = .next (run (count (Reg.KNL_TEMP_HIST (tempBin temp)) 1) s)) ∧
  (∀ s d, Takes s (.knlDieFail d) → d ∈ knlDies s → d ∉ s.kr.dead → exec (.knlDieFail d) s = .next (run (dieFailed d) s))

/-- FW_INFO answers versions and slots; FW_STAGE writes its bytes into a slot that is not running; FW_ACTIVATE of a valid image starts a live
activation with MODE 0 and records the slot for the next full reset with MODE 1, and of an image that does not verify sets BOOT_FAIL and is
INVALID. Each core that is done takes its turn off the list, the last one ends the activation with OK, and a core that fails reverses it. A
security update staged takes effect at the core's re-entry. The anti-rollback count is the greater of itself and the image's SVN. -/
def Obligations.FirmwareCommands : Prop :=
  (∀ s src c u, Runs s src 0x0801 c u → (fwInfo u).length ≤ c.outLen → exec (.fwInfo src) s = .next (run (finish ⟨src, c.seq⟩ St.ok 0 [] (fwInfo u)) u)) ∧
  (∀ s src c u, Runs s src 0x0802 c u → stageFault u (c.arg 0 8) (c.arg 4 32) (cmdInput u src c).length = none →
    exec (.fwStage src) s = .next (run (fin ⟨src, c.seq⟩ St.ok) (run (store (Mem.fwSlot (c.arg 0 8) + c.arg 4 32) (cmdInput u src c)) u))) ∧
  (∀ s slot off n, s.body.plat.fwAct = none → secBusy s = false → (s.body.plat.booted = true → slot ≠ s.body.sec.runSlot) → off + n ≤ 0x1E00000 → stageFault s slot off n = none) ∧
  (∀ s src c u, Runs s src 0x0803 c u → u.body.plat.fwAct = none → secBusy u = false → imageForm u (c.arg 0 8) = true → u.is Fld.SEC_STATUS_RECOVERY = false → c.arg 1 8 = 1 →
    exec (.fwActivate src true) s = .next (run (acts [showSlot (c.arg 0 8) true, writeRecord (c.arg 0 8), onSec (fun x => { x with raiseArb := true }), fin ⟨src, c.seq⟩ St.ok]) u)) ∧
  (∀ s src c u, Runs s src 0x0803 c u → u.body.plat.fwAct = none → secBusy u = false → imageForm u (c.arg 0 8) = true → u.is Fld.SEC_STATUS_RECOVERY = false → c.arg 1 8 = 0 →
    exec (.fwActivate src true) s = .next (run (acts [showSlot (c.arg 0 8) true,
      onPlat (fun p => { p with fwAct := some { ref := some ⟨src, c.seq⟩, slot := c.arg 0 8, left := updateOrder u } }), setFld Fld.GLB_STATUS_FW_ACTIVATING 1]) u)) ∧
  (∀ s src c u, Runs s src 0x0803 c u → u.body.plat.fwAct = none → secBusy u = false →
    exec (.fwActivate src false) s = .next (run (acts [showSlot (c.arg 0 8) false, raise Blk.sec 0, fin ⟨src, c.seq⟩ St.invalid]) u)) ∧
  (∀ s a core rest, Takes s (.fwCoreUpdateDone true) → s.body.plat.fwAct = some a → a.left = core :: rest → rest ≠ [] → core ≤ 20 →
    exec (.fwCoreUpdateDone true) s = .next (run (onPlat fun p => { p with fwAct := some { a with left := rest, updated := a.updated ++ [core] } }) s)) ∧
  (∀ s a, Takes s (.fwCoreUpdateDone true) → s.body.plat.fwAct = some a → a.left = [22] → 21 ∉ a.updated →
    exec (.fwCoreUpdateDone true) s = .next (run (activationEnds { a with left := [], updated := a.updated ++ [22] })
      (run (onPlat fun p => { p with fwAct := some { a with left := [], updated := a.updated ++ [22] } }) s))) ∧
  (∀ s a core rest, Takes s (.fwCoreUpdateDone false) → s.body.plat.fwAct = some a → a.left = core :: rest → 21 ∉ a.updated →
    exec (.fwCoreUpdateDone false) s = .next (run (acts [writeRecord s.body.sec.runSlot, raiseWith Blk.isl 14 { unit := core }, afterActivation, fwAnswer a.ref St.invalid core]) s)) ∧
  (∀ s, Takes s (.secReentry true) → s.is Fld.SEC_STATUS_SEC_STAGED = true →
    exec (.secReentry true) s = .next (run (acts [setFld Fld.ISL_STATUS_SEC_OK 1, setFld Fld.SEC_STATUS_SEC_STAGED 0,
      onBody fun b => { b with sec := { b.sec with reentering := false, measures := b.sec.stagedSec :: b.sec.measures.drop 1 } }]) s)) ∧
  (∀ s slot, s.canonical → (run (raiseCount slot) s).get Fld.SEC_ARB_ARB_COUNT = max (s.get Fld.SEC_ARB_ARB_COUNT) (imgSvn s slot))

/-- CERT_READ answers the certificates and ATTEST_QUOTE the 512-byte quote while one may be signed. A pod key that opens, of a newer epoch with
none staged, is staged with its delay; a rotation makes it current, the current one previous, and drops the former previous epoch's cached
keys. A Kennel key of a tenant with fewer than two is loaded; one that does not open is counted and INVALID. A token that verifies opens its
scope, and scopes 1 and 2 zero the keys; one that does not is counted. The relock closes the port. A restarted security core is out of
service until it is back. -/
def Obligations.SecurityCommands : Prop :=
  (∀ s src c u, Runs s src 0x0805 c u → secBusy u = false → certOutput.length ≤ c.outLen → exec (.certRead src) s = .next (run (finish ⟨src, c.seq⟩ St.ok 0 [] certOutput) u)) ∧
  (∀ s src c u, Runs s src 0x0804 c u → quoteBlocked u = false → 512 ≤ c.outLen →
    exec (.attestQuote src) s = .next (run (finish ⟨src, c.seq⟩ St.ok 0 [] (quote u c.args)) (run (count Reg.SEC_QUOTES 1) (run drawFree u)))) ∧
  (∀ s src c u, Runs s src 0x0804 c u → quoteBlocked u = true → exec (.attestQuote src) s = .next (run (fin ⟨src, c.seq⟩ St.busyRetry) u)) ∧
  (∀ s src c u k cur, Runs s src 0x0603 c u → secBusy u = false → keysBarred u = false → wrapForm (cmdInput u src c) 1 32 (c.arg 0 16) 0 = true →
    u.body.sec.podStaged = none → u.body.sec.podCur = some cur → 0 < (c.arg 0 16 + 65536 - cur.1) % 65536 → (c.arg 0 16 + 65536 - cur.1) % 65536 ≤ 32767 → cur ≠ (c.arg 0 16, k) →
    exec (.podKeyInstall src (some k)) s = .next (run (acts [
      onSec (fun x => { x with podStaged := some (c.arg 0 16, k, u.body.tick + 1000000 * u.get Fld.SEC_CTL_SEAL_DELAY_MS) }),
      setFld Fld.SEC_STATUS_KEY_STAGED 1, setFld Fld.SEC_STATUS_STAGED_EPOCH (c.arg 0 16), fin ⟨src, c.seq⟩ St.ok]) u)) ∧
  (∀ s src c u, Runs s src 0x0603 c u → secBusy u = false → keysBarred u = false → exec (.podKeyInstall src none) s = .next (run (wrapFail ⟨src, c.seq⟩) u)) ∧
  (∀ s e k d, Takes s .podKeyRotate → s.body.sec.podStaged = some (e, k, d) →
    ∃ t, exec .podKeyRotate s = .next t ∧ t.body.sec.podCur = some (e, k) ∧ t.body.sec.podPrev = s.body.sec.podCur ∧ t.body.sec.podStaged = none ∧
      (∀ x ∈ t.body.xpt.keys, ∀ old, s.body.sec.podPrev = some old → x.2 ≠ old.1) ∧ t.mem = s.mem ∧ t.led = s.led) ∧
  (∀ s src c u k, Runs s src 0x0506 c u → secBusy u = false → keysBarred u = false → wrapForm (cmdInput u src c) 2 64 (c.arg 4 32) (c.arg 0 16) = true →
    tget u.body.sec.knlKeys (c.arg 0 16 * 2 ^ 32 + c.arg 4 32) = none → (u.body.sec.knlKeys.filter fun e => e.1 / 2 ^ 32 == c.arg 0 16).length < 2 → u.body.sec.knlKeys.length < 2048 →
    exec (.knlKeyLoad src (some k)) s = .next (run (fin ⟨src, c.seq⟩ St.ok) (run (setKnlKeys (tput u.body.sec.knlKeys (c.arg 0 16 * 2 ^ 32 + c.arg 4 32) k)) u))) ∧
  (∀ s src c u, Runs s src 0x0506 c u → secBusy u = false → keysBarred u = false → exec (.knlKeyLoad src none) s = .next (run (wrapFail ⟨src, c.seq⟩) u)) ∧
  (∀ s src c u d, Runs s src 0x0806 c u → d = cmdInput u src c → secBusy u = false → u.body.sec.unlockFails < 8 → tokenForm u d = true →
    exec (.testUnlock src true) s = .next (run (acts [when (decide (2 ≤ leNat ((d.drop 2).take 1) % 8)) zeroKeys,
      onSec (fun x => { x with unlockUntil := if leNat ((d.drop 0x30).take 4) = 0 then none else some (u.body.tick + 1000000000 * leNat ((d.drop 0x30).take 4)) }),
      setFld Fld.SEC_STATUS_TEST_UNLOCKED 1, setFld Fld.SEC_STATUS_UNLOCKED_SINCE_BOOT 1, setFld Fld.SEC_STATUS_UNLOCK_SCOPE (leNat ((d.drop 2).take 1) % 8),
      setFld Fld.TST_STATUS_LOCKED 0, setFld Fld.TST_STATUS_SCOPE (leNat ((d.drop 2).take 1) % 8), raise Blk.sec 4, fin ⟨src, c.seq⟩ St.ok]) u)) ∧
  (∀ s src c u, Runs s src 0x0806 c u → secBusy u = false → u.body.sec.unlockFails < 8 →
    exec (.testUnlock src false) s = .next (run (acts [onSec (fun x => { x with unlockFails := x.unlockFails + 1 }), count Reg.SEC_UNLOCK_FAIL 1, raise Blk.sec 3, fin ⟨src, c.seq⟩ St.invalid]) u)) ∧
  (∀ s, (run zeroKeys s).body.sec.podCur = none ∧ (run zeroKeys s).body.sec.podPrev = none ∧ (run zeroKeys s).body.sec.podStaged = none ∧
    (run zeroKeys s).body.sec.knlKeys = [] ∧ (run zeroKeys s).body.xpt.keys = []) ∧
  (∀ s, Takes s .testRelock → s.is Fld.SEC_STATUS_TEST_UNLOCKED = true → s.body.sec.unlockUntil.isSome = true → exec .testRelock s = .next (run lockPort s)) ∧
  (∀ s, Takes s (.secRestart false) → exec (.secRestart false) s = .next (run (onBody fun b => { b with sec := { b.sec with reentering := true } })
    (run (raise Blk.isl 8) (run (setFld Fld.ISL_STATUS_SEC_OK 0) s)))) ∧
  (∀ s, Takes s (.secRestart true) → exec (.secRestart true) s = .next (run (onBody fun b => { b with sec := { b.sec with reentering := false } }) (run (setFld Fld.ISL_STATUS_SEC_OK 1) s)))

/-- HEALTH and SPARE_MAP answer their reports. BARK_ACK moves the head to the number from the head on that is congruent to HEAD where the ring
has stored it, and is INVALID beyond. LEDGER_AUDIT writes the snapshot and answers MISMATCH; the timer's audit does the same; an audit
changes no ledger. The oldest waiting repair is burned while there is an eFuse entry. -/
def Obligations.ReportsAndAudits : Prop :=
  (∀ s src c u, Runs s src 0x0701 c u → (health u).length ≤ c.outLen → exec (.health src) s = .next (run (finish ⟨src, c.seq⟩ St.ok 0 [] (health u)) u)) ∧
  (∀ s src c u, Runs s src 0x0704 c u → (spareMap u).length ≤ c.outLen → exec (.spareMap src) s = .next (run (finish ⟨src, c.seq⟩ St.ok 0 [] (spareMap u)) u)) ∧
  (∀ s src c u h, Runs s src 0x0702 c u → u.bark.head ≤ h → h < u.bark.head + 2 ^ 32 → h % 2 ^ 32 = c.arg 0 32 → h ≤ u.bark.stored →
    exec (.barkAck src) s = .next (run (fin ⟨src, c.seq⟩ St.ok) (run (eff (.barkHead h)) u))) ∧
  (∀ s src c u h, Runs s src 0x0702 c u → u.bark.head ≤ h → h < u.bark.head + 2 ^ 32 → h % 2 ^ 32 = c.arg 0 32 → u.bark.stored < h →
    exec (.barkAck src) s = .next (run (finInvalid ⟨src, c.seq⟩ 0) u)) ∧
  (∀ s h, s.bark.head ≤ h → h ≤ s.bark.stored → (run (eff (.barkHead h)) s).bark.head = h ∧ (run (eff (.barkHead h)) s).bark.stored = s.bark.stored ∧ (run (eff (.barkHead h)) s).body = s.body) ∧
  (∀ s src c u hold t, Runs s src 0x0703 c u → snapshotSize ≤ c.outLen → t = run (audit hold) u →
    exec (.ledgerAudit src hold) s = .next (run (finish ⟨src, c.seq⟩ St.ok 0 (leBytes 4 (mismatch u.led)) (t.bytes (snapshotAt (t.rd Reg.LDG_SNAP_SEQ)) snapshotSize)) t)) ∧
  (∀ s hold, Takes s (.ledgerAuditTimer hold) → s.get Fld.LDG_CTL_CHECK_MS ≠ 0 → exec (.ledgerAuditTimer hold) s = .next (run (audit hold) s)) ∧
  (∀ s hold, (∀ e ∈ s.led.collars, e.1 < 2048) → (run (audit hold) s).led = s.led ∧ ∀ a, (a < Mem.hostWindow + 0x1000 ∨ Mem.hostWindow + 0x24000 ≤ a) → (run (audit hold) s).byte a = s.byte a) ∧
  (∀ s r l, Takes s .repairBurn → s.body.plat.toBurn = r :: l → s.body.plat.fuses.length < 512 →
    ∃ t, exec .repairBurn s = .next t ∧ t.body.plat.toBurn = l ∧ t.body.plat.fuses = s.body.plat.fuses ++ [r] ∧ t.mem = s.mem ∧ t.led = s.led) ∧
  (∀ s r l, Takes s .repairBurn → s.body.plat.toBurn = r :: l → 512 ≤ s.body.plat.fuses.length →
    exec .repairBurn s = .next (run (raise Blk.isl 11) (run (onPlat fun p => { p with toBurn := l }) s)))

/-- Each CXL command that waits in the primary mailbox, well formed, answers Success with its output; clearing takes event records away, the
setting commands set, Transfer FW stores into a slot that is not running, Activate FW activates it, and an opcode that is not supported is
answered Unsupported. The layouts of the payloads are those of CXL 2.0 (the model's choice, log entry 4). -/
def Obligations.CxlCommands : Prop :=
  (∀ s code out, ∃ t, run (cxlEnd code out) s = t ∧ t.body.mbox.cxlCmd = none ∧ t.body.mbox.retCode = code ∧ t.body.mbox.output = out ∧ t.regs = s.regs ∧ t.mem = s.mem ∧ t.led = s.led) ∧
  (∀ s p l, CxlRuns s 0x0100 p → p.length = 1 → s.body.cxl.logs[pnum p 0 1]? = some l → l.length ≤ 511 →
    exec .getEventRecords s = .next (run (cxlOk (leBytes 1 0 ++ List.replicate 19 0 ++ leBytes 2 l.length ++ List.replicate 10 0 ++ l.flatMap (evRecord s))) s)) ∧
  (∀ s p l, CxlRuns s 0x0101 p → s.body.cxl.logs[pnum p 0 1]? = some l → 6 + 2 * pnum p 2 1 ≤ p.length → pnum p 1 1 % 2 = 1 →
    exec .clearEventRecords s = .next (run (cxlOk []) (run (setLog (pnum p 0 1) []) s))) ∧
  (∀ s p l, CxlRuns s 0x0101 p → s.body.cxl.logs[pnum p 0 1]? = some l → 6 + 2 * pnum p 2 1 ≤ p.length → pnum p 1 1 % 2 = 0 →
    (l.take (pnum p 2 1)).map evHandle = (List.range (pnum p 2 1)).map (fun k => pnum p (6 + 2 * k) 2) →
    exec .clearEventRecords s = .next (run (cxlOk []) (run (setLog (pnum p 0 1) (l.drop (pnum p 2 1))) s))) ∧
  (∀ s p, CxlRuns s 0x0102 p → p = [] → exec .getEventInterruptPolicy s = .next (run (cxlOk (s.body.cxl.policy.flatMap (leBytes 1))) s)) ∧
  (∀ s p, CxlRuns s 0x0103 p → p.length = 4 → ∃ t, exec .setEventInterruptPolicy s = .next t ∧ t.body.cxl.policy = p.map (·.toNat) ∧ t.body.mbox.retCode = cxlSuccess ∧ t.body.mbox.cxlCmd = none ∧ t.led = s.led) ∧
  (∀ s p, CxlRuns s 0x0200 p → p = [] → s.body.sec.raiseArb = false →
    exec .getFwInfo s = .next (run (cxlOk (leBytes 1 2 ++ leBytes 1 (s.body.sec.runSlot + 1) ++ leBytes 1 1 ++ List.replicate 13 0 ++ fwRevision s 0 ++ fwRevision s 1 ++ List.replicate 32 0)) s)) ∧
  (∀ s p, CxlRuns s 0x0201 p → 128 ≤ p.length → pnum p 0 1 < 4 → (pnum p 1 1 = 1 ∨ pnum p 1 1 = 2) → stageFault s (pnum p 1 1 - 1) (128 * pnum p 4 4) (p.length - 128) = none →
    exec .transferFw s = .next (run (cxlOk []) (run (store (Mem.fwSlot (pnum p 1 1 - 1) + 128 * pnum p 4 4) (p.drop 128)) s))) ∧
  (∀ s p, CxlRuns s 0x0202 p → p.length = 2 → pnum p 0 1 ≤ 1 → (pnum p 1 1 = 1 ∨ pnum p 1 1 = 2) →
    exec (.activateFw true) s = .next (run (activate none (pnum p 1 1 - 1) (pnum p 0 1) true) s)) ∧
  (∀ s p slot, CxlRuns s 0x0202 p → s.body.plat.fwAct = none → secBusy s = false → imageForm s slot = true →
    run (activate none slot 1 true) s = run (acts [showSlot slot true, writeRecord slot, onSec (fun x => { x with raiseArb := true }), cxlOk []]) s) ∧
  (∀ s p slot, CxlRuns s 0x0202 p → s.body.plat.fwAct = none → secBusy s = false → imageForm s slot = true →
    run (activate none slot 0 true) s = run (acts [showSlot slot true, onPlat (fun p => { p with fwAct := some { ref := none, slot := slot, left := updateOrder s } }), setFld Fld.GLB_STATUS_FW_ACTIVATING 1]) s) ∧
  (∀ s p, CxlRuns s 0x0300 p → p = [] → exec .getTimestamp s = .next (run (cxlOk (leBytes 8 (stampAt s s.body.tick))) s)) ∧
  (∀ s p, CxlRuns s 0x0301 p → p.length = 8 → ∃ t, exec .setTimestamp s = .next t ∧ t.body.cxl.timestamp = some (leNat p, s.body.tick) ∧ t.body.mbox.retCode = cxlSuccess ∧ t.body.mbox.cxlCmd = none ∧ t.led = s.led) ∧
  (∀ s p, CxlRuns s 0x0400 p → p = [] → exec .getSupportedLogs s = .next (run (cxlOk (leBytes 2 1 ++ List.replicate 6 0 ++ celUuid ++ leBytes 4 celBytes.length)) s)) ∧
  (∀ s p, CxlRuns s 0x0401 p → p.length = 24 → p.take 16 = celUuid → pnum p 16 4 + pnum p 20 4 ≤ celBytes.length → exec .getLog s = .next (run (cxlOk ((celBytes.drop (pnum p 16 4)).take (pnum p 20 4))) s)) ∧
  (∀ s p, CxlRuns s 0x4000 p → p = [] → ∃ t, exec .identifyMemoryDevice s = .next t ∧ t.body.mbox.retCode = cxlSuccess ∧ (t.body.mbox.output.drop 16).take 32 = leBytes 8 256 ++ leBytes 8 256 ++ leBytes 8 0 ++ leBytes 8 0 ∧ t.led = s.led) ∧
  (∀ s p, CxlRuns s 0x4200 p → p = [] → ∃ t, exec .getHealthInfo s = .next t ∧ t.body.mbox.retCode = cxlSuccess ∧ (t.body.mbox.output.drop 3).take 7 = leBytes 1 (lifeUsed s) ++ leBytes 2 (wordOf 16 (hottest s)) ++ leBytes 4 0 ∧ t.led = s.led) ∧
  (∀ s op p, CxlRuns s op p → op ∉ cxlOpcodes → exec .cxlUnsupportedOpcode s = .next (run (cxlEnd cxlUnsupported []) s))

/-- A write of eight bytes to a register whose write is no command sets its RW fields to what is written, clears the bits of RW1C fields written
1, sets those of RW1S fields written 1, and keeps RO and reserved fields, and every other register. Before the firmware is ready a write
outside the CXL blocks changes nothing. A write of BRK_OVF_REARM re-arms the classes of its mask. A write to a tenant window's counters
stores to the counters of its range. -/
def Obligations.RegisterWrites : Prop :=
  (∀ s a v d, Takes s (.registerWrite none a 8 v) → a % 8 = 0 → s.is Fld.GLB_STATUS_FW_READY = true → blockStore a (leBytes 8 v) = none → regAt a = some d → d.size = 8 →
    commandWrite a .whole v = none → exec (.registerWrite none a 8 v) s = .next (run (typedWrite d a .whole v) s)) ∧
  (∀ s a v d f, s.canonical → s.body.conf.locked = true → regAt a = some d → f ∈ d.fields → f.acc = .rw →
    (run (typedWrite d a .whole v) s).get ⟨a, f.lo, f.w⟩ = bitsOf v f.lo f.w) ∧
  (∀ s a v d f, s.canonical → s.body.conf.locked = true → regAt a = some d → f ∈ d.fields → f.acc = .rw1c →
    (run (typedWrite d a .whole v) s).get ⟨a, f.lo, f.w⟩ = s.get ⟨a, f.lo, f.w⟩ ^^^ (s.get ⟨a, f.lo, f.w⟩ &&& bitsOf v f.lo f.w)) ∧
  (∀ s a v d f, s.canonical → s.body.conf.locked = true → regAt a = some d → f ∈ d.fields → f.acc = .rw1s →
    (run (typedWrite d a .whole v) s).get ⟨a, f.lo, f.w⟩ = s.get ⟨a, f.lo, f.w⟩ ||| bitsOf v f.lo f.w) ∧
  (∀ s a v d f, s.canonical → s.body.conf.locked = true → regAt a = some d → f ∈ d.fields → f.acc = .ro ∨ f.acc = .rwl →
    (run (typedWrite d a .whole v) s).get ⟨a, f.lo, f.w⟩ = s.get ⟨a, f.lo, f.w⟩) ∧
  (∀ s a v d p, s.body.conf.locked = true → (∀ b, b ≠ a → (run (typedWrite d a p v) s).rd b = s.rd b) ∧ (run (typedWrite d a p v) s).body = s.body ∧
    (run (typedWrite d a p v) s).mem = s.mem ∧ (run (typedWrite d a p v) s).led = s.led ∧ (run (typedWrite d a p v) s).bark = s.bark) ∧
  (∀ s a n v, Takes s (.registerWrite none a n v) → s.is Fld.GLB_STATUS_FW_READY = false → (a < 0x100000 ∨ 0x140000 ≤ a) → exec (.registerWrite none a n v) s = .next s) ∧
  (∀ s m, Takes s (.brkOvfRearm m) → s.is Fld.GLB_STATUS_FW_READY = true → exec (.brkOvfRearm m) s = .next (run (eff (.barkRearm m)) s)) ∧
  (∀ s w o v, Takes s (.registerWrite (some w) o 8 v) → s.is Fld.GLB_STATUS_FW_READY = true → o % 8 = 0 → 0x4000 ≤ o → o < 0x8000 →
    exec (.registerWrite (some w) o 8 v) s = .next (run (acnStore (some w) (32 * s.get (Fld.ACN_TW_BASE w) + (o - 0x4000)) (leBytes 8 v)) s))

/-- The decoder is committed for exactly 64 GiB, 1-way, at a base aligned to 256 MiB, and not otherwise. Over a link in CXL mode with memory
active and the decoder committed, a write puts its bytes where the host may write and leaves the device's regions and every other byte as
they were; a read answers the bytes, or all ones where far state has an uncorrectable error, and then nothing of the memory changes. An
access beyond the 64 GiB has no address to go to (the model's stop, of which the spec says nothing). -/
def Obligations.HostWindowAccesses : Prop :=
  (∀ s base, Takes s (.hdmDecoderCommit base (2 ^ 36) 1) → base % 2 ^ 28 = 0 →
    ∃ t, exec (.hdmDecoderCommit base (2 ^ 36) 1) s = .next t ∧ t.body.cxl.hdmBase = some base ∧ t.regs = s.regs ∧ t.mem = s.mem ∧ t.led = s.led) ∧
  (∀ s base size ways, Takes s (.hdmDecoderCommit base size ways) → size ≠ 2 ^ 36 ∨ base % 2 ^ 28 ≠ 0 ∨ ways ≠ 1 →
    ∃ t, exec (.hdmDecoderCommit base size ways) s = .next t ∧ t.body.cxl.hdmBase = s.body.cxl.hdmBase ∧ t.mem = s.mem ∧ t.led = s.led) ∧
  (∀ s off d, s.canonical → Takes s (.hostWindowWrite off d) → s.windowServed = true → off + d.length ≤ 2 ^ 36 →
    ∃ t, exec (.hostWindowWrite off d) s = .next t ∧
      (∀ i, i < d.length → deviceWritten (off + i) = false → t.byte (Mem.hostWindow + off + i) = d.getD i 0) ∧
      (∀ i, i < d.length → deviceWritten (off + i) = true → t.byte (Mem.hostWindow + off + i) = s.byte (Mem.hostWindow + off + i)) ∧
      (∀ a, a < Mem.hostWindow + off ∨ Mem.hostWindow + off + d.length ≤ a → t.byte a = s.byte a) ∧ t.led = s.led) ∧
  (∀ s off n, Takes s (.hostWindowRead off n false) → s.windowServed = true → off + n ≤ 2 ^ 36 →
    exec (.hostWindowRead off n false) s = .next (run (emit (.hostRead (windowBytes s off n))) s)) ∧
  (∀ s off n, Takes s (.hostWindowRead off n true) → s.windowServed = true → off + n ≤ 2 ^ 36 →
    exec (.hostWindowRead off n true) s = .next (run (acts [emit (.hostRead (List.replicate n 255)), setReg Reg.CXL_MEM_UE_ADDR off, raiseWith Blk.cxl 0 { addr := off }, emit .aer]) s)) ∧
  (∀ s off d, Takes s (.hostWindowWrite off d) → s.windowServed = false → off + d.length ≤ 2 ^ 36 → exec (.hostWindowWrite off d) s = .next s) ∧
  (∀ s off d, 2 ^ 36 < off + d.length → exec (.hostWindowWrite off d) s = .fault .outsideHostWindow) ∧
  (∀ s off n ue, 2 ^ 36 < off + n → exec (.hostWindowRead off n ue) s = .fault .outsideHostWindow)

/-- An idle island that may stop goes to STOPPING and then to STOPPED; a whistle wakes it and is counted, or abandons the stop. A reset or a
halt puts the island in its state, flushes the credits in flight that are given, and fails the work of its units; its end or restart lets it
run. A throttle sets the island's flag and is counted; a release clears it. A failed control core is mapped out and replaced; the standby
takes the management role. At the end of a Bark window one message signals what was made within it. -/
def Obligations.IslandRowsTakeEffect : Prop :=
  (∀ s n, s.canonical → Takes s (.islIdleStop n) → mayStopIsland n = true → rtIsland s n = false → s.get Fld.ISL_CTL_IDLE_US ≠ 0 → s.isl n = IslSt.run →
    ∃ t, exec (.islIdleStop n) s = .next t ∧ t.isl n = IslSt.stopping ∧ (∀ m, m < 56 → m ≠ n → t.isl m = s.isl m) ∧ t.body = s.body ∧ t.mem = s.mem ∧ t.led = s.led) ∧
  (∀ s n, s.canonical → Takes s (.islIdleStop n) → mayStopIsland n = true → rtIsland s n = false → s.get Fld.ISL_CTL_IDLE_US ≠ 0 → s.isl n = IslSt.stopping →
    ∃ t, exec (.islIdleStop n) s = .next t ∧ t.isl n = IslSt.stopped ∧ (∀ m, m < 56 → m ≠ n → t.isl m = s.isl m) ∧ t.body = s.body ∧ t.mem = s.mem ∧ t.led = s.led) ∧
  (∀ s n, Takes s (.islIdleStop n) → mayStopIsland n = false ∨ rtIsland s n = true → exec (.islIdleStop n) s = .next s) ∧
  (∀ s n, s.canonical → Takes s (.whistle n) → s.isl n = IslSt.stopped →
    ∃ t, exec (.whistle n) s = .next t ∧ t.isl n = IslSt.run ∧ t.rd Reg.ISL_WHISTLES = wrapAdd 64 (s.rd Reg.ISL_WHISTLES) 1 ∧ t.body = s.body ∧ t.mem = s.mem ∧ t.led = s.led) ∧
  (∀ s n, s.canonical → Takes s (.whistle n) → s.isl n = IslSt.stopping →
    ∃ t, exec (.whistle n) s = .next t ∧ t.isl n = IslSt.run ∧ t.rd Reg.ISL_WHISTLES = s.rd Reg.ISL_WHISTLES ∧ t.body = s.body ∧ t.mem = s.mem ∧ t.led = s.led) ∧
  (∀ s n, Takes s (.whistle n) → s.isl n = IslSt.reset → exec (.whistle n) s = .next s) ∧
  (∀ s n cause credits, Takes s (.islReset n cause credits) →
    exec (.islReset n cause credits) s = .next (run (islandWork n) (run (islandReset n IslSt.reset credits (causeFlag cause)) s))) ∧
  (∀ s n credits, Takes s (.limitBreach n credits) → exec (.limitBreach n credits) s = .next (run (islandWork n) (run (islandReset n IslSt.halted credits (some 3)) s))) ∧
  (∀ s n st credits flag, s.canonical → n < 56 → st < 8 → credits ≤ s.led.chip.inflight → (∀ f, flag = some f → f < 16) →
    (run (islandReset n st credits flag) s).isl n = st ∧ (run (islandReset n st credits flag) s).led.chip.flushed = s.led.chip.flushed + credits ∧
    (run (islandReset n st credits flag) s).led.chip.inflight + credits = s.led.chip.inflight ∧ (run (islandReset n st credits flag) s).mem = s.mem) ∧
  (∀ s n, s.canonical → Takes s (.islResetEnd n) → s.isl n = IslSt.reset → n ∉ s.body.plat.heldReset →
    ∃ t, exec (.islResetEnd n) s = .next t ∧ t.isl n = IslSt.run ∧ t.body = s.body ∧ t.mem = s.mem ∧ t.led = s.led) ∧
  (∀ s n, s.canonical → Takes s (.islandRestart n) → s.isl n = IslSt.halted →
    ∃ t, exec (.islandRestart n) s = .next t ∧ t.isl n = IslSt.run ∧ t.body = s.body ∧ t.mem = s.mem ∧ t.led = s.led) ∧
  (∀ s n freq temp, Takes s (.islThrottle n freq temp .release) →
    exec (.islThrottle n freq temp .release) s = .next (run (acts [setFld (Fld.ISL_STATE_TEMP n) temp, setFld (Fld.ISL_STATE_FREQ_MHZ n) (clampFreq s n freq), setFld (Fld.ISL_STATE_THROTTLED n) 0]) s)) ∧
  (∀ s n freq temp b mw, Takes s (.islThrottle n freq temp (.block b mw)) →
    exec (.islThrottle n freq temp (.block b mw)) s = .next (run (acts [setFld (Fld.ISL_STATE_TEMP n) temp, setFld (Fld.ISL_STATE_FREQ_MHZ n) (clampFreq s n freq), setFld (Fld.ISL_STATE_THROTTLED n) 1,
      setFld (Fld.PWR_BLOCK_POWER_MW b) mw, count Reg.ISL_THROTTLES 1, raiseWith Blk.isl 2 { island := n }, raiseWith Blk.pwr 5 { island := n, unit := b }]) s)) ∧
  (∀ s n f m, neighbours s n = [m] → f ≤ 8 * s.get (Fld.ISL_STATE_FREQ_MHZ m) → s.get (Fld.ISL_STATE_FREQ_MHZ m) ≤ 8 * f → clampFreq s n f = f) ∧
  (∀ s core, Takes s (.coreFault core) → core ≤ 19 → core ∉ s.body.plat.coresOut → s.body.plat.fwAct = none →
    ∃ t, exec (.coreFault core) s = .next (run (acts [raiseWith Blk.isl 5 { island := 39 + core / 4, unit := core % 4 }, dropFld Fld.ISL_STATUS_CORES_OK 1, useSpare 5 core]) t) ∧
      t.body.plat.coresOut = s.body.plat.coresOut ++ [core] ∧ t.regs = s.regs ∧ t.mem = s.mem ∧ t.led = s.led) ∧
  (∀ s, Takes s .mgmtTakeover → s.is Fld.ISL_STATUS_STANDBY_OK = true →
    exec .mgmtTakeover s = .next (run (acts [setFld Fld.ISL_STATUS_MGMT_ACTIVE (1 - s.get Fld.ISL_STATUS_MGMT_ACTIVE), setFld Fld.ISL_STATUS_STANDBY_OK 0, loseSpare 6,
      onPlat (fun p => { p with mgmtUp := true }), raise Blk.isl 7]) s)) ∧
  (∀ s, Takes s .barkIrqWindowEnd → s.bark.winOpen = true → s.bark.winPend = true →
    ∃ t, exec .barkIrqWindowEnd s = .next t ∧ t.body.out = s.body.out ++ [.msix false 16] ∧ t.bark.winOpen = true ∧ t.bark.winPend = false ∧ t.regs = s.regs ∧ t.mem = s.mem ∧ t.led = s.led)

/-- Power-on samples the straps and boots; a fall of PERST_N is a host-interface reset, a full reset in POWER_LOSS, and held during a flush;
WARM_RESET_N resets the device and is held likewise. The link comes up as it trains, firmware-ready sets its bits, and a surprise link down
resets the host interface. A power failure or a rail under its tolerance begins the flush and stops the device, a rail over it is reported.
An alert drives its pin until it is released; a trip stops every island but 54. A lost clock resets what it clocks, and its return lets that
run. -/
def Obligations.ResetsAndPower : Prop :=
  (∀ s straps a b, straps < 32 → exec (.powerOnReset straps a b) s = .next (run (acts [eff (.restart keptBody), setReg Reg.PWR_STRAPS straps, reapply s, bootRom a b]) s)) ∧
  (∀ s a b, s.get Fld.PWR_STATUS_PF_STATE = 0 → s.is Fld.PWR_STATUS_TRIP = false → s.knlState ≠ KnlSt.powerLoss →
    exec (.perstNFall a b) s = .next (run hostifReset (run (onBody fun x => { x with cxl := { x.cxl with perst := false } }) s))) ∧
  (∀ s a b, s.get Fld.PWR_STATUS_PF_STATE = 2 → s.is Fld.PWR_STATUS_TRIP = false → s.knlState = KnlSt.powerLoss → exec (.perstNFall a b) s = .next (run (fullReset a b) s)) ∧
  (∀ s a b, s.get Fld.PWR_STATUS_PF_STATE = 1 → ∃ t, exec (.perstNFall a b) s = .next t ∧ t.body.plat.heldPerst = true ∧ t.regs = s.regs ∧ t.mem = s.mem ∧ t.led = s.led) ∧
  (∀ s, ∃ t, exec .perstNRise s = .next t ∧ t.body.cxl.perst = true ∧ t.regs = s.regs ∧ t.mem = s.mem ∧ t.led = s.led) ∧
  (∀ s a b, s.get Fld.PWR_STATUS_PF_STATE ≠ 1 → s.is Fld.PWR_STATUS_TRIP = false → exec (.warmResetN a b) s = .next (run (warmReset a b) s)) ∧
  (∀ s a b, s.get Fld.PWR_STATUS_PF_STATE = 1 → ∃ t, exec (.warmResetN a b) s = .next t ∧ t.body.plat.heldWarm = true ∧ t.regs = s.regs ∧ t.mem = s.mem ∧ t.led = s.led) ∧
  (∀ s w r m, s.canonical → Takes s (.cxlLinkUp w r m) → s.body.cxl.perst = true → 1 ∉ s.body.plat.clocksLost → linkForm w r m = true →
    ∃ t, exec (.cxlLinkUp w r m) s = .next t ∧ t.get Fld.CXL_LINK_STATUS_WIDTH = w ∧ t.get Fld.CXL_LINK_STATUS_RATE = r ∧ t.get Fld.CXL_LINK_STATUS_MODE = m ∧ t.get Fld.GLB_STATUS_HOST_MODE = m ∧
      t.body = s.body ∧ t.mem = s.mem ∧ t.led = s.led) ∧
  (∀ s, s.canonical → Takes s .fwReady → s.body.plat.booted = true → s.is Fld.SEC_STATUS_RECOVERY = false → s.body.cxl.perst = true → s.get Fld.GLB_STATUS_HOST_MODE ≠ 0 →
    s.is Fld.GLB_STATUS_FW_READY = false → s.body.sec.raiseArb = false →
    ∃ t, exec .fwReady s = .next t ∧ t.is Fld.GLB_STATUS_FW_READY = true ∧ t.is Fld.GLB_STATUS_MEM_ACTIVE = true ∧ t.body = s.body ∧ t.mem = s.mem ∧ t.led = s.led) ∧
  (∀ s, Takes s .surpriseLinkDown → s.get Fld.GLB_STATUS_HOST_MODE ≠ 0 → exec .surpriseLinkDown s = .next (run hostifReset (run (emit .aer) (run (raise Blk.cxl 2) s)))) ∧
  (∀ s, s.canonical → s.get Fld.PWR_STATUS_PF_STATE = 0 → ∃ t, exec .pwrfailFall s = .next t ∧ t.get Fld.PWR_STATUS_PF_STATE = 1 ∧ t.works = false ∧ t.mem = s.mem ∧ t.led = s.led) ∧
  (∀ s, s.get Fld.PWR_STATUS_PF_STATE ≠ 0 → exec .pwrfailFall s = .next s) ∧
  (∀ s r, s.canonical → r < 11 → s.get Fld.PWR_STATUS_PF_STATE = 0 → ∃ t, exec (.railUv r) s = .next t ∧ t.get Fld.PWR_STATUS_PF_STATE = 1 ∧ t.works = false ∧ t.mem = s.mem ∧ t.led = s.led) ∧
  (∀ s r, r < 11 → exec (.railOv r) s = .next (run (raiseWith Blk.pwr 3 { unit := r }) s)) ∧
  (∀ s n temp, Takes s (.thermAlert n temp) → (8 * s.get Fld.PWR_CTL_ALERT_C : Int) ≤ signedOf 12 temp → s.is Fld.PWR_STATUS_ALERT = false →
    exec (.thermAlert n temp) s = .next (run (acts [setFld Fld.PWR_STATUS_HOT_ISLAND n, setFld Fld.PWR_STATUS_HOT_TEMP temp, setFld (Fld.ISL_STATE_TEMP n) temp, setFld Fld.PWR_STATUS_ALERT 1,
      raiseWith Blk.pwr 0 { island := n }, onPlat fun p => { p with ibi := true }]) s)) ∧
  (∀ s, s.canonical → s.is Fld.PWR_STATUS_TRIP = false → ∃ t, exec .thermAlertRelease s = .next t ∧ t.is Fld.PWR_STATUS_ALERT = false ∧ t.body.plat.ibi = false ∧ t.mem = s.mem ∧ t.led = s.led) ∧
  (∀ s n, s.canonical → n < 56 → ∃ t, exec (.thermalTrip n) s = .next t ∧ t.is Fld.PWR_STATUS_TRIP = true ∧ t.is Fld.PWR_STATUS_ALERT = true ∧ t.works = false ∧
    (∀ k, k < 56 → k ≠ 54 → t.isl k = IslSt.reset) ∧ t.isl 54 = s.isl 54 ∧ t.mem = s.mem ∧ t.led = s.led) ∧
  (∀ s, Takes s (.refclkLoss 1) → 1 ∉ s.body.plat.clocksLost →
    exec (.refclkLoss 1) s = .next (run actLinkDown (run (raiseWith Blk.pwr 4 { unit := 1 }) (run (onPlat fun p => { p with clocksLost := p.clocksLost ++ [1] }) s)))) ∧
  (∀ s k, Takes s (.refclkLoss (2 + k)) → 2 + k ∉ s.body.plat.clocksLost →
    exec (.refclkLoss (2 + k)) s = .next (run (each (List.range 4) fun i => portDown (4 * k + i))
      (run (raiseWith Blk.pwr 4 { unit := 2 + k }) (run (onPlat fun p => { p with clocksLost := p.clocksLost ++ [2 + k] }) s)))) ∧
  (∀ s, Takes s (.refclkLoss 0) → 0 ∉ s.body.plat.clocksLost →
    ∃ t, exec (.refclkLoss 0) s = .next t ∧ t.body.plat.mgmtUp = false ∧ t.body.plat.heldReset = sysIslands ∧
      t = run (onPlat fun p => { p with heldReset := sysIslands, mgmtUp := false }) (run (eff (.credFlush none s.led.chip.inflight)) (run (each sysIslands fun n => actIslReset n .clock 0)
        (run (raiseWith Blk.pwr 4 { unit := 0 }) (run (onPlat fun p => { p with clocksLost := p.clocksLost ++ [0] }) s))))) ∧
  (∀ s, Takes s (.refclkRestore 0) → 0 ∈ s.body.plat.clocksLost →
    ∃ t, exec (.refclkRestore 0) s = .next t ∧ t.body.plat.mgmtUp = true ∧ t.body.plat.heldReset = [] ∧
      t = run (onPlat fun p => { p with heldReset := [], mgmtUp := true }) (run (actSecRestart true) (run (each s.body.plat.heldReset fun n => setIsl n IslSt.run)
        (run (onPlat fun p => { p with clocksLost := p.clocksLost.filter (· != 0) }) s)))) ∧
  (∀ s k, Takes s (.refclkRestore k) → k ∈ s.body.plat.clocksLost → k ≠ 0 →
    ∃ t, exec (.refclkRestore k) s = .next t ∧ k ∉ t.body.plat.clocksLost ∧ t.regs = s.regs ∧ t.mem = s.mem ∧ t.led = s.led)

/-- Each TAP instruction becomes the one in force; one that takes the pins while a data-plane island runs stops the device's service. A private
instruction is executed where its scope bit is open and is BYPASS otherwise, refused with a flag while the port is locked. TRST_N puts
IDCODE in force. The I3C target takes a dynamic address from its static one, or while it has none, not after a power failure. The MCTP
requests answer certificates, a quote, health and the power status, and BUSY_RETRY while the core that answers does not run. -/
def Obligations.TestAndManagementPorts : Prop :=
  (∀ s, s.canonical → ∃ t, exec .tapIdcode s = .next t ∧ t.get Fld.TST_STATUS_INSTRUCTION = 0x01 ∧ t.mem = s.mem ∧ t.led = s.led ∧ t.body = s.body) ∧
  (∀ s, s.canonical → ∃ t, exec .tapExtest s = .next t ∧ t.get Fld.TST_STATUS_INSTRUCTION = 0x03 ∧ t.mem = s.mem ∧ t.led = s.led ∧ t.body.plat.highZ = false ∧
    (s.body.plat.pinsTaken = false → (∀ n, n < 56 → dataPlane n = true → s.isl n ≠ IslSt.run) → t.body.plat.pinsTaken = false) ∧
    (∀ n, n < 56 → dataPlane n = true → s.isl n = IslSt.run → t.works = false)) ∧
  (∀ s, s.canonical → ∃ t, exec .tapExtestPulse s = .next t ∧ t.get Fld.TST_STATUS_INSTRUCTION = 0x04 ∧ t.mem = s.mem ∧ t.led = s.led ∧ t.body.plat.highZ = false ∧
    (s.body.plat.pinsTaken = false → (∀ n, n < 56 → dataPlane n = true → s.isl n ≠ IslSt.run) → t.body.plat.pinsTaken = false) ∧
    (∀ n, n < 56 → dataPlane n = true → s.isl n = IslSt.run → t.works = false)) ∧
  (∀ s, s.canonical → ∃ t, exec .tapExtestTrain s = .next t ∧ t.get Fld.TST_STATUS_INSTRUCTION = 0x05 ∧ t.mem = s.mem ∧ t.led = s.led ∧ t.body.plat.highZ = false ∧
    (s.body.plat.pinsTaken = false → (∀ n, n < 56 → dataPlane n = true → s.isl n ≠ IslSt.run) → t.body.plat.pinsTaken = false) ∧
    (∀ n, n < 56 → dataPlane n = true → s.isl n = IslSt.run → t.works = false)) ∧
  (∀ s, s.canonical → ∃ t, exec .tapHighz s = .next t ∧ t.get Fld.TST_STATUS_INSTRUCTION = 0x06 ∧ t.mem = s.mem ∧ t.led = s.led ∧ t.body.plat.highZ = true ∧
    (s.body.plat.pinsTaken = false → (∀ n, n < 56 → dataPlane n = true → s.isl n ≠ IslSt.run) → t.body.plat.pinsTaken = false) ∧
    (∀ n, n < 56 → dataPlane n = true → s.isl n = IslSt.run → t.works = false)) ∧
  (∀ s, s.canonical → ∃ t, exec .tapClamp s = .next t ∧ t.get Fld.TST_STATUS_INSTRUCTION = 0x07 ∧ t.mem = s.mem ∧ t.led = s.led ∧ t.body.plat.highZ = false ∧
    (s.body.plat.pinsTaken = false → (∀ n, n < 56 → dataPlane n = true → s.isl n ≠ IslSt.run) → t.body.plat.pinsTaken = false) ∧
    (∀ n, n < 56 → dataPlane n = true → s.isl n = IslSt.run → t.works = false)) ∧
  (∀ s cells, s.canonical → bsrFits cells = true → ∃ t, exec (.tapSamplePreload cells) s = .next t ∧ t.get Fld.TST_STATUS_INSTRUCTION = 0x02 ∧ t.body.plat.boundary = cells ∧ t.mem = s.mem ∧ t.led = s.led) ∧
  (∀ s enc, s.canonical → enc < 256 → ∃ t, exec (.tapBypass enc) s = .next t ∧ t.get Fld.TST_STATUS_INSTRUCTION = 0xFF ∧ t.body.plat.bypassBit = 0 ∧ t.mem = s.mem ∧ t.led = s.led) ∧
  (∀ s enc, enc < 255 → s.is Fld.TST_STATUS_LOCKED = true →
    exec (.tapBypass enc) s = .next (run (raise Blk.tst 1) (run (onPlat fun p => { p with bypassBit := 0 }) (run (setTap 0xFF) s)))) ∧
  (∀ s enc, s.canonical → 0x80 ≤ enc → enc ≤ 0x8F → bitsOf (s.get Fld.TST_STATUS_SCOPE) 0 1 = 1 → ∃ t, exec (.tapScanBist enc) s = .next t ∧ t.get Fld.TST_STATUS_INSTRUCTION = enc ∧ t.body = s.body ∧ t.mem = s.mem ∧ t.led = s.led) ∧
  (∀ s enc, 0x80 ≤ enc → enc ≤ 0x8F → bitsOf (s.get Fld.TST_STATUS_SCOPE) 0 1 = 0 → exec (.tapScanBist enc) s = .next (run (tapBypass enc) s)) ∧
  (∀ s enc, s.canonical → 0x90 ≤ enc → enc ≤ 0x9F → bitsOf (s.get Fld.TST_STATUS_SCOPE) 1 1 = 1 → ∃ t, exec (.tapCoreDebug enc) s = .next t ∧ t.get Fld.TST_STATUS_INSTRUCTION = enc ∧ t.body = s.body ∧ t.mem = s.mem ∧ t.led = s.led) ∧
  (∀ s enc, 0x90 ≤ enc → enc ≤ 0x9F → bitsOf (s.get Fld.TST_STATUS_SCOPE) 1 1 = 0 → exec (.tapCoreDebug enc) s = .next (run (tapBypass enc) s)) ∧
  (∀ s enc, s.canonical → 0xA0 ≤ enc → enc ≤ 0xA7 → bitsOf (s.get Fld.TST_STATUS_SCOPE) 2 1 = 1 → ∃ t, exec (.tapEfuseRead enc) s = .next t ∧ t.get Fld.TST_STATUS_INSTRUCTION = enc ∧ t.body = s.body ∧ t.mem = s.mem ∧ t.led = s.led) ∧
  (∀ s enc, 0xA0 ≤ enc → enc ≤ 0xA7 → bitsOf (s.get Fld.TST_STATUS_SCOPE) 2 1 = 0 → exec (.tapEfuseRead enc) s = .next (run (tapBypass enc) s)) ∧
  (∀ s, s.canonical → ∃ t, exec .trst s = .next t ∧ t.get Fld.TST_STATUS_INSTRUCTION = 0x01 ∧ t.body.plat.highZ = false ∧ t.mem = s.mem ∧ t.led = s.led) ∧
  (∀ s dyn, dyn < 128 → s.get Fld.PWR_STATUS_PF_STATE = 0 →
    ∃ t, exec (.i3cSetdasa (0x50 + s.get Fld.PWR_STRAPS_I3C_SA) dyn) s = .next t ∧ t.body.plat.i3cAddr = some dyn ∧ t.regs = s.regs ∧ t.mem = s.mem ∧ t.led = s.led) ∧
  (∀ s dyn, dyn < 128 → s.get Fld.PWR_STATUS_PF_STATE = 0 → s.body.plat.i3cAddr = none →
    ∃ t, exec (.i3cEntdaa dyn) s = .next t ∧ t.body.plat.i3cAddr = some dyn ∧ t.regs = s.regs ∧ t.mem = s.mem ∧ t.led = s.led) ∧
  (∀ s st dyn, s.get Fld.PWR_STATUS_PF_STATE ≠ 0 → exec (.i3cSetdasa st dyn) s = .next s ∧ exec (.i3cEntdaa dyn) s = .next s) ∧
  (∀ s, s.get Fld.PWR_STATUS_PF_STATE = 0 → s.body.plat.pinsTaken = false → secRuns s = true → exec .mctpCertificates s = .next (run (emit (.mctp St.ok certOutput)) s)) ∧
  (∀ s nonce, s.get Fld.PWR_STATUS_PF_STATE = 0 → s.body.plat.pinsTaken = false → secRuns s = true → quoteBlocked s = false → nonce.length = 32 →
    exec (.mctpQuote nonce) s = .next (run (emit (.mctp St.ok (quote s nonce))) (run (count Reg.SEC_QUOTES 1) (run drawFree s)))) ∧
  (∀ s, s.get Fld.PWR_STATUS_PF_STATE = 0 → s.body.plat.pinsTaken = false → mgmtRuns s = true → exec .mctpHealth s = .next (run (emit (.mctp St.ok (health s))) s)) ∧
  (∀ s, s.get Fld.PWR_STATUS_PF_STATE = 0 → s.body.plat.pinsTaken = false → mgmtRuns s = false → exec .mctpHealth s = .next (run (emit (.mctp St.busyRetry [])) s)) ∧
  (∀ s, s.get Fld.PWR_STATUS_PF_STATE = 0 → s.body.plat.pinsTaken = false → exec .mctpPowerStatus s = .next (run (emit (.mctp St.ok (powerStatus s))) s))

/-- After a full reset the registers hold the values of the register maps (here those of the Kennel, the islands, the Bark ring, the ledgers,
security, power, test and the host interface), no command waits, the memory lists nothing, the ledgers balance, the Bark ring is accounted,
and everything kept is in its canonical form. Reset values that the maps leave to the device are the model's (log entry 2) and are not
stated here. -/
def Obligations.ResetLeaves : Prop :=
  State.reset.get Fld.KNL_CTL_GC_LOW = 8 ∧ State.reset.get Fld.KNL_CTL_GC_CRIT = 3 ∧ State.reset.get Fld.KNL_CTL_WL_SPREAD = 512 ∧ State.reset.get Fld.KNL_CTL_SPARE_INIT = 36 ∧ State.reset.get Fld.KNL_CTL_SPARE_FLOOR = 18 ∧ State.reset.get Fld.ISL_CTL_IDLE_US = 10 ∧ State.reset.get Fld.ISL_STATUS_STANDBY_OK = 1 ∧ State.reset.get Fld.ISL_STATUS_CORES_OK = 20 ∧ State.reset.get Fld.BRK_CTL_RESERVE = 64 ∧ State.reset.get Fld.LDG_CTL_CHECK_MS = 1000 ∧ State.reset.get Fld.SEC_CTL_SEAL_DELAY_MS = 100 ∧ State.reset.get Fld.PWR_CTL_ALERT_C = 95 ∧ State.reset.get Fld.TST_STATUS_LOCKED = 1 ∧ State.reset.get Fld.TST_STATUS_INSTRUCTION = 1 ∧ State.reset.get Fld.PWR_STATUS_PF_STATE = 0 ∧ State.reset.get Fld.RQT_STATUS_HOME_MODE = 0 ∧ State.reset.get Fld.GLB_CFG_VER_RUNNING = 0 ∧ State.reset.get Fld.GLB_STATUS_FW_READY = 0 ∧ State.reset.get Fld.KNL_STATUS_STATE = 0 ∧
  (∀ a, State.reset.rd a = (regReset a).toNat) ∧ State.reset.pending = [] ∧ (∀ a, State.reset.byte a = memDefault a) ∧
  State.reset.led.balanced ∧ State.reset.bark.accounted ∧ State.reset.canonical

/-- From every state in which the six ledgers balance, every step that is answered leaves them balanced: link credits on chip and per port,
posted buffers, Collar tokens per tenant and kind, arrival increments, requests, and shared-page references. -/
def Obligations.LedgersBalance : Prop :=
  ∀ s t, s.led.balanced → step s = .next t → t.led.balanced

/-- From every state in which BRK_MADE = BRK_STORED + BRK_OVF_TOTAL and at most 4,096 records from the head on are stored, every step that is
answered leaves it so. -/
def Obligations.BarkStaysAccounted : Prop :=
  ∀ s t, s.bark.accounted → step s = .next t → t.bark.accounted

/-- The lists of memory bytes, registers and tenant-window counters keep their canonical form (addresses strictly rising, no entry equal to what
an unlisted one reads as), so that states that hold the same are equal. The form is the model's (log entries on memory). -/
def Obligations.CanonicalKept : Prop :=
  ∀ s t, s.canonical → step s = .next t → t.canonical

/-- A record of severity 0 or 1 is stored while more than RESERVE entries are free, one of severity 2 or 3 while any is; what cannot be stored
goes to its class area and to BRK_OVF_TOTAL and sets OVERFLOW; taking a reserved entry sets RESERVE_USED; BRK_MADE = BRK_STORED +
BRK_OVF_TOTAL is kept. BARK_ACK sets BRK_HEAD to the unique number from BRK_HEAD to BRK_STORED that is congruent to HEAD modulo 2^32; if
there is none, it completes with INVALID and the head stays. The head never moves back. -/
def Obligations.BarkRecordsAreKept : Prop :=
  (∀ (s : State) (r : BarkRec), barkFits s.bark (s.get Fld.BRK_CTL_RESERVE) r.severity = true ↔ (if r.severity ≤ 1 then s.get Fld.BRK_CTL_RESERVE + (s.bark.stored - s.bark.head) < 4096 else s.bark.stored - s.bark.head < 4096)) ∧
  (∀ (s : State) (r : BarkRec), barkFits s.bark (s.get Fld.BRK_CTL_RESERVE) r.severity = true → ∃ x, x.seq = s.bark.made ∧ x.cls = r.cls ∧ x.severity = r.severity ∧ x.flag = r.flag ∧ x.tick = s.body.tick ∧
    (run (eff (.bark r)) s).bark.stored = s.bark.stored + 1 ∧ (run (eff (.bark r)) s).bark.made = s.bark.made + 1 ∧ (run (eff (.bark r)) s).bark.ovf = s.bark.ovf ∧
    tget (run (eff (.bark r)) s).bark.ring (s.bark.stored % 4096) = some x) ∧
  (∀ (s : State) (r : BarkRec), barkFits s.bark (s.get Fld.BRK_CTL_RESERVE) r.severity = false →
    (run (eff (.bark r)) s).bark.stored = s.bark.stored ∧ (run (eff (.bark r)) s).bark.made = s.bark.made + 1 ∧ (run (eff (.bark r)) s).bark.ovf = s.bark.ovf + 1 ∧
    (run (eff (.bark r)) s).bark.ring = s.bark.ring ∧ (classGet (run (eff (.bark r)) s).bark r.cls).ovf = (classGet s.bark r.cls).ovf + 1) ∧
  (∀ (s : State) (r : BarkRec), s.canonical → barkFits s.bark (s.get Fld.BRK_CTL_RESERVE) r.severity = false → bitsOf ((run (eff (.bark r)) s).rd Reg.BRK_ERR_FLAGS) 0 1 = 1) ∧
  (∀ (s : State) (r : BarkRec), s.canonical → barkFits s.bark (s.get Fld.BRK_CTL_RESERVE) r.severity = true → 2 ≤ r.severity → 4096 ≤ s.get Fld.BRK_CTL_RESERVE + (s.bark.stored - s.bark.head) →
    bitsOf ((run (eff (.bark r)) s).rd Reg.BRK_ERR_FLAGS) 1 1 = 1) ∧
  (∀ (s : State) (r : BarkRec), s.bark.made = s.bark.stored + s.bark.ovf → (run (eff (.bark r)) s).bark.made = (run (eff (.bark r)) s).bark.stored + (run (eff (.bark r)) s).bark.ovf) ∧
  (∀ s src c u h, Runs s src 0x0702 c u → u.bark.head ≤ h → h ≤ u.bark.stored → h % 2 ^ 32 = c.arg 0 32 → h < u.bark.head + 2 ^ 32 →
    ∃ t, exec (.barkAck src) s = .next t ∧ t.bark.head = h ∧ t.bark.stored = u.bark.stored ∧ t.led = u.led) ∧
  (∀ s src c u, Runs s src 0x0702 c u → (∀ h, u.bark.head ≤ h → h ≤ u.bark.stored → h % 2 ^ 32 ≠ c.arg 0 32) → exec (.barkAck src) s = .next (run (finInvalid ⟨src, c.seq⟩ 0) u)) ∧
  (∀ s src c u t, Runs s src 0x0702 c u → exec (.barkAck src) s = .next t → u.bark.head ≤ t.bark.head)

/-- Where the six identities hold, MISMATCH is zero, the sums over the tenants of each kind balance too, and no LDG flag is set by an audit.
Where the requests do not balance modulo 2^64, bit 4 is set. -/
def Obligations.BalancedLedgersPassAudits : Prop :=
  (∀ l, l.balanced → mismatch l = 0) ∧
  (∀ l k, l.balanced → (collarSum l k).balanced) ∧
  (∀ s hold, s.led.balanced → (run (audit hold) s).rd Reg.LDG_ERR_FLAGS = s.rd Reg.LDG_ERR_FLAGS ∧ (run (audit hold) s).bark = s.bark) ∧
  (∀ l, l.admitted % 2 ^ 64 ≠ (l.closed + l.failed + l.live) % 2 ^ 64 → bitsOf (mismatch l) 4 1 = 1)

/-- After a power failure, after a thermal trip and while the pins are taken, every command but those of the pins, the supplies, the TAP, the
management bus and the Kennel's flush changes nothing. A command that names a unit or a value the device does not have, which nothing can
send, changes nothing (the model's choice, log entry 111). -/
def Obligations.StoppedAndIllFormed : Prop :=
  (∀ c s, runsStopped c = false → s.works = false → exec c s = .next s ∨ exec c s = .fault .outsideHostWindow) ∧
  (∀ c s, c.wf = false → exec c s = .next s) ∧
  (∀ c s r, exec c s ≠ .refused r)

/-- The rows of islands, pins, the TAP, temperatures, CXL reports, calibration and the like leave every byte of memory, every tenant-window
counter and every ledger as it was. A store writes its bytes at its address and leaves every other byte, every register and the rest of the
state as they were. -/
def Obligations.QuietRowsAndStores : Prop :=
  (∀ c s t, quietRow c = true → exec c s = .next t → t.mem = s.mem ∧ t.treg = s.treg ∧ t.led = s.led) ∧
  (∀ s a d, s.canonical → (∀ i, i < d.length → (run (store a d) s).byte (a + i) = d.getD i 0) ∧ (∀ b, b < a ∨ a + d.length ≤ b → (run (store a d) s).byte b = s.byte b) ∧
    (run (store a d) s).regs = s.regs ∧ (run (store a d) s).body = s.body ∧ (run (store a d) s).led = s.led) ∧
  (∀ s a n, s.canonical → (∀ i, i < n → (run (clearMem a n) s).byte (a + i) = memDefault (a + i)) ∧ (∀ b, b < a ∨ a + n ≤ b → (run (clearMem a n) s).byte b = s.byte b) ∧ (run (clearMem a n) s).regs = s.regs) ∧
  (∀ s a d, s.canonical → (run (store a d) s).bytes a d.length = d)
end

