-- ==== Sys2Proof/Laws/Bits.lean ====
section
/-! SUPPORT. Bit fields of words: reads after writes, and bounds. -/

namespace Sys2Proof

theorem bitsOf_lt (v lo w : Nat) : bitsOf v lo w < 2 ^ w := Nat.mod_lt _ (Nat.two_pow_pos w)

theorem bitsOf_mul_le (v lo w : Nat) : bitsOf v lo w * 2 ^ lo ≤ v := by
  unfold bitsOf
  calc v / 2 ^ lo % 2 ^ w * 2 ^ lo ≤ v / 2 ^ lo * 2 ^ lo := Nat.mul_le_mul_right _ (Nat.mod_le _ _)
    _ ≤ v := Nat.div_mul_le_self v _

theorem withBits_eq (v lo w x : Nat) : withBits v lo w x = v % 2 ^ lo + (x % 2 ^ w) * 2 ^ lo + v / 2 ^ (lo + w) * 2 ^ (lo + w) := by
  have h1 : v = v % 2 ^ lo + (v / 2 ^ lo % 2 ^ w) * 2 ^ lo + v / 2 ^ (lo + w) * 2 ^ (lo + w) := by
    conv => lhs; rw [← Nat.mod_add_div v (2 ^ lo), ← Nat.mod_add_div (v / 2 ^ lo) (2 ^ w), Nat.div_div_eq_div_mul, ← pow_add]
    rw [pow_add]; ring
  unfold withBits bitsOf
  generalize hb : v / 2 ^ lo % 2 ^ w * 2 ^ lo = b at *
  omega

/-- A field reads back what was written to it. -/
theorem bitsOf_withBits_same (v lo w x : Nat) : bitsOf (withBits v lo w x) lo w = x % 2 ^ w := by
  rw [withBits_eq]
  unfold bitsOf
  have h1 : v % 2 ^ lo + x % 2 ^ w * 2 ^ lo + v / 2 ^ (lo + w) * 2 ^ (lo + w)
      = v % 2 ^ lo + (x % 2 ^ w + v / 2 ^ (lo + w) * 2 ^ w) * 2 ^ lo := by rw [pow_add]; ring
  rw [h1, Nat.add_mul_div_right _ _ (Nat.two_pow_pos lo), Nat.div_eq_of_lt (Nat.mod_lt _ (Nat.two_pow_pos lo)), Nat.zero_add,
      Nat.add_mul_mod_self_right, Nat.mod_mod]

/-- Writing a field leaves the fields beside it. -/
theorem bitsOf_withBits_low {v lo w x lo' w' : Nat} (h : lo' + w' ≤ lo) : bitsOf (withBits v lo w x) lo' w' = bitsOf v lo' w' := by
  obtain ⟨k, rfl⟩ := Nat.exists_eq_add_of_le h
  have hv : ∀ y, bitsOf y lo' w' = y % 2 ^ (lo' + w') / 2 ^ lo' := by
    intro y; unfold bitsOf; rw [pow_add, Nat.mod_mul_right_div_self]
  rw [hv, hv, withBits_eq]
  congr 1
  have h2 : v % 2 ^ (lo' + w' + k) + x % 2 ^ w * 2 ^ (lo' + w' + k) + v / 2 ^ (lo' + w' + k + w) * 2 ^ (lo' + w' + k + w)
      = v % 2 ^ (lo' + w' + k) + 2 ^ (lo' + w') * (x % 2 ^ w * 2 ^ k + v / 2 ^ (lo' + w' + k + w) * (2 ^ k * 2 ^ w)) := by
    simp only [pow_add]; ring
  rw [h2, Nat.add_mul_mod_self_left, Nat.mod_mod_of_dvd _ (pow_dvd_pow 2 (by omega))]

theorem bitsOf_withBits_high {v lo w x lo' w' : Nat} (h : lo + w ≤ lo') : bitsOf (withBits v lo w x) lo' w' = bitsOf v lo' w' := by
  obtain ⟨k, rfl⟩ := Nat.exists_eq_add_of_le h
  unfold bitsOf
  congr 1
  have hd : ∀ y, y / 2 ^ (lo + w + k) = y / 2 ^ (lo + w) / 2 ^ k := by intro y; rw [pow_add, Nat.div_div_eq_div_mul]
  rw [hd, hd, withBits_eq]
  congr 1
  have hlt : v % 2 ^ lo + x % 2 ^ w * 2 ^ lo < 2 ^ (lo + w) := by
    have h1 := Nat.mod_lt v (Nat.two_pow_pos lo)
    have h2 := Nat.mod_lt x (Nat.two_pow_pos w)
    have h3 : x % 2 ^ w * 2 ^ lo ≤ (2 ^ w - 1) * 2 ^ lo := Nat.mul_le_mul_right _ (by omega)
    have h4 : (2 ^ w - 1) * 2 ^ lo + 2 ^ lo = 2 ^ (lo + w) := by
      rw [pow_add, Nat.mul_comm (2 ^ lo), ← Nat.succ_mul]
      congr 1
      have := Nat.two_pow_pos w
      omega
    omega
  rw [Nat.add_mul_div_right _ _ (Nat.two_pow_pos _), Nat.div_eq_of_lt hlt, Nat.zero_add]

theorem withBits_lt {v lo w x n : Nat} (hv : v < 2 ^ n) (h : lo + w ≤ n) : withBits v lo w x < 2 ^ n := by
  have h0 := bitsOf_mul_le v lo w
  rw [withBits_eq]
  have h1 := Nat.mod_lt v (Nat.two_pow_pos lo)
  have h2 := Nat.mod_lt x (Nat.two_pow_pos w)
  have h3 : x % 2 ^ w * 2 ^ lo ≤ (2 ^ w - 1) * 2 ^ lo := Nat.mul_le_mul_right _ (by omega)
  have h4 : (2 ^ w - 1) * 2 ^ lo + 2 ^ lo = 2 ^ (lo + w) := by
    rw [pow_add, Nat.mul_comm (2 ^ lo), ← Nat.succ_mul]
    congr 1
    have := Nat.two_pow_pos w
    omega
  obtain ⟨k, rfl⟩ := Nat.exists_eq_add_of_le h
  have h5 : v / 2 ^ (lo + w) < 2 ^ k := by
    rw [Nat.div_lt_iff_lt_mul (Nat.two_pow_pos _), ← pow_add, Nat.add_comm k]; exact hv
  have h6 : v / 2 ^ (lo + w) * 2 ^ (lo + w) ≤ (2 ^ k - 1) * 2 ^ (lo + w) := Nat.mul_le_mul_right _ (by omega)
  have h7 : (2 ^ k - 1) * 2 ^ (lo + w) + 2 ^ (lo + w) = 2 ^ (lo + w + k) := by
    rw [pow_add 2 (lo + w) k, Nat.mul_comm (2 ^ (lo + w)), ← Nat.succ_mul]
    congr 1
    have := Nat.two_pow_pos k
    omega
  omega

end Sys2Proof
end

