-- ==== Sys2Proof/Laws/State.lean ====
section
/-! SUPPORT. What each effect leaves alone, field by field: no later proof unfolds applyEff to see that a field is kept.
Each is true by rfl; declared by simp, it is rewritten with, and the kernel is never asked to compare two states by unfolding. -/

namespace Sys2Proof.Machine

@[simp] theorem applyEff_body_regs (f : Body → Body) (s : State) : (applyEff (.body f) s).regs = s.regs := by simp only [applyEff]
@[simp] theorem applyEff_body_treg (f : Body → Body) (s : State) : (applyEff (.body f) s).treg = s.treg := by simp only [applyEff]
@[simp] theorem applyEff_body_mem (f : Body → Body) (s : State) : (applyEff (.body f) s).mem = s.mem := by simp only [applyEff]
@[simp] theorem applyEff_body_led (f : Body → Body) (s : State) : (applyEff (.body f) s).led = s.led := by simp only [applyEff]
@[simp] theorem applyEff_body_bark (f : Body → Body) (s : State) : (applyEff (.body f) s).bark = s.bark := by simp only [applyEff]
@[simp] theorem applyEff_body_pending (f : Body → Body) (s : State) : (applyEff (.body f) s).pending = s.pending := by simp only [applyEff]
@[simp] theorem applyEff_reg_treg (a v : Nat) (s : State) : (applyEff (.reg a v) s).treg = s.treg := by simp only [applyEff]
@[simp] theorem applyEff_reg_mem (a v : Nat) (s : State) : (applyEff (.reg a v) s).mem = s.mem := by simp only [applyEff]
@[simp] theorem applyEff_reg_led (a v : Nat) (s : State) : (applyEff (.reg a v) s).led = s.led := by simp only [applyEff]
@[simp] theorem applyEff_reg_bark (a v : Nat) (s : State) : (applyEff (.reg a v) s).bark = s.bark := by simp only [applyEff]
@[simp] theorem applyEff_reg_body (a v : Nat) (s : State) : (applyEff (.reg a v) s).body = s.body := by simp only [applyEff]
@[simp] theorem applyEff_reg_pending (a v : Nat) (s : State) : (applyEff (.reg a v) s).pending = s.pending := by simp only [applyEff]
@[simp] theorem applyEff_treg_regs (k v : Nat) (s : State) : (applyEff (.treg k v) s).regs = s.regs := by simp only [applyEff]
@[simp] theorem applyEff_treg_mem (k v : Nat) (s : State) : (applyEff (.treg k v) s).mem = s.mem := by simp only [applyEff]
@[simp] theorem applyEff_treg_led (k v : Nat) (s : State) : (applyEff (.treg k v) s).led = s.led := by simp only [applyEff]
@[simp] theorem applyEff_treg_bark (k v : Nat) (s : State) : (applyEff (.treg k v) s).bark = s.bark := by simp only [applyEff]
@[simp] theorem applyEff_treg_body (k v : Nat) (s : State) : (applyEff (.treg k v) s).body = s.body := by simp only [applyEff]
@[simp] theorem applyEff_treg_pending (k v : Nat) (s : State) : (applyEff (.treg k v) s).pending = s.pending := by simp only [applyEff]
@[simp] theorem applyEff_mem_regs (a : Nat) (v : Byte) (s : State) : (applyEff (.mem a v) s).regs = s.regs := by simp only [applyEff]
@[simp] theorem applyEff_mem_treg (a : Nat) (v : Byte) (s : State) : (applyEff (.mem a v) s).treg = s.treg := by simp only [applyEff]
@[simp] theorem applyEff_mem_led (a : Nat) (v : Byte) (s : State) : (applyEff (.mem a v) s).led = s.led := by simp only [applyEff]
@[simp] theorem applyEff_mem_bark (a : Nat) (v : Byte) (s : State) : (applyEff (.mem a v) s).bark = s.bark := by simp only [applyEff]
@[simp] theorem applyEff_mem_body (a : Nat) (v : Byte) (s : State) : (applyEff (.mem a v) s).body = s.body := by simp only [applyEff]
@[simp] theorem applyEff_mem_pending (a : Nat) (v : Byte) (s : State) : (applyEff (.mem a v) s).pending = s.pending := by simp only [applyEff]
@[simp] theorem applyEff_memClear_regs (a n : Nat) (s : State) : (applyEff (.memClear a n) s).regs = s.regs := by simp only [applyEff]
@[simp] theorem applyEff_memClear_treg (a n : Nat) (s : State) : (applyEff (.memClear a n) s).treg = s.treg := by simp only [applyEff]
@[simp] theorem applyEff_memClear_led (a n : Nat) (s : State) : (applyEff (.memClear a n) s).led = s.led := by simp only [applyEff]
@[simp] theorem applyEff_memClear_bark (a n : Nat) (s : State) : (applyEff (.memClear a n) s).bark = s.bark := by simp only [applyEff]
@[simp] theorem applyEff_memClear_body (a n : Nat) (s : State) : (applyEff (.memClear a n) s).body = s.body := by simp only [applyEff]
@[simp] theorem applyEff_memClear_pending (a n : Nat) (s : State) : (applyEff (.memClear a n) s).pending = s.pending := by simp only [applyEff]
@[simp] theorem applyEff_memCopy_regs (a b n : Nat) (s : State) : (applyEff (.memCopy a b n) s).regs = s.regs := by simp only [applyEff]
@[simp] theorem applyEff_memCopy_treg (a b n : Nat) (s : State) : (applyEff (.memCopy a b n) s).treg = s.treg := by simp only [applyEff]
@[simp] theorem applyEff_memCopy_led (a b n : Nat) (s : State) : (applyEff (.memCopy a b n) s).led = s.led := by simp only [applyEff]
@[simp] theorem applyEff_memCopy_bark (a b n : Nat) (s : State) : (applyEff (.memCopy a b n) s).bark = s.bark := by simp only [applyEff]
@[simp] theorem applyEff_memCopy_body (a b n : Nat) (s : State) : (applyEff (.memCopy a b n) s).body = s.body := by simp only [applyEff]
@[simp] theorem applyEff_memCopy_pending (a b n : Nat) (s : State) : (applyEff (.memCopy a b n) s).pending = s.pending := by simp only [applyEff]
@[simp] theorem applyEff_bark_treg (r : BarkRec) (s : State) : (applyEff (.bark r) s).treg = s.treg := by simp only [applyEff, barkEff]
@[simp] theorem applyEff_bark_mem (r : BarkRec) (s : State) : (applyEff (.bark r) s).mem = s.mem := by simp only [applyEff, barkEff]
@[simp] theorem applyEff_bark_led (r : BarkRec) (s : State) : (applyEff (.bark r) s).led = s.led := by simp only [applyEff, barkEff]
@[simp] theorem applyEff_bark_pending (r : BarkRec) (s : State) : (applyEff (.bark r) s).pending = s.pending := by simp only [applyEff, barkEff]
@[simp] theorem applyEff_barkHead_regs (h : Nat) (s : State) : (applyEff (.barkHead h) s).regs = s.regs := by
  simp only [applyEff]; split <;> rfl
@[simp] theorem applyEff_barkHead_treg (h : Nat) (s : State) : (applyEff (.barkHead h) s).treg = s.treg := by
  simp only [applyEff]; split <;> rfl
@[simp] theorem applyEff_barkHead_mem (h : Nat) (s : State) : (applyEff (.barkHead h) s).mem = s.mem := by
  simp only [applyEff]; split <;> rfl
@[simp] theorem applyEff_barkHead_led (h : Nat) (s : State) : (applyEff (.barkHead h) s).led = s.led := by
  simp only [applyEff]; split <;> rfl
@[simp] theorem applyEff_barkHead_body (h : Nat) (s : State) : (applyEff (.barkHead h) s).body = s.body := by
  simp only [applyEff]; split <;> rfl
@[simp] theorem applyEff_barkHead_pending (h : Nat) (s : State) : (applyEff (.barkHead h) s).pending = s.pending := by
  simp only [applyEff]; split <;> rfl
@[simp] theorem applyEff_barkRearm_regs (m : Nat) (s : State) : (applyEff (.barkRearm m) s).regs = s.regs := by simp only [applyEff]
@[simp] theorem applyEff_barkRearm_treg (m : Nat) (s : State) : (applyEff (.barkRearm m) s).treg = s.treg := by simp only [applyEff]
@[simp] theorem applyEff_barkRearm_mem (m : Nat) (s : State) : (applyEff (.barkRearm m) s).mem = s.mem := by simp only [applyEff]
@[simp] theorem applyEff_barkRearm_led (m : Nat) (s : State) : (applyEff (.barkRearm m) s).led = s.led := by simp only [applyEff]
@[simp] theorem applyEff_barkRearm_body (m : Nat) (s : State) : (applyEff (.barkRearm m) s).body = s.body := by simp only [applyEff]
@[simp] theorem applyEff_barkRearm_pending (m : Nat) (s : State) : (applyEff (.barkRearm m) s).pending = s.pending := by simp only [applyEff]
@[simp] theorem applyEff_barkWindow_regs (o p : Bool) (s : State) : (applyEff (.barkWindow o p) s).regs = s.regs := by simp only [applyEff]
@[simp] theorem applyEff_barkWindow_treg (o p : Bool) (s : State) : (applyEff (.barkWindow o p) s).treg = s.treg := by simp only [applyEff]
@[simp] theorem applyEff_barkWindow_mem (o p : Bool) (s : State) : (applyEff (.barkWindow o p) s).mem = s.mem := by simp only [applyEff]
@[simp] theorem applyEff_barkWindow_led (o p : Bool) (s : State) : (applyEff (.barkWindow o p) s).led = s.led := by simp only [applyEff]
@[simp] theorem applyEff_barkWindow_body (o p : Bool) (s : State) : (applyEff (.barkWindow o p) s).body = s.body := by simp only [applyEff]
@[simp] theorem applyEff_barkWindow_pending (o p : Bool) (s : State) : (applyEff (.barkWindow o p) s).pending = s.pending := by simp only [applyEff]
@[simp] theorem applyEff_reqAdmit_regs (s : State) : (applyEff .reqAdmit s).regs = s.regs := by simp only [applyEff]
@[simp] theorem applyEff_reqAdmit_treg (s : State) : (applyEff .reqAdmit s).treg = s.treg := by simp only [applyEff]
@[simp] theorem applyEff_reqAdmit_mem (s : State) : (applyEff .reqAdmit s).mem = s.mem := by simp only [applyEff]
@[simp] theorem applyEff_reqAdmit_bark (s : State) : (applyEff .reqAdmit s).bark = s.bark := by simp only [applyEff]
@[simp] theorem applyEff_reqAdmit_body (s : State) : (applyEff .reqAdmit s).body = s.body := by simp only [applyEff]
@[simp] theorem applyEff_reqAdmit_pending (s : State) : (applyEff .reqAdmit s).pending = s.pending := by simp only [applyEff]
@[simp] theorem applyEff_reqClose_regs (s : State) : (applyEff .reqClose s).regs = s.regs := by
  simp only [applyEff]; split <;> rfl
@[simp] theorem applyEff_reqClose_treg (s : State) : (applyEff .reqClose s).treg = s.treg := by
  simp only [applyEff]; split <;> rfl
@[simp] theorem applyEff_reqClose_mem (s : State) : (applyEff .reqClose s).mem = s.mem := by
  simp only [applyEff]; split <;> rfl
@[simp] theorem applyEff_reqClose_bark (s : State) : (applyEff .reqClose s).bark = s.bark := by
  simp only [applyEff]; split <;> rfl
@[simp] theorem applyEff_reqClose_body (s : State) : (applyEff .reqClose s).body = s.body := by
  simp only [applyEff]; split <;> rfl
@[simp] theorem applyEff_reqClose_pending (s : State) : (applyEff .reqClose s).pending = s.pending := by
  simp only [applyEff]; split <;> rfl
@[simp] theorem applyEff_reqFail_regs (s : State) : (applyEff .reqFail s).regs = s.regs := by
  simp only [applyEff]; split <;> rfl
@[simp] theorem applyEff_reqFail_treg (s : State) : (applyEff .reqFail s).treg = s.treg := by
  simp only [applyEff]; split <;> rfl
@[simp] theorem applyEff_reqFail_mem (s : State) : (applyEff .reqFail s).mem = s.mem := by
  simp only [applyEff]; split <;> rfl
@[simp] theorem applyEff_reqFail_bark (s : State) : (applyEff .reqFail s).bark = s.bark := by
  simp only [applyEff]; split <;> rfl
@[simp] theorem applyEff_reqFail_body (s : State) : (applyEff .reqFail s).body = s.body := by
  simp only [applyEff]; split <;> rfl
@[simp] theorem applyEff_reqFail_pending (s : State) : (applyEff .reqFail s).pending = s.pending := by
  simp only [applyEff]; split <;> rfl
@[simp] theorem applyEff_bufPost_regs (s : State) : (applyEff .bufPost s).regs = s.regs := by simp only [applyEff]
@[simp] theorem applyEff_bufPost_treg (s : State) : (applyEff .bufPost s).treg = s.treg := by simp only [applyEff]
@[simp] theorem applyEff_bufPost_mem (s : State) : (applyEff .bufPost s).mem = s.mem := by simp only [applyEff]
@[simp] theorem applyEff_bufPost_bark (s : State) : (applyEff .bufPost s).bark = s.bark := by simp only [applyEff]
@[simp] theorem applyEff_bufPost_body (s : State) : (applyEff .bufPost s).body = s.body := by simp only [applyEff]
@[simp] theorem applyEff_bufPost_pending (s : State) : (applyEff .bufPost s).pending = s.pending := by simp only [applyEff]
@[simp] theorem applyEff_bufDone_regs (s : State) : (applyEff .bufDone s).regs = s.regs := by
  simp only [applyEff]; split <;> rfl
@[simp] theorem applyEff_bufDone_treg (s : State) : (applyEff .bufDone s).treg = s.treg := by
  simp only [applyEff]; split <;> rfl
@[simp] theorem applyEff_bufDone_mem (s : State) : (applyEff .bufDone s).mem = s.mem := by
  simp only [applyEff]; split <;> rfl
@[simp] theorem applyEff_bufDone_bark (s : State) : (applyEff .bufDone s).bark = s.bark := by
  simp only [applyEff]; split <;> rfl
@[simp] theorem applyEff_bufDone_body (s : State) : (applyEff .bufDone s).body = s.body := by
  simp only [applyEff]; split <;> rfl
@[simp] theorem applyEff_bufDone_pending (s : State) : (applyEff .bufDone s).pending = s.pending := by
  simp only [applyEff]; split <;> rfl
@[simp] theorem applyEff_bufWithdraw_regs (s : State) : (applyEff .bufWithdraw s).regs = s.regs := by
  simp only [applyEff]; split <;> rfl
@[simp] theorem applyEff_bufWithdraw_treg (s : State) : (applyEff .bufWithdraw s).treg = s.treg := by
  simp only [applyEff]; split <;> rfl
@[simp] theorem applyEff_bufWithdraw_mem (s : State) : (applyEff .bufWithdraw s).mem = s.mem := by
  simp only [applyEff]; split <;> rfl
@[simp] theorem applyEff_bufWithdraw_bark (s : State) : (applyEff .bufWithdraw s).bark = s.bark := by
  simp only [applyEff]; split <;> rfl
@[simp] theorem applyEff_bufWithdraw_body (s : State) : (applyEff .bufWithdraw s).body = s.body := by
  simp only [applyEff]; split <;> rfl
@[simp] theorem applyEff_bufWithdraw_pending (s : State) : (applyEff .bufWithdraw s).pending = s.pending := by
  simp only [applyEff]; split <;> rfl
@[simp] theorem applyEff_credIssue_regs (p : Option Nat) (n : Nat) (s : State) : (applyEff (.credIssue p n) s).regs = s.regs := by simp only [applyEff]
@[simp] theorem applyEff_credIssue_treg (p : Option Nat) (n : Nat) (s : State) : (applyEff (.credIssue p n) s).treg = s.treg := by simp only [applyEff]
@[simp] theorem applyEff_credIssue_mem (p : Option Nat) (n : Nat) (s : State) : (applyEff (.credIssue p n) s).mem = s.mem := by simp only [applyEff]
@[simp] theorem applyEff_credIssue_bark (p : Option Nat) (n : Nat) (s : State) : (applyEff (.credIssue p n) s).bark = s.bark := by simp only [applyEff]
@[simp] theorem applyEff_credIssue_body (p : Option Nat) (n : Nat) (s : State) : (applyEff (.credIssue p n) s).body = s.body := by simp only [applyEff]
@[simp] theorem applyEff_credIssue_pending (p : Option Nat) (n : Nat) (s : State) : (applyEff (.credIssue p n) s).pending = s.pending := by simp only [applyEff]
@[simp] theorem applyEff_credReturn_regs (p : Option Nat) (n : Nat) (s : State) : (applyEff (.credReturn p n) s).regs = s.regs := by simp only [applyEff]
@[simp] theorem applyEff_credReturn_treg (p : Option Nat) (n : Nat) (s : State) : (applyEff (.credReturn p n) s).treg = s.treg := by simp only [applyEff]
@[simp] theorem applyEff_credReturn_mem (p : Option Nat) (n : Nat) (s : State) : (applyEff (.credReturn p n) s).mem = s.mem := by simp only [applyEff]
@[simp] theorem applyEff_credReturn_bark (p : Option Nat) (n : Nat) (s : State) : (applyEff (.credReturn p n) s).bark = s.bark := by simp only [applyEff]
@[simp] theorem applyEff_credReturn_body (p : Option Nat) (n : Nat) (s : State) : (applyEff (.credReturn p n) s).body = s.body := by simp only [applyEff]
@[simp] theorem applyEff_credReturn_pending (p : Option Nat) (n : Nat) (s : State) : (applyEff (.credReturn p n) s).pending = s.pending := by simp only [applyEff]
@[simp] theorem applyEff_credFlush_regs (p : Option Nat) (n : Nat) (s : State) : (applyEff (.credFlush p n) s).regs = s.regs := by simp only [applyEff]
@[simp] theorem applyEff_credFlush_treg (p : Option Nat) (n : Nat) (s : State) : (applyEff (.credFlush p n) s).treg = s.treg := by simp only [applyEff]
@[simp] theorem applyEff_credFlush_mem (p : Option Nat) (n : Nat) (s : State) : (applyEff (.credFlush p n) s).mem = s.mem := by simp only [applyEff]
@[simp] theorem applyEff_credFlush_bark (p : Option Nat) (n : Nat) (s : State) : (applyEff (.credFlush p n) s).bark = s.bark := by simp only [applyEff]
@[simp] theorem applyEff_credFlush_body (p : Option Nat) (n : Nat) (s : State) : (applyEff (.credFlush p n) s).body = s.body := by simp only [applyEff]
@[simp] theorem applyEff_credFlush_pending (p : Option Nat) (n : Nat) (s : State) : (applyEff (.credFlush p n) s).pending = s.pending := by simp only [applyEff]
@[simp] theorem applyEff_colGrant_regs (k n : Nat) (s : State) : (applyEff (.colGrant k n) s).regs = s.regs := by simp only [applyEff]
@[simp] theorem applyEff_colGrant_treg (k n : Nat) (s : State) : (applyEff (.colGrant k n) s).treg = s.treg := by simp only [applyEff]
@[simp] theorem applyEff_colGrant_mem (k n : Nat) (s : State) : (applyEff (.colGrant k n) s).mem = s.mem := by simp only [applyEff]
@[simp] theorem applyEff_colGrant_bark (k n : Nat) (s : State) : (applyEff (.colGrant k n) s).bark = s.bark := by simp only [applyEff]
@[simp] theorem applyEff_colGrant_body (k n : Nat) (s : State) : (applyEff (.colGrant k n) s).body = s.body := by simp only [applyEff]
@[simp] theorem applyEff_colGrant_pending (k n : Nat) (s : State) : (applyEff (.colGrant k n) s).pending = s.pending := by simp only [applyEff]
@[simp] theorem applyEff_colExpire_regs (k n : Nat) (s : State) : (applyEff (.colExpire k n) s).regs = s.regs := by simp only [applyEff]
@[simp] theorem applyEff_colExpire_treg (k n : Nat) (s : State) : (applyEff (.colExpire k n) s).treg = s.treg := by simp only [applyEff]
@[simp] theorem applyEff_colExpire_mem (k n : Nat) (s : State) : (applyEff (.colExpire k n) s).mem = s.mem := by simp only [applyEff]
@[simp] theorem applyEff_colExpire_bark (k n : Nat) (s : State) : (applyEff (.colExpire k n) s).bark = s.bark := by simp only [applyEff]
@[simp] theorem applyEff_colExpire_body (k n : Nat) (s : State) : (applyEff (.colExpire k n) s).body = s.body := by simp only [applyEff]
@[simp] theorem applyEff_colExpire_pending (k n : Nat) (s : State) : (applyEff (.colExpire k n) s).pending = s.pending := by simp only [applyEff]
@[simp] theorem applyEff_colReserve_regs (k n : Nat) (s : State) : (applyEff (.colReserve k n) s).regs = s.regs := by simp only [applyEff]
@[simp] theorem applyEff_colReserve_treg (k n : Nat) (s : State) : (applyEff (.colReserve k n) s).treg = s.treg := by simp only [applyEff]
@[simp] theorem applyEff_colReserve_mem (k n : Nat) (s : State) : (applyEff (.colReserve k n) s).mem = s.mem := by simp only [applyEff]
@[simp] theorem applyEff_colReserve_bark (k n : Nat) (s : State) : (applyEff (.colReserve k n) s).bark = s.bark := by simp only [applyEff]
@[simp] theorem applyEff_colReserve_body (k n : Nat) (s : State) : (applyEff (.colReserve k n) s).body = s.body := by simp only [applyEff]
@[simp] theorem applyEff_colReserve_pending (k n : Nat) (s : State) : (applyEff (.colReserve k n) s).pending = s.pending := by simp only [applyEff]
@[simp] theorem applyEff_colRelease_regs (k n : Nat) (s : State) : (applyEff (.colRelease k n) s).regs = s.regs := by simp only [applyEff]
@[simp] theorem applyEff_colRelease_treg (k n : Nat) (s : State) : (applyEff (.colRelease k n) s).treg = s.treg := by simp only [applyEff]
@[simp] theorem applyEff_colRelease_mem (k n : Nat) (s : State) : (applyEff (.colRelease k n) s).mem = s.mem := by simp only [applyEff]
@[simp] theorem applyEff_colRelease_bark (k n : Nat) (s : State) : (applyEff (.colRelease k n) s).bark = s.bark := by simp only [applyEff]
@[simp] theorem applyEff_colRelease_body (k n : Nat) (s : State) : (applyEff (.colRelease k n) s).body = s.body := by simp only [applyEff]
@[simp] theorem applyEff_colRelease_pending (k n : Nat) (s : State) : (applyEff (.colRelease k n) s).pending = s.pending := by simp only [applyEff]
@[simp] theorem applyEff_colExpireReserved_regs (k n : Nat) (s : State) : (applyEff (.colExpireReserved k n) s).regs = s.regs := by simp only [applyEff]
@[simp] theorem applyEff_colExpireReserved_treg (k n : Nat) (s : State) : (applyEff (.colExpireReserved k n) s).treg = s.treg := by simp only [applyEff]
@[simp] theorem applyEff_colExpireReserved_mem (k n : Nat) (s : State) : (applyEff (.colExpireReserved k n) s).mem = s.mem := by simp only [applyEff]
@[simp] theorem applyEff_colExpireReserved_bark (k n : Nat) (s : State) : (applyEff (.colExpireReserved k n) s).bark = s.bark := by simp only [applyEff]
@[simp] theorem applyEff_colExpireReserved_body (k n : Nat) (s : State) : (applyEff (.colExpireReserved k n) s).body = s.body := by simp only [applyEff]
@[simp] theorem applyEff_colExpireReserved_pending (k n : Nat) (s : State) : (applyEff (.colExpireReserved k n) s).pending = s.pending := by simp only [applyEff]
@[simp] theorem applyEff_colSpendReserved_regs (k n : Nat) (s : State) : (applyEff (.colSpendReserved k n) s).regs = s.regs := by simp only [applyEff]
@[simp] theorem applyEff_colSpendReserved_treg (k n : Nat) (s : State) : (applyEff (.colSpendReserved k n) s).treg = s.treg := by simp only [applyEff]
@[simp] theorem applyEff_colSpendReserved_mem (k n : Nat) (s : State) : (applyEff (.colSpendReserved k n) s).mem = s.mem := by simp only [applyEff]
@[simp] theorem applyEff_colSpendReserved_bark (k n : Nat) (s : State) : (applyEff (.colSpendReserved k n) s).bark = s.bark := by simp only [applyEff]
@[simp] theorem applyEff_colSpendReserved_body (k n : Nat) (s : State) : (applyEff (.colSpendReserved k n) s).body = s.body := by simp only [applyEff]
@[simp] theorem applyEff_colSpendReserved_pending (k n : Nat) (s : State) : (applyEff (.colSpendReserved k n) s).pending = s.pending := by simp only [applyEff]
@[simp] theorem applyEff_colSpendBalance_regs (k n : Nat) (s : State) : (applyEff (.colSpendBalance k n) s).regs = s.regs := by simp only [applyEff]
@[simp] theorem applyEff_colSpendBalance_treg (k n : Nat) (s : State) : (applyEff (.colSpendBalance k n) s).treg = s.treg := by simp only [applyEff]
@[simp] theorem applyEff_colSpendBalance_mem (k n : Nat) (s : State) : (applyEff (.colSpendBalance k n) s).mem = s.mem := by simp only [applyEff]
@[simp] theorem applyEff_colSpendBalance_bark (k n : Nat) (s : State) : (applyEff (.colSpendBalance k n) s).bark = s.bark := by simp only [applyEff]
@[simp] theorem applyEff_colSpendBalance_body (k n : Nat) (s : State) : (applyEff (.colSpendBalance k n) s).body = s.body := by simp only [applyEff]
@[simp] theorem applyEff_colSpendBalance_pending (k n : Nat) (s : State) : (applyEff (.colSpendBalance k n) s).pending = s.pending := by simp only [applyEff]
@[simp] theorem applyEff_arrive_regs (src : ArriveSrc) (s : State) : (applyEff (.arrive src) s).regs = s.regs := by simp only [applyEff]
@[simp] theorem applyEff_arrive_treg (src : ArriveSrc) (s : State) : (applyEff (.arrive src) s).treg = s.treg := by simp only [applyEff]
@[simp] theorem applyEff_arrive_mem (src : ArriveSrc) (s : State) : (applyEff (.arrive src) s).mem = s.mem := by simp only [applyEff]
@[simp] theorem applyEff_arrive_bark (src : ArriveSrc) (s : State) : (applyEff (.arrive src) s).bark = s.bark := by simp only [applyEff]
@[simp] theorem applyEff_arrive_body (src : ArriveSrc) (s : State) : (applyEff (.arrive src) s).body = s.body := by simp only [applyEff]
@[simp] theorem applyEff_arrive_pending (src : ArriveSrc) (s : State) : (applyEff (.arrive src) s).pending = s.pending := by simp only [applyEff]
@[simp] theorem applyEff_refTake_regs (n : Nat) (s : State) : (applyEff (.refTake n) s).regs = s.regs := by simp only [applyEff]
@[simp] theorem applyEff_refTake_treg (n : Nat) (s : State) : (applyEff (.refTake n) s).treg = s.treg := by simp only [applyEff]
@[simp] theorem applyEff_refTake_mem (n : Nat) (s : State) : (applyEff (.refTake n) s).mem = s.mem := by simp only [applyEff]
@[simp] theorem applyEff_refTake_bark (n : Nat) (s : State) : (applyEff (.refTake n) s).bark = s.bark := by simp only [applyEff]
@[simp] theorem applyEff_refTake_body (n : Nat) (s : State) : (applyEff (.refTake n) s).body = s.body := by simp only [applyEff]
@[simp] theorem applyEff_refTake_pending (n : Nat) (s : State) : (applyEff (.refTake n) s).pending = s.pending := by simp only [applyEff]
@[simp] theorem applyEff_refDrop_regs (n : Nat) (s : State) : (applyEff (.refDrop n) s).regs = s.regs := by simp only [applyEff]
@[simp] theorem applyEff_refDrop_treg (n : Nat) (s : State) : (applyEff (.refDrop n) s).treg = s.treg := by simp only [applyEff]
@[simp] theorem applyEff_refDrop_mem (n : Nat) (s : State) : (applyEff (.refDrop n) s).mem = s.mem := by simp only [applyEff]
@[simp] theorem applyEff_refDrop_bark (n : Nat) (s : State) : (applyEff (.refDrop n) s).bark = s.bark := by simp only [applyEff]
@[simp] theorem applyEff_refDrop_body (n : Nat) (s : State) : (applyEff (.refDrop n) s).body = s.body := by simp only [applyEff]
@[simp] theorem applyEff_refDrop_pending (n : Nat) (s : State) : (applyEff (.refDrop n) s).pending = s.pending := by simp only [applyEff]
@[simp] theorem applyEff_restart_pending (f : Body → Body) (s : State) : (applyEff (.restart f) s).pending = s.pending := by simp only [applyEff]

/-! ### What the plain effects write -/

@[simp] theorem applyEff_body_body (f : Body → Body) (s : State) : (applyEff (.body f) s).body = f s.body := by simp only [applyEff]
@[simp] theorem applyEff_reg_regs (a v : Nat) (s : State) : (applyEff (.reg a v) s).regs = regPut s.regs a v := by simp only [applyEff]
@[simp] theorem applyEff_treg_treg (k v : Nat) (s : State) : (applyEff (.treg k v) s).treg = tregPut s.treg k v := by simp only [applyEff]
@[simp] theorem applyEff_mem_mem (a : Nat) (v : Byte) (s : State) : (applyEff (.mem a v) s).mem = memPut s.mem a v := by simp only [applyEff]
@[simp] theorem applyEff_memClear_mem (a n : Nat) (s : State) : (applyEff (.memClear a n) s).mem = memDrop s.mem a n := by simp only [applyEff]
@[simp] theorem applyEff_memCopy_mem (a b n : Nat) (s : State) : (applyEff (.memCopy a b n) s).mem = memMove s.mem a b n := by simp only [applyEff]

/-! ### The queue -/

@[simp] theorem pending_regs (s : State) (q : List Instr) : ({ s with pending := q } : State).regs = s.regs := rfl
@[simp] theorem pending_treg (s : State) (q : List Instr) : ({ s with pending := q } : State).treg = s.treg := rfl
@[simp] theorem pending_mem (s : State) (q : List Instr) : ({ s with pending := q } : State).mem = s.mem := rfl
@[simp] theorem pending_led (s : State) (q : List Instr) : ({ s with pending := q } : State).led = s.led := rfl
@[simp] theorem pending_bark (s : State) (q : List Instr) : ({ s with pending := q } : State).bark = s.bark := rfl
@[simp] theorem pending_body (s : State) (q : List Instr) : ({ s with pending := q } : State).body = s.body := rfl

/-- No effect touches the queue. -/
@[simp] theorem applyEff_pending (e : Eff) (s : State) : (applyEff e s).pending = s.pending := by
  cases e <;> simp

end Sys2Proof.Machine
end

