-- ==== Sys2Proof/Laws/Tables.lean ====
section
/-! SUPPORT. Reads after writes of tables and canonical lists, and that every operation keeps the canonical form. -/

namespace Sys2Proof.Machine

variable {α : Type}

/-! ### Reads after writes -/

@[simp] theorem tget_tput_same (t : List (Nat × α)) (a : Nat) (v : α) : tget (tput t a v) a = some v := by
  induction t with
  | nil => simp [tput, tget]
  | cons e t ih =>
    obtain ⟨k, w⟩ := e
    simp only [tput]
    split
    · simp [tget]
    · split
      · simp [tget]
      · rename_i h1 h2
        have : k ≠ a := fun h => h2 h.symm
        simp [tget, this, ih]

theorem tget_tput_other (t : List (Nat × α)) {a b : Nat} (v : α) (h : b ≠ a) : tget (tput t a v) b = tget t b := by
  induction t with
  | nil => simp [tput, tget, Ne.symm h]
  | cons e t ih =>
    obtain ⟨k, w⟩ := e
    simp only [tput]
    split
    · simp [tget, Ne.symm h]
    · split
      · rename_i h2; subst h2; simp [tget, Ne.symm h]
      · simp [tget, ih]

theorem tget_tdel_other (t : List (Nat × α)) {a b : Nat} (h : b ≠ a) : tget (tdel t a) b = tget t b := by
  induction t with
  | nil => rfl
  | cons e t ih =>
    obtain ⟨k, w⟩ := e
    simp only [tdel]
    split
    · rename_i h2; subst h2; simp [tget, Ne.symm h]
    · simp [tget, ih]

/-! ### Rising keys -/

theorem risingKeys_cons {e : Nat × α} {t : List (Nat × α)} :
    risingKeys (e :: t) = true ↔ risingKeys t = true ∧ ∀ x ∈ t, e.1 < x.1 := by
  induction t generalizing e with
  | nil => simp [risingKeys]
  | cons b t ih =>
    simp only [risingKeys, Bool.and_eq_true, decide_eq_true_eq, List.mem_cons]
    constructor
    · rintro ⟨h1, h2⟩
      refine ⟨h2, ?_⟩
      rintro x (rfl | hx)
      · exact h1
      · exact Nat.lt_trans h1 ((ih.1 h2).2 x hx)
    · rintro ⟨h1, h2⟩
      exact ⟨h2 b (Or.inl rfl), h1⟩

theorem tget_none_of_lt {t : List (Nat × α)} {a : Nat} (h : ∀ x ∈ t, a < x.1) : tget t a = none := by
  induction t with
  | nil => rfl
  | cons e t ih =>
    obtain ⟨k, w⟩ := e
    have : k ≠ a := Nat.ne_of_gt (h (k, w) (by simp))
    simp only [tget, this, if_false]
    exact ih fun x hx => h x (by simp [hx])

theorem mem_tput {t : List (Nat × α)} {a : Nat} {v : α} {x : Nat × α} (h : x ∈ tput t a v) : x = (a, v) ∨ x ∈ t := by
  induction t with
  | nil => simpa [tput] using h
  | cons e t ih =>
    obtain ⟨k, w⟩ := e
    simp only [tput] at h
    split at h
    · simpa using h
    · split at h
      · simp only [List.mem_cons] at h ⊢
        rcases h with h | h
        · exact Or.inl h
        · exact Or.inr (Or.inr h)
      · simp only [List.mem_cons] at h ⊢
        rcases h with h | h
        · exact Or.inr (Or.inl h)
        · rcases ih h with h | h
          · exact Or.inl h
          · exact Or.inr (Or.inr h)

theorem mem_tdel {t : List (Nat × α)} {a : Nat} {x : Nat × α} (h : x ∈ tdel t a) : x ∈ t := by
  induction t with
  | nil => simp [tdel] at h
  | cons e t ih =>
    obtain ⟨k, w⟩ := e
    simp only [tdel] at h
    split at h
    · exact List.mem_cons_of_mem _ h
    · rcases List.mem_cons.1 h with h | h
      · exact h ▸ List.mem_cons_self
      · exact List.mem_cons_of_mem _ (ih h)

theorem risingKeys_tput {t : List (Nat × α)} (a : Nat) (v : α) (h : risingKeys t = true) : risingKeys (tput t a v) = true := by
  induction t with
  | nil => rfl
  | cons e t ih =>
    obtain ⟨k, w⟩ := e
    obtain ⟨ht, hk⟩ := risingKeys_cons.1 h
    simp only [tput]
    split
    · rename_i hlt
      refine risingKeys_cons.2 ⟨h, fun x hx => ?_⟩
      rcases List.mem_cons.1 hx with rfl | hx
      · exact hlt
      · exact Nat.lt_trans hlt (hk x hx)
    · split
      · rename_i h2; subst h2
        exact risingKeys_cons.2 ⟨ht, hk⟩
      · rename_i h1 h2
        refine risingKeys_cons.2 ⟨ih ht, fun x hx => ?_⟩
        rcases mem_tput hx with rfl | hx
        · simp only; omega
        · exact hk x hx

theorem risingKeys_tdel {t : List (Nat × α)} (a : Nat) (h : risingKeys t = true) : risingKeys (tdel t a) = true := by
  induction t with
  | nil => rfl
  | cons e t ih =>
    obtain ⟨k, w⟩ := e
    obtain ⟨ht, hk⟩ := risingKeys_cons.1 h
    simp only [tdel]
    split
    · exact ht
    · exact risingKeys_cons.2 ⟨ih ht, fun x hx => hk x (mem_tdel hx)⟩

theorem risingKeys_filter {t : List (Nat × α)} (p : Nat × α → Bool) (h : risingKeys t = true) : risingKeys (t.filter p) = true := by
  induction t with
  | nil => rfl
  | cons e t ih =>
    obtain ⟨ht, hk⟩ := risingKeys_cons.1 h
    rw [List.filter_cons]
    split
    · exact risingKeys_cons.2 ⟨ih ht, fun x hx => hk x (List.mem_filter.1 hx).1⟩
    · exact ih ht

theorem tget_tdel_same {t : List (Nat × α)} {a : Nat} (h : risingKeys t = true) : tget (tdel t a) a = none := by
  induction t with
  | nil => rfl
  | cons e t ih =>
    obtain ⟨k, w⟩ := e
    obtain ⟨ht, hk⟩ := risingKeys_cons.1 h
    simp only [tdel]
    split
    · rename_i h2; subst h2; exact tget_none_of_lt hk
    · rename_i h2; simp [tget, h2, ih ht]

/-! ### Canonical lists -/

variable [DecidableEq α] {dflt : Nat → α}

theorem canon_iff {m : List (Nat × α)} : canon dflt m = true ↔ risingKeys m = true ∧ ∀ x ∈ m, x.2 ≠ dflt x.1 := by
  simp [canon, List.all_eq_true]

theorem canon_nil : canon dflt ([] : List (Nat × α)) = true := rfl

theorem canon_cput {m : List (Nat × α)} (a : Nat) (v : α) (h : canon dflt m = true) : canon dflt (cput dflt m a v) = true := by
  obtain ⟨hr, hd⟩ := canon_iff.1 h
  unfold cput
  split
  · exact canon_iff.2 ⟨risingKeys_tdel a hr, fun x hx => hd x (mem_tdel hx)⟩
  · rename_i hv
    refine canon_iff.2 ⟨risingKeys_tput a v hr, fun x hx => ?_⟩
    rcases mem_tput hx with rfl | hx
    · exact hv
    · exact hd x hx

theorem canon_filter {m : List (Nat × α)} (p : Nat × α → Bool) (h : canon dflt m = true) : canon dflt (m.filter p) = true := by
  obtain ⟨hr, hd⟩ := canon_iff.1 h
  exact canon_iff.2 ⟨risingKeys_filter p hr, fun x hx => hd x (List.mem_filter.1 hx).1⟩

theorem cget_cput_other (m : List (Nat × α)) {a b : Nat} (v : α) (h : b ≠ a) : cget dflt (cput dflt m a v) b = cget dflt m b := by
  by_cases hv : v = dflt a
  · simp [cget, cput, hv, tget_tdel_other m h]
  · simp [cget, cput, hv, tget_tput_other m v h]

theorem cget_cput_same {m : List (Nat × α)} (a : Nat) (v : α) (h : risingKeys m = true) : cget dflt (cput dflt m a v) a = v := by
  by_cases hv : v = dflt a
  · simp [cget, cput, hv, tget_tdel_same h]
  · simp [cget, cput, hv]

end Sys2Proof.Machine
end

