-- ==== Sys2Proof/Laws/Run.lean ====
section
/-! SUPPORT. The algebra of actions, what the plain shared operations do, and the one induction over effects. -/

namespace Sys2Proof.Machine

/-! ### Actions

These equations are not declared by rfl: simp then rewrites with them, and the kernel is never asked to compare two states by unfolding. -/

@[simp] theorem applyAll_nil (s : State) : applyAll [] s = s := by simp only [applyAll]
@[simp] theorem applyAll_cons (e : Eff) (es : List Eff) (s : State) : applyAll (e :: es) s = applyAll es (applyEff e s) := by simp only [applyAll]

theorem applyAll_append (es fs : List Eff) (s : State) : applyAll (es ++ fs) s = applyAll fs (applyAll es s) := by
  induction es generalizing s with
  | nil => rfl
  | cons e es ih => simp [ih]

@[simp] theorem run_nop (s : State) : run nop s = s := by simp only [run, nop, applyAll]
@[simp] theorem run_andThen (a b : Act) (s : State) : run (andThen a b) s = run b (run a s) := by
  simp [run, andThen, applyAll_append]
@[simp] theorem run_acts_nil (s : State) : run (acts []) s = s := by simp only [run, acts, nop, applyAll]
@[simp] theorem run_acts_cons (a : Act) (l : List Act) (s : State) : run (acts (a :: l)) s = run (acts l) (run a s) := by
  simp [acts]
@[simp] theorem run_look (f : State → Act) (s : State) : run (look f) s = run (f s) s := by simp only [run, look]
@[simp] theorem run_when (c : Bool) (a : Act) (s : State) : run (when c a) s = if c then run a s else s := by
  unfold run when; split <;> rfl
@[simp] theorem run_eff (e : Eff) (s : State) : run (eff e) s = applyEff e s := by simp only [run, eff, applyAll]
@[simp] theorem run_each_nil {α : Type} (f : α → Act) (s : State) : run (each [] f) s = s := by simp only [each, List.map_nil, run_acts_nil]
@[simp] theorem run_each_cons {α : Type} (x : α) (l : List α) (f : α → Act) (s : State) :
    run (each (x :: l) f) s = run (each l f) (run (f x) s) := by simp [each]

/-! ### Properties kept by every effect are kept by every action -/

theorem applyAll_keeps {P : State → Prop} (h : ∀ e s, P s → P (applyEff e s)) (es : List Eff) (s : State) (hs : P s) : P (applyAll es s) := by
  induction es generalizing s with
  | nil => exact hs
  | cons e es ih => exact ih _ (h e s hs)

/-- What every effect keeps, every action keeps. -/
theorem run_keeps {P : State → Prop} (h : ∀ e s, P s → P (applyEff e s)) (a : Act) (s : State) (hs : P s) : P (run a s) :=
  applyAll_keeps h _ s hs

/-- No action touches the queue. -/
@[simp] theorem run_pending (a : Act) (s : State) : (run a s).pending = s.pending := by
  have h : ∀ (es : List Eff) (s : State), (applyAll es s).pending = s.pending := by
    intro es
    induction es with
    | nil => intro s; rfl
    | cons e es ih => intro s; simp [ih]
  exact h _ s

/-- What every effect keeps, a meaning's next state has. -/
theorem done_keeps {P : State → Prop} (h : ∀ e s, P s → P (applyEff e s)) {a : Act} {s t : State} (ht : done a s = .next t) (hs : P s) : P t := by
  simp only [done, Host.Outcome.next.injEq] at ht
  subst ht
  split
  · exact run_keeps h a s hs
  · exact hs

theorem doneAlways_keeps {P : State → Prop} (h : ∀ e s, P s → P (applyEff e s)) {a : Act} {s t : State} (ht : doneAlways a s = .next t)
    (hs : P s) : P t := by
  simp only [doneAlways, Host.Outcome.next.injEq] at ht
  subst ht
  exact run_keeps h a s hs

/-- Where the device works, a meaning is its action; where it is stopped, nothing. -/
theorem done_works {a : Act} {s : State} (h : s.works = true) : done a s = .next (run a s) := by simp [done, h]
theorem done_stopped {a : Act} {s : State} (h : s.works = false) : done a s = .next s := by simp [done, h]

/-! ### Registers -/

theorem regRead_lt (m : List (Nat × W64)) (a : Nat) : regRead m a < 2 ^ 64 := (cget regReset m a).isLt

theorem regRead_regPut_other (m : List (Nat × W64)) {a b : Nat} (v : Nat) (h : b ≠ a) : regRead (regPut m a v) b = regRead m b := by
  unfold regRead regPut; rw [cget_cput_other m _ h]

theorem regRead_regPut_same {m : List (Nat × W64)} (a v : Nat) (h : risingKeys m = true) (hv : v < 2 ^ 64) : regRead (regPut m a v) a = v := by
  unfold regRead regPut; rw [cget_cput_same _ _ h, BitVec.toNat_ofNat, Nat.mod_eq_of_lt hv]

/-- setReg: the register holds the value; every other register, and everything else, is kept. -/
theorem run_setReg (a v : Nat) (s : State) : run (setReg a v) s = { s with regs := regPut s.regs a v } := rfl
theorem run_setFld (f : Fld) (v : Nat) (s : State) :
    run (setFld f v) s = { s with regs := regPut s.regs f.addr (withBits (s.rd f.addr) f.lo f.w v) } := rfl
theorem run_count (a n : Nat) (s : State) : run (count a n) s = { s with regs := regPut s.regs a (wrapAdd 64 (s.rd a) n) } := rfl
theorem run_onBody (f : Body → Body) (s : State) : run (onBody f) s = { s with body := f s.body } := rfl
theorem run_emit (o : Output) (s : State) : run (emit o) s = { s with body := { s.body with out := s.body.out ++ [o] } } := rfl

theorem rd_setFld_other {f : Fld} {v b : Nat} {s : State} (h : b ≠ f.addr) : (run (setFld f v) s).rd b = s.rd b := by
  unfold State.rd; rw [run_setFld]; exact regRead_regPut_other _ _ h

/-- A field of a register file in canonical form reads back what setFld wrote. -/
theorem get_setFld_same {f : Fld} {v : Nat} {s : State} (h : risingKeys s.regs = true) (hf : f.lo + f.w ≤ 64) :
    (run (setFld f v) s).get f = v % 2 ^ f.w := by
  have h1 : (run (setFld f v) s).rd f.addr = withBits (s.rd f.addr) f.lo f.w v :=
    regRead_regPut_same _ _ h (withBits_lt (regRead_lt _ _) hf)
  unfold State.get
  rw [h1, bitsOf_withBits_same]

/-- A field of another register, or other bits of the same one, are kept. -/
theorem get_setFld_other {f g : Fld} {v : Nat} {s : State} (h : risingKeys s.regs = true) (hf : f.lo + f.w ≤ 64)
    (hg : g.addr ≠ f.addr ∨ g.lo + g.w ≤ f.lo ∨ f.lo + f.w ≤ g.lo) : (run (setFld f v) s).get g = s.get g := by
  by_cases ha : g.addr = f.addr
  · have h1 : (run (setFld f v) s).rd f.addr = withBits (s.rd f.addr) f.lo f.w v :=
      regRead_regPut_same _ _ h (withBits_lt (regRead_lt _ _) hf)
    unfold State.get
    rw [ha, h1]
    rcases hg with hg | hg | hg
    · exact absurd ha hg
    · exact bitsOf_withBits_low hg
    · exact bitsOf_withBits_high hg
  · unfold State.get; rw [rd_setFld_other ha]

theorem risingKeys_regPut {m : List (Nat × W64)} (a v : Nat) (h : risingKeys m = true) : risingKeys (regPut m a v) = true := by
  unfold regPut cput; split
  · exact risingKeys_tdel a h
  · exact risingKeys_tput a _ h

/-! ### Memory -/

theorem byte_memPut_other (m : List Host.Cell) {a b : Nat} (v : Byte) (h : b ≠ a) : cget memDefault (memPut m a v) b = cget memDefault m b :=
  cget_cput_other m v h

/-- store: bytes outside the range are kept. -/
theorem byte_store_other (a : Nat) (bs : List Byte) (s : State) {b : Nat} (h : b < a ∨ a + bs.length ≤ b) :
    (run (store a bs) s).byte b = s.byte b := by
  unfold run store
  induction bs generalizing a s with
  | nil => rfl
  | cons x xs ih =>
    simp only [byteEffs, applyAll_cons, List.length_cons] at *
    rw [ih (a + 1) _ (by omega)]
    unfold State.byte
    rw [applyEff_mem_mem, byte_memPut_other _ _ (by omega)]

end Sys2Proof.Machine
end

