-- ==== Sys2Proof/Laws/Keeps.lean ====
section
/-! SUPPORT. What every effect keeps: the canonical form of memory and registers, the ledger identities, the accounting of the Bark ring. -/

namespace Sys2Proof.Machine

/-! ### Memory and registers -/

theorem memPut_wf {m : List Host.Cell} (a : Nat) (v : Byte) (h : Memory.wf m = true) : Memory.wf (memPut m a v) = true := canon_cput a v h
theorem memDrop_wf {m : List Host.Cell} (a n : Nat) (h : Memory.wf m = true) : Memory.wf (memDrop m a n) = true := canon_filter _ h
theorem memMove_wf {m : List Host.Cell} (src dst n : Nat) (h : Memory.wf m = true) : Memory.wf (memMove m src dst n) = true := by
  unfold memMove
  have : ∀ (l : List Host.Cell) (acc : List Host.Cell), Memory.wf acc = true →
      Memory.wf (l.foldl (fun acc e => memPut acc (e.1 - src + dst) e.2) acc) = true := by
    intro l
    induction l with
    | nil => intro acc h; exact h
    | cons e l ih => intro acc h; exact ih _ (memPut_wf _ _ h)
  exact this _ _ (memDrop_wf _ _ h)

theorem regPut_wf {m : List (Nat × W64)} (a v : Nat) (h : regsWf m = true) : regsWf (regPut m a v) = true := canon_cput a _ h
theorem flagPut_wf {m : List (Nat × W64)} (fa ea b : Nat) (h : regsWf m = true) : regsWf (flagPut m fa ea b) = true :=
  regPut_wf _ _ (regPut_wf _ _ h)
theorem tregPut_wf {m : List (Nat × Nat)} (k v : Nat) (h : tregWf m = true) : tregWf (tregPut m k v) = true := canon_cput k v h

theorem barkEff_regs_wf {r : BarkRec} {s : State} (h : regsWf s.regs = true) : regsWf (barkEff r s).regs = true := by
  simp only [barkEff]
  split
  · split
    · exact flagPut_wf _ _ _ h
    · exact h
  · exact flagPut_wf _ _ _ h

/-- Every effect keeps the canonical form. -/
theorem applyEff_canonical (e : Eff) (s : State) (h : s.canonical) : (applyEff e s).canonical := by
  obtain ⟨hm, hr, ht⟩ := h
  cases e <;> simp only [State.canonical, applyEff_body_mem, applyEff_body_regs, applyEff_body_treg, applyEff_reg_regs, applyEff_reg_mem, applyEff_reg_treg,
      applyEff_treg_treg, applyEff_treg_mem, applyEff_treg_regs, applyEff_mem_mem, applyEff_mem_regs, applyEff_mem_treg, applyEff_memClear_mem,
      applyEff_memClear_regs, applyEff_memClear_treg, applyEff_memCopy_mem, applyEff_memCopy_regs, applyEff_memCopy_treg]
  case reg a v => exact ⟨hm, regPut_wf _ _ hr, ht⟩
  case treg k v => exact ⟨hm, hr, tregPut_wf _ _ ht⟩
  case mem a v => exact ⟨memPut_wf _ _ hm, hr, ht⟩
  case memClear a n => exact ⟨memDrop_wf _ _ hm, hr, ht⟩
  case memCopy a b n => exact ⟨memMove_wf _ _ _ hm, hr, ht⟩
  case bark r => exact ⟨hm, barkEff_regs_wf hr, ht⟩
  case restart f => exact ⟨canon_filter _ hm, rfl, rfl⟩
  all_goals first
    | exact ⟨hm, hr, ht⟩
    | simp [hm, hr, ht]

/-! ### Ledgers -/

theorem sumCounts_statusUp {t : List (Nat × Nat)} (st : Nat) (h : risingKeys t = true) : sumCounts (statusUp t st) = sumCounts t + 1 := by
  have key : ∀ (t : List (Nat × Nat)), risingKeys t = true → ∀ v, tget t st = some v →
      sumCounts (tput t st (v + 1)) = sumCounts t + 1 := by
    intro t
    induction t with
    | nil => intro _ v hv; simp [tget] at hv
    | cons e t ih =>
      obtain ⟨k, w⟩ := e
      intro hr v hv
      obtain ⟨ht, hk⟩ := risingKeys_cons.1 hr
      simp only [tget] at hv
      by_cases hks : k = st
      · subst hks
        simp only [if_true, Option.some.injEq] at hv
        subst hv
        simp [tput, sumCounts]; omega
      · simp only [hks, if_false] at hv
        have h1 : ¬ st < k := by
          intro hlt
          rw [tget_none_of_lt (fun x hx => Nat.lt_trans hlt (hk x hx))] at hv
          simp at hv
        have h2 : ¬ st = k := fun h => hks h.symm
        have h3 := ih ht v hv
        simp only [tput, h1, h2, if_false]
        simp only [sumCounts, List.map_cons, List.foldr_cons] at h3 ⊢
        omega
  have none_ : ∀ (t : List (Nat × Nat)), tget t st = none → sumCounts (tput t st 1) = sumCounts t + 1 := by
    intro t
    induction t with
    | nil => intro _; simp [tput, sumCounts]
    | cons e t ih =>
      obtain ⟨k, w⟩ := e
      intro hn
      simp only [tget] at hn
      split at hn
      · simp at hn
      · rename_i hks
        have h2 : ¬ st = k := fun h => hks h.symm
        simp only [tput, h2, if_false]
        split
        · simp [sumCounts]; omega
        · have h3 := ih hn
          simp only [sumCounts, List.map_cons, List.foldr_cons] at h3 ⊢
          omega
  unfold statusUp
  cases hg : tget t st with
  | none => simpa [hg] using none_ t hg
  | some v => simpa [hg] using key t h v hg

theorem credGet_balanced {l : Ledger} (h : l.balanced) (p : Option Nat) : (credGet l p).balanced := by
  cases p with
  | none => exact h.credits.1
  | some p =>
    unfold credGet
    have : ∀ (t : List (Nat × Credits)), (∀ e ∈ t, Credits.balanced e.2) → ((tget t p).getD {}).balanced := by
      intro t
      induction t with
      | nil => intro _; simp [tget, Credits.balanced]
      | cons e t ih =>
        obtain ⟨k, w⟩ := e
        intro ht
        simp only [tget]
        split
        · exact ht (k, w) (by simp)
        · exact ih fun x hx => ht x (by simp [hx])
    exact this _ h.credits.2

theorem acctGet_balanced {l : Ledger} (h : l.balanced) (k : Nat) : (acctGet l k).balanced := by
  unfold acctGet
  have : ∀ (t : List (Nat × CollarAcct)), (∀ e ∈ t, CollarAcct.balanced e.2) → ((tget t k).getD {}).balanced := by
    intro t
    induction t with
    | nil => intro _; simp [tget, CollarAcct.balanced]
    | cons e t ih =>
      obtain ⟨k', w⟩ := e
      intro ht
      simp only [tget]
      split
      · exact ht (k', w) (by simp)
      · exact ih fun x hx => ht x (by simp [hx])
  exact this _ h.collars

/-- Replacing one port's or the chip's credits by balanced ones. -/
theorem credPut_balanced {l : Ledger} (h : l.balanced) (p : Option Nat) {c : Credits} (hc : c.balanced) : (credPut l p c).balanced := by
  cases p with
  | none => exact { h with credits := ⟨hc, h.credits.2⟩ }
  | some p =>
    refine { h with credits := ⟨h.credits.1, fun e he => ?_⟩ }
    rcases mem_tput he with rfl | he
    · exact hc
    · exact h.credits.2 e he

theorem acctPut_balanced {l : Ledger} (h : l.balanced) (k : Nat) {c : CollarAcct} (hc : c.balanced) : (acctPut l k c).balanced := by
  refine { h with collars := fun e he => ?_ }
  rcases mem_tput he with rfl | he
  · exact hc
  · exact h.collars e he

theorem empty_balanced : ({} : Ledger).balanced :=
  ⟨⟨rfl, by simp⟩, rfl, by simp, rfl, rfl, rfl, rfl, rfl, rfl⟩

/-- Every effect keeps the six identities. -/
theorem applyEff_balanced (e : Eff) (s : State) (h : s.led.balanced) : (applyEff e s).led.balanced := by
  cases e
  case reqAdmit => exact { h with requests := by have := h.requests; simp only [applyEff]; omega }
  case reqClose =>
    simp only [applyEff]; split
    · exact { h with requests := by have := h.requests; simp only; omega }
    · exact h
  case reqFail =>
    simp only [applyEff]; split
    · exact { h with requests := by have := h.requests; simp only; omega }
    · exact h
  case bufPost => exact { h with buffers := by have := h.buffers; simp only [applyEff]; omega }
  case bufDone =>
    simp only [applyEff]; split
    · exact { h with buffers := by have := h.buffers; simp only; omega }
    · exact h
  case bufWithdraw =>
    simp only [applyEff]; split
    · exact { h with buffers := by have := h.buffers; simp only; omega }
    · exact h
  case credIssue p n =>
    have hc := credGet_balanced h p
    refine credPut_balanced h p ?_
    unfold Credits.balanced at hc ⊢; simp only; omega
  case credReturn p n =>
    have hc := credGet_balanced h p
    refine credPut_balanced h p ?_
    unfold Credits.balanced at hc ⊢; simp only; omega
  case credFlush p n =>
    have hc := credGet_balanced h p
    refine credPut_balanced h p ?_
    unfold Credits.balanced at hc ⊢; simp only; omega
  case colGrant k n =>
    have hc := acctGet_balanced h k
    refine acctPut_balanced h k ?_
    unfold CollarAcct.balanced at hc ⊢; simp only; omega
  case colExpire k n =>
    have hc := acctGet_balanced h k
    refine acctPut_balanced h k ?_
    unfold CollarAcct.balanced at hc ⊢; simp only; omega
  case colReserve k n =>
    have hc := acctGet_balanced h k
    refine acctPut_balanced h k ?_
    unfold CollarAcct.balanced at hc ⊢; simp only; omega
  case colRelease k n =>
    have hc := acctGet_balanced h k
    refine acctPut_balanced h k ?_
    unfold CollarAcct.balanced at hc ⊢; simp only; omega
  case colExpireReserved k n =>
    have hc := acctGet_balanced h k
    refine acctPut_balanced h k ?_
    unfold CollarAcct.balanced at hc ⊢; simp only; omega
  case colSpendReserved k n =>
    have hc := acctGet_balanced h k
    refine acctPut_balanced h k ?_
    unfold CollarAcct.balanced at hc ⊢; simp only; omega
  case colSpendBalance k n =>
    have hc := acctGet_balanced h k
    refine acctPut_balanced h k ?_
    unfold CollarAcct.balanced at hc ⊢; simp only; omega
  case arrive src =>
    have ha := h.arrivals
    obtain ⟨r1, r2, r3⟩ := h.rising
    cases src with
    | job st =>
      exact { h with arrivals := by simp only [applyEff, sumCounts_statusUp st r1]; omega
                     rising := ⟨risingKeys_tput _ _ r1, r2, r3⟩ }
    | smp st =>
      exact { h with arrivals := by simp only [applyEff, sumCounts_statusUp st r2]; omega
                     rising := ⟨r1, risingKeys_tput _ _ r2, r3⟩ }
    | mov st =>
      exact { h with arrivals := by simp only [applyEff, sumCounts_statusUp st r3]; omega
                     rising := ⟨r1, r2, risingKeys_tput _ _ r3⟩ }
    | signal => exact { h with arrivals := by simp only [applyEff]; omega }
    | msg => exact { h with arrivals := by simp only [applyEff]; omega }
  case refTake n => exact { h with references := by have := h.references; simp only [applyEff]; omega }
  case refDrop n => exact { h with references := by have := h.references; simp only [applyEff]; omega }
  case restart f => exact empty_balanced
  all_goals simpa using h

/-! ### The Bark ring -/

theorem barkMake_accounted {b : Bark} (h : b.accounted) (reserve : Nat) (r : BarkRec) : (barkMake b reserve r).accounted := by
  obtain ⟨hm, hh, hr⟩ := h
  simp only [barkMake]
  split
  · rename_i hf
    have : 0 < 4096 - (b.stored - b.head) := by
      unfold barkFits at hf
      simp only at hf
      split at hf <;> simp only [decide_eq_true_eq] at hf <;> omega
    exact ⟨by simp only; omega, by simp only; omega, by simp only; omega⟩
  · exact ⟨by simp only; omega, hh, hr⟩

theorem barkEff_accounted {r : BarkRec} {s : State} (h : s.bark.accounted) : (barkEff r s).bark.accounted := by
  obtain ⟨hm, hh, hr⟩ := barkMake_accounted h (bitsOf (regRead s.regs Reg.BRK_CTL) 0 7) { r with tick := s.body.tick, seq := s.bark.made }
  simp only [barkEff]
  split
  · split <;> exact ⟨hm, hh, hr⟩
  · exact ⟨hm, hh, hr⟩

/-- Every effect keeps the accounting of the Bark ring. -/
theorem applyEff_accounted (e : Eff) (s : State) (h : s.bark.accounted) : (applyEff e s).bark.accounted := by
  cases e
  case bark r => exact barkEff_accounted h
  case barkHead x =>
    simp only [applyEff]; split
    · rename_i hx; exact ⟨h.made, hx.2, by have := h.room; simp only; omega⟩
    · exact h
  case barkRearm m => exact ⟨h.made, h.head, h.room⟩
  case barkWindow o p => exact ⟨h.made, h.head, h.room⟩
  case restart f => exact ⟨rfl, Nat.le_refl _, Nat.zero_le _⟩
  all_goals simpa using h

end Sys2Proof.Machine
end

