-- ==== Sys2Proof/Laws/Turn.lean ====
section
/-! SUPPORT. What the shared entries of the meanings do where a command has its own effect: an Onaraef command at its turn, a command that
names a request, a message for a home or for a chip. -/

namespace Sys2Proof.Machine

/-- An Onaraef command that runs is its own action on the state in which it counts as running. -/
theorem runs_done {s : State} {src : Src} {op : Nat} {c : Cmd} {u : State} (h : Runs s src op c u) (f : CmdRef → Cmd → Act) :
    done (runOp op src f) s = .next (run (f ⟨src, c.seq⟩ c) u) := by
  rw [done_works h.works, runOp]
  simp [h.turn, h.checks, h.begun, State.begun]

/-- A command that names a request of a working home is its action on the request's entry. -/
theorem run_withReq {v u : State} {h : Nat} {q : HomeReq} (a : AtRequest v h u q) (ref : CmdRef) (f : HomeReq → Act) :
    run (withReq ref h f) v = run (f q) u := by
  obtain ⟨hs, hm, hl, he⟩ := a
  obtain ⟨q0, hq⟩ := Option.isSome_iff_exists.1 hs
  rw [withReq, run_look, hq]
  dsimp only
  rw [if_neg hm, run_acts_cons, ← hl, run_acts_cons, run_look, he, run_acts_nil]

theorem run_withLive {v u : State} {h : Nat} {q : HomeReq} (a : AtLive v h u q) (ref : CmdRef) (f : HomeReq → Act) :
    run (withLive ref h f) v = run (f q) u := by
  rw [withLive, run_withReq a.toAtRequest]
  have hc : (q.closing && q.record.phase != .handoff) = false := by
    rcases a.open_ with h | h <;> simp [h]
  simp [a.live, hc, a.noReplay.1, a.noReplay.2]

/-- A message at the home of a live request is its action on the request's entry. -/
theorem run_atHome {s u : State} {m : Msg} {q : HomeReq} (a : AtHome s m u q) (t : MsgType) (f : HomeReq → Act) :
    run (atHome t m f) s = run (f q) u := by
  obtain ⟨_, _, hh, hl, he⟩ := a
  cases hq : s.req m.handle with
  | none => simp [hq] at hh
  | some q0 =>
    simp only [hq, Option.any_some] at hh
    simp [atHome, hq, hh, ← hl, he]

/-- A message that a chip does not discard is its action. -/
theorem run_atChip {s : State} {r : Bool} {m : Msg} (a : AtChip s r m) (f : Act) : run (atChip r m f) s = run f s := by
  obtain ⟨_, _, hc, he⟩ := a
  rw [atChip, run_look]
  cases hq : s.loc m.handle with
  | none => simp [hc]
  | some c =>
    have h : (!r && (s.req m.handle).isNone && decide (m.epoch < locEpoch c)) = false := by
      rcases he c hq with h | h | h
      · simp [h]
      · simp [Option.isNone_iff_eq_none, Option.isSome_iff_ne_none.1 h]
      · simp [Nat.not_lt.2 h]
    simp [hc, h]

theorem AtHome.done {s u : State} {m : Msg} {q : HomeReq} (a : AtHome s m u q) (x : Act) : Machine.done (when m.wf x) s = .next (run x s) := by
  simp [done_works a.works, a.form]

theorem AtChip.done {s : State} {r : Bool} {m : Msg} (a : AtChip s r m) (x : Act) : Machine.done (when m.wf x) s = .next (run x s) := by
  simp [done_works a.works, a.form]

/-- Output that OUT_LEN holds is answered with OK, after what goes with it. -/
theorem run_finOut {ref : CmdRef} {c : Cmd} {res out : List Byte} {also : Act} {s : State} (h : out.length ≤ c.outLen) :
    run (finOut ref c res out also) s = run (finish ref St.ok 0 res out) (run also s) := by
  rw [finOut, if_neg (Nat.not_lt.2 h)]
  simp only [run_acts_cons, run_acts_nil]

end Sys2Proof.Machine
end

