-- ==== Sys2Proof/Tests/Slice0.lean ====
section
/-! SUPPORT. The model's own tests: ill-formed commands that the form check refuses, examples of the spec, and for each statement states and
operands that meet its hypotheses. -/

open Sys2Proof Sys2Proof.Machine

namespace Sys2Proof.Tests
set_option Elab.async false

/-! ### Small states -/

/-- A command as a source has taken it. -/
def cmdOf (op : Nat) (args : List Byte) : Cmd :=
  { seq := 0, opcode := op, cid := 7, outLen := 2 ^ 17, args := (args ++ List.replicate 32 0).take 32 }
/-- With input bytes of the mailbox. -/
def cmdIn (op : Nat) (args input : List Byte) : Cmd := { cmdOf op args with inLen := input.length, payload := input }
/-- A state with a command that waits in the mailbox, the interface open. -/
def ask (c : Cmd) (s : State) : State := { s with body := { s.body with mbox := { cmd := some c, iface := some 0 } } }

theorem runs_mk {s : State} {src : Src} {op : Nat} {c : Cmd} (h : (s.works && (pickCmd s src op == some c) && (commonCheck s src c).isNone) = true) :
    Runs s src op c (s.begun src c) := by
  simp only [Bool.and_eq_true, beq_iff_eq, Option.isNone_iff_eq_none] at h
  exact ⟨h.1.1, h.1.2, h.2, rfl⟩

theorem takes_mk {s : State} {c : Instr} (h : (s.works && c.wf) = true) : Takes s c := by
  simp only [Bool.and_eq_true] at h
  exact ⟨h.1, h.2⟩

theorem some_mk {α : Type} {o : Option α} (h : o.isSome = true) : o = some (o.get h) := (Option.some_get h).symm

theorem some_pair {α β : Type} {o : Option (α × β)} (h : o.isSome = true) : o = some ((o.get h).1, (o.get h).2) := (Option.some_get h).symm

theorem atRequest_mk {v : State} {h : Nat} (a : ((v.req h).isSome && (v.homeMode != 2)) = true) (b : ((run (lateCheck h) v).req h).isSome = true) :
    AtRequest v h (run (lateCheck h) v) (((run (lateCheck h) v).req h).get b) := by
  simp only [Bool.and_eq_true, bne_iff_ne] at a
  exact ⟨a.1, a.2, rfl, some_mk b⟩

theorem atLive_mk {v : State} {h : Nat} {q : HomeReq} (a : AtRequest v h (run (lateCheck h) v) q)
    (b : (phaseLive q.record.phase && (!q.closing || q.record.phase == .handoff) && !q.record.replayPending && !q.record.replaying) = true) :
    AtLive v h (run (lateCheck h) v) q := by
  simp only [Bool.and_eq_true, Bool.or_eq_true, Bool.not_eq_true', beq_iff_eq] at b
  exact ⟨a, b.1.1.1, b.1.1.2, b.1.2, b.2⟩

/-- A state whose listed registers are these, at rising addresses. -/
def withRegs (l : List (Nat × Nat)) (s : State) : State := { s with regs := l.map fun e => (e.1, BitVec.ofNat 64 e.2) }
/-- One more listed register. -/
def insReg (a v : Nat) : List (Nat × W64) → List (Nat × W64)
  | [] => [(a, BitVec.ofNat 64 v)]
  | e :: l => if a < e.1 then (a, BitVec.ofNat 64 v) :: e :: l else e :: insReg a v l
def addReg (a v : Nat) (s : State) : State := { s with regs := insReg a v s.regs }
/-- A state with some fields at values. -/
def withFlds (l : List (Fld × Nat)) (s : State) : State := l.foldl (fun s e => run (setFld e.1 e.2) s) s

theorem canonical_mk {s : State} (h : (Memory.wf s.mem && regsWf s.regs && tregWf s.treg) = true) : s.canonical := by
  simp only [Bool.and_eq_true] at h
  exact ⟨h.1.1, h.1.2, h.2⟩

theorem cxlRuns_mk {s : State} {op : Nat} {p : List Byte}
    (h : (s.works && (s.body.mbox.cxlCmd == some (op, p)) && s.body.plat.mgmtUp && !s.is Fld.SEC_STATUS_RECOVERY) = true) : CxlRuns s op p := by
  simp only [Bool.and_eq_true, beq_iff_eq, Bool.not_eq_true'] at h
  exact ⟨h.1.1.1, h.1.1.2, h.1.2, h.2⟩

theorem atHome_mk {s : State} {m : Msg} (h : (s.works && m.wf && (s.req m.handle).any (fun q => phaseLive q.record.phase)) = true)
    (b : ((run (lateCheck m.handle) s).req m.handle).isSome = true) :
    AtHome s m (run (lateCheck m.handle) s) (((run (lateCheck m.handle) s).req m.handle).get b) := by
  simp only [Bool.and_eq_true] at h
  exact ⟨h.1.1, h.1.2, h.2, rfl, some_mk b⟩

theorem atChip_mk {s : State} {r : Bool} {m : Msg} (h : (s.works && m.wf && !staleHandle s m.handle) = true)
    (e : ((s.loc m.handle).all fun c => r || (s.req m.handle).isSome || decide (locEpoch c ≤ m.epoch)) = true) : AtChip s r m := by
  simp only [Bool.and_eq_true, Bool.not_eq_true'] at h
  refine ⟨h.1.1, h.1.2, h.2, fun c hc => ?_⟩
  simp only [hc, Option.all_some, Bool.or_eq_true, decide_eq_true_eq] at e
  rcases e with (e | e) | e
  · exact .inl e
  · exact .inr (.inl e)
  · exact .inr (.inr e)

theorem atSlot_mk {s : State} {q i op : Nat} (h : ((nextSlot s q == some i) && ((slotDesc s q i).op == op) && !awaitsCommit s (slotDesc s q i)) = true) : AtSlot s q i op := by
  simp only [Bool.and_eq_true, beq_iff_eq, Bool.not_eq_true'] at h
  exact ⟨h.1.1, h.1.2, h.2⟩

/-! ### A chip with a model, a tenant, and a request -/

/-- One layer, one KV head of dimension 64, one query head: pages of 256 positions. -/
def model0 : List Byte := leBytes 64 (2 ^ 48 + 64 * 2 ^ 64 + 2 ^ 80 + 1000 * 2 ^ 160)
/-- Chip 5 with tenant 0, enabled. -/
def chip5 : State :=
  let s := withFlds [(Fld.GLB_CHIP_CHIP_ID, 5), (Fld.GLB_CHIP_VALID, 1), (Fld.GLB_STATUS_FW_READY, 1)] State.reset
  { s with body := { s.body with conf := { locked := true, models := [(0, model0)], tenants := [(0, leBytes 16 1024)] },
                                 plat := { s.body.plat with booted := true, mgmtUp := true } } }
/-- The handle of slot 0 of chip 5. -/
def h0 : Nat := mkHandle 5 0 1
def rec0 (p : Phase) (owner : Option Nat) : Rec :=
  { handle := h0, phase := p, prePhase := p, targetPhase := p, cls := 0, tenant := 0, mirrored := false, replayPending := false, replaying := false, late := false,
    mode := 0, epoch := 1, owner := owner, receiver := 0, stateMirror := 0, pageListRef := 0, positions := 0, maxPositions := 512, budgetUs := 0xFFFFFFFF,
    budgetTick := 0, logPtr := 0x100000000, log := [], turnRecs := [], turns := 0, logStep := 0, logCount := 0, lastTokens := [], holders := [],
    replayFrom := 0, replayTo := 0, mirrorPos := 0, prefix0 := 0, prefix1 := 0, prefixPos := 0 }
/-- With a request of a record, and its Leash state here. -/
def withReq5 (q : HomeReq) (l : Option Loc) (s : State) : State :=
  { s with body := { s.body with home := { s.body.home with reqs := [(h0, q)] }, locs := (l.map fun l => (h0, l)).toList } }
/-- Chip 5 with a listening request of its own. -/
def loc0 : Loc := { st := .owner 1, home := 5, phase := .listening, epoch := 1 }
def own0 : State := withReq5 { record := rec0 .listening (some 5) } (some loc0) chip5

/-! ### The interface, the configuration, requests -/

def sOpen : State := withRegs [(Reg.GLB_VERSION, 3 * 2 ^ 32)] State.reset
def sPending : State := withFlds [(Fld.GLB_STATUS_CFG_PENDING, 1), (Fld.GLB_CFG_PEND_PENDING, 5), (Fld.GLB_CFG_VER_PREVIOUS, 4)]
  { State.reset with body := { State.reset.body with conf := { previous := some [] } } }
def run0 : CfgRun := ⟨none, 2 ^ 32 - 1, [], 0, false, false⟩
def sRun : State := { State.reset with body := { State.reset.body with conf := { run := some run0 } } }

/-! ### Requests at their home, prefixes, loads, buffers -/


def owned (p : Phase) (o : Option Nat) : State := withReq5 { record := rec0 p o } (some loc0) chip5
def le16 (n : Nat) : List Byte := leBytes 2 n
def le64 (n : Nat) : List Byte := leBytes 8 n
/-- ARGS of a command about request h0. -/
def aH (l : List Byte) : List Byte := leBytes 8 h0 ++ l
def mirr0 : HomeReq := { record := { rec0 .listening (some 5) with mirrored := true, stateMirror := 2 } }
def lost0 : HomeReq := { record := { rec0 .listening none with replayPending := true } }
def repl0 : HomeReq := { record := { rec0 .listening none with replaying := true, epoch := 2 }, replayChip := 3 }
/-- Chips 2 and 3 are members 1 and 2 of the pod. -/
def podOf (s : State) : State := withFlds [(Fld.MOV_MEMBER_VALID 1, 1), (Fld.MOV_MEMBER_CHIP_ID 1, 2), (Fld.MOV_MEMBER_VALID 2, 1), (Fld.MOV_MEMBER_CHIP_ID 2, 3)] s
/-- All shares of the work. -/
def shares (s : State) : State := withFlds [(Fld.GLB_PERS_PAE_PROMPT, 1), (Fld.GLB_PERS_DAE_GEN, 1), (Fld.GLB_PERS_CACHE, 1)] s
def pfx0 : Prefix := { handle := h0, tenant := 0, positions := 0, pages := [(0, [])], users := [h0] }
def pfxS (p : Prefix) (s : State) : State := { s with body := { s.body with pages := { s.body.pages with prefixes := [(0, p)] } } }
def bufS (b : Buf) (s : State) : State := { s with body := { s.body with xpt := { s.body.xpt with bufs := [(3, b)] } } }
def rcqOn (s : State) : State := withFlds [(Fld.XPT_RCQ_BASE_ENABLE 1, 1), (Fld.XPT_RCQ_BASE_SIZE_LOG2 1, 4), (Fld.MOV_CTL_SHARED_MIB, 1)] s

/-! Frames: near frame 7 and far frame 9 of chip 5, with a page of h0. -/

def near7 : Nat := mkRef 5 0 7 0
def far9 : Nat := mkRef 5 1 9 0
def k7 : Nat := fkey 0 7
def k9 : Nat := fkey 1 9
def page0 (p : PageHeader) : Frame := { hdr := { p with owner := h0, posCount := 256, pLog2 := 8, isSealed := true, payloadCrc := 0 } }
def f7 : Frame := page0 { pageRef := near7, backingRef := far9 }
def f9 : Frame := page0 { pageRef := far9 }
def withFrames (l : List (Nat × Frame)) (s : State) : State := { s with body := { s.body with pages := { s.body.pages with frames := l } } }
/-- Its table names near frame 7 as its one page, of which it holds all 256 positions. -/
def locP : Loc := { loc0 with layers := [(0, { pages := [near7], count := 256 })] }
def paged : State := withFrames [(k7, f7), (k9, f9)] (withReq5 { record := rec0 .listening (some 5) } (some locP) chip5)
/-- A formatted Kennel of one group, in service. -/
def knlOn (s : State) : State :=
  let s := withFlds [(Fld.KNL_STATUS_STATE, KnlSt.normal), (Fld.KNL_STATUS_DIRTY_LIMIT, 8), (Fld.KNL_NAND_CFG_TARGETS, 1), (Fld.KNL_NAND_CFG_LUNS, 1),
    (Fld.KNL_NAND_CFG_BPC, 2), (Fld.KNL_NAND_CFG_PLANES, 2), (Fld.KNL_NAND_CFG_PAGES_PER_BLOCK, 1024)] s
  { s with body := { s.body with knl := { s.body.knl with flash := { s.body.knl.flash with formatted := true, good := (List.range 16).map fun d => (d, 200) } } } }
def imgS (i : Image) (s : State) : State := { s with body := { s.body with knl := { s.body.knl with ram := { s.body.knl.ram with images := [(4, i)] } } } }
def pfxU : Prefix := { pfx0 with users := [] }

/-! ### Rings, completions, Leash messages -/

def ringS (r : Nat) (x : Ring) (s : State) : State :=
  let s := withFlds [(Fld.GLB_STATUS_FW_READY, 1), (Fld.GLB_STATUS_HOST_MODE, 1), (Fld.GLB_STATUS_MEM_ACTIVE, 1), (Fld.MBX_RING_CFG_ENABLE r, 1), (Fld.MBX_RING_CFG_SIZE_LOG2 r, 12)] s
  { s with body := { s.body with rings := [(r, x)] } }
/-- As before, the ring not enabled. -/
def ringOff (r : Nat) (s : State) : State := withFlds [(Fld.MBX_RING_CFG_ENABLE r, 0)] (ringS r {} s)
def ranCmd : Cmd := { cmdOf 0x0102 [] with status := .running }
def doneCmd : Cmd := { cmdOf 0x0102 [] with status := .done 0 0 [] [] }
def mboxCmd (c : Cmd) (s : State) : State := { s with body := { s.body with mbox := { cmd := some c, iface := some 0 } } }
/-- A message of chip 2 about h0. -/
def m0 : Msg := { handle := h0, sender := 2, epoch := 1, chip := 5 }
def q5 (f : Rec → Rec) (s : State) : State := withReq5 { record := f (rec0 .listening (some 2)) } none s
def homeS (f : Home → Home) (s : State) : State := { s with body := { s.body with home := f s.body.home } }
def locS (f : Loc → Loc) (s : State) : State := { s with body := { s.body with locs := [(h0, f loc0)] } }
def paired (s : State) : State := withFlds [(Fld.RQT_STATUS_HOME_MODE, 1), (Fld.RQT_PARTNER_VALID, 1), (Fld.RQT_PARTNER_PARTNER, 2)] s
def fenced5 (s : State) : State := withFlds [(Fld.RQT_STATUS_HOME_MODE, 2)] (paired s)
def tbl0 : GivenTable := { tenant := 0, cls := 0 }

/-! ### Page reads, migration, coherence -/

/-- The CRC of an empty payload with a scale slot of zeros. -/
def zeroCrc : Nat := 4004437628
def rd0 : PageRead := { src := far9, dst := k7, handle := h0, layer := 0, index := 0 }
def rd2 : PageRead := { rd0 with src := mkRef 2 0 4 0 }
def pagesS (f : Pages → Pages) (s : State) : State := { s with body := { s.body with pages := f s.body.pages } }
def cohS (f : Coh → Coh) (s : State) : State := { s with body := { s.body with coh := f s.body.coh } }
def fabS (f : Fabric → Fabric) (s : State) : State := { s with body := { s.body with fabric := f s.body.fabric } }
/-- Frames 7 and 9 with the CRC of what they hold, and a read of far frame 9 into near frame 7. -/
def reading (r : PageRead) : State :=
  pagesS (fun p => { p with reads := [(1, r)] }) (withFrames [(k7, { f7 with staging := true }), (k9, { f9 with hdr := { f9.hdr with payloadCrc := zeroCrc } })] paged)
def migS (f : Frame) : State := withFlds [(Fld.STM_MIG_CTL_MAX_ACTIVE, 1)] (withFrames [(k7, f)] paged)
/-- Frame 7 migrates to near frame 8. -/
def near8 : Nat := mkRef 5 0 8 0
def migOf (st : MigSt) : Mig := { st := st, dst := near8 }
def moving (st : MigSt) : State := withFrames [(k7, { f7 with mig := some (migOf st) }), (fkey 0 8, { f7 with staging := true })] paged
def cm0 : CohMsg := { type := .pageRead, sender := 1, refs := [near7] }
/-- A page of another chip's. -/
def ref2 : Nat := mkRef 2 0 4 0
def hb0 : List Byte := leBytes 8 ref2 ++ List.replicate 36 0 ++ leBytes 4 zeroCrc ++ List.replicate 208 0
def acc0 : Access := { who := .job 1, kind := .load 8, addr := 2 ^ 56, issued := 0 }

theorem crcRun_append (c : Nat) (a b : List Byte) : crcRun c (a ++ b) = crcRun (crcRun c a) b := by
  induction a generalizing c with
  | nil => rfl
  | cons x a h => exact h _

theorem crc_zeros : crc32c (List.replicate 1024 0) = zeroCrc := by
  have e (n : Nat) : List.replicate (64 + n) (0 : Byte) = List.replicate 64 0 ++ List.replicate n 0 := List.replicate_append_replicate.symm
  have h0 : crcRun 4294967295 (List.replicate 64 0) = 4231468184 := by decide +kernel
  have h1 : crcRun 4231468184 (List.replicate 64 0) = 4158167844 := by decide +kernel
  have h2 : crcRun 4158167844 (List.replicate 64 0) = 2345306063 := by decide +kernel
  have h3 : crcRun 2345306063 (List.replicate 64 0) = 1200442991 := by decide +kernel
  have h4 : crcRun 1200442991 (List.replicate 64 0) = 64332339 := by decide +kernel
  have h5 : crcRun 64332339 (List.replicate 64 0) = 1158271177 := by decide +kernel
  have h6 : crcRun 1158271177 (List.replicate 64 0) = 3425213895 := by decide +kernel
  have h7 : crcRun 3425213895 (List.replicate 64 0) = 3473084991 := by decide +kernel
  have h8 : crcRun 3473084991 (List.replicate 64 0) = 968469611 := by decide +kernel
  have h9 : crcRun 968469611 (List.replicate 64 0) = 534250289 := by decide +kernel
  have h10 : crcRun 534250289 (List.replicate 64 0) = 2006181900 := by decide +kernel
  have h11 : crcRun 2006181900 (List.replicate 64 0) = 3318006521 := by decide +kernel
  have h12 : crcRun 3318006521 (List.replicate 64 0) = 4236110739 := by decide +kernel
  have h13 : crcRun 4236110739 (List.replicate 64 0) = 225952960 := by decide +kernel
  have h14 : crcRun 225952960 (List.replicate 64 0) = 3222365018 := by decide +kernel
  have h15 : crcRun 3222365018 (List.replicate 64 0) = 290529667 := by decide +kernel
  have z : crcRun 0xFFFFFFFF (List.replicate 1024 0) = 290529667 := by
    rw [show (1024 : Nat) = 64 + 960 from rfl, e, crcRun_append, h0]
    rw [show (960 : Nat) = 64 + 896 from rfl, e, crcRun_append, h1]
    rw [show (896 : Nat) = 64 + 832 from rfl, e, crcRun_append, h2]
    rw [show (832 : Nat) = 64 + 768 from rfl, e, crcRun_append, h3]
    rw [show (768 : Nat) = 64 + 704 from rfl, e, crcRun_append, h4]
    rw [show (704 : Nat) = 64 + 640 from rfl, e, crcRun_append, h5]
    rw [show (640 : Nat) = 64 + 576 from rfl, e, crcRun_append, h6]
    rw [show (576 : Nat) = 64 + 512 from rfl, e, crcRun_append, h7]
    rw [show (512 : Nat) = 64 + 448 from rfl, e, crcRun_append, h8]
    rw [show (448 : Nat) = 64 + 384 from rfl, e, crcRun_append, h9]
    rw [show (384 : Nat) = 64 + 320 from rfl, e, crcRun_append, h10]
    rw [show (320 : Nat) = 64 + 256 from rfl, e, crcRun_append, h11]
    rw [show (256 : Nat) = 64 + 192 from rfl, e, crcRun_append, h12]
    rw [show (192 : Nat) = 64 + 128 from rfl, e, crcRun_append, h13]
    rw [show (128 : Nat) = 64 + 64 from rfl, e, crcRun_append, h14]
    exact h15
  rw [crc32c, z]; rfl

theorem hb0_crc : dataCrcOk (hdrOf hb0) [] [] = true := by
  have a : (hdrOf hb0).payloadCrc = zeroCrc := by decide +kernel
  have b : ([] : List Byte).take (hdrOf hb0).storedLen ++ (([] : List Byte) ++ List.replicate 1024 0).take 1024 = List.replicate 1024 0 := by decide +kernel
  rw [dataCrcOk, a, b, crc_zeros]; exact beq_self_eq_true _

/-! ### Accesses, counters, the mover, sending -/

/-- 1 MiB of shared region. -/
def sh (s : State) : State := withFlds [(Fld.MOV_CTL_SHARED_MIB, 1)] s
/-- Its last 8 bytes. -/
def shEnd : Nat := 2 ^ 52 + 4 * 2 ^ 48 + 2 ^ 20 - 8
def acnS (c : Counter) (s : State) : State := { s with body := { s.body with acn := { counters := [(65535, c)] } } }
def memS (l : List (Nat × List Byte)) (s : State) : State :=
  { s with mem := (l.flatMap fun e => e.2.zipIdx.map fun b => (e.1 + b.2, b.1)).filter fun c => c.2 != memDefault c.1 }
/-- Queue 63 of the mover or of the transport, enabled, of 128 slots, with a descriptor in slot 0. -/
def qS (k : QKind) (d : List Byte) (s : State) : State := memS [(k.slot 63 0, d)] (withFlds [(qEnable k 63, 1), (qDepthLog2 k 63, 7), (qTail k 63, 1)] s)
def movD (op src dst len : Nat) : List Byte := leBytes 64 (op + src * 2 ^ 64 + dst * 2 ^ 128 + len * 2 ^ 192)
def movS (d : List Byte) (s : State) : State := { s with body := { s.body with mover := { live := [(1, { q := 63, slot := 0, qseq := 0, desc := d, started := 0 })] } } }
def mov1 (d : List Byte) : Mov := { q := 63, slot := 0, qseq := 0, desc := d, started := 0 }
def shAt (o : Nat) : Nat := 2 ^ 52 + 4 * 2 ^ 48 + o
/-- A message of 64 bytes of the host window to chip 2. -/
def sendD : List Byte := leBytes 64 (1 + 4 * 2 ^ 8 + 2 * 2 ^ 48 + 64 * 2 ^ 128 + 3 * 2 ^ 160 + 1 * 2 ^ 192)
def sent0 : Sent := { q := 63, slot := 0, qseq := 0, desc := sendD, data := List.replicate 64 0, ordered := false, dst := 2, first := 0, last := 0 }
def podKey0 : List Byte := List.replicate 32 1
def podS (s : State) : State := { s with body := { s.body with sec := { s.body.sec with podCur := some (7, podKey0) } } }
def xptS (f : Xpt → Xpt) (s : State) : State := { s with body := { s.body with xpt := f s.body.xpt } }
/-- The header of a packet of chip 2 for chip 5. -/
def pkt0 : Packet := { routeDst := 5, src := 2, dst := 5, epoch := 7, seq := 9, bufId := 3, bufGen := 1, pktLen := 1, totalLen := 1 }
def ack0 : Packet := { pkt0 with kind := 1, pktLen := 0, totalLen := 0 }

theorem leBytes_length (n v : Nat) : (leBytes n v).length = n := by
  induction n generalizing v with
  | zero => rfl
  | succ n h => simp [leBytes, h]

theorem gcmTag_length (key nonce aad c : List Byte) : (gcmTag key nonce aad c).length = 16 := by
  simp [gcmTag, beBytes, leBytes_length]

/-- A packet sealed as R251 has it opens. -/
theorem opens_mk {s : State} (hdr c k : List Byte) (l : hdr.length = 56) (a : (packetOf hdr).kind < 4) (b : podKeyOf s (packetOf hdr).epoch = some k)
    (d : (packetOf hdr).dst = s.chipId ∧ (packetOf hdr).dst = (packetOf hdr).routeDst) :
    opens s (hdr ++ (c ++ gcmTag (saKey k (packetOf hdr).src s.chipId (packetOf hdr).epoch) (saNonce (packetOf hdr).src (packetOf hdr).nonce) (hdr.drop 8) c)) =
      some (gcmCrypt (saKey k (packetOf hdr).src s.chipId (packetOf hdr).epoch) (saNonce (packetOf hdr).src (packetOf hdr).nonce) c) := by
  generalize ht : gcmTag (saKey k (packetOf hdr).src s.chipId (packetOf hdr).epoch) (saNonce (packetOf hdr).src (packetOf hdr).nonce) (hdr.drop 8) c = t
  have lt : t.length = 16 := ht ▸ gcmTag_length _ _ _ _
  have e1 : (hdr ++ (c ++ t)).take 56 = hdr := by rw [← l]; exact List.take_left' rfl
  have e2 : (hdr ++ (c ++ t)).drop 56 = c ++ t := by rw [← l]; exact List.drop_left' rfl
  have e3 : (hdr ++ (c ++ t)).length - 72 = c.length := by simp only [List.length_append, l, lt]; omega
  have e4 : (hdr ++ (c ++ t)).drop (56 + c.length) = t := by rw [← List.drop_drop, e2]; exact List.drop_left' rfl
  have e5 : ¬ (hdr ++ (c ++ t)).length < 72 := by simp only [List.length_append, l, lt]; omega
  have a' : ¬ 4 ≤ (packetOf hdr).kind := by omega
  simp only [opens, e1, e2, e3, e4, if_neg a', b, List.take_left', ht]
  simp [d.1, ← d.2, l, lt]
  omega
/-- Every way of near state is open to every kind and group; far frame 9 holds a page. -/
def hintS : State := withFrames [(k9, f9)] (withFlds [(Fld.STM_NPART_KIND_MASK 0, 255), (Fld.STM_NPART_GROUP_MASK 0, 65535), (Fld.STM_NPART_WAY_MASK 0, 1)] chip5)

/-- Whichever set the hash gives, its first way is free. -/
theorem hint_place (x : Nat) (h : x < 2 ^ 28) : placeInSet hintS (permittedWays hintS .cache 0) (fkey 0 x) 2 = some (fkey 0 x, nop) := by
  have a : bitsOf (permittedWays hintS .cache 0) 0 1 = 1 := by decide +kernel
  have f : hintS.frame (fkey 0 x) = none := by
    have e : hintS.body.pages.frames = [(k9, f9)] := rfl
    have n : fkey 0 x ≠ k9 := by unfold fkey k9; simp only [fkey]; omega
    simp [State.frame, e, tget, n.symm]
  have d : hintS.body.coh.dir = [] := rfl
  have g : hintS.mayAlloc (fkey 0 x) = true := by simp [State.mayAlloc, f, d, tget]
  simp [placeInSet, firstBelow, firstFrom, a, g]

theorem hint_read (l i : Nat) : (issueRead hintS h0 l i 0 .cache far9 2).isSome = true := by
  have p : placeOf hintS far9 = .far k9 := by decide +kernel
  have f : hintS.frame k9 = some f9 := rfl
  have g : hintS.group 0 = 0 := by decide +kernel
  have r : run nop hintS = hintS := rfl
  unfold issueRead
  simp only [p, f, g, show f9.hdr.lowRank = false from rfl, Bool.false_eq_true, if_false, Option.isSome_map, r, placeNear, nearPlaces]
  rw [hint_place _ (by omega)]
  rfl

theorem hint_reads : (issueRead hintS f9.hdr.owner f9.hdr.layer (f9.hdr.firstPos / 2 ^ f9.hdr.pLog2) f9.hdr.tenant f9.kind
    (leNat ((leBytes 8 far9 ++ leBytes 8 0).take 8)) 2).isSome = true := by
  rw [show leNat ((leBytes 8 far9 ++ leBytes 8 0).take 8) = far9 by decide +kernel]
  exact hint_read _ _

/-! ### Receiving, links, the Herder, Collars -/

def linkS (p : Nat) (l : Link) (s : State) : State :=
  let s := withFlds [(Fld.FAB_PORT_STATUS_UP p, 1)] s
  { s with body := { s.body with links := [(p, l)] } }
def tq0 (c : Nat) : TQueue := { items := [{ len := 64, vc := c, idx := 0 }], tagged := true }
def herdS (l : List (Nat × TQueue)) (s : State) : State := { s with body := { s.body with herder := { s.body.herder with queues := l } } }
def jobsS (f : Jobs → Jobs) (s : State) : State := { s with body := { s.body with jobs := f s.body.jobs } }
def spareS (s : State) : State := addReg Reg.FAB_SPARE_MAP 0 (addReg (Reg.ISL_SPARE 7) (4 * 2 ^ 32 + 4) s)
def s127 : State := linkS 1 { credits := [1, 1, 1, 1] } (herdS [(127, tq0 3)] chip5)
theorem only_127 : ∀ x, x < 128 → 64 < x → x ≠ 127 → selectable (run herderSync s127) 1 x = false := by decide +kernel

/-! ### Step jobs -/

/-- A step-job descriptor of h0: opcode, mode and mask, rows, formats; step 1 under epoch 1, scale 1.0. -/
def jd (op mask nq outFmt : Nat) : List Byte :=
  leBytes 64 (op + outFmt * 2 ^ 12 + mask * 2 ^ 14 + nq * 2 ^ 32 + h0 * 2 ^ 64 + (if mask = 1 then 4096 * 2 ^ 224 else 0) + 1 * 2 ^ 320 + 1 * 2 ^ 352 + 0x3F800000 * 2 ^ 416)
/-- Descriptors of a shared prefix and of a merge. -/
def jdPrefix : List Byte := leBytes 64 (0x31 + 1 * 2 ^ 12 + 1 * 2 ^ 32 + h0 * 2 ^ 64 + 0x3F800000 * 2 ^ 416)
def jdMerge : List Byte := leBytes 64 (0x40 + 1 * 2 ^ 32 + 0x3F800000 * 2 ^ 416)
def runnable (p : Phase) : State := pfxS pfx0 (withReq5 { record := rec0 p (some 5) } (some { loc0 with phase := p }) (shares chip5))
/-- Job queue 255, enabled, of 2^12 slots, with a descriptor in slot 0 and a tree of two rows at offset 4096 of the job buffer. -/
def jobQ (d : List Byte) (s : State) : State :=
  memS [(Mem.jobBuffer + 4096, [1]), (Mem.jobBuffer + 4096 + 64, [3]), (Mem.jobSlot 0, d)]
    (withFlds [(Fld.DAE_JQ_CFG_ENABLE 255, 1), (Fld.DAE_JQ_CFG_DEPTH_LOG2 255, 12), (Fld.DAE_JQ_PTR_TAIL 255, 1)] s)
def job0 (d : List Byte) (st : JobSt) : Job := { q := 255, slot := 0, qseq := 0, d := jobDescOf d, st := st, tenant := 0, group := 0, cls := 0, range := [], emit := [], order := 0 }
def withJob (j : Job) (s : State) : State := jobsS (fun x => { x with next := 2, jobs := [(1, j)] }) s
def wide (s : State) : State := withFlds [(Fld.DAE_CLASS_CFG_DAE_GROUPS 0, 1), (Fld.DAE_CLASS_CFG_DAE_GROUPS 1, 1), (Fld.DAE_CLASS_CFG_PAE_GROUPS 0, 1), (Fld.DAE_CLASS_CFG_PAE_GROUPS 1, 1)] s
def jDecode : List Byte := jd 0x20 0 1 0
def jChunk : List Byte := jd 0x10 0 1 0

/-! ### Scent and the sampler -/

/-- A model of one id, so that one logit makes a row. -/
def tiny (s : State) : State := { s with body := { s.body with conf := { s.body.conf with models := [(0, leBytes 64 (2 ^ 48 + 64 * 2 ^ 64 + 2 ^ 80 + 1 * 2 ^ 160))] } } }
def sd (op rows : Nat) : List Byte :=
  leBytes 64 (op + rows * 2 ^ 16 + 1 * 2 ^ 48 + h0 * 2 ^ 64 + 1 * 2 ^ 128 + 1 * 2 ^ 160 + (if op = 1 then 0 else 2048 * 2 ^ 224))
/-- A gather of index 0, in one segment that is not counted. -/
def gd : List Byte := leBytes 64 (8 + 1 * 2 ^ 48 + 2048 * 2 ^ 224 + 1 * 2 ^ 352)
def smpQ (shard d : List Byte) (s : State) : State :=
  memS [(Mem.jobBuffer, shard), (Mem.smpSlot 15 0, d)] (withFlds [(Fld.SMP_SQ_CFG_ENABLE 15, 1), (Fld.SMP_SQ_CFG_DEPTH_LOG2 15, 8), (Fld.SMP_SQ_PTR_TAIL 15, 1)] s)
def shard0 : List Byte := leBytes 16 (1024 + 1 * 2 ^ 64 + 1 * 2 ^ 85)
def genS : State := tiny (withReq5 { record := rec0 .generating (some 5) } (some { loc0 with phase := .generating, tree := [1, 3] }) (shares chip5))
def m67 (v : Nat) (s : State) : State := withFlds [(Fld.SCT_CTL_RECAL_DEG, 5), (Fld.SCT_CTL_CAL_FAIL_LIMIT, 1)] (addReg (Reg.SCT_MACRO 67) v s)
/-- Macro 67 in service and due, its other fields at values of the device's. -/
def s67 : State := run (setReg (Reg.SCT_MACRO 67) 4) (withFlds [(Fld.SCT_CTL_MAX_CAL, 1)] chip5)

theorem rd_setReg_same {s : State} {a v : Nat} (h : risingKeys s.regs = true) (hv : v < 2 ^ 64) : (run (setReg a v) s).rd a = v :=
  regRead_regPut_same a v h hv
theorem rd_setReg_other {s : State} {a b v : Nat} (h : b ≠ a) : (run (setReg a v) s).rd b = s.rd b := regRead_regPut_other _ _ h
theorem s67_canonical : s67.canonical := run_keeps applyEff_canonical _ _ (canonical_mk (by decide +kernel))
theorem s67_rd : s67.rd (Reg.SCT_MACRO 67) = 4 := rd_setReg_same (by decide +kernel) (by decide)
theorem s67_other {a : Nat} (h : a ≠ Reg.SCT_MACRO 67) : s67.rd a = (withFlds [(Fld.SCT_CTL_MAX_CAL, 1)] chip5).rd a := rd_setReg_other h
theorem s67_get {f : Fld} (h : f.addr ≠ Reg.SCT_MACRO 67) : s67.get f = (withFlds [(Fld.SCT_CTL_MAX_CAL, 1)] chip5).get f :=
  congrArg (fun v => bitsOf v f.lo f.w) (s67_other h)
theorem s67_works : s67.works = true := by
  have a : s67.get Fld.PWR_STATUS_PF_STATE = 0 := (s67_get (by decide)).trans (by decide +kernel)
  have b : s67.is Fld.PWR_STATUS_TRIP = false := (congrArg (· == 1) (s67_get (f := Fld.PWR_STATUS_TRIP) (by decide))).trans (by decide +kernel)
  have c : s67.body.plat.pinsTaken = false := rfl
  rw [State.works, a, b, c]; rfl
theorem s67_due : s67.calDue 67 = true := by
  have a : s67.get (Fld.SCT_MACRO_DUE 67) = 1 := (congrArg (fun v => bitsOf v 2 1) s67_rd).trans (by decide)
  have b : s67.get (Fld.SCT_MACRO_STATE 67) = 0 := (congrArg (fun v => bitsOf v 0 2) s67_rd).trans (by decide)
  rw [State.calDue, State.is, a, State.mac, b]; rfl
theorem s67_room : s67.get Fld.SCT_STATUS_CALIBRATING < s67.get Fld.SCT_CTL_MAX_CAL := by
  rw [s67_get (by decide), s67_get (by decide)]; decide +kernel

/-! ### The Kennel -/

def prof0 : List Byte := (leBytes 2 1 ++ leBytes 2 1 ++ leBytes 2 1 ++ leBytes 2 1 ++ leBytes 2 1) ++ List.replicate 502 0
def pop0 (mode : Nat) : NandPop := { uniform := true, rejected := false, targets := 8, luns := 4, planes := 4, bpc := 4, spareB := 2048, blocks := 1, pages := 1, mode := mode, good := [] }
def ramS (f : KRam → KRam) (s : State) : State := { s with body := { s.body with knl := { s.body.knl with ram := f s.body.knl.ram } } }
def flashS (f : KFlash → KFlash) (s : State) : State := { s with body := { s.body with knl := { s.body.knl with flash := f s.body.knl.flash } } }
def prog0 (k : Nat) : Prog := { tag := { seq := 1, slot := 4, index := 0, kind := k }, why := .park 4 }
def kBoot : State := knlOn chip5
/-- The power-fail flush runs. -/
def kFlush : State := withFlds [(Fld.PWR_STATUS_PF_STATE, 1)] kBoot
/-- One closed superblock of group 0. -/
def kClosed (slc : Bool) : State := ramS (fun r => { r with supers := [(sbKey 0 9, { st := .closed slc, seq := 1 })] }) (flashS (fun f => { f with good := (List.range 16).map fun d => (d, 12) }) kBoot)
def resume0 (u : Nat) : Resume := { slot := 4, ref := ⟨.mailbox, 0⟩, toRead := [(0, u)] }
/-- The straps at 0. -/
def strapsS (s : State) : State := addReg Reg.PWR_STRAPS 0 s
/-- One far partition of all channels, open to every kind and group. -/
def farOn (s : State) : State := withFlds [(Fld.STM_FPART_CHAN_SIZE 0, 1), (Fld.STM_FPART_KIND_MASK 0, 255), (Fld.STM_FPART_GROUP_MASK 0, 65535)] s

/-! ### Firmware, security, reports, the host -/

/-- The boot flash holds a form-valid image in slot 1; the fused key 0 serves; the device's serial and boot nonce are 0. -/
def secS (s : State) : State :=
  memS [(Mem.fwSlot 1, leBytes 4 0x4B514246 ++ leBytes 4 1 ++ leBytes 4 512 ++ leBytes 12 0 ++ leBytes 8 0xC00640 ++ leBytes 4 0 ++ leBytes 4 64)]
    (addReg Reg.SEC_ARB 0 (addReg Reg.SEC_FUSE_KEYS 1 (addReg (Reg.SEC_BOOT_NONCE 3) 0 (addReg (Reg.SEC_BOOT_NONCE 2) 0 (addReg (Reg.SEC_BOOT_NONCE 1) 0 (addReg (Reg.SEC_BOOT_NONCE 0) 0
      (addReg Reg.GLB_SERIAL 0 s)))))))
def fwS (a : FwAct) : State := { chip5 with body := { chip5.body with plat := { chip5.body.plat with fwAct := some a } } }
def fwA (left updated : List Nat) : FwAct := { ref := none, slot := 1, left := left, updated := updated }
def onSecS (f : Sec → Sec) (s : State) : State := { s with body := { s.body with sec := f s.body.sec } }
def wrap0 (purpose len bind tenant : Nat) : List Byte :=
  leBytes 1 1 ++ leBytes 1 purpose ++ leBytes 2 len ++ leBytes 4 bind ++ leBytes 2 tenant ++ List.replicate (0x78 + len + 16 - 10) 0
def token0 : List Byte := leBytes 2 1 ++ List.replicate 262 0
def platS (f : Plat → Plat) (s : State) : State := { s with body := { s.body with plat := f s.body.plat } }
def cxlS (op : Nat) (p : List Byte) : State := { chip5 with body := { chip5.body with mbox := { cxlCmd := some (op, p) } } }
def evRec : BarkRec := { cls := 0, severity := 1, flag := 0, seq := 7 }
def cxlLog (op : Nat) (p : List Byte) (n : Nat) : State := { cxlS op p with body := { (cxlS op p).body with cxl := { logs := [[], List.replicate n evRec, [], []] } } }
def hostS (s : State) : State :=
  let s := withFlds [(Fld.GLB_STATUS_HOST_MODE, 1), (Fld.GLB_STATUS_MEM_ACTIVE, 1)] s
  { s with body := { s.body with cxl := { s.body.cxl with hdmBase := some 0 } } }

theorem flatMap_le {α : Type} (f : α → List Byte) (n : Nat) (h : ∀ x, (f x).length ≤ n) (l : List α) : (l.flatMap f).length ≤ n * l.length := by
  induction l with
  | nil => simp
  | cons x l ih =>
    have := h x
    simp only [List.flatMap_cons, List.length_append, List.length_cons, Nat.mul_succ]
    omega

/-- Whatever the certificates, they fit in an output of 128 KiB. -/
theorem cert_fits : certOutput.length ≤ 2 ^ 17 := by
  have h := flatMap_le (fun i => leBytes 4 ((Config.certificate i).take 2724).length ++ (Config.certificate i).take 2724 ++
    List.replicate ((4 - ((Config.certificate i).take 2724).length % 4) % 4) 0) 2731 (fun i => by
      have : ((Config.certificate i).take 2724).length ≤ 2724 := by simp
      simp only [List.length_append, leBytes_length, List.length_replicate]; omega) (List.range 3)
  simp only [List.length_range] at h
  simp only [certOutput, List.length_append, leBytes_length]
  omega

theorem cel_fits : pnum (celUuid ++ leBytes 4 0 ++ leBytes 4 4) 16 4 + pnum (celUuid ++ leBytes 4 0 ++ leBytes 4 4) 20 4 ≤ celBytes.length := by
  have h : celBytes = celBytes := rfl
  rw [show pnum (celUuid ++ leBytes 4 0 ++ leBytes 4 4) 16 4 + pnum (celUuid ++ leBytes 4 0 ++ leBytes 4 4) 20 4 = 4 by decide +kernel]
  simp only [celBytes, cxlOpcodes, List.cons_append, List.flatMap_cons, List.length_append, leBytes_length]
  omega

/-! ### Islands, power, tests, and the whole machine -/

/-- Chip 5 with island n in a state, its clock, voltage and temperature at values of the device's. -/
def islC (n st : Nat) : State := run (setReg (Reg.ISL_STATE n) st) chip5
theorem islC_canonical (n st : Nat) : (islC n st).canonical := run_keeps applyEff_canonical _ _ (canonical_mk (by decide +kernel))
theorem islC_isl (n : Nat) {st : Nat} (h : st < 8) : (islC n st).isl n = st := by
  have e : (islC n st).rd (Reg.ISL_STATE n) = st := rd_setReg_same (by decide +kernel) (by omega)
  show bitsOf ((islC n st).rd (Reg.ISL_STATE n)) 0 3 = st
  rw [e, bitsOf]
  omega
theorem islC_get (n st : Nat) {f : Fld} (h : f.addr ≠ Reg.ISL_STATE n) : (islC n st).get f = chip5.get f :=
  congrArg (fun v => bitsOf v f.lo f.w) (rd_setReg_other h)
theorem islC_works {n : Nat} (st : Nat) (h : Reg.PWR_STATUS ≠ Reg.ISL_STATE n) : (islC n st).works = true := by
  have a : (islC n st).get Fld.PWR_STATUS_PF_STATE = 0 := (islC_get n st h).trans (by decide +kernel)
  have b : (islC n st).is Fld.PWR_STATUS_TRIP = false :=
    (congrArg (· == 1) (islC_get n st (f := Fld.PWR_STATUS_TRIP) h)).trans (by decide +kernel)
  have c : (islC n st).body.plat.pinsTaken = false := rfl
  rw [State.works, a, b, c]; rfl
theorem islC_idle {n st : Nat} (h : Fld.ISL_CTL_IDLE_US.addr ≠ Reg.ISL_STATE n) : (islC n st).get Fld.ISL_CTL_IDLE_US ≠ 0 := by
  rw [islC_get n st h]; decide +kernel

def islS (n st : Nat) : State := withFlds [(Fld.ISL_STATE_STATE n, st)] chip5
theorem bsrFits_zero : bsrFits 0 = true := by
  unfold bsrFits bsrBound
  exact decide_eq_true (Nat.two_pow_pos 2615)
def stopped1 (s : State) : State := withFlds [(Fld.PWR_STATUS_PF_STATE, 1)] s
def scopeS (k : Nat) : State := withFlds [(Fld.TST_STATUS_SCOPE, k)] chip5
/-- 4,095 records wait. -/
def barkS (stored : Nat) : State := { chip5 with bark := { made := stored, stored := stored } }
def fullRec (sev : Nat) : BarkRec := { cls := 24, severity := sev, flag := 0 }

theorem reset_balanced : State.reset.led.balanced := empty_balanced
theorem reset_accounted : State.reset.bark.accounted := ⟨rfl, by decide, by decide⟩
/-- A ledger with one request admitted, which lives. -/
theorem live_balanced : ({ admitted := 1, live := 1 } : Ledger).balanced :=
  { credits := empty_balanced.credits, buffers := empty_balanced.buffers, collars := empty_balanced.collars, arrivals := empty_balanced.arrivals,
    requests := rfl, references := empty_balanced.references, rising := empty_balanced.rising }
/-- A state whose next step is a command. -/
def next5 (c : Instr) (s : State) : State := { s with pending := [c] }

theorem witness_InterfaceCommands :
    (∃ (s : State) (src : _) (c : _) (u : State), Runs s src 0x0101 c u ∧ c.arg 0 8 = u.get Fld.GLB_VERSION_IFACE_MAJOR) ∧
    (∃ (s : State) (src : _) (c : _) (u : State), Runs s src 0x0102 c u ∧ (identifyOut u src).length ≤ c.outLen) ∧
    (∃ (s : State) (src : _) (c : _) (u : State), Runs s src 0x0201 c u ∧ 1792 ≤ c.outLen) :=
  ⟨⟨ask (cmdOf 0x0101 [3, 0]) (sOpen), .mailbox, cmdOf 0x0101 [3, 0], _, runs_mk (by decide +kernel), (by decide +kernel)⟩,
   ⟨ask (cmdOf 0x0102 []) (State.reset), .mailbox, cmdOf 0x0102 [], _, runs_mk (by decide +kernel), (by decide +kernel)⟩,
   ⟨ask (cmdOf 0x0201 []) (State.reset), .mailbox, cmdOf 0x0201 [], _, runs_mk (by decide +kernel), (by decide +kernel)⟩⟩

theorem witness_ConfigurationCommands :
    (∃ (s : State) (src : _) (c : _) (u : State) (l : _), Runs s src 0x0103 c u ∧ u.body.conf.run = none ∧ parseItems (cmdInput u src c).length (cmdInput u src c) 0 u.body.conf.staged = .ok l) ∧
    (∃ (s : State) (src : _) (c : _) (u : State), Runs s src 0x0107 c u ∧ ((configItems u (c.arg 0 8)).flatMap itemBytes).length ≤ c.outLen) ∧
    (∃ (s : State) (src : _) (c : _) (u : State), Runs s src 0x0108 c u ∧ u.body.conf.run = none) ∧
    (∃ (s : State) (src : _) (c : _) (u : State), Runs s src 0x0105 c u ∧ u.body.conf.run = none ∧ u.is Fld.GLB_STATUS_CFG_PENDING = true ∧ u.get Fld.GLB_CFG_PEND_PENDING = c.arg 0 32) ∧
    (∃ (s : State) (src : _) (c : _) (u : State), Runs s src 0x0104 c u ∧ u.body.conf.run = none ∧ u.body.plat.fwAct = none ∧ u.is Fld.GLB_STATUS_CFG_PENDING = false ∧ u.get Fld.GLB_CFG_VER_RUNNING < c.arg 0 32 ∧ configOk u (tentative u u.body.conf.staged) = true) ∧
    (∃ (s : State) (src : _) (c : _) (u : State) (l : _), Runs s src 0x0106 c u ∧ u.body.conf.run = none ∧ u.body.plat.fwAct = none ∧ u.body.conf.previous = some l) ∧
    (∃ (s : State) (l : _), s.works = true ∧ s.is Fld.GLB_STATUS_CFG_PENDING = true ∧ s.body.conf.run = none ∧ s.body.plat.fwAct = none ∧ s.body.conf.previous = some l) ∧
    (∃ (s : State) (r : CfgRun), s.works = true ∧ s.body.conf.run = some r ∧ ((∀ e g, e < 2 → g < 16 → changing s e g = true → bitsOf (if e = 0 then s.get Fld.DAE_STATUS_GROUPS_BUSY else s.get Fld.PAE_STATUS_GROUPS_BUSY) g 1 = 0 ∧ s.isl (groupIsland e g) ≠ IslSt.reset))) ∧
    (∃ (s : State) (r : CfgRun), ((∀ p, (run (onConf fun x => { x with run := some r }) s).nextPers = some p → p = s.rd Reg.GLB_PERS))) ∧
    (∃ (s : State) (r : CfgRun) (p : Nat), (run (onConf fun x => { x with run := some r }) s).nextPers = some p ∧ p ≠ s.rd Reg.GLB_PERS) :=
  ⟨⟨ask (cmdOf 0x0103 []) (State.reset), .mailbox, cmdOf 0x0103 [], _, [], runs_mk (by decide +kernel), (by decide +kernel), rfl⟩,
   ⟨ask (cmdOf 0x0107 [1]) (State.reset), .mailbox, cmdOf 0x0107 [1], _, runs_mk (by decide +kernel), (by decide +kernel)⟩,
   ⟨ask (cmdOf 0x0108 []) (State.reset), .mailbox, cmdOf 0x0108 [], _, runs_mk (by decide +kernel), (by decide +kernel)⟩,
   ⟨ask (cmdOf 0x0105 [5]) (sPending), .mailbox, cmdOf 0x0105 [5], _, runs_mk (by decide +kernel), (by decide +kernel), (by decide +kernel), (by decide +kernel)⟩,
   ⟨ask (cmdOf 0x0104 [1]) (State.reset), .mailbox, cmdOf 0x0104 [1], _, runs_mk (by decide +kernel), (by decide +kernel), (by decide +kernel), (by decide +kernel), (by decide +kernel), (by decide +kernel)⟩,
   ⟨ask (cmdOf 0x0106 []) (sPending), .mailbox, cmdOf 0x0106 [], _, [], runs_mk (by decide +kernel), (by decide +kernel), (by decide +kernel), (by decide +kernel)⟩,
   ⟨sPending, [], (by decide +kernel), (by decide +kernel), (by decide +kernel), (by decide +kernel), (by decide +kernel)⟩,
   ⟨sRun, run0, (by decide +kernel), (by decide +kernel), (by intro e g he hg hc; exfalso; revert hc; revert g; revert e; decide +kernel)⟩,
   ⟨chip5, run0, fun p h => absurd (h.symm.trans rfl) (Option.some_ne_none p)⟩,
   ⟨addReg Reg.GLB_PERS 0 chip5, { run0 with items := [.reg Reg.GLB_PERS 1] }, 1, (by decide +kernel), (by decide +kernel)⟩⟩

theorem witness_CommitSetsVersion :
    (∃ (s : State) (r : CfgRun), s.canonical ∧ r.heel = false ∧ r.version < 2 ^ 32) ∧
    (∃ (s : State) (r : CfgRun), s.canonical ∧ r.heel = true ∧ r.version < 2 ^ 32) :=
  ⟨⟨State.reset, run0, canonical_mk (by decide +kernel), (by decide +kernel), (by decide +kernel)⟩,
   ⟨State.reset, { run0 with heel := true }, canonical_mk (by decide +kernel), (by decide +kernel), (by decide +kernel)⟩⟩

theorem witness_AdmissionCompletes :
    (∃ (s : State) (src : _) (c : _) (u : State) (r : _) (m : _) (ps : _) (slot : _) (log : _), Runs s src 0x0301 c u ∧ u.tenantRec (c.arg 0 16) = some r ∧ u.modelOfTenant (c.arg 0 16) = some m ∧ admitPrefixes u (c.arg 0 16) m ([c.arg 16 64, c.arg 24 64].filter (· != 0)) = some ps ∧ u.homeMode ≠ 2 ∧ tenantEnabled r = true ∧ ((longest ps).map (·.positions)).getD 0 ≤ admitMax c ∧ ((∀ x, admitMirror c = some x → u.inPod x = true ∧ x ≠ u.chipId)) ∧ admitSlot u = some slot ∧ placeLog u (4096 * logUnits (admitMax c)) = some log) ∧
    (∃ (n : _), n < 2 ^ 32) ∧
    (∃ (s : State) (slot : _), s.homeMode = 0 ∧ s.chipId < 2 ^ 16 ∧ slot < 2 ^ 16) :=
  ⟨⟨ask (cmdOf 0x0301 []) (chip5), .mailbox, cmdOf 0x0301 [], _, _, _, [], 0, _, runs_mk (by decide +kernel), some_mk (by decide +kernel), some_mk (by decide +kernel), (by decide +kernel), (by decide +kernel), (by decide +kernel), (by decide +kernel), (by decide +kernel), (by decide +kernel), some_mk (by decide +kernel)⟩,
   ⟨5, (by decide +kernel)⟩,
   ⟨chip5, 65535, (by decide +kernel), (by decide +kernel), (by decide +kernel)⟩⟩

theorem witness_RequestCommands :
    (∃ (s : State) (src : _) (c : _) (v : State) (u : State) (q : _), Runs s src 0x0306 c v ∧ AtRequest v (c.arg 0 64) u q ∧ (recordBytes q.record).length ≤ c.outLen) ∧
    (∃ (s : State) (src : _) (c : _) (v : State) (u : State) (q : _), Runs s src 0x0303 c v ∧ AtRequest v (c.arg 0 64) u q ∧ phaseLive q.record.phase = true ∧ q.closing = false) ∧
    (∃ (s : State) (src : _) (c : _) (v : State) (u : State) (q : _), Runs s src 0x0303 c v ∧ AtRequest v (c.arg 0 64) u q ∧ phaseLive q.record.phase = true ∧ q.closing = true) ∧
    (∃ (s : State) (src : _) (c : _) (v : State) (u : State) (q : _), Runs s src 0x0303 c v ∧ AtRequest v (c.arg 0 64) u q ∧ phaseLive q.record.phase = false) ∧
    (∃ (s : State) (src : _) (c : _) (v : State) (u : State) (q : _) (toks : _), Runs s src 0x0304 c v ∧ AtLive v (c.arg 0 64) u q ∧ toks = ((List.range (c.arg 12 16)).map fun i => leNat (((cmdInput u src c).drop (4 * i)).take 4)) ∧ 4 * c.arg 12 16 + (if c.arg 14 8 = 1 then 16 else 0) ≤ (cmdInput u src c).length ∧ ((∀ t ∈ toks, t < 2 ^ 20)) ∧ c.arg 8 32 = q.record.log.length ∧ (c.arg 14 8 = 1 → q.record.turnRecs ≠ []) ∧ q.record.log.length + c.arg 12 16 ≤ q.record.maxPositions + 16) ∧
    (∃ (s : State) (src : _) (c : _) (v : State) (u : State) (q : _) (toks : _), Runs s src 0x0304 c v ∧ AtLive v (c.arg 0 64) u q ∧ toks = ((List.range (c.arg 12 16)).map fun i => leNat (((cmdInput u src c).drop (4 * i)).take 4)) ∧ 4 * c.arg 12 16 + (if c.arg 14 8 = 1 then 16 else 0) ≤ (cmdInput u src c).length ∧ ((∀ t ∈ toks, t < 2 ^ 20)) ∧ c.arg 8 32 < q.record.log.length ∧ (q.record.log.drop (c.arg 8 32)).take (c.arg 12 16) = toks ∧ c.arg 8 32 + c.arg 12 16 ≤ q.record.log.length) :=
  ⟨⟨ask (cmdOf 0x0306 (aH [])) (owned .listening (some 5)), .mailbox, cmdOf 0x0306 (aH []), _, _, _, runs_mk (by decide +kernel), atRequest_mk (by decide +kernel) (by decide +kernel), (by decide +kernel)⟩,
   ⟨ask (cmdOf 0x0303 (aH [])) (owned .listening (some 5)), .mailbox, cmdOf 0x0303 (aH []), _, _, _, runs_mk (by decide +kernel), atRequest_mk (by decide +kernel) (by decide +kernel), (by decide +kernel), (by decide +kernel)⟩,
   ⟨ask (cmdOf 0x0303 (aH [])) (withReq5 { record := rec0 .listening (some 5), closing := true } none chip5), .mailbox, cmdOf 0x0303 (aH []), _, _, _, runs_mk (by decide +kernel), atRequest_mk (by decide +kernel) (by decide +kernel), (by decide +kernel), (by decide +kernel)⟩,
   ⟨ask (cmdOf 0x0303 (aH [])) (owned .closed none), .mailbox, cmdOf 0x0303 (aH []), _, _, _, runs_mk (by decide +kernel), atRequest_mk (by decide +kernel) (by decide +kernel), (by decide +kernel)⟩,
   ⟨ask (cmdOf 0x0304 (aH (leBytes 4 0 ++ le16 0 ++ [0]))) (owned .listening (some 5)), .mailbox, cmdOf 0x0304 (aH (leBytes 4 0 ++ le16 0 ++ [0])), _, _, _, _, runs_mk (by decide +kernel), atLive_mk (atRequest_mk (by decide +kernel) (by decide +kernel)) (by decide +kernel), rfl, (by decide +kernel), (by decide +kernel), (by decide +kernel), (by decide +kernel), (by decide +kernel)⟩,
   ⟨ask (cmdIn 0x0304 (aH (leBytes 4 0 ++ le16 1 ++ [0])) [7, 0, 0, 0]) (withReq5 { record := { rec0 .listening (some 5) with log := [7] } } none chip5), .mailbox, cmdIn 0x0304 (aH (leBytes 4 0 ++ le16 1 ++ [0])) [7, 0, 0, 0], _, _, _, _, runs_mk (by decide +kernel), atLive_mk (atRequest_mk (by decide +kernel) (by decide +kernel)) (by decide +kernel), rfl, (by decide +kernel), (by decide +kernel), (by decide +kernel), rfl, (by decide +kernel)⟩⟩

theorem witness_HandoffCommandTakesEffect :
    (∃ (s : State) (src : _) (c : _) (v : State) (u : State) (q : _) (target : _) (o : _), Runs s src 0x0302 c v ∧ AtLive v (c.arg 0 64) u q ∧ phaseOf (c.arg 10 8) = some target ∧ handoffAllowed q.record.phase target = true ∧ q.phaseChg = none ∧ q.record.owner = some o ∧ o ≠ c.arg 8 16 ∧ (c.arg 11 8 = 2 → u.inPod (c.arg 8 16) = true ∧ u.inPod o = true)) ∧
    (∃ (s : State) (src : _) (c : _) (v : State) (u : State) (q : _) (target : _), Runs s src 0x0302 c v ∧ AtLive v (c.arg 0 64) u q ∧ phaseOf (c.arg 10 8) = some target ∧ handoffAllowed q.record.phase target = true ∧ q.phaseChg = none ∧ q.record.owner = some u.chipId ∧ c.arg 8 16 = u.chipId ∧ u.hasShare target = true) ∧
    (∃ (s : State) (src : _) (c : _) (v : State) (u : State) (q : _) (target : _), Runs s src 0x0302 c v ∧ AtLive v (c.arg 0 64) u q ∧ phaseOf (c.arg 10 8) = some target ∧ handoffAllowed q.record.phase target = true ∧ q.phaseChg = none ∧ q.record.owner = some (c.arg 8 16) ∧ c.arg 8 16 ≠ u.chipId) ∧
    (∃ (s : State) (src : _) (c : _) (v : State) (u : State) (q : _), Runs s src 0x0302 c v ∧ AtLive v (c.arg 0 64) u q ∧ phaseOf (c.arg 10 8) = some q.record.phase ∧ q.record.owner = some (c.arg 8 16) ∧ (handoffAllowed q.record.phase .prompting || handoffAllowed q.record.phase .listening)) :=
  ⟨⟨ask (cmdOf 0x0302 (aH (le16 2 ++ [1, 2]))) (podOf (owned .listening (some 5))), .mailbox, cmdOf 0x0302 (aH (le16 2 ++ [1, 2])), _, _, _, .prompting, 5, runs_mk (by decide +kernel), atLive_mk (atRequest_mk (by decide +kernel) (by decide +kernel)) (by decide +kernel), (by decide +kernel), (by decide +kernel), (by decide +kernel), (by decide +kernel), (by decide +kernel), (by decide +kernel)⟩,
   ⟨ask (cmdOf 0x0302 (aH (le16 5 ++ [1, 0]))) (shares (owned .listening (some 5))), .mailbox, cmdOf 0x0302 (aH (le16 5 ++ [1, 0])), _, _, _, .prompting, runs_mk (by decide +kernel), atLive_mk (atRequest_mk (by decide +kernel) (by decide +kernel)) (by decide +kernel), (by decide +kernel), (by decide +kernel), (by decide +kernel), (by decide +kernel), (by decide +kernel), (by decide +kernel)⟩,
   ⟨ask (cmdOf 0x0302 (aH (le16 2 ++ [1, 0]))) (owned .listening (some 2)), .mailbox, cmdOf 0x0302 (aH (le16 2 ++ [1, 0])), _, _, _, .prompting, runs_mk (by decide +kernel), atLive_mk (atRequest_mk (by decide +kernel) (by decide +kernel)) (by decide +kernel), (by decide +kernel), (by decide +kernel), (by decide +kernel), (by decide +kernel), (by decide +kernel)⟩,
   ⟨ask (cmdOf 0x0302 (aH (le16 5 ++ [4, 0]))) (owned .listening (some 5)), .mailbox, cmdOf 0x0302 (aH (le16 5 ++ [4, 0])), _, _, _, runs_mk (by decide +kernel), atLive_mk (atRequest_mk (by decide +kernel) (by decide +kernel)) (by decide +kernel), (by decide +kernel), (by decide +kernel), (by decide +kernel)⟩⟩

theorem witness_RecoveryCommands :
    (∃ (s : State) (src : _) (c : _) (v : State) (u : State) (q : _), Runs s src 0x0305 c v ∧ AtRequest v (c.arg 0 64) u q ∧ phaseLive q.record.phase = true ∧ q.closing = false ∧ q.record.replayPending = true ∧ q.record.replaying = false ∧ q.record.owner = none ∧ (c.arg 8 16) ∉ u.body.home.failedChips ∧ (c.arg 8 16 = u.chipId → u.hasPrompt = true ∧ u.hasShare q.record.phase = true)) ∧
    (∃ (s : State) (src : _) (c : _) (v : State) (u : State) (q : _), Runs s src 0x0305 c v ∧ AtRequest v (c.arg 0 64) u q ∧ phaseLive q.record.phase = true ∧ q.closing = false ∧ q.record.replaying = true ∧ (c.arg 8 16) ∉ u.body.home.failedChips ∧ q.replayChip = c.arg 8 16) ∧
    (∃ (s : State) (src : _) (c : _) (u : State), Runs s src 0x0307 c u ∧ c.arg 0 16 ≠ u.chipId ∧ (u.is Fld.RQT_PARTNER_VALID = true → u.get Fld.RQT_PARTNER_PARTNER ≠ c.arg 0 16) ∧ u.body.home.mirrorOf ≠ some (c.arg 0 16)) ∧
    (∃ (s : State) (src : _) (c : _) (u : State), Runs s src 0x0308 c u ∧ u.homeMode = 0 ∧ u.body.home.setPartner = none ∧ c.arg 0 16 ≠ 0 ∧ c.arg 0 16 ≠ u.chipId ∧ u.body.home.reqs = []) ∧
    (∃ (s : State) (src : _) (c : _) (u : State), Runs s src 0x0308 c u ∧ u.homeMode = 0 ∧ u.body.home.setPartner = none ∧ c.arg 0 16 ≠ 0 ∧ c.arg 0 16 ≠ u.chipId ∧ u.body.home.reqs ≠ []) ∧
    (∃ (s : State) (src : _) (c : _) (u : State), Runs s src 0x0308 c u ∧ u.homeMode ≠ 2 ∧ u.body.home.setPartner = none ∧ c.arg 0 16 = 0) ∧
    (∃ (s : State) (src : _) (c : _) (v : State) (u : State) (q : _), Runs s src 0x0309 c v ∧ AtLive v (c.arg 0 64) u q ∧ q.record.phase ≠ .handoff ∧ q.record.phase ≠ .parking ∧ q.record.phase ≠ .resuming ∧ q.record.mirrored = false ∧ c.arg 8 16 ≠ 0 ∧ u.inPod (c.arg 8 16) = true ∧ q.record.owner ≠ some (c.arg 8 16)) ∧
    (∃ (s : State) (src : _) (c : _) (v : State) (u : State) (q : _), Runs s src 0x0309 c v ∧ AtLive v (c.arg 0 64) u q ∧ q.record.phase ≠ .handoff ∧ q.record.phase ≠ .parking ∧ q.record.phase ≠ .resuming ∧ q.record.mirrored = true ∧ c.arg 8 16 = 0 ∧ q.record.stateMirror ≠ 0) :=
  ⟨⟨ask (cmdOf 0x0305 (aH (le16 5))) (shares (withReq5 lost0 none chip5)), .mailbox, cmdOf 0x0305 (aH (le16 5)), _, _, _, runs_mk (by decide +kernel), atRequest_mk (by decide +kernel) (by decide +kernel), (by decide +kernel), (by decide +kernel), (by decide +kernel), (by decide +kernel), (by decide +kernel), (by decide +kernel), (by decide +kernel)⟩,
   ⟨ask (cmdOf 0x0305 (aH (le16 3))) (withReq5 repl0 none chip5), .mailbox, cmdOf 0x0305 (aH (le16 3)), _, _, _, runs_mk (by decide +kernel), atRequest_mk (by decide +kernel) (by decide +kernel), (by decide +kernel), (by decide +kernel), (by decide +kernel), (by decide +kernel), (by decide +kernel)⟩,
   ⟨ask (cmdOf 0x0307 (le16 9)) (chip5), .mailbox, cmdOf 0x0307 (le16 9), _, runs_mk (by decide +kernel), (by decide +kernel), (by decide +kernel), (by decide +kernel)⟩,
   ⟨ask (cmdOf 0x0308 (le16 65535)) (chip5), .mailbox, cmdOf 0x0308 (le16 65535), _, runs_mk (by decide +kernel), (by decide +kernel), (by decide +kernel), (by decide +kernel), (by decide +kernel), (by decide +kernel)⟩,
   ⟨ask (cmdOf 0x0308 (le16 1)) (owned .listening (some 5)), .mailbox, cmdOf 0x0308 (le16 1), _, runs_mk (by decide +kernel), (by decide +kernel), (by decide +kernel), (by decide +kernel), (by decide +kernel), (by decide +kernel)⟩,
   ⟨ask (cmdOf 0x0308 (le16 0)) (chip5), .mailbox, cmdOf 0x0308 (le16 0), _, runs_mk (by decide +kernel), (by decide +kernel), (by decide +kernel), (by decide +kernel)⟩,
   ⟨ask (cmdOf 0x0309 (aH (le16 2))) (podOf (owned .listening (some 5))), .mailbox, cmdOf 0x0309 (aH (le16 2)), _, _, _, runs_mk (by decide +kernel), atLive_mk (atRequest_mk (by decide +kernel) (by decide +kernel)) (by decide +kernel), (by decide +kernel), (by decide +kernel), (by decide +kernel), (by decide +kernel), (by decide +kernel), (by decide +kernel), (by decide +kernel)⟩,
   ⟨ask (cmdOf 0x0309 (aH (le16 0))) (withReq5 mirr0 (some loc0) chip5), .mailbox, cmdOf 0x0309 (aH (le16 0)), _, _, _, runs_mk (by decide +kernel), atLive_mk (atRequest_mk (by decide +kernel) (by decide +kernel)) (by decide +kernel), (by decide +kernel), (by decide +kernel), (by decide +kernel), (by decide +kernel), (by decide +kernel), (by decide +kernel)⟩⟩

theorem witness_PrefixCommands :
    (∃ (s : State) (src : _) (c : _) (u : State) (p : _), Runs s src 0x0402 c u ∧ u.prefixOf (c.arg 0 64) = some p ∧ p.hostRef = true) ∧
    (∃ (s : State) (src : _) (c : _) (u : State) (p : _), Runs s src 0x0404 c u ∧ u.prefixOf (c.arg 0 64) = some p ∧ c.arg 8 8 = 0) ∧
    (∃ (s : State) (src : _) (c : _) (u : State) (p : Prefix) (a : _), Runs s src 0x0404 c u ∧ u.prefixOf (c.arg 0 64) = some p ∧ c.arg 8 8 ≠ 0 ∧ ((∀ r ∈ p.refs, refTier r ≠ 2)) ∧ pinPages p p.places u = some a) ∧
    (∃ (s : State) (src : _) (c : _) (v : State) (u : State) (q : _) (l : _) (m : _) (pages : _) (i : _), Runs s src 0x0401 c v ∧ AtLive v (c.arg 0 64) u q ∧ u.loc (c.arg 0 64) = some l ∧ u.modelOfTenant q.record.tenant = some m ∧ (q.record.phase = .admitted ∨ q.record.phase = .listening) ∧ q.record.owner = some u.chipId ∧ l.st = .owner q.record.epoch ∧ 0 < c.arg 8 32 ∧ 2 ^ m.pLog2 ∣ c.arg 8 32 ∧ prefixSource u l (c.arg 8 32 / 2 ^ m.pLog2) = some pages ∧ prefixSlot u = some i ∧ (q.record.prefix0 = 0 ∨ q.record.prefix1 = 0)) ∧
    (∃ (s : State) (src : _) (c : _) (u : State) (p : _) (m : _) (slot : _) (bytes : _), Runs s src 0x0403 c u ∧ u.prefixOf (c.arg 0 64) = some p ∧ p.pinned = false ∧ ((∀ w ∈ p.users, (u.req w).map (·.record.phase) = some .parked)) ∧ u.knlState ≠ KnlSt.recovering ∧ prefixImage u (c.arg 0 64) = none ∧ u.modelOfTenant p.tenant = some m ∧ u.isProt p.tenant = false ∧ (imageBytes (prefixParts u p m)).1 = bytes ∧ bytes.length ≤ 2 ^ 32 ∧ freeSlot u = some slot ∧ parksAccepted u = true ∧ usedUnits u + (unitsOfBytes bytes).length ≤ capacity u ∧ ((∀ e ∈ u.kr.parks, e.2.handle ≠ c.arg 0 64))) ∧
    (∃ (s : State) (src : _) (c : _) (u : State) (p : _) (slot : _), Runs s src 0x0403 c u ∧ u.prefixOf (c.arg 0 64) = some p ∧ p.pinned = false ∧ ((∀ w ∈ p.users, (u.req w).map (·.record.phase) = some .parked)) ∧ u.knlState ≠ KnlSt.recovering ∧ prefixImage u (c.arg 0 64) = some slot) :=
  ⟨⟨ask (cmdOf 0x0402 (aH [])) (pfxS pfx0 chip5), .mailbox, cmdOf 0x0402 (aH []), _, _, runs_mk (by decide +kernel), some_mk (by decide +kernel), (by decide +kernel)⟩,
   ⟨ask (cmdOf 0x0404 (aH [0])) (pfxS { pfx0 with pinned := true } chip5), .mailbox, cmdOf 0x0404 (aH [0]), _, _, runs_mk (by decide +kernel), some_mk (by decide +kernel), (by decide +kernel)⟩,
   ⟨ask (cmdOf 0x0404 (aH [1])) (pfxS pfx0 chip5), .mailbox, cmdOf 0x0404 (aH [1]), _, _, _, runs_mk (by decide +kernel), some_mk (by decide +kernel), (by decide +kernel), (by decide +kernel), some_mk (by decide +kernel)⟩,
   ⟨ask (cmdOf 0x0401 (aH (leBytes 4 256))) (paged), .mailbox, cmdOf 0x0401 (aH (leBytes 4 256)), _, _, _, _, _, _, _, runs_mk (by decide +kernel), atLive_mk (atRequest_mk (by decide +kernel) (by decide +kernel)) (by decide +kernel), some_mk (by decide +kernel), some_mk (by decide +kernel), (by decide +kernel), (by decide +kernel), (by decide +kernel), (by decide +kernel), (by decide +kernel), some_mk (by decide +kernel), some_mk (by decide +kernel), (by decide +kernel)⟩,
   ⟨ask (cmdOf 0x0403 (aH [])) (knlOn (pfxS pfxU chip5)), .mailbox, cmdOf 0x0403 (aH []), _, pfxU, _, _, _, runs_mk (by decide +kernel), (by decide +kernel), (by decide +kernel), (by decide +kernel), (by decide +kernel), (by decide +kernel), some_mk (by decide +kernel), (by decide +kernel), rfl, (by decide +kernel), some_mk (by decide +kernel), (by decide +kernel), (by decide +kernel), (by decide +kernel)⟩,
   ⟨ask (cmdOf 0x0403 (aH [])) (imgS { st := .durable, handle := h0, isPrefix := true } (knlOn (pfxS pfxU chip5))), .mailbox, cmdOf 0x0403 (aH []), _, pfxU, _, runs_mk (by decide +kernel), (by decide +kernel), (by decide +kernel), (by decide +kernel), (by decide +kernel), some_mk (by decide +kernel)⟩⟩

theorem witness_BufferCommands :
    (∃ (s : State) (src : _) (c : _) (u : State), Runs s src 0x0601 c u ∧ bufMine (srcWindow src) (u.buf (c.arg 0 32)) = true ∧ rcqMine u (srcWindow src) (c.arg 18 8) = true ∧ (u.buf (c.arg 0 32)).st = .free ∧ 1 ≤ c.arg 4 32 ∧ c.arg 4 32 ≤ 16777216 ∧ bufRange u (c.arg 19 8 == 1) (c.arg 8 64) (c.arg 4 32) = true ∧ u.is (Fld.XPT_RCQ_BASE_ENABLE (c.arg 18 8)) = true ∧ u.get (Fld.XPT_RCQ_PTR_BUFFERS (c.arg 18 8)) < 2 ^ u.get (Fld.XPT_RCQ_BASE_SIZE_LOG2 (c.arg 18 8))) ∧
    (∃ (s : State) (src : _) (c : _) (u : State), Runs s src 0x0602 c u ∧ bufMine (srcWindow src) (u.buf (c.arg 0 32)) = true ∧ (u.buf (c.arg 0 32)).st = .posted) ∧
    (∃ (s : State) (src : _) (c : _) (u : State), Runs s src 0x0602 c u ∧ bufMine (srcWindow src) (u.buf (c.arg 0 32)) = true ∧ (u.buf (c.arg 0 32)).st = .complete) :=
  ⟨⟨ask (cmdOf 0x0601 (leBytes 4 3 ++ leBytes 4 16777216 ++ le64 0xE00000000 ++ le16 0 ++ [1, 1])) (rcqOn chip5), .mailbox, cmdOf 0x0601 (leBytes 4 3 ++ leBytes 4 16777216 ++ le64 0xE00000000 ++ le16 0 ++ [1, 1]), _, runs_mk (by decide +kernel), (by decide +kernel), (by decide +kernel), (by decide +kernel), (by decide +kernel), (by decide +kernel), (by decide +kernel), (by decide +kernel), (by decide +kernel)⟩,
   ⟨ask (cmdOf 0x0602 (leBytes 4 3)) (bufS { st := .posted } chip5), .mailbox, cmdOf 0x0602 (leBytes 4 3), _, runs_mk (by decide +kernel), (by decide +kernel), (by decide +kernel)⟩,
   ⟨ask (cmdOf 0x0602 (leBytes 4 3)) (bufS { st := .complete } chip5), .mailbox, cmdOf 0x0602 (leBytes 4 3), _, runs_mk (by decide +kernel), (by decide +kernel), (by decide +kernel)⟩⟩

theorem witness_LoadCommands :
    (∃ (s : State) (src : _) (c : _) (v : State) (u : State) (q : _) (l : _) (m : _) (ps : _) (refs : _) (a : _), Runs s src 0x0405 c v ∧ AtLive v (c.arg 0 64) u q ∧ u.loc (c.arg 0 64) = some l ∧ u.modelOfTenant q.record.tenant = some m ∧ (q.record.phase = .admitted ∨ q.record.phase = .listening) ∧ l.st = .owner q.record.epoch ∧ c.arg 8 16 < m.layers ∧ loadPages (c.arg 10 16) (cmdInput u src c) = some ps ∧ loadOk m l (c.arg 8 16) ps = true ∧ restorePages u (c.arg 0 64) l.tenant m [] (loadImage m ps) = some (refs, a)) ∧
    (∃ (s : State) (src : _) (c : _) (u : State) (a : _), Runs s src 0x0406 c u ∧ sliceSize u ≠ 0 ∧ (cmdInput u src c).length = c.arg 4 32 * sliceSize u ∧ (c.arg 4 32 ≠ 0 → c.arg 0 32 + c.arg 4 32 ≤ largestVocab u) ∧ embFrames (embGroups (32768 / sliceSize u) (c.arg 0 32) (c.arg 4 32)) u = some a) ∧
    (∃ (m : _) (l : _) (layer : _) (ps : _), loadOk m l layer ps = true) :=
  ⟨⟨ask (cmdOf 0x0405 (aH [])) (paged), .mailbox, cmdOf 0x0405 (aH []), _, _, _, _, _, [], _, _, runs_mk (by decide +kernel), atLive_mk (atRequest_mk (by decide +kernel) (by decide +kernel)) (by decide +kernel), some_mk (by decide +kernel), some_mk (by decide +kernel), (by decide +kernel), (by decide +kernel), (by decide +kernel), (by decide +kernel), (by decide +kernel), rfl⟩,
   ⟨ask (cmdOf 0x0406 ([])) (withFlds [(Fld.SMP_EMB_CFG_EMB_COLS, 32)] chip5), .mailbox, cmdOf 0x0406 ([]), _, _, runs_mk (by decide +kernel), (by decide +kernel), (by decide +kernel), (by decide +kernel), some_mk (by decide +kernel)⟩,
   ⟨modelOf model0, locP, 0, [], (by decide +kernel)⟩⟩

theorem witness_RingRowsTakeEffect :
    (∃ (s : State) (r : _) (tail : _), Takes s (.ringDoorbell r tail) ∧ s.is Fld.GLB_STATUS_FW_READY = true ∧ s.is (Fld.MBX_RING_CFG_ENABLE r) = true ∧ tail < s.ringSize r) ∧
    (∃ (s : State) (r : _) (head : _), Takes s (.cplHeadWrite r head) ∧ s.is Fld.GLB_STATUS_FW_READY = true ∧ head < s.ringSize r ∧ (head + s.ringSize r - s.get (Fld.MBX_CPL_HEAD_HEAD r)) % s.ringSize r ≤ (s.get (Fld.MBX_RING_PTR_CPL_TAIL r) + s.ringSize r - s.get (Fld.MBX_CPL_HEAD_HEAD r)) % s.ringSize r) ∧
    (∃ (s : State) (r : _) (k : _) (irq : _) (coal : _), Takes s (.ringEnable r k irq coal) ∧ s.is Fld.GLB_STATUS_FW_READY = true ∧ s.ringsServed = true ∧ s.is (Fld.MBX_RING_CFG_ENABLE r) = false ∧ 4 ≤ k ∧ k ≤ 12 ∧ irq < 2 ∧ coal < 256) ∧
    (∃ (s : State) (r : _) (k : _) (irq : _) (coal : _), Takes s (.ringDisable r k irq coal) ∧ s.is Fld.GLB_STATUS_FW_READY = true ∧ s.is (Fld.MBX_RING_CFG_ENABLE r) = true ∧ (s.ring r).draining = false ∧ irq < 2 ∧ coal < 256) ∧
    (∃ (s : State) (r : _), Takes s (.ringDisableDone r) ∧ s.is (Fld.MBX_RING_CFG_ENABLE r) = true ∧ (s.ring r).draining = true ∧ ((∀ c ∈ (s.ring r).cmds, c.lost = true))) ∧
    (∃ (s : State) (r : _) (l : _), Takes s (.commandComplete r) ∧ s.body.plat.mgmtUp = true ∧ s.ringsServed = true ∧ frontDone s (.ring r) ((s.ring r).cmds.filter (!·.lost)) = l ∧ l ≠ []) ∧
    (∃ (s : State) (r : _), Takes s (.coalesceWindowEnd r) ∧ (s.ring r).winOpen = true ∧ (s.ring r).winPend = true) ∧
    (∃ (s : State) (r : _), Takes s (.coalesceWindowEnd r) ∧ (s.ring r).winOpen = true ∧ (s.ring r).winPend = false) ∧
    (∃ (s : State) (op : _) (p : _), Takes s (.mailboxDoorbell op p) ∧ s.is Fld.GLB_STATUS_FW_READY = true ∧ s.is Fld.SEC_STATUS_RECOVERY = false ∧ s.body.plat.mgmtUp = true ∧ s.body.mbox.cmd = none ∧ s.body.mbox.cxlCmd = none ∧ op < 0xC000) ∧
    (∃ (s : State) (op : _) (p : _) (c : Cmd), Takes s (.mailboxDoorbell op p) ∧ s.is Fld.GLB_STATUS_FW_READY = true ∧ s.is Fld.SEC_STATUS_RECOVERY = false ∧ s.body.plat.mgmtUp = true ∧ s.body.mbox.cmd = none ∧ s.body.mbox.cxlCmd = none ∧ 0xC000 ≤ op ∧ c = mailboxEntry s.body.mbox.taken (op - 0xC000) p ∧ 64 + c.inLen ≤ p.length ∧ p.length ≤ 65536 ∧ opcodeSpec c.opcode ≠ none) :=
  ⟨⟨ringS 143 {} chip5, 143, 4095, takes_mk (by decide +kernel), (by decide +kernel), (by decide +kernel), (by decide +kernel)⟩,
   ⟨ringS 143 {} chip5, 143, 0, takes_mk (by decide +kernel), (by decide +kernel), (by decide +kernel), (by decide +kernel)⟩,
   ⟨ringOff 0 chip5, 0, 12, 1, 255, takes_mk (by decide +kernel), (by decide +kernel), (by decide +kernel), (by decide +kernel), (by decide +kernel), (by decide +kernel), (by decide +kernel), (by decide +kernel)⟩,
   ⟨ringS 0 {} chip5, 0, 0, 1, 255, takes_mk (by decide +kernel), (by decide +kernel), (by decide +kernel), (by decide +kernel), (by decide +kernel), (by decide +kernel)⟩,
   ⟨ringS 0 { draining := true, cmds := [{ ranCmd with lost := true }] } chip5, 0, takes_mk (by decide +kernel), (by decide +kernel), (by decide +kernel), (by decide +kernel)⟩,
   ⟨ringS 15 { cmds := [doneCmd] } chip5, 15, _, takes_mk (by decide +kernel), (by decide +kernel), (by decide +kernel), rfl, (by decide +kernel)⟩,
   ⟨ringS 15 { winOpen := true, winPend := true } chip5, 15, takes_mk (by decide +kernel), (by decide +kernel), (by decide +kernel)⟩,
   ⟨ringS 15 { winOpen := true } chip5, 15, takes_mk (by decide +kernel), (by decide +kernel), (by decide +kernel)⟩,
   ⟨chip5, 0xBFFF, [], takes_mk (by decide +kernel), (by decide +kernel), (by decide +kernel), (by decide +kernel), (by decide +kernel), (by decide +kernel), (by decide +kernel)⟩,
   ⟨chip5, 0xC102, List.replicate 64 0, _, takes_mk (by decide +kernel), (by decide +kernel), (by decide +kernel), (by decide +kernel), (by decide +kernel), (by decide +kernel), (by decide +kernel), rfl, (by decide +kernel), (by decide +kernel), (by decide +kernel)⟩⟩

theorem witness_CompletionIsWritten :
    (∃ (s : State) (r : _) (c : _) (st : _), s.cmd ⟨.ring r, c.seq⟩ = some c ∧ c.isDone = false ∧ c.lost = false ∧ (c.opcode = 0x0104 → st ≠ St.invalid)) ∧
    (∃ (s : State) (c : _) (st : _), s.cmd ⟨.mailbox, c.seq⟩ = some c ∧ c.isDone = false ∧ (c.opcode = 0x0104 → st ≠ St.invalid)) :=
  ⟨⟨ringS 3 { cmds := [ranCmd] } chip5, 3, ranCmd, 0, (by decide +kernel), (by decide +kernel), (by decide +kernel), (by decide +kernel)⟩,
   ⟨mboxCmd ranCmd chip5, ranCmd, 0, (by decide +kernel), (by decide +kernel), (by decide +kernel)⟩⟩

theorem witness_LeashCasGivesTheLeash :
    (∃ (s : State) (m : _) (u : State) (q : _) (g : _), AtHome s m u q ∧ u.homeMode ≠ 2 ∧ q.record.phase = .handoff ∧ m.sender = q.record.receiver ∧ m.epoch = q.record.epoch ∧ q.record.owner = some g ∧ ((g ∈ q.record.holders.filter (· != m.sender) ∨ (q.record.holders.filter (· != m.sender)).length < 4))) ∧
    (∃ (s : State) (m : _) (u : State) (q : _), AtHome s m u q ∧ u.homeMode ≠ 2 ∧ q.record.phase ≠ .handoff ∧ q.record.owner = some m.sender ∧ wrapAdd 32 m.epoch 1 = q.record.epoch) ∧
    (∃ (s : State) (m : _) (u : State) (q : _), AtHome s m u q ∧ u.homeMode ≠ 2 ∧ q.record.phase = .handoff ∧ m.sender ≠ q.record.receiver ∧ m.epoch = q.record.epoch) ∧
    (∃ (s : State) (m : _) (u : State) (q : _), AtHome s m u q ∧ u.homeMode ≠ 2 ∧ m.epoch < q.record.epoch ∧ ¬ (q.record.owner = some m.sender ∧ wrapAdd 32 m.epoch 1 = q.record.epoch)) :=
  ⟨⟨q5 (fun r => { r with phase := .handoff, receiver := 2, owner := some 5, holders := [3, 4, 7, 2] }) chip5, m0, _, _, _, atHome_mk (by decide +kernel) (by decide +kernel), (by decide +kernel), (by decide +kernel), (by decide +kernel), (by decide +kernel), some_mk (by decide +kernel), (by decide +kernel)⟩,
   ⟨q5 (fun r => { r with epoch := 0 }) chip5, { m0 with epoch := 2 ^ 32 - 1 }, _, _, atHome_mk (by decide +kernel) (by decide +kernel), (by decide +kernel), (by decide +kernel), (by decide +kernel), (by decide +kernel)⟩,
   ⟨q5 (fun r => { r with phase := .handoff, receiver := 3 }) chip5, m0, _, _, atHome_mk (by decide +kernel) (by decide +kernel), (by decide +kernel), (by decide +kernel), (by decide +kernel), (by decide +kernel)⟩,
   ⟨q5 (fun r => { r with epoch := 3 }) chip5, m0, _, _, atHome_mk (by decide +kernel) (by decide +kernel), (by decide +kernel), (by decide +kernel), (by decide +kernel)⟩⟩

theorem witness_HomeMessagesTakeEffect :
    (∃ (s : State) (m : _) (u : State) (q : _), AtHome s m u q ∧ u.homeMode ≠ 2 ∧ q.record.owner = some m.sender ∧ m.epoch = q.record.epoch ∧ q.record.phase ≠ .handoff) ∧
    (∃ (s : State) (m : _) (u : State) (q : _), AtHome s m u q ∧ u.homeMode ≠ 2 ∧ q.record.owner = some m.sender ∧ m.epoch = q.record.epoch ∧ q.record.phase = .handoff) ∧
    (∃ (s : State) (m : _) (u : State) (q : _), AtHome s m u q ∧ u.homeMode ≠ 2 ∧ q.record.owner ≠ some m.sender) ∧
    (∃ (s : State) (m : _) (u : State) (q : _), AtHome s m u q ∧ q.record.owner = some m.sender ∧ m.epoch = q.record.epoch ∧ q.record.phase ≠ .handoff) ∧
    (∃ (s : State) (m : _) (u : State) (q : _), AtHome s m u q ∧ q.closing = false) ∧
    (∃ (s : State) (m : _) (u : State) (q : _), AtHome s m u q ∧ q.closing = true ∧ q.closeSent = true ∧ q.record.owner = some m.sender) ∧
    (∃ (s : State) (m : _) (u : State) (q : _), AtHome s m u q ∧ u.homeMode ≠ 2 ∧ q.record.owner = some m.sender ∧ m.epoch = q.record.epoch ∧ q.record.replayPending = false ∧ q.record.replaying = false ∧ q.record.logStep < m.step ∧ q.record.log.length + m.tokens.length ≤ q.record.maxPositions + 16) ∧
    (∃ (s : State) (m : _) (u : State) (q : _), AtHome s m u q ∧ u.homeMode ≠ 2 ∧ q.record.owner = some m.sender ∧ m.epoch = q.record.epoch ∧ q.record.replayPending = false ∧ q.record.replaying = false ∧ m.step = q.record.logStep ∧ q.record.logCount ≠ 0) ∧
    (∃ (s : State) (h : _) (chip : _) (e : _) (n : _) (q : _), Takes s (.replayReport h chip e n) ∧ s.req h = some q ∧ q.record.owner = some chip ∧ q.record.epoch = e ∧ q.record.replaying = true ∧ q.record.replayTo ≤ n ∧ q.record.phase ≠ .parked ∧ q.record.phase ≠ .resuming) :=
  ⟨⟨q5 id chip5, m0, _, _, atHome_mk (by decide +kernel) (by decide +kernel), (by decide +kernel), (by decide +kernel), (by decide +kernel), (by decide +kernel)⟩,
   ⟨q5 (fun r => { r with phase := .handoff }) chip5, m0, _, _, atHome_mk (by decide +kernel) (by decide +kernel), (by decide +kernel), (by decide +kernel), (by decide +kernel), (by decide +kernel)⟩,
   ⟨q5 id chip5, { m0 with sender := 3 }, _, _, atHome_mk (by decide +kernel) (by decide +kernel), (by decide +kernel), (by decide +kernel)⟩,
   ⟨q5 id chip5, m0, _, _, atHome_mk (by decide +kernel) (by decide +kernel), (by decide +kernel), (by decide +kernel), (by decide +kernel)⟩,
   ⟨q5 id chip5, m0, _, _, atHome_mk (by decide +kernel) (by decide +kernel), (by decide +kernel)⟩,
   ⟨withReq5 { record := rec0 .listening (some 2), closing := true, closeSent := true } none chip5, m0, _, _, atHome_mk (by decide +kernel) (by decide +kernel), (by decide +kernel), (by decide +kernel), (by decide +kernel)⟩,
   ⟨q5 id chip5, { m0 with step := 1, tokens := List.replicate 16 7 }, _, _, atHome_mk (by decide +kernel) (by decide +kernel), (by decide +kernel), (by decide +kernel), (by decide +kernel), (by decide +kernel), (by decide +kernel), (by decide +kernel), (by decide +kernel)⟩,
   ⟨q5 (fun r => { r with logStep := 1, logCount := 1, log := [7] }) chip5, { m0 with step := 1 }, _, _, atHome_mk (by decide +kernel) (by decide +kernel), (by decide +kernel), (by decide +kernel), (by decide +kernel), (by decide +kernel), (by decide +kernel), (by decide +kernel), (by decide +kernel)⟩,
   ⟨q5 (fun r => { r with replaying := true, replayTo := 3 }) chip5, h0, 2, 1, 3, _, takes_mk (by decide +kernel), some_mk (by decide +kernel), (by decide +kernel), (by decide +kernel), (by decide +kernel), (by decide +kernel), (by decide +kernel), (by decide +kernel)⟩⟩

theorem witness_FailoverRowsTakeEffect :
    (∃ (s : State) (m : _), Takes s (.ping m) ∧ (s.is Fld.RQT_PARTNER_TAKEN && s.get Fld.RQT_PARTNER_TAKEN_FROM == m.sender) = false ∧ s.body.home.mirrorOf ≠ some m.sender) ∧
    (∃ (s : State) (m : _), Takes s (.ping m) ∧ s.is Fld.RQT_PARTNER_TAKEN = true ∧ s.get Fld.RQT_PARTNER_TAKEN_FROM = m.sender ∧ s.body.home.mirrorOf ≠ some m.sender) ∧
    (∃ (s : State) (m : _), Takes s (.pingAck m) ∧ s.homeMode ≠ 2) ∧
    (∃ (s : State) (m : _), Takes s (.pingAck m) ∧ s.homeMode = 2 ∧ m.sender = s.get Fld.RQT_PARTNER_PARTNER ∧ m.flags % 2 = 0) ∧
    (∃ (s : State), Takes s .pingInterval) ∧
    (∃ (s : State) (chip : _), Takes s (.ownerTimeout chip) ∧ chip ≠ s.chipId ∧ chip ∈ pingTargets s ∧ chip ∉ s.body.home.failedChips ∧ s.homeMode ≠ 2) ∧
    (∃ (s : State), Takes s .homeFence ∧ s.homeMode = 1) ∧
    (∃ (s : State) (home : _), Takes s .partnerTakeover ∧ s.body.home.mirrorOf = some home) ∧
    (∃ (s : State) (m : _), Takes s (.homeMoved m)) ∧
    (∃ (s : State) (m : _) (n : _), Takes s (.homeReleased m) ∧ s.redirOf m.chip = some n) ∧
    (∃ (s : State) (home : _) (n : _) (r : _), Takes s (.mirrorUpdate home n (.record r))) ∧
    (∃ (s : State) (home : _) (n : _) (h : _), Takes s (.mirrorUpdate home n (.remove h))) ∧
    (∃ (s : State) (n : _), Takes s (.mirrorAck n) ∧ s.body.home.mirrorAcked < n ∧ n ≤ s.body.home.mirrorSent ∧ s.homeMode ≠ 2 ∧ s.body.home.setPartner = none) ∧
    (∃ (s : State) (n : _) (ref : _) (p : _) (last : _), Takes s (.mirrorAck n) ∧ s.body.home.mirrorAcked < n ∧ n ≤ s.body.home.mirrorSent ∧ s.homeMode ≠ 2 ∧ s.body.home.setPartner = some (ref, p, last) ∧ last ≤ n) :=
  ⟨⟨chip5, m0, takes_mk (by decide +kernel), (by decide +kernel), (by decide +kernel)⟩,
   ⟨withFlds [(Fld.RQT_PARTNER_TAKEN, 1), (Fld.RQT_PARTNER_TAKEN_FROM, 2)] chip5, m0, takes_mk (by decide +kernel), (by decide +kernel), (by decide +kernel), (by decide +kernel)⟩,
   ⟨chip5, m0, takes_mk (by decide +kernel), (by decide +kernel)⟩,
   ⟨fenced5 chip5, m0, takes_mk (by decide +kernel), (by decide +kernel), (by decide +kernel), (by decide +kernel)⟩,
   ⟨chip5, takes_mk (by decide +kernel)⟩,
   ⟨q5 id chip5, 2, takes_mk (by decide +kernel), (by decide +kernel), (by decide +kernel), (by decide +kernel), (by decide +kernel)⟩,
   ⟨paired chip5, takes_mk (by decide +kernel), (by decide +kernel)⟩,
   ⟨homeS (fun h => { h with mirrorOf := some 2 }) chip5, 2, takes_mk (by decide +kernel), (by decide +kernel)⟩,
   ⟨chip5, m0, takes_mk (by decide +kernel)⟩,
   ⟨withFlds [(Fld.RQT_REDIR_VALID 63, 1), (Fld.RQT_REDIR_FROM_CHIP 63, 5)] chip5, m0, _, takes_mk (by decide +kernel), some_mk (by decide +kernel)⟩,
   ⟨chip5, 2, 1, rec0 .listening none, takes_mk (by decide +kernel)⟩,
   ⟨chip5, 2, 1, h0, takes_mk (by decide +kernel)⟩,
   ⟨homeS (fun h => { h with mirrorSent := 2 }) (paired chip5), 2, takes_mk (by decide +kernel), (by decide +kernel), (by decide +kernel), (by decide +kernel), (by decide +kernel)⟩,
   ⟨homeS (fun h => { h with mirrorSent := 2, setPartner := some (⟨.mailbox, 0⟩, 2, 2) }) (paired chip5), 2, ⟨.mailbox, 0⟩, 2, 2, takes_mk (by decide +kernel), (by decide +kernel), (by decide +kernel), (by decide +kernel), (by decide +kernel), (by decide +kernel)⟩⟩

theorem witness_HandoffAtTheGiver :
    (∃ (s : State) (m : _) (c : _) (e : _) (target : _), AtChip s false m ∧ s.loc m.handle = some c ∧ c.st = .owner e ∧ phaseOf m.phase = some target ∧ m.chip ≠ s.chipId) ∧
    (∃ (s : State) (m : _) (c : _) (e : _) (target : _), AtChip s false m ∧ s.loc m.handle = some c ∧ c.st = .owner e ∧ phaseOf m.phase = some target ∧ m.chip = s.chipId ∧ s.hasShare target = true) ∧
    (∃ (s : State) (m : _) (c : _) (e : _), Takes s (.offerAck m) ∧ s.loc m.handle = some c ∧ c.st = .offering e ∧ c.peer = m.sender ∧ m.epoch = e ∧ m.status = St.ok) ∧
    (∃ (s : State) (m : _) (c : _) (e : _), Takes s (.offerAck m) ∧ s.loc m.handle = some c ∧ c.st = .offering e ∧ c.peer = m.sender ∧ m.epoch = e ∧ m.status ≠ St.ok) ∧
    (∃ (s : State) (m : _) (u : State) (q : _) (ref : _) (target : _), AtHome s m u q ∧ s.loc m.handle = none ∧ q.phaseChg = some (ref, target) ∧ q.record.owner = some m.sender ∧ m.status = St.ok) ∧
    (∃ (s : State) (h : _) (c : _) (e : _), Takes s (.offerTimeout h) ∧ s.loc h = some c ∧ c.st = .offering e ∧ c.offers < 3) ∧
    (∃ (s : State) (h : _) (c : _) (e : _), Takes s (.offerTimeout h) ∧ s.loc h = some c ∧ c.st = .offering e ∧ 3 ≤ c.offers) ∧
    (∃ (s : State) (h : _) (c : _) (e : _), Takes s (.handoffLimit h) ∧ s.loc h = some c ∧ c.st = .waiting e) ∧
    (∃ (s : State) (m : _) (c : _) (e : _), AtChip s false m ∧ s.loc m.handle = some c ∧ c.st = .waiting e ∧ e < m.epoch ∧ m.flags % 2 = 1) ∧
    (∃ (s : State) (m : _) (c : _) (e : _), AtChip s false m ∧ s.loc m.handle = some c ∧ c.st = .waiting e ∧ e < m.epoch ∧ m.flags % 4 = 2) ∧
    (∃ (s : State) (m : _) (c : _) (e : _), AtChip s true m ∧ s.loc m.handle = some c ∧ c.st = .waiting e ∧ m.epoch = e ∧ m.flags % 2 = 1) :=
  ⟨⟨locS (fun c => { c with st := .owner 1 }) chip5, { m0 with chip := 2, phase := 1 }, _, 1, .prompting, atChip_mk (by decide +kernel) (by decide +kernel), some_mk (by decide +kernel), (by decide +kernel), (by decide +kernel), (by decide +kernel)⟩,
   ⟨shares (locS (fun c => { c with st := .owner 1 }) chip5), { m0 with phase := 1 }, _, 1, .prompting, atChip_mk (by decide +kernel) (by decide +kernel), some_mk (by decide +kernel), (by decide +kernel), (by decide +kernel), (by decide +kernel), (by decide +kernel)⟩,
   ⟨locS (fun c => { c with st := .offering 1, peer := 2 }) chip5, m0, _, 1, takes_mk (by decide +kernel), some_mk (by decide +kernel), (by decide +kernel), (by decide +kernel), (by decide +kernel), (by decide +kernel)⟩,
   ⟨locS (fun c => { c with st := .offering 1, peer := 2 }) chip5, { m0 with status := St.notOwner }, _, 1, takes_mk (by decide +kernel), some_mk (by decide +kernel), (by decide +kernel), (by decide +kernel), (by decide +kernel), (by decide +kernel)⟩,
   ⟨withReq5 { record := rec0 .listening (some 2), phaseChg := some (⟨.mailbox, 0⟩, .prompting) } none chip5, m0, _, _, ⟨.mailbox, 0⟩, .prompting, atHome_mk (by decide +kernel) (by decide +kernel), (by decide +kernel), (by decide +kernel), (by decide +kernel), (by decide +kernel)⟩,
   ⟨locS (fun c => { c with st := .offering 1, offers := 2 }) chip5, h0, _, 1, takes_mk (by decide +kernel), some_mk (by decide +kernel), (by decide +kernel), (by decide +kernel)⟩,
   ⟨locS (fun c => { c with st := .offering 1, offers := 3 }) chip5, h0, _, 1, takes_mk (by decide +kernel), some_mk (by decide +kernel), (by decide +kernel), (by decide +kernel)⟩,
   ⟨locS (fun c => { c with st := .waiting 1 }) chip5, h0, _, 1, takes_mk (by decide +kernel), some_mk (by decide +kernel), (by decide +kernel)⟩,
   ⟨locS (fun c => { c with st := .waiting 1 }) chip5, { m0 with epoch := 2, flags := 1 }, _, 1, atChip_mk (by decide +kernel) (by decide +kernel), some_mk (by decide +kernel), (by decide +kernel), (by decide +kernel), (by decide +kernel)⟩,
   ⟨locS (fun c => { c with st := .waiting 1 }) chip5, { m0 with epoch := 2, flags := 2 }, _, 1, atChip_mk (by decide +kernel) (by decide +kernel), some_mk (by decide +kernel), (by decide +kernel), (by decide +kernel), (by decide +kernel)⟩,
   ⟨locS (fun c => { c with st := .waiting 1 }) chip5, { m0 with flags := 1 }, _, 1, atChip_mk (by decide +kernel) (by decide +kernel), some_mk (by decide +kernel), (by decide +kernel), (by decide +kernel), (by decide +kernel)⟩⟩

theorem witness_HandoffAtTheReceiver :
    (∃ (s : State) (m : _) (tbl : _) (target : _) (md : _), AtChip s false m ∧ s.loc m.handle = none ∧ phaseOf m.phase = some target ∧ s.modelOfTenant tbl.tenant = some md ∧ (target = .prompting ∨ target = .generating) ∧ s.hasShare target = true ∧ tbl.sampler = none ∧ goesCopyFree s m target tbl = true) ∧
    (∃ (s : State) (m : _) (tbl : _) (target : _) (md : _), AtChip s false m ∧ s.loc m.handle = none ∧ phaseOf m.phase = some target ∧ s.modelOfTenant tbl.tenant = some md ∧ (target = .prompting ∨ target = .generating) ∧ s.hasShare target = true ∧ tbl.sampler = none ∧ goesCopyFree s m target tbl = false) ∧
    (∃ (s : State) (m : _) (c : _) (e : _), AtChip s false m ∧ s.loc m.handle = some c ∧ c.st = .receiving e ∧ m.epoch ≤ e) ∧
    (∃ (s : State) (m : _) (c : _) (e : _), AtChip s true m ∧ s.loc m.handle = some c ∧ c.st = .casing e ∧ m.status = St.ok ∧ m.epoch = wrapAdd 32 e 1) ∧
    (∃ (s : State) (m : _) (c : _) (e : _), AtChip s true m ∧ s.loc m.handle = some c ∧ c.st = .casing e ∧ (m.status = St.staleEpoch ∨ m.status = St.notOwner)) ∧
    (∃ (s : State) (h : _) (c : _) (e : _), Takes s (.casTimeout h) ∧ s.loc h = some c ∧ c.st = .casing e ∧ c.dropping = none) ∧
    (∃ (s : State) (m : _) (c : _) (e : _), AtChip s false m ∧ s.loc m.handle = some c ∧ (c.st = .receiving e ∨ c.st = .casing e)) ∧
    (∃ (s : State), Takes s .fetchStart) ∧
    (∃ (s : State) (h : _) (c : _) (f : _), Takes s (.fetchComplete h) ∧ s.loc h = some c ∧ c.fetch = some f ∧ f.running = true ∧ fetchDone s h c = true) ∧
    (∃ (s : State) (m : _) (c : _) (e : _), AtChip s false m ∧ s.loc m.handle = some c ∧ c.st = .owner e ∧ e < m.epoch ∧ m.flags % 2 = 0) ∧
    (∃ (s : State) (m : _) (tbl : GivenTable) (md : _), AtChip s false m ∧ s.loc m.handle = none ∧ s.modelOfTenant tbl.tenant = some md ∧ m.source ≠ s.chipId ∧ m.source ≠ 0 ∧ tbl.sampler = none ∧ phaseOf m.phase = some .listening) :=
  ⟨⟨shares chip5, { m0 with handle := mkHandle 2 0 1, phase := 1, flags := 2 }, tbl0, .prompting, _, atChip_mk (by decide +kernel) (by decide +kernel), (by decide +kernel), (by decide +kernel), some_mk (by decide +kernel), (by decide +kernel), (by decide +kernel), (by decide +kernel), (by decide +kernel)⟩,
   ⟨shares chip5, { m0 with handle := mkHandle 2 0 1, phase := 3, flags := 1 }, tbl0, .generating, _, atChip_mk (by decide +kernel) (by decide +kernel), (by decide +kernel), (by decide +kernel), some_mk (by decide +kernel), (by decide +kernel), (by decide +kernel), (by decide +kernel), (by decide +kernel)⟩,
   ⟨locS (fun c => { c with st := .receiving 1 }) chip5, m0, _, 1, atChip_mk (by decide +kernel) (by decide +kernel), some_mk (by decide +kernel), (by decide +kernel), (by decide +kernel)⟩,
   ⟨locS (fun c => { c with st := .casing 1 }) chip5, { m0 with epoch := 2 }, _, 1, atChip_mk (by decide +kernel) (by decide +kernel), some_mk (by decide +kernel), (by decide +kernel), (by decide +kernel), (by decide +kernel)⟩,
   ⟨locS (fun c => { c with st := .casing 1 }) chip5, { m0 with status := St.notOwner }, _, 1, atChip_mk (by decide +kernel) (by decide +kernel), some_mk (by decide +kernel), (by decide +kernel), (by decide +kernel)⟩,
   ⟨locS (fun c => { c with st := .casing 1 }) chip5, h0, _, 1, takes_mk (by decide +kernel), some_mk (by decide +kernel), (by decide +kernel), (by decide +kernel)⟩,
   ⟨locS (fun c => { c with st := .receiving 1 }) chip5, m0, _, 1, atChip_mk (by decide +kernel) (by decide +kernel), some_mk (by decide +kernel), (by decide +kernel)⟩,
   ⟨chip5, takes_mk (by decide +kernel)⟩,
   ⟨locS (fun c => { c with st := .casing 1, fetch := some { running := true, source := 2, order := 0 } }) chip5, h0, _, { running := true, source := 2, order := 0 }, takes_mk (by decide +kernel), some_mk (by decide +kernel), (by decide +kernel), (by decide +kernel), (by decide +kernel)⟩,
   ⟨locS (fun c => { c with st := .owner 1 }) chip5, { m0 with epoch := 2 }, _, 1, atChip_mk (by decide +kernel) (by decide +kernel), some_mk (by decide +kernel), (by decide +kernel), (by decide +kernel), (by decide +kernel)⟩,
   ⟨chip5, { m0 with handle := mkHandle 2 0 1, phase := 4, source := 3 }, tbl0, _, atChip_mk (by decide +kernel) (by decide +kernel), (by decide +kernel), some_mk (by decide +kernel), (by decide +kernel), (by decide +kernel), (by decide +kernel), (by decide +kernel)⟩⟩

theorem witness_HolderAndCloseRows :
    (∃ (s : State) (m : _) (c : _), AtChip s false m ∧ s.loc m.handle = some c ∧ c.st = .holder ∧ m.flags % 2 = 1) ∧
    (∃ (s : State) (m : _), AtChip s false m ∧ s.loc m.handle = none ∧ m.flags % 2 = 1) ∧
    (∃ (s : State) (m : _) (c : _), AtChip s false m ∧ s.loc m.handle = some c) ∧
    (∃ (s : State) (h : _) (c : _), s.loc h = some c ∧ unitRuns s h = false ∧ c.closing = true) ∧
    (∃ (s : State) (m : _) (c : _) (e : _), AtChip s true m ∧ s.loc m.handle = some c ∧ c.st = .owner e ∧ m.status = St.ok) :=
  ⟨⟨locS (fun c => { c with st := .holder }) chip5, { m0 with flags := 1 }, _, atChip_mk (by decide +kernel) (by decide +kernel), some_mk (by decide +kernel), (by decide +kernel), (by decide +kernel)⟩,
   ⟨chip5, { m0 with handle := mkHandle 2 0 1, flags := 1 }, atChip_mk (by decide +kernel) (by decide +kernel), (by decide +kernel), (by decide +kernel)⟩,
   ⟨locS (fun c => { c with st := .holder }) chip5, m0, _, atChip_mk (by decide +kernel) (by decide +kernel), some_mk (by decide +kernel)⟩,
   ⟨locS (fun c => { c with closing := true }) chip5, h0, _, some_mk (by decide +kernel), (by decide +kernel), (by decide +kernel)⟩,
   ⟨locS (fun c => { c with st := .owner 1 }) chip5, m0, _, 1, atChip_mk (by decide +kernel) (by decide +kernel), some_mk (by decide +kernel), (by decide +kernel), (by decide +kernel)⟩⟩

theorem witness_PageReadsTakeEffect :
    (∃ (s : State) (n : _) (tag : _) (r : _) (fk : _) (d : _) (f : _), Takes s (.farReadDone tag true n) ∧ tget s.body.pages.reads tag = some r ∧ refChip r.src = s.chipId ∧ refTier r.src ≤ 1 ∧ r.void = false ∧ s.resolve r.src = some fk ∧ keyTier fk ≠ 0 ∧ s.frame r.dst = some d ∧ s.frame fk = some f ∧ f.hdr.payloadCrc = pageCrc s fk f.hdr.storedLen) ∧
    (∃ (s : State) (n : _) (tag : _) (r : _) (fk : _) (d : _) (f : _), Takes s (.farReadDone tag false n) ∧ tget s.body.pages.reads tag = some r ∧ refChip r.src = s.chipId ∧ refTier r.src ≤ 1 ∧ r.void = false ∧ s.resolve r.src = some fk ∧ keyTier fk ≠ 0 ∧ s.frame r.dst = some d ∧ s.frame fk = some f ∧ r.retried = false) ∧
    (∃ (s : State) (n : _) (tag : _) (r : _) (fk : _) (d : _) (f : _), Takes s (.farReadDone tag false n) ∧ tget s.body.pages.reads tag = some r ∧ refChip r.src = s.chipId ∧ refTier r.src ≤ 1 ∧ r.void = false ∧ s.resolve r.src = some fk ∧ keyTier fk ≠ 0 ∧ s.frame r.dst = some d ∧ s.frame fk = some f ∧ r.retried = true) ∧
    (∃ (s : State) (n : _) (tag : _) (r : _) (g : _), Takes s (.farReadDone tag g n) ∧ tget s.body.pages.reads tag = some r ∧ refChip r.src = s.chipId ∧ refTier r.src ≤ 1 ∧ r.void = true) ∧
    (∃ (s : State) (tag : _) (r : _) (ref : _), Takes s (.backupReadTimer tag) ∧ tget s.body.pages.reads tag = some r ∧ mirrorCopyOf s r.handle r.layer r.index = some ref ∧ r.backup = false ∧ r.void = false ∧ ((∀ e ∈ s.body.pages.reads, e.1 ≠ tag → e.2.dst ≠ r.dst))) ∧
    (∃ (s : State) (h : _) (l : _) (i : _) (rest : _) (c : _) (r : _), Takes s .prefetchRetry ∧ s.body.pages.retry = (h, l, i) :: rest ∧ s.loc h = some c ∧ (c.layer l).pages[i]? = some r) ∧
    (∃ (s : State) (k : _) (f : _), Takes s (.copydownHoldExpiry k) ∧ s.frame k = some f) ∧
    (∃ (s : State) (h : _) (l : _) (c : _) (m : _) (a : _), Takes s (.firstPassComplete h l) ∧ (h, l) ∈ s.body.pages.passes ∧ s.loc h = some c ∧ s.locModel c = some m ∧ makeBasis s h l c m = some a) :=
  ⟨⟨reading rd0, 0, 1, rd0, k9, _, { f9 with hdr := { f9.hdr with payloadCrc := zeroCrc } }, takes_mk (by decide +kernel), (by decide +kernel), (by decide +kernel), (by decide +kernel), (by decide +kernel), (by decide +kernel), (by decide +kernel), some_mk (by decide +kernel), (by decide +kernel), crc_zeros.symm.trans (congrArg crc32c (by decide +kernel))⟩,
   ⟨reading rd0, 0, 1, rd0, _, _, _, takes_mk (by decide +kernel), (by decide +kernel), (by decide +kernel), (by decide +kernel), (by decide +kernel), some_mk (by decide +kernel), (by decide +kernel), some_mk (by decide +kernel), some_mk (by decide +kernel), (by decide +kernel)⟩,
   ⟨reading { rd0 with retried := true }, 0, 1, { rd0 with retried := true }, _, _, _, takes_mk (by decide +kernel), (by decide +kernel), (by decide +kernel), (by decide +kernel), (by decide +kernel), some_mk (by decide +kernel), (by decide +kernel), some_mk (by decide +kernel), some_mk (by decide +kernel), (by decide +kernel)⟩,
   ⟨reading { rd0 with void := true }, 0, 1, { rd0 with void := true }, true, takes_mk (by decide +kernel), (by decide +kernel), (by decide +kernel), (by decide +kernel), (by decide +kernel)⟩,
   ⟨pagesS (fun p => { p with reads := [(1, rd2)] }) (locS (fun c => { c with stateMirror := some 3, layers := [(0, { pages := [ref2], ackPages := [(0, mkRef 3 0 1 0)] })] }) chip5), 1, rd2, _, takes_mk (by decide +kernel), (by decide +kernel), some_mk (by decide +kernel), (by decide +kernel), (by decide +kernel), (by decide +kernel)⟩,
   ⟨pagesS (fun p => { p with retry := [(h0, 0, 0)] }) paged, h0, 0, 0, [], _, near7, takes_mk (by decide +kernel), (by decide +kernel), some_mk (by decide +kernel), (by decide +kernel)⟩,
   ⟨paged, k7, _, takes_mk (by decide +kernel), some_mk (by decide +kernel)⟩,
   ⟨pagesS (fun p => { p with passes := [(h0, 0)] }) (locS (fun c => { c with layers := [(0, {})] }) chip5), h0, 0, _, _, _, takes_mk (by decide +kernel), (by decide +kernel), some_mk (by decide +kernel), some_mk (by decide +kernel), some_mk (by decide +kernel)⟩⟩

theorem witness_MigrationTakesEffect :
    (∃ (s : State) (k : _) (dst : _) (f : _), Takes s (.migrationStart k dst) ∧ s.frame k = some f ∧ f.hdr.pinned = false ∧ f.mig = none ∧ f.staging = false ∧ ((f.hdr.shared = true → ∀ b ∈ s.body.pages.busy, b.2 ≠ k)) ∧ s.get Fld.STM_STATUS_MIG_ACTIVE < s.get Fld.STM_MIG_CTL_MAX_ACTIVE ∧ tombstones s < 4096 ∧ refChip dst = s.chipId ∧ destOk s dst = true) ∧
    (∃ (s : State) (k : _) (f : _) (m : _) (dk : _), Takes s (.migrationCopyComplete k) ∧ s.frame k = some f ∧ f.mig = some m ∧ m.st = .migrating ∧ ((∀ b ∈ s.body.pages.busy, b.2 ≠ k)) ∧ s.exact m.dst = some dk) ∧
    (∃ (s : State) (k : _) (f : _) (m : _) (dk : _), Takes s (.migrationFlipDone k) ∧ s.frame k = some f ∧ f.mig = some m ∧ m.st = .blocked ∧ s.exact m.dst = some dk ∧ m.heldUpds = []) ∧
    (∃ (s : State) (k : _) (f : _) (m : _) (dk : _), Takes s (.migrationDestFail k) ∧ s.frame k = some f ∧ f.mig = some m ∧ m.st = .migrating ∧ s.exact m.dst = some dk ∧ m.heldUpds = []) ∧
    (∃ (s : State), Takes s .trackerGenAdvance ∧ ((∀ e ∈ s.body.pages.frames, ∀ m, e.2.mig = some m → m.st ≠ .tombstone))) :=
  ⟨⟨migS f7, k7, near8, _, takes_mk (by decide +kernel), some_mk (by decide +kernel), (by decide +kernel), (by decide +kernel), (by decide +kernel), (by decide +kernel), (by decide +kernel), (by decide +kernel), (by decide +kernel), (by decide +kernel)⟩,
   ⟨moving .migrating, k7, _, migOf .migrating, _, takes_mk (by decide +kernel), some_mk (by decide +kernel), (by decide +kernel), (by decide +kernel), (by decide +kernel), some_mk (by decide +kernel)⟩,
   ⟨moving .blocked, k7, _, migOf .blocked, _, takes_mk (by decide +kernel), some_mk (by decide +kernel), (by decide +kernel), (by decide +kernel), some_mk (by decide +kernel), (by decide +kernel)⟩,
   ⟨moving .migrating, k7, _, migOf .migrating, _, takes_mk (by decide +kernel), some_mk (by decide +kernel), (by decide +kernel), (by decide +kernel), some_mk (by decide +kernel), (by decide +kernel)⟩,
   ⟨paged, takes_mk (by decide +kernel), (by intro e he m hm; simp [paged, withFrames, f7, f9, page0] at he; rcases he with rfl | rfl <;> cases hm)⟩⟩

theorem witness_CoherenceRowsTakeEffect :
    (∃ (s : State) (m : _) (r : _) (k : _) (f : _), Takes s (.pageRead m) ∧ m.refs = [r] ∧ m.sender ∉ s.body.coh.fenced ∧ s.exact r = some k ∧ s.frame k = some f ∧ f.mig = none ∧ f.staging = false ∧ f.hdr.isSealed = true ∧ tget s.body.coh.dir k = none ∧ m.tracked = false) ∧
    (∃ (s : State) (m : _) (r : _) (k : _) (f : _), Takes s (.pageRead m) ∧ m.refs = [r] ∧ m.sender ∉ s.body.coh.fenced ∧ s.exact r = some k ∧ s.frame k = some f ∧ f.mig = none ∧ f.staging = false ∧ tget s.body.coh.dir k = none ∧ m.tracked = true ∧ (s.body.coh.dir.filter fun e => dirSet e.1 == dirSet k).length < 16) ∧
    (∃ (s : State) (m : _) (r : _), Takes s (.pageRead m) ∧ m.refs = [r] ∧ m.sender ∈ s.body.coh.fenced) ∧
    (∃ (s : State) (m : _) (r : _), Takes s (.pageRead m) ∧ m.refs = [r] ∧ m.sender ∉ s.body.coh.fenced ∧ s.exact r = none) ∧
    (∃ (s : State) (m : _), Takes s (.inval m) ∧ ((∀ r ∈ m.refs, tget s.body.coh.cache r = none))) ∧
    (∃ (s : State) (m : _) (r : _) (c : _), Takes s (.inval m) ∧ m.refs = [r] ∧ tget s.body.coh.cache r = some c ∧ c.st = .valid ∧ ((∀ b ∈ s.body.pages.busy, b.2 ≠ c.key))) ∧
    (∃ (s : State) (m : _), Takes s (.invalAck m)) ∧
    (∃ (s : State) (m : _), Takes s (.drop m)) ∧
    (∃ (s : State), s.body.coh.waitWay = []) ∧
    (∃ (s : State) (r : _) (ref : _) (d : _), tget s.body.coh.dir (fkey (refTier ref) (refFrame ref)) = some d ∧ d.gen = refGen ref ∧ d.blocked = false ∧ d.readers.filter (· != r) ≠ []) ∧
    (∃ (s : State) (m : _), Takes s (.fenceNotice m)) ∧
    (∃ (s : State) (m : _), Takes s (.fenced m)) ∧
    (∃ (s : State) (m : _), Takes s (.flushDone m)) ∧
    (∃ (s : State) (k : _) (d : _), Takes s (.invalTimeout k) ∧ tget s.body.coh.dir k = some d ∧ d.blocked = true ∧ d.resent = false) ∧
    (∃ (s : State) (k : _) (d : _), Takes s (.invalTimeout k) ∧ tget s.body.coh.dir k = some d ∧ d.blocked = true ∧ d.resent = true) ∧
    (∃ (s : State) (m : _) (found : _) (r : _) (new : _) (tag : _) (x : _), Takes s (.genStale m found) ∧ m.refs = [r] ∧ (s.body.pages.reads.filter fun e => e.2.src == r) = [(tag, x)] ∧ x.mov = none ∧ x.forFetch = true ∧ tget found r = some new) ∧
    (∃ (s : State) (m : _) (r : _) (tag : _) (x : _), Takes s (.notSealed m) ∧ m.refs = [r] ∧ (s.body.pages.reads.filter fun e => e.2.src == r) = [(tag, x)] ∧ x.mov = none) ∧
    (∃ (s : State) (m : _) (hb : _) (data : _) (scale : _) (ref : _) (k : _), Takes s (.pageData m hb data scale) ∧ m.refs = [ref] ∧ ref ≠ 0 ∧ refChip ref = s.chipId ∧ s.exact ref = some k ∧ targetOpen s k = true ∧ dataCrcOk (hdrOf hb) data scale = true) ∧
    (∃ (s : State) (m : _) (hb : _) (data : _) (scale : _) (ref : _) (tag : _) (r : _), Takes s (.pageData m hb data scale) ∧ m.refs = [ref] ∧ ref ≠ 0 ∧ refChip ref ≠ s.chipId ∧ s.body.pages.reads.find? (fun e => refChip e.2.src != s.chipId && refTier e.2.src ≤ 1 && !e.2.needs && e.2.src == ref) = some (tag, r) ∧ tget s.body.pages.reads tag = some r ∧ r.void = false ∧ r.mov = none ∧ dataCrcOk (hdrOf hb) data scale = true ∧ (hdrOf hb).pageRef = ref) :=
  ⟨⟨paged, cm0, near7, _, _, takes_mk (by decide +kernel), (by decide +kernel), (by decide +kernel), some_mk (by decide +kernel), some_mk (by decide +kernel), (by decide +kernel), (by decide +kernel), (by decide +kernel), (by decide +kernel), (by decide +kernel)⟩,
   ⟨paged, { cm0 with tracked := true }, near7, _, _, takes_mk (by decide +kernel), (by decide +kernel), (by decide +kernel), some_mk (by decide +kernel), some_mk (by decide +kernel), (by decide +kernel), (by decide +kernel), (by decide +kernel), (by decide +kernel), (by decide +kernel)⟩,
   ⟨cohS (fun x => { x with fenced := [1] }) paged, cm0, near7, takes_mk (by decide +kernel), (by decide +kernel), (by decide +kernel)⟩,
   ⟨chip5, cm0, near7, takes_mk (by decide +kernel), (by decide +kernel), (by decide +kernel), (by decide +kernel)⟩,
   ⟨chip5, { cm0 with type := .inval }, takes_mk (by decide +kernel), (by decide +kernel)⟩,
   ⟨cohS (fun x => { x with cache := [(ref2, { key := k7, st := .valid, home := 1 })] }) paged, { cm0 with type := .inval, refs := [ref2] }, ref2, _, takes_mk (by decide +kernel), (by decide +kernel), some_mk (by decide +kernel), (by decide +kernel), (by decide +kernel)⟩,
   ⟨chip5, { cm0 with type := .invalAck }, takes_mk (by decide +kernel)⟩,
   ⟨chip5, { cm0 with type := .drop }, takes_mk (by decide +kernel)⟩,
   ⟨chip5, (by decide +kernel)⟩,
   ⟨cohS (fun x => { x with dir := [(k7, { gen := 0, readers := [1, 2] })] }) paged, 1, near7, _, some_mk (by decide +kernel), (by decide +kernel), (by decide +kernel), (by decide +kernel)⟩,
   ⟨chip5, { cm0 with type := .fenceNotice }, takes_mk (by decide +kernel)⟩,
   ⟨chip5, { cm0 with type := .fenced }, takes_mk (by decide +kernel)⟩,
   ⟨chip5, { cm0 with type := .flushDone }, takes_mk (by decide +kernel)⟩,
   ⟨cohS (fun x => { x with dir := [(k7, { gen := 0, readers := [1], blocked := true })] }) paged, k7, _, takes_mk (by decide +kernel), some_mk (by decide +kernel), (by decide +kernel), (by decide +kernel)⟩,
   ⟨cohS (fun x => { x with dir := [(k7, { gen := 0, readers := [1], blocked := true, resent := true })] }) paged, k7, _, takes_mk (by decide +kernel), some_mk (by decide +kernel), (by decide +kernel), (by decide +kernel)⟩,
   ⟨reading { rd2 with forFetch := true }, { cm0 with type := .genStale, refs := [ref2] }, [(ref2, mkRef 2 0 6 0)], ref2, _, 1, { rd2 with forFetch := true }, takes_mk (by decide +kernel), (by decide +kernel), (by decide +kernel), (by decide +kernel), (by decide +kernel), some_mk (by decide +kernel)⟩,
   ⟨reading rd2, { cm0 with type := .notSealed, refs := [ref2] }, ref2, 1, rd2, takes_mk (by decide +kernel), (by decide +kernel), (by decide +kernel), (by decide +kernel)⟩,
   ⟨withFrames [(k7, { hdr := { pageRef := near7 }, storeTarget := true })] paged, { cm0 with type := .pageData, refs := [near7] }, hb0, [], [], near7, _, takes_mk (by decide +kernel), (by decide +kernel), (by decide +kernel), (by decide +kernel), some_mk (by decide +kernel), (by decide +kernel), hb0_crc⟩,
   ⟨reading rd2, { cm0 with type := .pageData, refs := [ref2] }, hb0, [], [], ref2, 1, rd2, takes_mk (by decide +kernel), (by decide +kernel), (by decide +kernel), (by decide +kernel), (by decide +kernel), (by decide +kernel), (by decide +kernel), (by decide +kernel), hb0_crc, (by decide +kernel)⟩⟩

theorem witness_RequesterRowsTakeEffect :
    (∃ (s : State) (tag : _) (data : _) (a : _), Takes s (.accessAnswer tag Ans.ok data) ∧ tget s.body.fabric.waiting tag = some a) ∧
    (∃ (s : State) (tag : _) (st : _) (data : _), Takes s (.accessAnswer tag st data) ∧ tget s.body.fabric.waiting tag = none) ∧
    (∃ (s : State) (tag : _) (a : _), Takes s (.loadTimeout false tag) ∧ tget s.body.fabric.waiting tag = some a ∧ holdsToFence a.who = false) ∧
    (∃ (s : State) (tag : _) (r : _), Takes s (.loadTimeout true tag) ∧ tget s.body.pages.reads tag = some r ∧ refChip r.src ≠ s.chipId ∧ refTier r.src ≤ 1 ∧ r.mov = none) ∧
    (∃ (s : State) (who : _), Takes s (.fabricFence who) ∧ who ∉ s.body.fabric.fences ∧ ((∃ e ∈ s.body.fabric.waiting, e.2.who = who))) ∧
    (∃ (s : State) (who : _), Takes s (.fabricFence who) ∧ who ∉ s.body.fabric.fences ∧ ((∀ e ∈ s.body.fabric.waiting, e.2.who ≠ who)) ∧ ((∀ e ∈ s.body.fabric.failed, e.1 ≠ who)) ∧ ((∀ e ∈ s.body.fabric.held, e.1 ≠ who))) :=
  ⟨⟨fabS (fun x => { x with waiting := [(4, acc0)] }) chip5, 4, [], acc0, takes_mk (by decide +kernel), (by decide +kernel)⟩,
   ⟨chip5, 4, Ans.ok, [], takes_mk (by decide +kernel), (by decide +kernel)⟩,
   ⟨fabS (fun x => { x with waiting := [(4, acc0)] }) chip5, 4, acc0, takes_mk (by decide +kernel), (by decide +kernel), (by decide +kernel)⟩,
   ⟨reading rd2, 1, rd2, takes_mk (by decide +kernel), (by decide +kernel), (by decide +kernel), (by decide +kernel), (by decide +kernel)⟩,
   ⟨fabS (fun x => { x with waiting := [(4, acc0)] }) chip5, .job 1, takes_mk (by decide +kernel), (by decide +kernel), ⟨(4, acc0), (by decide +kernel), rfl⟩⟩,
   ⟨chip5, .event 7, takes_mk (by decide +kernel), (by decide +kernel), (by decide +kernel), (by decide +kernel), (by decide +kernel)⟩⟩

theorem witness_AccessesTakeEffect :
    (∃ (s : State) (src : _) (tag : _) (addr : _) (n : _) (d : _), Takes s (.load_ src tag addr n false) ∧ admits s src addr (.load n) = true ∧ loadBytes s addr n = some d ∧ (faAperture addr = 2 → jobLoadRange s (faOffset addr) n = false)) ∧
    (∃ (s : State) (src : _) (tag : _) (addr : _) (n : _) (d : _), Takes s (.load_ src tag addr n true) ∧ admits s src addr (.load n) = true ∧ loadBytes s addr n = some d ∧ (faAperture addr = 2 → jobLoadRange s (faOffset addr) n = false)) ∧
    (∃ (s : State) (src : _) (tag : _) (addr : _) (n : _) (ue : _), Takes s (.load_ src tag addr n ue) ∧ admits s src addr (.load n) = true ∧ loadBytes s addr n = none) ∧
    (∃ (s : State) (addr : _) (n : _), faAperture addr = 1 ∧ faRegion addr = 4 ∧ faInner addr + n ≤ s.get Fld.MOV_CTL_SHARED_MIB * 2 ^ 20) ∧
    (∃ (addr : _) (n : _), faAperture addr = 4 ∧ n ≤ 8 ∧ faOffset addr + n ≤ 0x1000000) ∧
    (∃ (s : State) (src : _) (tag : _) (addr : _) (d : _) (a : _), Takes s (.store_ src tag addr d) ∧ admits s src addr (.store d) = true ∧ performStore s addr d = some a) ∧
    (∃ (s : State) (src : _) (tag : _) (addr : _) (d : _), Takes s (.store_ src tag addr d) ∧ admits s src addr (.store d) = true ∧ performStore s addr d = none) ∧
    (∃ (s : State) (src : _) (tag : _) (addr : _) (d : _), s.canonical ∧ Takes s (.store_ src tag addr d) ∧ admits s src addr (.store d) = true ∧ faAperture addr = 1 ∧ faRegion addr = 4 ∧ faInner addr + d.length ≤ s.get Fld.MOV_CTL_SHARED_MIB * 2 ^ 20) ∧
    (∃ (s : State) (src : _) (tag : _) (addr : _) (d : _) (f : Frame) (a : _), Takes s (.hintFetch src tag addr d) ∧ admits s src addr (.hint (leNat (d.take 8))) = true ∧ faAperture addr = 1 ∧ faRegion addr = 5 ∧ faInner addr = 0 ∧ d.length = 16 ∧ leNat (d.drop 8) = 0 ∧ hintFrame s (leNat (d.take 8)) = some f ∧ issueRead s f.hdr.owner f.hdr.layer (f.hdr.firstPos / 2 ^ f.hdr.pLog2) f.hdr.tenant f.kind (leNat (d.take 8)) 2 = some a) ∧
    (∃ (s : State) (src : _) (tag : _) (addr : _) (d : _), Takes s (.hintFetch src tag addr d) ∧ admits s src addr (.hint (leNat (d.take 8))) = true ∧ faAperture addr = 1 ∧ faRegion addr = 5 ∧ faInner addr = 0 ∧ d.length = 16 ∧ hintFrame s (leNat (d.take 8)) = none) :=
  ⟨⟨sh chip5, .member 255, 7, shEnd, 8, _, takes_mk (by decide +kernel), (by decide +kernel), some_mk (by decide +kernel), (by decide +kernel)⟩,
   ⟨sh chip5, .member 255, 7, shEnd, 8, _, takes_mk (by decide +kernel), (by decide +kernel), some_mk (by decide +kernel), (by decide +kernel)⟩,
   ⟨sh chip5, .member 255, 7, shEnd, 9, false, takes_mk (by decide +kernel), (by decide +kernel), (by decide +kernel)⟩,
   ⟨sh chip5, shEnd, 8, (by decide +kernel), (by decide +kernel), (by decide +kernel)⟩,
   ⟨4 * 2 ^ 52 + 0xFFFFF8, 8, (by decide +kernel), (by decide +kernel), (by decide +kernel)⟩,
   ⟨sh chip5, .member 255, 7, shEnd, [1, 2, 3, 4], _, takes_mk (by decide +kernel), (by decide +kernel), some_mk (by decide +kernel)⟩,
   ⟨sh chip5, .member 255, 7, shEnd, List.replicate 9 1, takes_mk (by decide +kernel), (by decide +kernel), (by decide +kernel)⟩,
   ⟨sh chip5, .member 255, 7, shEnd, List.replicate 8 1, canonical_mk (by decide +kernel), takes_mk (by decide +kernel), (by decide +kernel), (by decide +kernel), (by decide +kernel), (by decide +kernel)⟩,
   ⟨hintS, .member 255, 7, 2 ^ 52 + 5 * 2 ^ 48, leBytes 8 far9 ++ leBytes 8 0, f9, _, takes_mk (by decide +kernel), (by decide +kernel), (by decide +kernel), (by decide +kernel), (by decide +kernel), (by decide +kernel), (by decide +kernel), (by decide +kernel), some_mk hint_reads⟩,
   ⟨chip5, .member 255, 7, 2 ^ 52 + 5 * 2 ^ 48, leBytes 8 far9 ++ leBytes 8 0, takes_mk (by decide +kernel), (by decide +kernel), (by decide +kernel), (by decide +kernel), (by decide +kernel), (by decide +kernel), (by decide +kernel)⟩⟩

theorem witness_AtomicsTakeEffect :
    (∃ (s : State) (src : _) (tag : _) (addr : _) (a : _) (noret : _) (p : _), s.canonical ∧ Takes s (.fadd32 src tag addr a noret) ∧ admits s src addr (.atomic 0 4 a 0) = true ∧ atomicAt s addr 4 = some p) ∧
    (∃ (s : State) (src : _) (tag : _) (addr : _) (a : _) (noret : _) (p : _), s.canonical ∧ Takes s (.fadd64 src tag addr a noret) ∧ admits s src addr (.atomic 1 8 a 0) = true ∧ atomicAt s addr 8 = some p) ∧
    (∃ (s : State) (src : _) (tag : _) (addr : _) (a : _) (noret : _) (p : _), s.canonical ∧ Takes s (.umin32 src tag addr a noret) ∧ admits s src addr (.atomic 4 4 a 0) = true ∧ atomicAt s addr 4 = some p) ∧
    (∃ (s : State) (src : _) (tag : _) (addr : _) (a : _) (noret : _) (p : _), s.canonical ∧ Takes s (.umin64 src tag addr a noret) ∧ admits s src addr (.atomic 5 8 a 0) = true ∧ atomicAt s addr 8 = some p) ∧
    (∃ (s : State) (src : _) (tag : _) (addr : _) (a : _) (noret : _) (p : _), s.canonical ∧ Takes s (.umax32 src tag addr a noret) ∧ admits s src addr (.atomic 6 4 a 0) = true ∧ atomicAt s addr 4 = some p) ∧
    (∃ (s : State) (src : _) (tag : _) (addr : _) (a : _) (noret : _) (p : _), s.canonical ∧ Takes s (.umax64 src tag addr a noret) ∧ admits s src addr (.atomic 7 8 a 0) = true ∧ atomicAt s addr 8 = some p) ∧
    (∃ (s : State) (src : _) (tag : _) (addr : _) (a : _) (noret : _) (p : _), s.canonical ∧ Takes s (.smin32 src tag addr a noret) ∧ admits s src addr (.atomic 8 4 a 0) = true ∧ atomicAt s addr 4 = some p) ∧
    (∃ (s : State) (src : _) (tag : _) (addr : _) (a : _) (noret : _) (p : _), s.canonical ∧ Takes s (.smin64 src tag addr a noret) ∧ admits s src addr (.atomic 9 8 a 0) = true ∧ atomicAt s addr 8 = some p) ∧
    (∃ (s : State) (src : _) (tag : _) (addr : _) (a : _) (noret : _) (p : _), s.canonical ∧ Takes s (.smax32 src tag addr a noret) ∧ admits s src addr (.atomic 10 4 a 0) = true ∧ atomicAt s addr 4 = some p) ∧
    (∃ (s : State) (src : _) (tag : _) (addr : _) (a : _) (noret : _) (p : _), s.canonical ∧ Takes s (.smax64 src tag addr a noret) ∧ admits s src addr (.atomic 11 8 a 0) = true ∧ atomicAt s addr 8 = some p) ∧
    (∃ (s : State) (src : _) (tag : _) (addr : _) (x : _) (a : _) (noret : _) (p : _), s.canonical ∧ Takes s (.cas32 src tag addr x a noret) ∧ admits s src addr (.atomic 2 4 x a) = true ∧ atomicAt s addr 4 = some p) ∧
    (∃ (s : State) (src : _) (tag : _) (addr : _) (x : _) (a : _) (noret : _) (p : _), s.canonical ∧ Takes s (.cas64 src tag addr x a noret) ∧ admits s src addr (.atomic 3 8 x a) = true ∧ atomicAt s addr 8 = some p) ∧
    (∃ (s : State) (src : _) (tag : _) (addr : _) (a : _) (noret : _) (p : _), s.canonical ∧ Takes s (.fpadd32 src tag addr a noret) ∧ admits s src addr (.atomic 12 4 a 0) = true ∧ atomicAt s addr 4 = some p) :=
  ⟨⟨sh chip5, .member 255, 7, shEnd + 4, 2 ^ 32 - 1, false, _, canonical_mk (by decide +kernel), takes_mk (by decide +kernel), (by decide +kernel), some_mk (by decide +kernel)⟩,
   ⟨sh chip5, .member 255, 7, shEnd, 2 ^ 64 - 1, false, _, canonical_mk (by decide +kernel), takes_mk (by decide +kernel), (by decide +kernel), some_mk (by decide +kernel)⟩,
   ⟨sh chip5, .member 255, 7, shEnd, 2 ^ 32 - 1, false, _, canonical_mk (by decide +kernel), takes_mk (by decide +kernel), (by decide +kernel), some_mk (by decide +kernel)⟩,
   ⟨sh chip5, .member 255, 7, shEnd, 2 ^ 64 - 1, false, _, canonical_mk (by decide +kernel), takes_mk (by decide +kernel), (by decide +kernel), some_mk (by decide +kernel)⟩,
   ⟨sh chip5, .member 255, 7, shEnd + 4, 2 ^ 32 - 1, false, _, canonical_mk (by decide +kernel), takes_mk (by decide +kernel), (by decide +kernel), some_mk (by decide +kernel)⟩,
   ⟨sh chip5, .member 255, 7, shEnd, 2 ^ 64 - 1, false, _, canonical_mk (by decide +kernel), takes_mk (by decide +kernel), (by decide +kernel), some_mk (by decide +kernel)⟩,
   ⟨sh chip5, .member 255, 7, shEnd, 2 ^ 32 - 1, false, _, canonical_mk (by decide +kernel), takes_mk (by decide +kernel), (by decide +kernel), some_mk (by decide +kernel)⟩,
   ⟨sh chip5, .member 255, 7, shEnd, 2 ^ 64 - 1, false, _, canonical_mk (by decide +kernel), takes_mk (by decide +kernel), (by decide +kernel), some_mk (by decide +kernel)⟩,
   ⟨sh chip5, .member 255, 7, shEnd + 4, 2 ^ 32 - 1, false, _, canonical_mk (by decide +kernel), takes_mk (by decide +kernel), (by decide +kernel), some_mk (by decide +kernel)⟩,
   ⟨sh chip5, .member 255, 7, shEnd, 2 ^ 64 - 1, false, _, canonical_mk (by decide +kernel), takes_mk (by decide +kernel), (by decide +kernel), some_mk (by decide +kernel)⟩,
   ⟨sh chip5, .member 255, 7, shEnd, 0, 2 ^ 32 - 1, false, _, canonical_mk (by decide +kernel), takes_mk (by decide +kernel), (by decide +kernel), some_mk (by decide +kernel)⟩,
   ⟨sh chip5, .member 255, 7, shEnd, 0, 2 ^ 64 - 1, false, _, canonical_mk (by decide +kernel), takes_mk (by decide +kernel), (by decide +kernel), some_mk (by decide +kernel)⟩,
   ⟨sh chip5, .member 255, 7, shEnd + 4, 2 ^ 32 - 1, false, _, canonical_mk (by decide +kernel), takes_mk (by decide +kernel), (by decide +kernel), some_mk (by decide +kernel)⟩⟩

theorem witness_CountersTakeEffect :
    (∃ (s : State) (n : _) (v : _), Takes s (.acnSignal none n v) ∧ ((s.counter n).armed = true → reached { s.counter n with count := wrapAdd 32 (s.counter n).count 1 } = false)) ∧
    (∃ (s : State) (n : _) (v : _), Takes s (.acnSignal none n v) ∧ (s.counter n).armed = true ∧ reached { s.counter n with count := wrapAdd 32 (s.counter n).count 1 } = true) ∧
    (∃ (s : State) (n : _) (tg : _) (r : _), Takes s (.acnArm none n tg r) ∧ reached { s.counter n with target := tg, route := r, armed := true, fired := false } = false) ∧
    (∃ (s : State) (n : _) (tg : _) (r : _), Takes s (.acnArm none n tg r) ∧ (s.counter n).armed = true ∧ reached { s.counter n with target := tg, route := r, armed := true, fired := false } = true) ∧
    (∃ (s : State) (n : _) (tg : _) (r : _), Takes s (.acnArm none n tg r) ∧ (s.counter n).armed = false ∧ reached { s.counter n with target := tg, route := r, armed := true, fired := false } = true) ∧
    (∃ (s : State) (n : _) (tg : _) (r : _), Takes s (.acnDisarm none n tg r)) ∧
    (∃ (s : State) (w : _) (n : _) (v : _), Takes s (.acnSignal (some w) n v) ∧ inAcnRange s w n = false) ∧
    (∃ (s : State) (w : _) (n : _) (v : _), Takes s (.acnSignal (some w) n v) ∧ inAcnRange s w n = true) ∧
    (∃ (s : State) (w : _) (n : _) (tg : _) (r : _), Takes s (.acnArm (some w) n tg r) ∧ inAcnRange s w n = true) ∧
    (∃ (s : State) (w : _) (n : _) (tg : _) (r : _), Takes s (.acnDisarm (some w) n tg r) ∧ inAcnRange s w n = true) :=
  ⟨⟨acnS { count := 2 ^ 32 - 1, target := 1, armed := true } chip5, 65535, 1, takes_mk (by decide +kernel), (by decide +kernel)⟩,
   ⟨acnS { count := 2 ^ 32 - 1, target := 0, armed := true } chip5, 65535, 1, takes_mk (by decide +kernel), (by decide +kernel), (by decide +kernel)⟩,
   ⟨acnS { count := 0 } chip5, 65535, 2 ^ 31, 0, takes_mk (by decide +kernel), (by decide +kernel)⟩,
   ⟨acnS { count := 5, target := 9, armed := true } chip5, 65535, 5, 0, takes_mk (by decide +kernel), (by decide +kernel), (by decide +kernel)⟩,
   ⟨acnS { count := 5 } chip5, 65535, 5, 0, takes_mk (by decide +kernel), (by decide +kernel), (by decide +kernel)⟩,
   ⟨acnS { armed := true } chip5, 65535, 2 ^ 31, 0, takes_mk (by decide +kernel)⟩,
   ⟨withFlds [(Fld.ACN_TW_BASE 63, 16), (Fld.ACN_TW_COUNT 63, 4)] chip5, 63, 20, 1, takes_mk (by decide +kernel), (by decide +kernel)⟩,
   ⟨withFlds [(Fld.ACN_TW_BASE 63, 16), (Fld.ACN_TW_COUNT 63, 4)] chip5, 63, 19, 1, takes_mk (by decide +kernel), (by decide +kernel)⟩,
   ⟨withFlds [(Fld.ACN_TW_BASE 63, 16), (Fld.ACN_TW_COUNT 63, 4)] chip5, 63, 16, 0, 0, takes_mk (by decide +kernel), (by decide +kernel)⟩,
   ⟨withFlds [(Fld.ACN_TW_BASE 63, 16), (Fld.ACN_TW_COUNT 63, 4)] chip5, 63, 19, 0, 0, takes_mk (by decide +kernel), (by decide +kernel)⟩⟩

theorem witness_MoverTakesEffect :
    (∃ (s : State) (q : _) (tail : _), Takes s (.movQueueDoorbell q tail) ∧ qOpen s .mov q = true ∧ q ∉ s.qReenable .mov ∧ tail < s.qDepth .mov q) ∧
    (∃ (s : State) (q : _) (i : _) (bs : _), Takes s (.copy_ q) ∧ nextDesc s .mov q = some (i, bs) ∧ (movDescOf bs).op = 1 ∧ (s.body.mover.live.filter fun e => e.2.q == q).length < s.get Fld.MOV_CAPS_INFLIGHT ∧ (((movDescOf bs).fence = true → ∀ e ∈ s.body.mover.live, e.2.q ≠ q))) ∧
    (∃ (s : State) (q : _) (i : _) (bs : _), Takes s (.copyPage q) ∧ nextDesc s .mov q = some (i, bs) ∧ (movDescOf bs).op = 2 ∧ (s.body.mover.live.filter fun e => e.2.q == q).length < s.get Fld.MOV_CAPS_INFLIGHT ∧ (((movDescOf bs).fence = true → ∀ e ∈ s.body.mover.live, e.2.q ≠ q))) ∧
    (∃ (s : State) (q : _) (i : _) (bs : _), Takes s (.fill q) ∧ nextDesc s .mov q = some (i, bs) ∧ (movDescOf bs).op = 3 ∧ (s.body.mover.live.filter fun e => e.2.q == q).length < s.get Fld.MOV_CAPS_INFLIGHT ∧ (((movDescOf bs).fence = true → ∀ e ∈ s.body.mover.live, e.2.q ≠ q))) ∧
    (∃ (s : State) (q : _) (i : _) (bs : _), Takes s (.barrier q) ∧ nextDesc s .mov q = some (i, bs) ∧ (movDescOf bs).op = 4 ∧ (s.body.mover.live.filter fun e => e.2.q == q).length < s.get Fld.MOV_CAPS_INFLIGHT ∧ (((movDescOf bs).fence = true → ∀ e ∈ s.body.mover.live, e.2.q ≠ q)) ∧ ((∀ e ∈ s.body.mover.live, e.2.q ≠ q))) ∧
    (∃ (s : State) (id : _) (m : _) (ctx : _), tget s.body.mover.live id = some m ∧ movFormOk m.desc (movDescOf m.desc) = true ∧ qArrivalOk s .mov m.q (movDescOf m.desc).arrival = true ∧ qCtx s .mov m.q = some ctx ∧ movPass s ctx (movDescOf m.desc) = true ∧ (movDescOf m.desc).op = 1) ∧
    (∃ (s : State) (id : _) (m : _) (ctx : _), tget s.body.mover.live id = some m ∧ movFormOk m.desc (movDescOf m.desc) = true ∧ qArrivalOk s .mov m.q (movDescOf m.desc).arrival = true ∧ qCtx s .mov m.q = some ctx ∧ movPass s ctx (movDescOf m.desc) = true ∧ (movDescOf m.desc).op = 3) ∧
    (∃ (s : State) (id : _) (m : _) (ctx : _), tget s.body.mover.live id = some m ∧ movFormOk m.desc (movDescOf m.desc) = true ∧ qArrivalOk s .mov m.q (movDescOf m.desc).arrival = true ∧ qCtx s .mov m.q = some ctx ∧ movPass s ctx (movDescOf m.desc) = true ∧ (movDescOf m.desc).op = 2) ∧
    (∃ (s : State) (id : _) (m : _), tget s.body.mover.live id = some m ∧ movFormOk m.desc (movDescOf m.desc) = false) ∧
    (∃ (s : State) (id : _) (m : _), Takes s (.moverDescriptorEnd id) ∧ tget s.body.mover.live id = some m ∧ m.left = 0) :=
  ⟨⟨qS .mov [] chip5, 63, 127, takes_mk (by decide +kernel), (by decide +kernel), (by decide +kernel), (by decide +kernel)⟩,
   ⟨withFlds [(Fld.MOV_CAPS_INFLIGHT, 1)] (qS .mov (movD 1 (shAt 0) (shAt 64) 64) chip5), 63, _, _, takes_mk (by decide +kernel), some_pair (by decide +kernel), (by decide +kernel), (by decide +kernel), (by decide +kernel)⟩,
   ⟨withFlds [(Fld.MOV_CAPS_INFLIGHT, 1)] (qS .mov (movD 2 near7 near8 0) chip5), 63, _, _, takes_mk (by decide +kernel), some_pair (by decide +kernel), (by decide +kernel), (by decide +kernel), (by decide +kernel)⟩,
   ⟨withFlds [(Fld.MOV_CAPS_INFLIGHT, 1)] (qS .mov (movD 3 0 (shAt 0) 64) chip5), 63, _, _, takes_mk (by decide +kernel), some_pair (by decide +kernel), (by decide +kernel), (by decide +kernel), (by decide +kernel)⟩,
   ⟨withFlds [(Fld.MOV_CAPS_INFLIGHT, 1)] (qS .mov (movD 4 0 0 0) chip5), 63, _, _, takes_mk (by decide +kernel), some_pair (by decide +kernel), (by decide +kernel), (by decide +kernel), (by decide +kernel), (by decide +kernel)⟩,
   ⟨movS (movD 1 (shAt 0) (shAt 64) 64) (sh chip5), 1, mov1 (movD 1 (shAt 0) (shAt 64) 64), _, (by decide +kernel), (by decide +kernel), (by decide +kernel), some_mk (by decide +kernel), (by decide +kernel), (by decide +kernel)⟩,
   ⟨movS (movD 3 0 (shAt 0) 64) (sh chip5), 1, mov1 (movD 3 0 (shAt 0) 64), _, (by decide +kernel), (by decide +kernel), (by decide +kernel), some_mk (by decide +kernel), (by decide +kernel), (by decide +kernel)⟩,
   ⟨movS (movD 2 near7 near8 0) (sh chip5), 1, mov1 (movD 2 near7 near8 0), _, (by decide +kernel), (by decide +kernel), (by decide +kernel), some_mk (by decide +kernel), (by decide +kernel), (by decide +kernel)⟩,
   ⟨movS (movD 3 1 0 64) chip5, 1, mov1 (movD 3 1 0 64), (by decide +kernel), (by decide +kernel)⟩,
   ⟨movS (movD 4 0 0 0) chip5, 1, _, takes_mk (by decide +kernel), some_mk (by decide +kernel), (by decide +kernel)⟩⟩

theorem witness_SendingTakesEffect :
    (∃ (s : State) (q : _) (tail : _), Takes s (.sendQueueDoorbell q tail) ∧ qOpen s .xpt q = true ∧ q ∉ s.qReenable .xpt ∧ tail < s.qDepth .xpt q) ∧
    (∃ (s : State) (q : _) (r : _) (i : _) (bs : _) (p : _), Takes s (.send q r) ∧ nextDesc s .xpt q = some (i, bs) ∧ sendSource s (sendDescOf bs) = some p ∧ sendForm s q (sendDescOf bs) = true ∧ sendWinOk s q (sendDescOf bs) = true ∧ (((sendDescOf bs).dst = s.chipId ∨ s.body.sec.podCur.isSome = true)) ∧ s.body.xpt.sent.length < 16384 ∧ orderedFree s (sendDescOf bs) = true ∧ r.ue = none) ∧
    (∃ (s : State) (q : _) (r : _) (i : _) (bs : _) (p : _), Takes s (.send q r) ∧ nextDesc s .xpt q = some (i, bs) ∧ sendSource s (sendDescOf bs) = some p ∧ sendForm s q (sendDescOf bs) = false) ∧
    (∃ (s : State) (n : _) (r : _) (x : _), Takes s (.rtoExpiry n r) ∧ tget s.body.xpt.sent n = some x ∧ x.retx < s.get Fld.XPT_CTL_RETRY_MAX ∧ s.body.tick ≤ x.first + 400000 ∧ r.ue = none) ∧
    (∃ (s : State) (n : _) (r : _) (x : _), Takes s (.rtoExpiry n r) ∧ tget s.body.xpt.sent n = some x ∧ ((s.get Fld.XPT_CTL_RETRY_MAX ≤ x.retx ∨ x.first + 400000 < s.body.tick))) ∧
    (∃ (s : State) (n : _) (x : _), Takes s (.sendGiveUp n) ∧ tget s.body.xpt.sent n = some x ∧ ((x.ovr = true ∨ s.get Fld.XPT_CTL_RETRY_MAX ≤ x.retx))) ∧
    (∃ (s : State) (bs : _) (k : _) (x : _) (st : _), Takes s (.ackPacketReceive bs) ∧ opens s bs = some k ∧ (packetOf (bs.take 56)).kind = 1 ∧ tget s.body.xpt.sent (packetOf (bs.take 56)).seq = some x ∧ (sendDescOf x.desc).bufId = (packetOf (bs.take 56)).bufId ∧ (sendDescOf x.desc).bufGen = (packetOf (bs.take 56)).bufGen ∧ ackStatus ((packetOf (bs.take 56)).offset % 256) = some st) ∧
    (∃ (s : State) (bs : _) (k : _), Takes s (.ackPacketReceive bs) ∧ opens s bs = some k ∧ (packetOf (bs.take 56)).kind = 1 ∧ tget s.body.xpt.sent (packetOf (bs.take 56)).seq = none) :=
  ⟨⟨qS .xpt [] chip5, 63, 127, takes_mk (by decide +kernel), (by decide +kernel), (by decide +kernel), (by decide +kernel)⟩,
   ⟨qS .xpt sendD (podS chip5), 63, {}, _, _, _, takes_mk (by decide +kernel), some_pair (by decide +kernel), some_mk (by decide +kernel), (by decide +kernel), (by decide +kernel), (by decide +kernel), (by decide +kernel), (by decide +kernel), (by decide +kernel)⟩,
   ⟨withFlds [(qOwner .xpt 63, 2)] (qS .xpt sendD chip5), 63, {}, _, _, _, takes_mk (by decide +kernel), some_pair (by decide +kernel), some_mk (by decide +kernel), (by decide +kernel)⟩,
   ⟨withFlds [(Fld.XPT_CTL_RETRY_MAX, 1)] (xptS (fun x => { x with sent := [(9, sent0)] }) chip5), 9, {}, _, takes_mk (by decide +kernel), some_mk (by decide +kernel), (by decide +kernel), (by decide +kernel), (by decide +kernel)⟩,
   ⟨xptS (fun x => { x with sent := [(9, { sent0 with retx := 255 })] }) chip5, 9, {}, _, takes_mk (by decide +kernel), some_mk (by decide +kernel), (by decide +kernel)⟩,
   ⟨xptS (fun x => { x with sent := [(9, { sent0 with ovr := true })] }) chip5, 9, _, takes_mk (by decide +kernel), some_mk (by decide +kernel), (by decide +kernel)⟩,
   ⟨podS (xptS (fun x => { x with sent := [(9, sent0)] }) chip5), _, _, sent0, St.ok, takes_mk (by decide +kernel), opens_mk (ack0).bytes [] podKey0 (by decide +kernel) (by decide +kernel) (by decide +kernel) (by decide +kernel), (by decide +kernel), (by decide +kernel), (by decide +kernel), (by decide +kernel), (by decide +kernel)⟩,
   ⟨podS chip5, _, _, takes_mk (by decide +kernel), opens_mk (ack0).bytes [] podKey0 (by decide +kernel) (by decide +kernel) (by decide +kernel) (by decide +kernel), (by decide +kernel), (by decide +kernel)⟩⟩

theorem witness_ReceivingTakesEffect :
    (∃ (s : State) (bs : _) (n : _) (b : _), Takes s (.dataPacketReceive bs n b) ∧ (packetOf (bs.take 56)).kind < 4 ∧ podKeyOf s (packetOf (bs.take 56)).epoch = none) ∧
    (∃ (s : State) (bs : _) (n : _) (k : _), Takes s (.dataPacketReceive bs n false) ∧ opens s bs = some k ∧ (packetOf (bs.take 56)).kind = 0) ∧
    (∃ (s : State) (p : Packet) (k : List Byte), p.wellFormed k.length = true ∧ p.bufGen = (s.buf p.bufId).gen ∧ (s.buf p.bufId).st = .posted ∧ p.totalLen ≤ (s.buf p.bufId).length ∧ p.totalLen ≤ 4096) ∧
    (∃ (s : State) (p : Packet) (k : List Byte), p.wellFormed k.length = true ∧ p.bufGen = (s.buf p.bufId).gen ∧ (s.buf p.bufId).st = .complete ∧ (s.buf p.bufId).last = some (p.src, p.seq)) ∧
    (∃ (s : State) (p : Packet) (k : List Byte), p.wellFormed k.length = true ∧ p.bufGen ≠ (s.buf p.bufId).gen ∧ (s.buf p.bufId).last ≠ some (p.src, p.seq)) ∧
    (∃ (s : State) (n : _), Takes s (.fillTimeout n) ∧ (s.buf n).st = .filling) :=
  ⟨⟨chip5, pkt0.bytes, 0, false, takes_mk (by decide +kernel), (by decide +kernel), (by decide +kernel)⟩,
   ⟨podS chip5, _, 0, _, takes_mk (by decide +kernel), opens_mk (pkt0).bytes [] podKey0 (by decide +kernel) (by decide +kernel) (by decide +kernel) (by decide +kernel), (by decide +kernel)⟩,
   ⟨xptS (fun x => { x with bufs := [(3, { length := 1, gen := 1, st := .posted })] }) chip5, pkt0, [0], (by decide +kernel), (by decide +kernel), (by decide +kernel), (by decide +kernel), (by decide +kernel)⟩,
   ⟨xptS (fun x => { x with bufs := [(3, { length := 1, gen := 1, st := .complete, last := some (2, 9) })] }) chip5, pkt0, [0], (by decide +kernel), (by decide +kernel), (by decide +kernel), (by decide +kernel)⟩,
   ⟨xptS (fun x => { x with bufs := [(3, { length := 1, gen := 2, st := .posted })] }) chip5, pkt0, [0], (by decide +kernel), (by decide +kernel), (by decide +kernel)⟩,
   ⟨xptS (fun x => { x with bufs := [(262143, { st := .filling })] }) chip5, 262143, takes_mk (by decide +kernel), (by decide +kernel)⟩⟩

theorem witness_LinksTakeEffect :
    (∃ (s : State) (p : _) (f : _), Takes s (.flitReceive p f) ∧ s.portUp p = true ∧ f.crcGood = true ∧ ((f.type = 1 ∨ f.type = 2)) ∧ f.seq % 4096 = (s.link p).rxNext) ∧
    (∃ (s : State) (p : _) (f : _), Takes s (.flitReceive p f) ∧ s.portUp p = true ∧ f.crcGood = true ∧ f.type = 0) ∧
    (∃ (s : State) (p : _) (f : _), Takes s (.flitReceive p f) ∧ s.portUp p = true ∧ f.crcGood = false ∧ (s.link p).nakSent = false ∧ f.type ≠ 0) ∧
    (∃ (s : State) (p : _) (f : _), Takes s (.nak p f) ∧ s.portUp p = true ∧ f.crcGood = true) ∧
    (∃ (s : State) (p : _), Takes s (.replayTimeout p) ∧ s.portUp p = true ∧ (s.link p).retraining = false ∧ (s.link p).unacked ≠ 0) ∧
    (∃ (s : State) (p : _), Takes s (.retrain p) ∧ s.portUp p = true ∧ (s.link p).retraining = false ∧ s.get Fld.FAB_CTL_REPLAY_MAX ≤ (s.link p).replays) ∧
    (∃ (s : State) (p : _), Takes s (.retrainDone p) ∧ (s.link p).retraining = true) ∧
    (∃ (s : State) (p : _), Takes s (.retrainTimeout p) ∧ (s.link p).retraining = true) ∧
    (∃ (s : State) (p : _) (w : _) (peer : _), Takes s (.portUp p w peer) ∧ s.portUp p = false ∧ s.is (Fld.FAB_PORT_CFG_ENABLE p) = true ∧ (s.link p).lanesOut = [] ∧ 0 < w ∧ s.body.plat.clocksLost.contains (2 + p / 4) = false) :=
  ⟨⟨linkS 15 { rxNext := 4095 } chip5, 15, { type := 2, seq := 4095 }, takes_mk (by decide +kernel), (by decide +kernel), (by decide +kernel), (by decide +kernel), (by decide +kernel)⟩,
   ⟨linkS 15 {  } chip5, 15, {}, takes_mk (by decide +kernel), (by decide +kernel), (by decide +kernel), (by decide +kernel)⟩,
   ⟨linkS 15 {  } chip5, 15, { type := 1, crcGood := false }, takes_mk (by decide +kernel), (by decide +kernel), (by decide +kernel), (by decide +kernel), (by decide +kernel)⟩,
   ⟨linkS 15 {  } chip5, 15, {}, takes_mk (by decide +kernel), (by decide +kernel), (by decide +kernel)⟩,
   ⟨linkS 15 { unacked := 512 } chip5, 15, takes_mk (by decide +kernel), (by decide +kernel), (by decide +kernel), (by decide +kernel)⟩,
   ⟨withFlds [(Fld.FAB_CTL_REPLAY_MAX, 3)] (linkS 15 { replays := 3 } chip5), 15, takes_mk (by decide +kernel), (by decide +kernel), (by decide +kernel), (by decide +kernel)⟩,
   ⟨linkS 15 { retraining := true } chip5, 15, takes_mk (by decide +kernel), (by decide +kernel)⟩,
   ⟨linkS 15 { retraining := true } chip5, 15, takes_mk (by decide +kernel), (by decide +kernel)⟩,
   ⟨withFlds [(Fld.FAB_PORT_CFG_ENABLE 0, 1)] chip5, 0, 4, 65535, takes_mk (by decide +kernel), (by decide +kernel), (by decide +kernel), (by decide +kernel), (by decide +kernel), (by decide +kernel)⟩⟩

theorem witness_LanesAreSpared :
    (∃ (s : State) (p : _) (lane : _) (r : _), Takes s (.laneFail p lane) ∧ s.portUp p = true ∧ (lanesOf s p).contains lane = true ∧ r = (lanesOf s p).filter (· != lane) ∧ r ≠ []) ∧
    (∃ (s : State) (p : _) (lane : _), Takes s (.laneFail p lane) ∧ s.portUp p = true ∧ lanesOf s p = [lane]) ∧
    (∃ (s : State) (p : _) (lane : Nat) (u : State), Takes s (.spareLaneTrained p) ∧ (s.link p).lanesOut.find? (· < 64) = some lane ∧ s.portUp p = true ∧ s.is Fld.FAB_CTL_SPARE_AUTO = true ∧ s.is (Fld.FAB_SPARE_MAP_IN_USE (p / 4)) = false ∧ s.sparesLeft 7 ≠ 0 ∧ u = run (acts [setFld (Fld.FAB_SPARE_MAP_LANE (p / 4)) lane, setFld (Fld.FAB_SPARE_MAP_IN_USE (p / 4)) 1, setFld (Fld.FAB_PORT_STATUS_SPARED p) 1, useSpare 7 lane]) s) :=
  ⟨⟨linkS 0 {} (spareS chip5), 0, 3, [0, 1, 2], takes_mk (by decide +kernel), (by decide +kernel), (by decide +kernel), (by decide +kernel), (by decide +kernel)⟩,
   ⟨linkS 15 { lanesOut := [61, 62, 63] } (spareS chip5), 15, 60, takes_mk (by decide +kernel), (by decide +kernel), (by decide +kernel)⟩,
   ⟨withFlds [(Fld.FAB_CTL_SPARE_AUTO, 1)] (linkS 0 { lanesOut := [2] } (spareS chip5)), 0, 2, _, takes_mk (by decide +kernel), (by decide +kernel), (by decide +kernel), (by decide +kernel), (by decide +kernel), (by decide +kernel), rfl⟩⟩

theorem witness_HerderSelectsAndRefills :
    (∃ (s : State) (p : _) (u : State), Takes s (.herderSelect p) ∧ u = run herderSync s ∧ u.portUp p = true ∧ (u.link p).retraining = false ∧ (u.link p).left = none ∧ selectable u p (64 * p) = true) ∧
    (∃ (s : State) (p : _) (u : State) (n : _), Takes s (.herderSelect p) ∧ u = run herderSync s ∧ u.portUp p = true ∧ (u.link p).retraining = false ∧ (u.link p).left = none ∧ selectable u p (64 * p) = false ∧ 64 * p < n ∧ n < 64 * p + 64 ∧ selectable u p n = true ∧ ((∀ x, 64 * p < x → x < 64 * p + 64 → x ≠ n → selectable u p x = true → earlier (u.tq n).finish (u.tq x).finish = true ∧ earlier (u.tq x).finish (u.tq n).finish = false))) ∧
    (∃ (s : State) (p : _) (u : State), Takes s (.herderSelect p) ∧ u = run herderSync s ∧ (u.link p).left ≠ none) ∧
    (∃ (s : State) (n : _), s.canonical ∧ Takes s .shaperRefill ∧ n < 1024 ∧ s.is (Fld.HRD_Q_CFG_SHAPE n) = true ∧ shapeOn s n = true) :=
  ⟨⟨linkS 1 { credits := [1, 1, 1, 1] } (herdS [(64, tq0 0)] (withFlds [(Fld.HRD_Q_STATE_TOKENS 64, 1)] chip5)), 1, _, takes_mk (by decide +kernel), rfl, (by decide +kernel), (by decide +kernel), (by decide +kernel), (by decide +kernel)⟩,
   ⟨s127, 1, _, 127, takes_mk (by decide +kernel), rfl, (by decide +kernel), (by decide +kernel), (by decide +kernel), (by decide +kernel), (by decide +kernel), (by decide +kernel), (by decide +kernel), fun x a b c e => absurd ((only_127 x b a c).symm.trans e) Bool.noConfusion⟩,
   ⟨linkS 1 { left := some (0, 3) } chip5, 1, _, takes_mk (by decide +kernel), rfl, (by decide +kernel)⟩,
   ⟨withFlds [(Fld.HRD_Q_CFG_SHAPE 1023, 1)] { chip5 with body := { chip5.body with herder := { shaped := [(1023, true)] } } }, 1023, canonical_mk (by decide +kernel), takes_mk (by decide +kernel), (by decide +kernel), (by decide +kernel), (by decide +kernel)⟩⟩

theorem witness_CollarsRefillAndRelease :
    (∃ (s : State) (x : _) (k : _), Takes s (.collarRefill x k) ∧ colOn s x k = true ∧ tget s.body.jobs.deferred x = none) ∧
    (∃ (s : State) (x : _) (k : _), Takes s (.collarRefill x k) ∧ colOn s x k = true) ∧
    (∃ (s : State) (x : _) (k : _), Takes s (.collarRefill x k) ∧ colOn s x k = false) ∧
    (∃ (s : State) (k : _) (h : _) (n : _) (r : _), Takes s (.resvTimeout k h n) ∧ resvOf s k h n = some r) :=
  ⟨⟨withFlds [(Fld.COL_TOKCFG_ENABLE 1023, 1)] chip5, 1023, 0, takes_mk (by decide +kernel), (by decide +kernel), (by decide +kernel)⟩,
   ⟨withFlds [(Fld.COL_POSCFG_ENABLE 1023, 1)] chip5, 1023, 1, takes_mk (by decide +kernel), (by decide +kernel)⟩,
   ⟨chip5, 0, 1, takes_mk (by decide +kernel), (by decide +kernel)⟩,
   ⟨jobsS (fun j => { j with resv := [(0, 1, h0, 4, 9, 0)] }) chip5, 1, h0, 4, _, takes_mk (by decide +kernel), some_mk (by decide +kernel)⟩⟩

theorem witness_StepJobsAreAccepted :
    (∃ (s : State) (q : _) (tail : _), Takes s (.jobQueueDoorbell q tail) ∧ jqOpen s q = true ∧ s.body.jobs.reenable.contains q = false ∧ tail < s.jqDepth q) ∧
    (∃ (s : State) (q : _) (tail : _), Takes s (.jobQueueDoorbell q tail) ∧ jqOpen s q = false) ∧
    (∃ (s : State) (q : _), Takes s (.jobQueueReenable q) ∧ s.body.jobs.reenable.contains q = true ∧ ((∀ e ∈ s.body.jobs.jobs, e.2.q ≠ q))) ∧
    (∃ (s : State) (q : _) (i : _), Takes s (.promptChunk q) ∧ AtSlot s q i Op.promptChunk ∧ checkJob s (slotBytes s q i) (slotDesc s q i) = none ∧ behindDeferred s ((jobTenant s (slotDesc s q i)).getD 0) (slotDesc s q i) = false ∧ covers s ((jobTenant s (slotDesc s q i)).getD 0) (slotDesc s q i) = true) ∧
    (∃ (s : State) (q : _) (i : _) (st : _), Takes s (.promptChunk q) ∧ AtSlot s q i Op.promptChunk ∧ checkJob s (slotBytes s q i) (slotDesc s q i) = some st) ∧
    (∃ (s : State) (q : _) (i : _), Takes s (.decode q) ∧ AtSlot s q i Op.decode ∧ checkJob s (slotBytes s q i) (slotDesc s q i) = none ∧ behindDeferred s ((jobTenant s (slotDesc s q i)).getD 0) (slotDesc s q i) = false ∧ covers s ((jobTenant s (slotDesc s q i)).getD 0) (slotDesc s q i) = true) ∧
    (∃ (s : State) (q : _) (i : _) (st : _), Takes s (.decode q) ∧ AtSlot s q i Op.decode ∧ checkJob s (slotBytes s q i) (slotDesc s q i) = some st) ∧
    (∃ (s : State) (q : _) (i : _), Takes s (.verifyChain q) ∧ AtSlot s q i Op.verifyChain ∧ checkJob s (slotBytes s q i) (slotDesc s q i) = none ∧ behindDeferred s ((jobTenant s (slotDesc s q i)).getD 0) (slotDesc s q i) = false ∧ covers s ((jobTenant s (slotDesc s q i)).getD 0) (slotDesc s q i) = true) ∧
    (∃ (s : State) (q : _) (i : _) (st : _), Takes s (.verifyChain q) ∧ AtSlot s q i Op.verifyChain ∧ checkJob s (slotBytes s q i) (slotDesc s q i) = some st) ∧
    (∃ (s : State) (q : _) (i : _), Takes s (.verifyTree q) ∧ AtSlot s q i Op.verifyTree ∧ checkJob s (slotBytes s q i) (slotDesc s q i) = none ∧ behindDeferred s ((jobTenant s (slotDesc s q i)).getD 0) (slotDesc s q i) = false ∧ covers s ((jobTenant s (slotDesc s q i)).getD 0) (slotDesc s q i) = true) ∧
    (∃ (s : State) (q : _) (i : _) (st : _), Takes s (.verifyTree q) ∧ AtSlot s q i Op.verifyTree ∧ checkJob s (slotBytes s q i) (slotDesc s q i) = some st) ∧
    (∃ (s : State) (q : _) (i : _), Takes s (.partial_ q) ∧ AtSlot s q i Op.partial_ ∧ checkJob s (slotBytes s q i) (slotDesc s q i) = none ∧ behindDeferred s ((jobTenant s (slotDesc s q i)).getD 0) (slotDesc s q i) = false ∧ covers s ((jobTenant s (slotDesc s q i)).getD 0) (slotDesc s q i) = true) ∧
    (∃ (s : State) (q : _) (i : _) (st : _), Takes s (.partial_ q) ∧ AtSlot s q i Op.partial_ ∧ checkJob s (slotBytes s q i) (slotDesc s q i) = some st) ∧
    (∃ (s : State) (q : _) (i : _), Takes s (.prefixPartial q) ∧ AtSlot s q i Op.prefixPartial ∧ checkJob s (slotBytes s q i) (slotDesc s q i) = none ∧ behindDeferred s ((jobTenant s (slotDesc s q i)).getD 0) (slotDesc s q i) = false ∧ covers s ((jobTenant s (slotDesc s q i)).getD 0) (slotDesc s q i) = true) ∧
    (∃ (s : State) (q : _) (i : _) (st : _), Takes s (.prefixPartial q) ∧ AtSlot s q i Op.prefixPartial ∧ checkJob s (slotBytes s q i) (slotDesc s q i) = some st) ∧
    (∃ (s : State) (q : _) (i : _), Takes s (.merge q) ∧ AtSlot s q i Op.merge ∧ checkJob s (slotBytes s q i) (slotDesc s q i) = none ∧ behindDeferred s ((jobTenant s (slotDesc s q i)).getD 0) (slotDesc s q i) = false ∧ covers s ((jobTenant s (slotDesc s q i)).getD 0) (slotDesc s q i) = true) ∧
    (∃ (s : State) (q : _) (i : _) (st : _), Takes s (.merge q) ∧ AtSlot s q i Op.merge ∧ checkJob s (slotBytes s q i) (slotDesc s q i) = some st) ∧
    (∃ (s : State) (q : _) (i : _), Takes s (.decode q) ∧ AtSlot s q i Op.decode ∧ checkJob s (slotBytes s q i) (slotDesc s q i) = none ∧ covers s ((jobTenant s (slotDesc s q i)).getD 0) (slotDesc s q i) = false) :=
  ⟨⟨jobQ [] chip5, 255, 4095, takes_mk (by decide +kernel), (by decide +kernel), (by decide +kernel), (by decide +kernel)⟩,
   ⟨chip5, 255, 0, takes_mk (by decide +kernel), (by decide +kernel)⟩,
   ⟨jobsS (fun j => { j with reenable := [255] }) chip5, 255, takes_mk (by decide +kernel), (by decide +kernel), (by decide +kernel)⟩,
   ⟨jobQ (jChunk) (runnable .prompting), 255, 0, takes_mk (by decide +kernel), atSlot_mk (by decide +kernel), (by decide +kernel), (by decide +kernel), (by decide +kernel)⟩,
   ⟨jobQ (jChunk) chip5, 255, 0, _, takes_mk (by decide +kernel), atSlot_mk (by decide +kernel), some_mk (by decide +kernel)⟩,
   ⟨jobQ (jDecode) (runnable .generating), 255, 0, takes_mk (by decide +kernel), atSlot_mk (by decide +kernel), (by decide +kernel), (by decide +kernel), (by decide +kernel)⟩,
   ⟨jobQ (jDecode) chip5, 255, 0, _, takes_mk (by decide +kernel), atSlot_mk (by decide +kernel), some_mk (by decide +kernel)⟩,
   ⟨jobQ (jd 0x21 0 2 0) (runnable .generating), 255, 0, takes_mk (by decide +kernel), atSlot_mk (by decide +kernel), (by decide +kernel), (by decide +kernel), (by decide +kernel)⟩,
   ⟨jobQ (jd 0x21 0 2 0) chip5, 255, 0, _, takes_mk (by decide +kernel), atSlot_mk (by decide +kernel), some_mk (by decide +kernel)⟩,
   ⟨jobQ (jd 0x22 1 2 0) (runnable .generating), 255, 0, takes_mk (by decide +kernel), atSlot_mk (by decide +kernel), (by decide +kernel), (by decide +kernel), (by decide +kernel)⟩,
   ⟨jobQ (jd 0x22 1 2 0) chip5, 255, 0, _, takes_mk (by decide +kernel), atSlot_mk (by decide +kernel), some_mk (by decide +kernel)⟩,
   ⟨jobQ (jd 0x30 0 1 1) (runnable .generating), 255, 0, takes_mk (by decide +kernel), atSlot_mk (by decide +kernel), (by decide +kernel), (by decide +kernel), (by decide +kernel)⟩,
   ⟨jobQ (jd 0x30 0 1 1) chip5, 255, 0, _, takes_mk (by decide +kernel), atSlot_mk (by decide +kernel), some_mk (by decide +kernel)⟩,
   ⟨jobQ (jdPrefix) (runnable .listening), 255, 0, takes_mk (by decide +kernel), atSlot_mk (by decide +kernel), (by decide +kernel), (by decide +kernel), (by decide +kernel)⟩,
   ⟨jobQ (jdPrefix) chip5, 255, 0, _, takes_mk (by decide +kernel), atSlot_mk (by decide +kernel), some_mk (by decide +kernel)⟩,
   ⟨jobQ (jdMerge) (runnable .listening), 255, 0, takes_mk (by decide +kernel), atSlot_mk (by decide +kernel), (by decide +kernel), (by decide +kernel), (by decide +kernel)⟩,
   ⟨jobQ (leBytes 64 0x40) chip5, 255, 0, _, takes_mk (by decide +kernel), atSlot_mk (by decide +kernel), some_mk (by decide +kernel)⟩,
   ⟨withFlds [(Fld.COL_TOKCFG_ENABLE 0, 1)] (jobQ jDecode (runnable .generating)), 255, 0, takes_mk (by decide +kernel), atSlot_mk (by decide +kernel), (by decide +kernel), (by decide +kernel)⟩⟩

theorem witness_StepJobsRunAndEnd :
    (∃ (s : State) (pae : _) (u : State) (x : _) (f : _), Takes s (.jobDispatch pae) ∧ u = run (liftGroups (if pae then 1 else 0)) s ∧ (inQueueOrder u (if pae then 1 else 0) ((readyJobs u (if pae then 1 else 0)).filter fun x => x.2.cls == 0)).head? = some x ∧ fitJob u x.2 = some f) ∧
    (∃ (s : State) (pae : _) (u : State) (x : _) (f : _), Takes s (.jobDispatch pae) ∧ u = run (liftGroups (if pae then 1 else 0)) s ∧ ((∀ y ∈ readyJobs u (if pae then 1 else 0), y.2.cls ≠ 0)) ∧ chooseJob u (if pae then 1 else 0) (readyJobs u (if pae then 1 else 0)) = some x ∧ fitJob u x.2 = some f) ∧
    (∃ (s : State) (id : _) (j : _) (u : State) (v : State) (w : _), s.job id = some j ∧ j.begun = false ∧ checkTurn s j.d = none ∧ u = run (stallJob 0 id) s ∧ v = run (intake id) u ∧ v.job id = some w ∧ w.endWith = none) ∧
    (∃ (s : State) (id : _) (j : _), s.job id = some j) ∧
    (∃ (s : State) (id : _) (n : _) (hw : _) (j : _), Takes s (.subjobEnd id n hw) ∧ s.job id = some j ∧ j.st = .running ∧ j.subDone + 1 < j.subs ∧ j.endWith = none) ∧
    (∃ (s : State) (id : _) (n : _) (hw : _) (j : _), Takes s (.jobEnd id n hw) ∧ s.job id = some j ∧ j.st = .running ∧ j.subs ≤ j.subDone + 1 ∧ onPae j.d.op = true) ∧
    (∃ (s : State) (id : _) (n : _) (hw : _) (j : _), Takes s (.jobEnd id n hw) ∧ s.job id = some j ∧ j.st = .running ∧ j.subs ≤ j.subDone + 1 ∧ onPae j.d.op = false ∧ j.d.op ≠ Op.merge) ∧
    (∃ (s : State) (id : _) (j : _), s.job id = some j ∧ j.endWith = none ∧ ofRequest j.d.op = false) ∧
    (∃ (s : State) (id : _) (j : _) (c : _), s.job id = some j ∧ j.endWith = none ∧ ofRequest j.d.op = true ∧ s.loc j.d.handle = some c ∧ c.st = .owner j.d.epoch ∧ tailBlocked s j = false) ∧
    (∃ (s : State) (id : _) (j : _), Takes s (.stallLimit id) ∧ s.job id = some j ∧ j.st = .waiting ∧ jobResident s j = false) ∧
    (∃ (s : State) (id : _) (j : _), Takes s (.internalReplay false id) ∧ s.job id = some j ∧ j.st = .faulted) ∧
    (∃ (s : State) (id : _) (x : _), Takes s (.internalReplay true id) ∧ s.smp id = some x ∧ x.st = .faulted) :=
  ⟨⟨wide (withJob (job0 jDecode .waiting) (runnable .generating)), false, _, _, _, takes_mk (by decide +kernel), rfl, some_mk (by decide +kernel), some_mk (by decide +kernel)⟩,
   ⟨wide (withJob { job0 jChunk .waiting with cls := 1 } (runnable .prompting)), true, _, _, _, takes_mk (by decide +kernel), rfl, (by decide +kernel), some_mk (by decide +kernel), some_mk (by decide +kernel)⟩,
   ⟨withJob (job0 jDecode .waiting) (runnable .generating), 1, job0 jDecode .waiting, _, _, _, (by decide +kernel), (by decide +kernel), (by decide +kernel), rfl, rfl, some_mk (by decide +kernel), (by decide +kernel)⟩,
   ⟨withJob (job0 jDecode .waiting) (runnable .generating), 1, _, some_mk (by decide +kernel)⟩,
   ⟨withJob { job0 jDecode .running with subs := 2 } (runnable .generating), 1, 0, 0, { job0 jDecode .running with subs := 2 }, takes_mk (by decide +kernel), (by decide +kernel), (by decide +kernel), (by decide +kernel), (by decide +kernel)⟩,
   ⟨withJob (job0 jChunk .running) (runnable .prompting), 1, 0, 0, job0 jChunk .running, takes_mk (by decide +kernel), (by decide +kernel), (by decide +kernel), (by decide +kernel), (by decide +kernel)⟩,
   ⟨withJob (job0 jDecode .running) (runnable .generating), 1, 0, 0, job0 jDecode .running, takes_mk (by decide +kernel), (by decide +kernel), (by decide +kernel), (by decide +kernel), (by decide +kernel), (by decide +kernel)⟩,
   ⟨withJob (job0 jdMerge .running) (runnable .generating), 1, job0 jdMerge .running, (by decide +kernel), (by decide +kernel), (by decide +kernel)⟩,
   ⟨withJob (job0 jDecode .running) (runnable .generating), 1, job0 jDecode .running, _, (by decide +kernel), (by decide +kernel), (by decide +kernel), some_mk (by decide +kernel), (by decide +kernel), (by decide +kernel)⟩,
   ⟨withJob { job0 jDecode .waiting with emit := [0] } (withReq5 { record := rec0 .generating (some 5) } (some { loc0 with phase := .generating, layers := [(0, { pages := [ref2], count := 256 })] }) chip5), 1, { job0 jDecode .waiting with emit := [0] }, takes_mk (by decide +kernel), (by decide +kernel), (by decide +kernel), (by decide +kernel)⟩,
   ⟨withJob (job0 jDecode .faulted) (runnable .generating), 1, _, takes_mk (by decide +kernel), some_mk (by decide +kernel), (by decide +kernel)⟩,
   ⟨{ chip5 with body := { chip5.body with sampling := { live := [(1, { q := 15, slot := 0, qseq := 0, op := 1, desc := [], st := .faulted, handle := h0, handles := [h0], step := 1, epoch := 1 })] } } }, 1, _, takes_mk (by decide +kernel), some_mk (by decide +kernel), (by decide +kernel)⟩⟩

theorem witness_UnitFaultsTakeEffect :
    (∃ (s : State) (n : _) (p : _), Takes s (.unitFault (.lane n)) ∧ unitPlace s 0 n = some p) ∧
    (∃ (s : State) (n : _) (p : _), Takes s (.unitFault (.tile n)) ∧ unitPlace s 1 n = some p) ∧
    (∃ (s : State) (id : _) (j : _), s.job id = some j ∧ j.st = .running ∧ j.endWith = none ∧ j.replays < s.get Fld.DAE_CTL_REPLAY_MAX) ∧
    (∃ (s : State), Takes s (.unitFault .block)) ∧
    (∃ (s : State) (k : _) (f : _), Takes s (.unitFault (.near k)) ∧ s.frame k = some f ∧ f.kind ≠ .remoteCache ∧ f.hdr.isSealed = true ∧ f.hdr.backingRef ≠ 0) ∧
    (∃ (s : State) (id : _) (j : _), Takes s (.unitFault (.jobBuffer false id)) ∧ s.job id = some j ∧ j.st = .running) ∧
    (∃ (s : State) (id : _) (x : _), Takes s (.unitFault (.sampler id)) ∧ s.smp id = some x ∧ x.st = .logging ∧ x.replays < s.get Fld.DAE_CTL_REPLAY_MAX) ∧
    (∃ (s : State) (h : _) (k : _), Takes s (.unitFault (.countTable h)) ∧ ((s.loc h).bind (·.sampler)).bind s.resolve = some k) ∧
    (∃ (s : State) (i : _), Takes s (.unitFault (.pipe i none)) ∧ i < 16 ∧ bitsOf (s.get Fld.TRC_STATUS_PIPES_OK) i 1 = 1 ∧ 12 ≤ ((List.range 16).filter fun x => bitsOf (withBits (s.get Fld.TRC_STATUS_PIPES_OK) i 1 0) x 1 == 1).length) ∧
    (∃ (s : State) (n : _), Takes s (.patrolTest (.lane n) false) ∧ s.is Fld.ISL_CTL_PATROL_EN = true ∧ patrolIdle s (.lane n) = true) ∧
    (∃ (s : State) (n : _), Takes s (.patrolTest (.tile n) true) ∧ s.is Fld.ISL_CTL_PATROL_EN = true ∧ patrolIdle s (.tile n) = true) ∧
    (∃ (s : State) (k : _) (n : _), Takes s (.patrolTest (.near k n) false) ∧ s.is Fld.ISL_CTL_PATROL_EN = true) :=
  ⟨⟨chip5, 255, _, takes_mk (by decide +kernel), some_mk (by decide +kernel)⟩,
   ⟨chip5, 127, _, takes_mk (by decide +kernel), some_mk (by decide +kernel)⟩,
   ⟨withFlds [(Fld.DAE_CTL_REPLAY_MAX, 1)] (withJob (job0 jDecode .running) chip5), 1, job0 jDecode .running, (by decide +kernel), (by decide +kernel), (by decide +kernel), (by decide +kernel)⟩,
   ⟨chip5, takes_mk (by decide +kernel)⟩,
   ⟨paged, k7, _, takes_mk (by decide +kernel), some_mk (by decide +kernel), (by decide +kernel), (by decide +kernel), (by decide +kernel)⟩,
   ⟨withJob (job0 jDecode .running) chip5, 1, _, takes_mk (by decide +kernel), some_mk (by decide +kernel), (by decide +kernel)⟩,
   ⟨withFlds [(Fld.DAE_CTL_REPLAY_MAX, 1)] ({ chip5 with body := { chip5.body with sampling := { live := [(1, { q := 15, slot := 0, qseq := 0, op := 1, desc := [], st := .logging, handle := h0, handles := [h0], step := 1, epoch := 1 })] } } }), 1, _, takes_mk (by decide +kernel), some_mk (by decide +kernel), (by decide +kernel), (by decide +kernel)⟩,
   ⟨withFrames [(k7, f7)] (locS (fun c => { c with sampler := some near7 }) chip5), h0, _, takes_mk (by decide +kernel), some_mk (by decide +kernel)⟩,
   ⟨withFlds [(Fld.TRC_STATUS_PIPES_OK, 65535)] chip5, 15, takes_mk (by decide +kernel), (by decide +kernel), (by decide +kernel), (by decide +kernel)⟩,
   ⟨withFlds [(Fld.ISL_CTL_PATROL_EN, 1)] chip5, 271, takes_mk (by decide +kernel), (by decide +kernel), (by decide +kernel)⟩,
   ⟨withFlds [(Fld.ISL_CTL_PATROL_EN, 1)] chip5, 135, takes_mk (by decide +kernel), (by decide +kernel), (by decide +kernel)⟩,
   ⟨withFlds [(Fld.ISL_CTL_PATROL_EN, 1)] chip5, 0, 1, takes_mk (by decide +kernel), (by decide +kernel)⟩⟩

theorem witness_SamplesTakeEffect :
    (∃ (s : State) (q : _) (tail : _), Takes s (.sampleQueueDoorbell q tail) ∧ sqOpen s q = true ∧ s.body.sampling.reenable.contains q = false ∧ tail < s.sqDepth q) ∧
    (∃ (s : State) (q : _) (ns : _) (i : _) (bs : _), Takes s (.sample q ns) ∧ nextSmp s q = some (i, bs) ∧ (smpDescOf bs).op = Op.sample ∧ smpTurn s q = true ∧ sampleForm s bs = true ∧ smpLive s (smpDescOf bs).handle (smpDescOf bs).epoch = none) ∧
    (∃ (s : State) (q : _) (ns : _) (i : _) (bs : _), Takes s (.acceptChain q ns) ∧ nextSmp s q = some (i, bs) ∧ (smpDescOf bs).op = Op.acceptChain ∧ smpTurn s q = true ∧ sampleForm s bs = true ∧ smpLive s (smpDescOf bs).handle (smpDescOf bs).epoch = none) ∧
    (∃ (s : State) (q : _) (ns : _) (i : _) (bs : _), Takes s (.acceptTree q ns) ∧ nextSmp s q = some (i, bs) ∧ (smpDescOf bs).op = Op.acceptTree ∧ smpTurn s q = true ∧ sampleForm s bs = true ∧ smpLive s (smpDescOf bs).handle (smpDescOf bs).epoch = none) ∧
    (∃ (s : State) (q : _) (ns : _) (i : _) (bs : _) (g : _), Takes s (.gather q ns) ∧ nextSmp s q = some (i, bs) ∧ (smpDescOf bs).op = Op.gather ∧ smpTurn s q = true ∧ gatherForm s bs = true ∧ segsOf s (smpDescOf bs) = some g) ∧
    (∃ (s : State) (d : SmpDesc) (c : _) (m : _) (k : _), s.loc d.handle = some c ∧ smpModel s d.handle = some m ∧ samplerKey s d.handle = some k ∧ d.step ≤ recLastStep s k ∧ d.step ≠ recLastStep s k) ∧
    (∃ (p : Params), f32IsZero p.temp = true) ∧
    (∃ (pick : Nat → List (Nat × Nat) → Nat) (drafts : List (Nat × Nat)) (x : Nat) (c : List (Nat × Nat)), ((∀ i, i < drafts.length → drafts.getD i (0, 0) ≠ (pick x c, x)))) ∧
    (∃ (pick : Nat → List (Nat × Nat) → Nat) (drafts : List (Nat × Nat)) (x : Nat) (c : List (Nat × Nat)) (i : Nat), i < drafts.length ∧ drafts.getD i (0, 0) = (pick x c, x) ∧ ((∀ k, k < i → drafts.getD k (0, 0) ≠ (pick x c, x)))) ∧
    (∃ (s : State) (id : _) (x : _), Takes s (.logTimeout id) ∧ s.smp id = some x ∧ x.st = .logging) :=
  ⟨⟨smpQ [] [] chip5, 15, 255, takes_mk (by decide +kernel), (by decide +kernel), (by decide +kernel), (by decide +kernel)⟩,
   ⟨smpQ shard0 (sd 1 1) genS, 15, 0, _, _, takes_mk (by decide +kernel), some_pair (by decide +kernel), (by decide +kernel), (by decide +kernel), (by decide +kernel), (by decide +kernel)⟩,
   ⟨smpQ shard0 (sd 2 2) genS, 15, 0, _, _, takes_mk (by decide +kernel), some_pair (by decide +kernel), (by decide +kernel), (by decide +kernel), (by decide +kernel), (by decide +kernel)⟩,
   ⟨smpQ shard0 (sd 3 2) genS, 15, 0, _, _, takes_mk (by decide +kernel), some_pair (by decide +kernel), (by decide +kernel), (by decide +kernel), (by decide +kernel), (by decide +kernel)⟩,
   ⟨smpQ (leBytes 32 (2 ^ 96)) gd genS, 15, 0, _, _, _, takes_mk (by decide +kernel), some_pair (by decide +kernel), (by decide +kernel), (by decide +kernel), (by decide +kernel), some_mk (by decide +kernel)⟩,
   ⟨memS [(scaleAt k7 + 0x60, [2, 0, 0, 0])] (withFrames [(k7, f7)] (locS (fun c => { c with sampler := some near7 }) chip5)), smpDescOf (sd 1 1), _, _, _, some_mk (by decide +kernel), some_mk (by decide +kernel), some_mk (by decide +kernel), (by decide +kernel), (by decide +kernel)⟩,
   ⟨paramsOf [], (by decide +kernel)⟩,
   ⟨fun _ _ => 0, [(1, 0)], 0, [], (by decide +kernel)⟩,
   ⟨fun _ _ => 0, [(1, 0), (0, 0)], 0, [], 1, (by decide +kernel), (by decide +kernel), (by decide +kernel)⟩,
   ⟨{ chip5 with body := { chip5.body with sampling := { live := [(1, { q := 15, slot := 0, qseq := 0, op := 1, desc := [], st := .logging, handle := h0, handles := [h0], step := 1, epoch := 1 })] } } }, 1, _, takes_mk (by decide +kernel), some_mk (by decide +kernel), (by decide +kernel)⟩⟩

theorem witness_ScentTakesEffect :
    (∃ (s : State) (v : _), Takes s (.sctCalReqWrite 0 v) ∧ s.is Fld.GLB_STATUS_FW_READY = true) ∧
    (∃ (s : State) (m : _) (temp : _), Takes s (.sctRecalTemperature m temp) ∧ 8 * s.get Fld.SCT_CTL_RECAL_DEG ≤ (signedOf 12 temp - signedOf 12 (s.get (Fld.SCT_MACRO_CAL_TEMP m))).natAbs) ∧
    (∃ (s : State) (m : _) (temp : _), Takes s (.sctRecalTemperature m temp) ∧ (signedOf 12 temp - signedOf 12 (s.get (Fld.SCT_MACRO_CAL_TEMP m))).natAbs < 8 * s.get Fld.SCT_CTL_RECAL_DEG) ∧
    (∃ (s : State) (m : _), s.canonical ∧ Takes s (.sctCalibrationStart m) ∧ s.calDue m = true ∧ s.get Fld.SCT_STATUS_CALIBRATING < s.get Fld.SCT_CTL_MAX_CAL ∧ ((∀ k, k < 68 → s.calDue k = true → s.dueDiff k ≤ s.dueDiff m))) ∧
    (∃ (s : State) (m : _) (gain : _) (off : _) (temp : _), Takes s (.sctCalibrationEnd m gain off temp true) ∧ s.mac m = MacSt.calibrating) ∧
    (∃ (s : State) (m : _) (gain : _) (off : _) (temp : _), Takes s (.sctCalibrationEnd m gain off temp false) ∧ s.mac m = MacSt.calibrating ∧ s.get Fld.SCT_CTL_CAL_FAIL_LIMIT ≤ s.get (Fld.SCT_MACRO_CAL_FAILS m) + 1) ∧
    (∃ (k : _) (cand : List (Nat × Nat)), k < cand.length) ∧
    (∃ (s : State) (m : Model) (j : Job) (c : Loc) (codes : List (Nat × Nat)) (g : List Nat), g = jobGuaranteed s m j c ∧ (candidates codes g).length ≤ s.get (Fld.SCT_PROF_TOPK (s.scentProf j.tenant)) ∧ s.get (Fld.SCT_PROF_AUDIT_LOG2 (s.scentProf j.tenant)) = 0) ∧
    (∃ (s : State) (id : _) (noise : _) (outs : _) (wait : _) (j0 : _) (j : _) (c : _) (m : _) (inp : _) (u : State), Takes s (.scentEval id noise outs wait) ∧ s.job id = some j0 ∧ j0.st = .evaluating ∧ evalAhead s id j0 = false ∧ u = run (readInputs id) s ∧ u.job id = some j ∧ u.loc j.d.handle = some c ∧ jobModel u j.d = some m ∧ j.inp = some inp ∧ badInputs u j = false ∧ u.body.scent.loaded.contains j.d.handle = true ∧ ((macrosOf u j.d.handle j.d.layer).any fun n => u.mac (u.lmap n) == MacSt.calibrating) = false ∧ ((macrosOf u j.d.handle j.d.layer).any fun n => outs.any fun o => o.macroNo == n && 2 ≤ o.bad) = false) :=
  ⟨⟨chip5, 2 ^ 34, takes_mk (by decide +kernel), (by decide +kernel)⟩,
   ⟨m67 0 chip5, 67, 40, takes_mk (by decide +kernel), (by decide +kernel)⟩,
   ⟨m67 0 chip5, 67, 39, takes_mk (by decide +kernel), (by decide +kernel)⟩,
   ⟨s67, 67, s67_canonical, ⟨s67_works, rfl⟩, s67_due, s67_room, fun _ _ _ => Nat.le_refl 0⟩,
   ⟨m67 2 chip5, 67, 0, 0, 0, takes_mk (by decide +kernel), (by decide +kernel)⟩,
   ⟨m67 2 chip5, 67, 0, 0, 0, takes_mk (by decide +kernel), (by decide +kernel), (by decide +kernel)⟩,
   ⟨0, [(3, 9)], (by decide +kernel)⟩,
   ⟨chip5, modelOf model0, job0 jDecode .running, loc0, [], _, rfl, (by decide +kernel), (by decide +kernel)⟩,
   ⟨{ withJob (job0 jDecode .evaluating) (runnable .generating) with body := { (withJob (job0 jDecode .evaluating) (runnable .generating)).body with scent := { loaded := [h0] } } }, 1, [], [], 0, _, _, _, _, _, _, takes_mk (by decide +kernel), some_mk (by decide +kernel), (by decide +kernel), (by decide +kernel), rfl, some_mk (by decide +kernel), some_mk (by decide +kernel), some_mk (by decide +kernel), some_mk (by decide +kernel), (by decide +kernel), (by decide +kernel), (by decide +kernel), (by decide +kernel)⟩⟩

theorem witness_ParksAndResumesBegin :
    (∃ (s : State) (src : _) (missing : _) (c : _) (v : State) (u : State) (q : _) (l : _) (m : _) (p : _) (slot : _), Runs s src 0x0501 c v ∧ AtLive v (c.arg 0 64) u q ∧ q.record.phase = .listening ∧ q.record.owner = some u.chipId ∧ u.knlState ≠ KnlSt.recovering ∧ u.loc (c.arg 0 64) = some l ∧ u.locModel l = some m ∧ parksAccepted u = true ∧ pagesHere u l m = true ∧ l.fetch = none ∧ unitRuns u (c.arg 0 64) = false ∧ (u.isProt l.tenant = true → (tenantKnlKey u l.tenant).isSome = true) ∧ parkParts u (c.arg 0 64) q m missing = some p ∧ (imageBytes p).1.length ≤ 2 ^ 32 ∧ freeSlot u = some slot ∧ usedUnits u + (unitsOfBytes (imageBytes p).1).length ≤ capacity u) ∧
    (∃ (s : State) (src : _) (missing : _) (c : _) (v : State) (u : State) (q : _) (l : _) (m : _) (p : _), Runs s src 0x0501 c v ∧ AtLive v (c.arg 0 64) u q ∧ q.record.phase = .listening ∧ q.record.owner = some u.chipId ∧ u.knlState ≠ KnlSt.recovering ∧ u.loc (c.arg 0 64) = some l ∧ u.locModel l = some m ∧ parksAccepted u = true ∧ pagesHere u l m = true ∧ l.fetch = none ∧ unitRuns u (c.arg 0 64) = false ∧ (u.isProt l.tenant = true → (tenantKnlKey u l.tenant).isSome = true) ∧ parkParts u (c.arg 0 64) q m missing = some p ∧ (imageBytes p).1.length ≤ 2 ^ 32 ∧ capacity u < usedUnits u + (unitsOfBytes (imageBytes p).1).length) ∧
    (∃ (s : State) (src : _) (c : _) (v : State) (u : State) (q : _) (l : _) (slot : _), Runs s src 0x0502 c v ∧ AtLive v (c.arg 0 64) u q ∧ q.record.phase = .parked ∧ q.record.owner = some u.chipId ∧ u.knlState ≠ KnlSt.recovering ∧ u.loc (c.arg 0 64) = some l ∧ imageOf u (c.arg 0 64) = some slot ∧ ((u.image slot).encrypted = true → (knlKey u (u.image slot).tenant (u.image slot).keyId).isSome = true) ∧ (placeFar u .cache (u.group l.tenant)).isSome = true) ∧
    (∃ (s : State) (src : _) (c : _) (v : State) (u : State) (q : _), Runs s src 0x0502 c v ∧ AtLive v (c.arg 0 64) u q ∧ q.record.phase = .parking) ∧
    (∃ (s : State) (src : _) (c : _) (v : State) (u : State) (q : _), Runs s src 0x0502 c v ∧ AtLive v (c.arg 0 64) u q ∧ q.record.phase = .resuming) :=
  ⟨⟨ask (cmdOf 0x0501 (aH [])) (knlOn (owned .listening (some 5))), .mailbox, [], cmdOf 0x0501 (aH []), _, _, _, _, _, _, _, runs_mk (by decide +kernel), atLive_mk (atRequest_mk (by decide +kernel) (by decide +kernel)) (by decide +kernel), (by decide +kernel), (by decide +kernel), (by decide +kernel), some_mk (by decide +kernel), some_mk (by decide +kernel), (by decide +kernel), (by decide +kernel), (by decide +kernel), (by decide +kernel), (by decide +kernel), some_mk (by decide +kernel), (by decide +kernel), some_mk (by decide +kernel), (by decide +kernel)⟩,
   ⟨ask (cmdOf 0x0501 (aH [])) (flashS (fun f => { f with formatted := false }) (knlOn (owned .listening (some 5)))), .mailbox, [], cmdOf 0x0501 (aH []), _, _, _, _, _, _, runs_mk (by decide +kernel), atLive_mk (atRequest_mk (by decide +kernel) (by decide +kernel)) (by decide +kernel), (by decide +kernel), (by decide +kernel), (by decide +kernel), some_mk (by decide +kernel), some_mk (by decide +kernel), (by decide +kernel), (by decide +kernel), (by decide +kernel), (by decide +kernel), (by decide +kernel), some_mk (by decide +kernel), (by decide +kernel), (by decide +kernel)⟩,
   ⟨ask (cmdOf 0x0502 (aH [])) (imgS { st := .durable, handle := h0 } (knlOn (farOn (owned .parked (some 5))))), .mailbox, cmdOf 0x0502 (aH []), _, _, _, _, _, runs_mk (by decide +kernel), atLive_mk (atRequest_mk (by decide +kernel) (by decide +kernel)) (by decide +kernel), (by decide +kernel), (by decide +kernel), (by decide +kernel), some_mk (by decide +kernel), some_mk (by decide +kernel), (by decide +kernel), (by decide +kernel)⟩,
   ⟨ask (cmdOf 0x0502 (aH [])) (owned .parking (some 5)), .mailbox, cmdOf 0x0502 (aH []), _, _, _, runs_mk (by decide +kernel), atLive_mk (atRequest_mk (by decide +kernel) (by decide +kernel)) (by decide +kernel), (by decide +kernel)⟩,
   ⟨ask (cmdOf 0x0502 (aH [])) (owned .resuming (some 5)), .mailbox, cmdOf 0x0502 (aH []), _, _, _, runs_mk (by decide +kernel), atLive_mk (atRequest_mk (by decide +kernel) (by decide +kernel)) (by decide +kernel), (by decide +kernel)⟩⟩

theorem witness_ProfileFormatHealth :
    (∃ (s : State) (src : _) (pop : _) (c : _) (u : State), Runs s src 0x0503 c u ∧ profBad (cmdInput u src c) = false ∧ modeMismatch u pop = false ∧ popBad pop = false ∧ pop.rejected = false ∧ u.knlState = KnlSt.off) ∧
    (∃ (s : State) (src : _) (pop : _) (c : _) (u : State), Runs s src 0x0503 c u ∧ profBad (cmdInput u src c) = false ∧ modeMismatch u pop = false ∧ popBad pop = false ∧ pop.rejected = false ∧ u.knlState ≠ KnlSt.off) ∧
    (∃ (s : State) (src : _) (pop : NandPop) (c : _) (u : State), Runs s src 0x0503 c u ∧ ((u.is Fld.PWR_STRAPS_NF_VCCQ = true ∧ pop.mode = 1) ∨ (u.is Fld.PWR_STRAPS_NF_VCCQ = false ∧ pop.mode = 2))) ∧
    (∃ (slc : _) (nat : _) (n : _), 16 ≤ n ∧ n ≤ 1024 ∧ flushFits slc nat n = true) ∧
    (∃ (slc : _) (nat : _), dirtyLimit slc nat ≠ 0) ∧
    (∃ (s : State) (src : _) (c : _) (u : State), Runs s src 0x0504 c u ∧ u.knlState ≠ KnlSt.off ∧ u.knlState ≠ KnlSt.recovering ∧ ((∀ e ∈ u.kr.images, e.2.st ≠ .durable ∧ e.2.st ≠ .writing))) ∧
    (∃ (s : State) (src : _) (c : _) (u : State), Runs s src 0x0505 c u ∧ 256 ≤ c.outLen) :=
  ⟨⟨ask (cmdIn 0x0503 [] prof0) (strapsS chip5), .mailbox, pop0 0, cmdIn 0x0503 [] prof0, _, runs_mk (by decide +kernel), (by decide +kernel), (by decide +kernel), (by decide +kernel), (by decide +kernel), (by decide +kernel)⟩,
   ⟨ask (cmdIn 0x0503 [] prof0) (strapsS kBoot), .mailbox, pop0 0, cmdIn 0x0503 [] prof0, _, runs_mk (by decide +kernel), (by decide +kernel), (by decide +kernel), (by decide +kernel), (by decide +kernel), (by decide +kernel)⟩,
   ⟨ask (cmdIn 0x0503 [] prof0) (strapsS chip5), .mailbox, pop0 2, cmdIn 0x0503 [] prof0, _, runs_mk (by decide +kernel), (by decide +kernel)⟩,
   ⟨1, 1, 16, (by decide +kernel), (by decide +kernel), (by decide +kernel)⟩,
   ⟨1, 1, (by decide +kernel)⟩,
   ⟨ask (cmdOf 0x0504 ([])) (kBoot), .mailbox, cmdOf 0x0504 ([]), _, runs_mk (by decide +kernel), (by decide +kernel), (by decide +kernel), (by decide +kernel)⟩,
   ⟨ask (cmdOf 0x0505 ([])) (kBoot), .mailbox, cmdOf 0x0505 ([]), _, runs_mk (by decide +kernel), (by decide +kernel)⟩⟩

theorem witness_KennelRowsTakeEffect :
    (∃ (s : State) (u : _) (p : _), Takes s (.knlProgramDone u) ∧ tget s.kr.progs u = some p) ∧
    (∃ (s : State) (u : _) (p : _), flushing s = true ∧ tget s.kr.progs u = some p) ∧
    (∃ (p : Prog), p.tag.kind ≠ 1) ∧
    (∃ (s : State) (u : _) (p : _), Takes s (.knlProgramFail u) ∧ tget s.kr.progs u = some p) ∧
    (∃ (s : State) (u : _) (p : _), flushing s = true ∧ tget s.kr.progs u = some p) ∧
    (∃ (s : State) (slot : _) (n : _) (e : _) (x : _) (u : _), Takes s (.knlReadDone (.unit slot n) e) ∧ tget s.kr.resumes slot = some x ∧ x.toRead.find? (fun y => y.1 == n) = some (n, u) ∧ e.lost = false) ∧
    (∃ (s : State) (slot : _) (n : _) (e : _) (x : _) (u : _), Takes s (.knlReadDone (.unit slot n) e) ∧ tget s.kr.resumes slot = some x ∧ x.toRead.find? (fun y => y.1 == n) = some (n, u) ∧ e.lost = true) ∧
    (∃ (s : State) (r : _) (e : _), Takes s (.knlReadDone (.page r) e) ∧ demotedPage s r = true ∧ e.lost = false) ∧
    (∃ (s : State) (k : _) (f : _), Takes s (.knlEraseDone k f) ∧ k ∈ s.kr.erasing ∧ readsSb s k = false) ∧
    (∃ (s : State), Takes s .knlJournalTimer ∧ s.kr.tail ≠ []) ∧
    (∃ (s : State) (g : _) (e : _), Takes s (.knlGcStart g) ∧ s.knlState = KnlSt.normal ∧ g < knlGroups s ∧ erasedCount s g < s.get Fld.KNL_CTL_GC_LOW ∧ leastBy (fun e => (validUnits s e.1).length) ((supersOf s g).filter fun e => mayEmpty s e && !e.2.st.isSlc) = some e) ∧
    (∃ (s : State) (e : _), Takes s .knlFold ∧ s.knlState = KnlSt.normal ∧ leastBy (fun e => e.2.seq) (s.kr.supers.filter fun e => mayEmpty s e && e.2.st.isSlc) = some e) ∧
    (∃ (f : Nat × Super → Nat) (l : List (Nat × Super)) (e : _), leastBy f l = some e) ∧
    (∃ (s : State) (low : _) (e : _) (d : _), Takes s .knlWlMove ∧ s.knlState = KnlSt.normal ∧ s.get Fld.KNL_CTL_WL_SPREAD < eraseSpread s ∧ leastBy (fun e => sbErases s e.1) (s.kr.supers.filter fun e => mayEmpty s e && !e.2.st.isSlc) = some low ∧ leastBy (fun e => e.2.seq) ((s.kr.supers.filter fun e => mayEmpty s e && !e.2.st.isSlc).filter fun e => sbErases s e.1 == sbErases s low.1) = some e ∧ mostWorn s = some d) ∧
    (∃ (s : State), Takes s .knlRestart ∧ s.knlState = KnlSt.recovering) ∧
    (∃ (s : State), s.get Fld.PWR_STATUS_PF_STATE = 1 ∧ s.body.plat.heldPerst = false ∧ s.body.plat.heldWarm = false) ∧
    (∃ (s : State), s.canonical ∧ s.get Fld.PWR_STATUS_PF_STATE = 1) ∧
    (∃ (s : State), s.get Fld.PWR_STATUS_PF_STATE = 1 ∧ s.body.plat.heldPerst = true) ∧
    (∃ (s : State) (temp : _), Takes s (.knlTempMinute temp)) ∧
    (∃ (s : State) (d : _), Takes s (.knlDieFail d) ∧ d ∈ knlDies s ∧ d ∉ s.kr.dead) :=
  ⟨⟨ramS (fun r => { r with progs := [(70, prog0 0)] }) kBoot, 70, _, takes_mk (by decide +kernel), some_mk (by decide +kernel)⟩,
   ⟨ramS (fun r => { r with progs := [(70, prog0 0)] }) kFlush, 70, _, (by decide +kernel), some_mk (by decide +kernel)⟩,
   ⟨prog0 0, (by decide +kernel)⟩,
   ⟨ramS (fun r => { r with progs := [(70, prog0 1)] }) kBoot, 70, _, takes_mk (by decide +kernel), some_mk (by decide +kernel)⟩,
   ⟨ramS (fun r => { r with progs := [(70, prog0 1)] }) kFlush, 70, _, (by decide +kernel), some_mk (by decide +kernel)⟩,
   ⟨ramS (fun r => { r with resumes := [(4, resume0 70)] }) kBoot, 4, 0, {}, resume0 70, 70, takes_mk (by decide +kernel), (by decide +kernel), (by decide +kernel), (by decide +kernel)⟩,
   ⟨ramS (fun r => { r with resumes := [(4, resume0 70)] }) kBoot, 4, 0, { lost := true }, resume0 70, 70, takes_mk (by decide +kernel), (by decide +kernel), (by decide +kernel), (by decide +kernel)⟩,
   ⟨ramS (fun r => { r with prefixPages := [(3, { slot := 4, recNo := 0 })] }) kBoot, mkRef 5 2 3 0, {}, takes_mk (by decide +kernel), (by decide +kernel), (by decide +kernel)⟩,
   ⟨ramS (fun r => { r with erasing := [sbKey 0 9] }) kBoot, sbKey 0 9, none, takes_mk (by decide +kernel), (by decide +kernel), (by decide +kernel)⟩,
   ⟨ramS (fun r => { r with tail := [(1, .remap 0 0)] }) kBoot, takes_mk (by decide +kernel), (by decide +kernel)⟩,
   ⟨withFlds [(Fld.KNL_CTL_GC_LOW, 8)] (kClosed false), 0, _, takes_mk (by decide +kernel), (by decide +kernel), (by decide +kernel), (by decide +kernel), some_mk (by decide +kernel)⟩,
   ⟨kClosed true, _, takes_mk (by decide +kernel), (by decide +kernel), some_mk (by decide +kernel)⟩,
   ⟨fun e => e.2.seq, [(3, { st := .closed true })], _, some_mk (by decide +kernel)⟩,
   ⟨withFlds [(Fld.KNL_CTL_WL_SPREAD, 1)] (flashS (fun f => { f with erases := [(4, 2)] }) (kClosed false)), _, _, _, takes_mk (by decide +kernel), (by decide +kernel), (by decide +kernel), some_mk (by decide +kernel), some_mk (by decide +kernel), some_mk (by decide +kernel)⟩,
   ⟨withFlds [(Fld.KNL_STATUS_STATE, KnlSt.recovering)] kBoot, takes_mk (by decide +kernel), (by decide +kernel)⟩,
   ⟨kFlush, (by decide +kernel), (by decide +kernel), (by decide +kernel)⟩,
   ⟨kFlush, canonical_mk (by decide +kernel), (by decide +kernel)⟩,
   ⟨{ kFlush with body := { kFlush.body with plat := { kFlush.body.plat with heldPerst := true } } }, (by decide +kernel), (by decide +kernel)⟩,
   ⟨kBoot, 0, takes_mk (by decide +kernel)⟩,
   ⟨kBoot, 15, takes_mk (by decide +kernel), (by decide +kernel), (by decide +kernel)⟩⟩

theorem witness_FirmwareCommands :
    (∃ (s : State) (src : _) (c : _) (u : State), Runs s src 0x0801 c u ∧ (fwInfo u).length ≤ c.outLen) ∧
    (∃ (s : State) (src : _) (c : _) (u : State), Runs s src 0x0802 c u ∧ stageFault u (c.arg 0 8) (c.arg 4 32) (cmdInput u src c).length = none) ∧
    (∃ (s : State) (slot : _) (off : _) (n : _), s.body.plat.fwAct = none ∧ secBusy s = false ∧ (s.body.plat.booted = true → slot ≠ s.body.sec.runSlot) ∧ off + n ≤ 0x1E00000) ∧
    (∃ (s : State) (src : _) (c : _) (u : State), Runs s src 0x0803 c u ∧ u.body.plat.fwAct = none ∧ secBusy u = false ∧ imageForm u (c.arg 0 8) = true ∧ u.is Fld.SEC_STATUS_RECOVERY = false ∧ c.arg 1 8 = 1) ∧
    (∃ (s : State) (src : _) (c : _) (u : State), Runs s src 0x0803 c u ∧ u.body.plat.fwAct = none ∧ secBusy u = false ∧ imageForm u (c.arg 0 8) = true ∧ u.is Fld.SEC_STATUS_RECOVERY = false ∧ c.arg 1 8 = 0) ∧
    (∃ (s : State) (src : _) (c : _) (u : State), Runs s src 0x0803 c u ∧ u.body.plat.fwAct = none ∧ secBusy u = false) ∧
    (∃ (s : State) (a : _) (core : _) (rest : _), Takes s (.fwCoreUpdateDone true) ∧ s.body.plat.fwAct = some a ∧ a.left = core :: rest ∧ rest ≠ [] ∧ core ≤ 20) ∧
    (∃ (s : State) (a : _), Takes s (.fwCoreUpdateDone true) ∧ s.body.plat.fwAct = some a ∧ a.left = [22] ∧ 21 ∉ a.updated) ∧
    (∃ (s : State) (a : _) (core : _) (rest : _), Takes s (.fwCoreUpdateDone false) ∧ s.body.plat.fwAct = some a ∧ a.left = core :: rest ∧ 21 ∉ a.updated) ∧
    (∃ (s : State), Takes s (.secReentry true) ∧ s.is Fld.SEC_STATUS_SEC_STAGED = true) ∧
    (∃ (s : State), s.canonical) :=
  ⟨⟨ask (cmdOf 0x0801 []) (secS chip5), .mailbox, cmdOf 0x0801 [], _, runs_mk (by decide +kernel), (by decide +kernel)⟩,
   ⟨ask (cmdIn 0x0802 (leBytes 4 1 ++ leBytes 4 0x1DFFFFF) [7]) chip5, .mailbox, cmdIn 0x0802 (leBytes 4 1 ++ leBytes 4 0x1DFFFFF) [7], _, runs_mk (by decide +kernel), (by decide +kernel)⟩,
   ⟨chip5, 1, 0x1DFFFFF, 1, (by decide +kernel), (by decide +kernel), (by decide +kernel), (by decide +kernel)⟩,
   ⟨ask (cmdOf 0x0803 ([1, 1])) (secS chip5), .mailbox, cmdOf 0x0803 ([1, 1]), _, runs_mk (by decide +kernel), (by decide +kernel), (by decide +kernel), (by decide +kernel), (by decide +kernel), (by decide +kernel)⟩,
   ⟨ask (cmdOf 0x0803 ([1, 0])) (secS chip5), .mailbox, cmdOf 0x0803 ([1, 0]), _, runs_mk (by decide +kernel), (by decide +kernel), (by decide +kernel), (by decide +kernel), (by decide +kernel), (by decide +kernel)⟩,
   ⟨ask (cmdOf 0x0803 ([1, 0])) (chip5), .mailbox, cmdOf 0x0803 ([1, 0]), _, runs_mk (by decide +kernel), (by decide +kernel), (by decide +kernel)⟩,
   ⟨fwS (fwA [20, 21] []), fwA [20, 21] [], 20, [21], takes_mk (by decide +kernel), (by decide +kernel), (by decide +kernel), (by decide +kernel), (by decide +kernel)⟩,
   ⟨fwS (fwA [22] []), fwA [22] [], takes_mk (by decide +kernel), (by decide +kernel), (by decide +kernel), (by decide +kernel)⟩,
   ⟨fwS (fwA [22] [20]), fwA [22] [20], 22, [], takes_mk (by decide +kernel), (by decide +kernel), (by decide +kernel), (by decide +kernel)⟩,
   ⟨withFlds [(Fld.SEC_STATUS_SEC_STAGED, 1)] chip5, takes_mk (by decide +kernel), (by decide +kernel)⟩,
   ⟨chip5, canonical_mk (by decide +kernel)⟩⟩

theorem witness_SecurityCommands :
    (∃ (s : State) (src : _) (c : _) (u : State), Runs s src 0x0805 c u ∧ secBusy u = false ∧ certOutput.length ≤ c.outLen) ∧
    (∃ (s : State) (src : _) (c : _) (u : State), Runs s src 0x0804 c u ∧ quoteBlocked u = false ∧ 512 ≤ c.outLen) ∧
    (∃ (s : State) (src : _) (c : _) (u : State), Runs s src 0x0804 c u ∧ quoteBlocked u = true) ∧
    (∃ (s : State) (src : _) (c : _) (u : State) (k : List Byte) (cur : Nat × List Byte), Runs s src 0x0603 c u ∧ secBusy u = false ∧ keysBarred u = false ∧ wrapForm (cmdInput u src c) 1 32 (c.arg 0 16) 0 = true ∧ u.body.sec.podStaged = none ∧ u.body.sec.podCur = some cur ∧ 0 < (c.arg 0 16 + 65536 - cur.1) % 65536 ∧ (c.arg 0 16 + 65536 - cur.1) % 65536 ≤ 32767 ∧ cur ≠ (c.arg 0 16, k)) ∧
    (∃ (s : State) (src : _) (c : _) (u : State), Runs s src 0x0603 c u ∧ secBusy u = false ∧ keysBarred u = false) ∧
    (∃ (s : State) (e : _) (k : _) (d : _), Takes s .podKeyRotate ∧ s.body.sec.podStaged = some (e, k, d)) ∧
    (∃ (s : State) (src : _) (c : _) (u : State), Runs s src 0x0506 c u ∧ secBusy u = false ∧ keysBarred u = false ∧ wrapForm (cmdInput u src c) 2 64 (c.arg 4 32) (c.arg 0 16) = true ∧ tget u.body.sec.knlKeys (c.arg 0 16 * 2 ^ 32 + c.arg 4 32) = none ∧ (u.body.sec.knlKeys.filter fun e => e.1 / 2 ^ 32 == c.arg 0 16).length < 2 ∧ u.body.sec.knlKeys.length < 2048) ∧
    (∃ (s : State) (src : _) (c : _) (u : State), Runs s src 0x0506 c u ∧ secBusy u = false ∧ keysBarred u = false) ∧
    (∃ (s : State) (src : _) (c : _) (u : State) (d : _), Runs s src 0x0806 c u ∧ d = cmdInput u src c ∧ secBusy u = false ∧ u.body.sec.unlockFails < 8 ∧ tokenForm u d = true) ∧
    (∃ (s : State) (src : _) (c : _) (u : State), Runs s src 0x0806 c u ∧ secBusy u = false ∧ u.body.sec.unlockFails < 8) ∧
    (∃ (s : State), Takes s .testRelock ∧ s.is Fld.SEC_STATUS_TEST_UNLOCKED = true ∧ s.body.sec.unlockUntil.isSome = true) ∧
    (∃ (s : State), Takes s (.secRestart false)) ∧
    (∃ (s : State), Takes s (.secRestart true)) :=
  ⟨⟨ask (cmdOf 0x0805 []) (chip5), .mailbox, cmdOf 0x0805 [], _, runs_mk (by decide +kernel), (by decide +kernel), cert_fits⟩,
   ⟨ask (cmdOf 0x0804 []) (chip5), .mailbox, cmdOf 0x0804 [], _, runs_mk (by decide +kernel), (by decide +kernel), (by decide +kernel)⟩,
   ⟨ask (cmdOf 0x0804 []) (fwS (fwA [22] [])), .mailbox, cmdOf 0x0804 [], _, runs_mk (by decide +kernel), (by decide +kernel)⟩,
   ⟨ask (cmdIn 0x0603 (leBytes 2 32774) (wrap0 1 32 32774 0)) (podS chip5), .mailbox, cmdIn 0x0603 (leBytes 2 32774) (wrap0 1 32 32774 0), _, List.replicate 32 2, (7, podKey0), runs_mk (by decide +kernel), (by decide +kernel), (by decide +kernel), (by decide +kernel), (by decide +kernel), (by decide +kernel), (by decide +kernel), (by decide +kernel), (by decide +kernel)⟩,
   ⟨ask (cmdOf 0x0603 []) (chip5), .mailbox, cmdOf 0x0603 [], _, runs_mk (by decide +kernel), (by decide +kernel), (by decide +kernel)⟩,
   ⟨onSecS (fun x => { x with podStaged := some (8, podKey0, 0) }) chip5, 8, podKey0, 0, takes_mk (by decide +kernel), (by decide +kernel)⟩,
   ⟨ask (cmdIn 0x0506 (leBytes 4 3 ++ leBytes 4 9) (wrap0 2 64 9 3)) chip5, .mailbox, cmdIn 0x0506 (leBytes 4 3 ++ leBytes 4 9) (wrap0 2 64 9 3), _, runs_mk (by decide +kernel), (by decide +kernel), (by decide +kernel), (by decide +kernel), (by decide +kernel), (by decide +kernel), (by decide +kernel)⟩,
   ⟨ask (cmdOf 0x0506 []) (chip5), .mailbox, cmdOf 0x0506 [], _, runs_mk (by decide +kernel), (by decide +kernel), (by decide +kernel)⟩,
   ⟨ask (cmdIn 0x0806 [] token0) (onSecS (fun x => { x with unlockFails := 7 }) (secS chip5)), .mailbox, cmdIn 0x0806 [] token0, _, _, runs_mk (by decide +kernel), rfl, (by decide +kernel), (by decide +kernel), (by decide +kernel)⟩,
   ⟨ask (cmdOf 0x0806 []) (chip5), .mailbox, cmdOf 0x0806 [], _, runs_mk (by decide +kernel), (by decide +kernel), (by decide +kernel)⟩,
   ⟨onSecS (fun x => { x with unlockUntil := some 0 }) (withFlds [(Fld.SEC_STATUS_TEST_UNLOCKED, 1)] chip5), takes_mk (by decide +kernel), (by decide +kernel), (by decide +kernel)⟩,
   ⟨chip5, takes_mk (by decide +kernel)⟩,
   ⟨chip5, takes_mk (by decide +kernel)⟩⟩

theorem witness_ReportsAndAudits :
    (∃ (s : State) (src : _) (c : _) (u : State), Runs s src 0x0701 c u ∧ (health u).length ≤ c.outLen) ∧
    (∃ (s : State) (src : _) (c : _) (u : State), Runs s src 0x0704 c u ∧ (spareMap u).length ≤ c.outLen) ∧
    (∃ (s : State) (src : _) (c : _) (u : State) (h : _), Runs s src 0x0702 c u ∧ u.bark.head ≤ h ∧ h < u.bark.head + 2 ^ 32 ∧ h % 2 ^ 32 = c.arg 0 32 ∧ h ≤ u.bark.stored) ∧
    (∃ (s : State) (src : _) (c : _) (u : State) (h : _), Runs s src 0x0702 c u ∧ u.bark.head ≤ h ∧ h < u.bark.head + 2 ^ 32 ∧ h % 2 ^ 32 = c.arg 0 32 ∧ u.bark.stored < h) ∧
    (∃ (s : State) (h : _), s.bark.head ≤ h ∧ h ≤ s.bark.stored) ∧
    (∃ (s : State) (src : _) (c : _) (u : State), Runs s src 0x0703 c u ∧ snapshotSize ≤ c.outLen) ∧
    (∃ (s : State) (hold : _), Takes s (.ledgerAuditTimer hold) ∧ s.get Fld.LDG_CTL_CHECK_MS ≠ 0) ∧
    (∃ (s : State), ((∀ e ∈ s.led.collars, e.1 < 2048))) ∧
    (∃ (s : State) (r : Repair) (l : _), Takes s .repairBurn ∧ s.body.plat.toBurn = r :: l ∧ s.body.plat.fuses.length < 512) ∧
    (∃ (s : State) (r : Repair) (l : _), Takes s .repairBurn ∧ s.body.plat.toBurn = r :: l ∧ 512 ≤ s.body.plat.fuses.length) :=
  ⟨⟨ask (cmdOf 0x0701 []) (chip5), .mailbox, cmdOf 0x0701 [], _, runs_mk (by decide +kernel), (by decide +kernel)⟩,
   ⟨ask (cmdOf 0x0704 []) (chip5), .mailbox, cmdOf 0x0704 [], _, runs_mk (by decide +kernel), (by decide +kernel)⟩,
   ⟨ask (cmdOf 0x0702 (leBytes 4 9)) ({ chip5 with bark := { made := 9, stored := 9, head := 5 } }), .mailbox, cmdOf 0x0702 (leBytes 4 9), _, 9, runs_mk (by decide +kernel), (by decide +kernel), (by decide +kernel), (by decide +kernel), (by decide +kernel)⟩,
   ⟨ask (cmdOf 0x0702 (leBytes 4 10)) ({ chip5 with bark := { made := 9, stored := 9, head := 5 } }), .mailbox, cmdOf 0x0702 (leBytes 4 10), _, 10, runs_mk (by decide +kernel), (by decide +kernel), (by decide +kernel), (by decide +kernel), (by decide +kernel)⟩,
   ⟨{ chip5 with bark := { made := 9, stored := 9, head := 5 } }, 5, (by decide +kernel), (by decide +kernel)⟩,
   ⟨ask (cmdOf 0x0703 []) (chip5), .mailbox, cmdOf 0x0703 [], _, runs_mk (by decide +kernel), (by decide +kernel)⟩,
   ⟨withFlds [(Fld.LDG_CTL_CHECK_MS, 1)] chip5, 2000, takes_mk (by decide +kernel), (by decide +kernel)⟩,
   ⟨chip5, (by decide +kernel)⟩,
   ⟨platS (fun p => { p with toBurn := [⟨3, 4⟩] }) chip5, ⟨3, 4⟩, [], takes_mk (by decide +kernel), (by decide +kernel), (by decide +kernel)⟩,
   ⟨platS (fun p => { p with toBurn := [⟨3, 4⟩], fuses := List.replicate 512 ⟨3, 4⟩ }) chip5, ⟨3, 4⟩, [], takes_mk (by decide +kernel), (by decide +kernel), (by decide +kernel)⟩⟩

theorem witness_CxlCommands :
    (∃ (s : State) (p : _) (l : _), CxlRuns s 0x0100 p ∧ p.length = 1 ∧ s.body.cxl.logs[pnum p 0 1]? = some l ∧ l.length ≤ 511) ∧
    (∃ (s : State) (p : _) (l : _), CxlRuns s 0x0101 p ∧ s.body.cxl.logs[pnum p 0 1]? = some l ∧ 6 + 2 * pnum p 2 1 ≤ p.length ∧ pnum p 1 1 % 2 = 1) ∧
    (∃ (s : State) (p : _) (l : List BarkRec), CxlRuns s 0x0101 p ∧ s.body.cxl.logs[pnum p 0 1]? = some l ∧ 6 + 2 * pnum p 2 1 ≤ p.length ∧ pnum p 1 1 % 2 = 0 ∧ (l.take (pnum p 2 1)).map evHandle = (List.range (pnum p 2 1)).map (fun k => pnum p (6 + 2 * k) 2)) ∧
    (∃ (s : State) (p : _), CxlRuns s 0x0102 p ∧ p = []) ∧
    (∃ (s : State) (p : _), CxlRuns s 0x0103 p ∧ p.length = 4) ∧
    (∃ (s : State) (p : _), CxlRuns s 0x0200 p ∧ p = [] ∧ s.body.sec.raiseArb = false) ∧
    (∃ (s : State) (p : _), CxlRuns s 0x0201 p ∧ 128 ≤ p.length ∧ pnum p 0 1 < 4 ∧ ((pnum p 1 1 = 1 ∨ pnum p 1 1 = 2)) ∧ stageFault s (pnum p 1 1 - 1) (128 * pnum p 4 4) (p.length - 128) = none) ∧
    (∃ (s : State) (p : _), CxlRuns s 0x0202 p ∧ p.length = 2 ∧ pnum p 0 1 ≤ 1 ∧ ((pnum p 1 1 = 1 ∨ pnum p 1 1 = 2))) ∧
    (∃ (s : State) (p : _) (slot : _), CxlRuns s 0x0202 p ∧ s.body.plat.fwAct = none ∧ secBusy s = false ∧ imageForm s slot = true) ∧
    (∃ (s : State) (p : _) (slot : _), CxlRuns s 0x0202 p ∧ s.body.plat.fwAct = none ∧ secBusy s = false ∧ imageForm s slot = true) ∧
    (∃ (s : State) (p : _), CxlRuns s 0x0300 p ∧ p = []) ∧
    (∃ (s : State) (p : _), CxlRuns s 0x0301 p ∧ p.length = 8) ∧
    (∃ (s : State) (p : _), CxlRuns s 0x0400 p ∧ p = []) ∧
    (∃ (s : State) (p : _), CxlRuns s 0x0401 p ∧ p.length = 24 ∧ p.take 16 = celUuid ∧ pnum p 16 4 + pnum p 20 4 ≤ celBytes.length) ∧
    (∃ (s : State) (p : _), CxlRuns s 0x4000 p ∧ p = []) ∧
    (∃ (s : State) (p : _), CxlRuns s 0x4200 p ∧ p = []) ∧
    (∃ (s : State) (op : _) (p : _), CxlRuns s op p ∧ op ∉ cxlOpcodes) :=
  ⟨⟨cxlLog 0x0100 [1] 511, [1], _, cxlRuns_mk (by decide +kernel), (by decide +kernel), some_mk (by decide +kernel), (by decide +kernel)⟩,
   ⟨cxlLog 0x0101 [1, 1, 0, 0, 0, 0] 1, [1, 1, 0, 0, 0, 0], _, cxlRuns_mk (by decide +kernel), some_mk (by decide +kernel), (by decide +kernel), (by decide +kernel)⟩,
   ⟨cxlLog 0x0101 [1, 0, 1, 0, 0, 0, 8, 0] 1, [1, 0, 1, 0, 0, 0, 8, 0], _, cxlRuns_mk (by decide +kernel), some_mk (by decide +kernel), (by decide +kernel), (by decide +kernel), (by decide +kernel)⟩,
   ⟨cxlS 0x0102 ([]), [], cxlRuns_mk (by decide +kernel), (by decide +kernel)⟩,
   ⟨cxlS 0x0103 ([0, 0, 0, 0]), [0, 0, 0, 0], cxlRuns_mk (by decide +kernel), (by decide +kernel)⟩,
   ⟨cxlS 0x0200 ([]), [], cxlRuns_mk (by decide +kernel), (by decide +kernel), (by decide +kernel)⟩,
   ⟨cxlS 0x0201 ([3, 2, 0, 0] ++ leBytes 4 0x3BFFF ++ List.replicate 248 0), [3, 2, 0, 0] ++ leBytes 4 0x3BFFF ++ List.replicate 248 0, cxlRuns_mk (by decide +kernel), (by decide +kernel), (by decide +kernel), (by decide +kernel), (by decide +kernel)⟩,
   ⟨cxlS 0x0202 ([1, 2]), [1, 2], cxlRuns_mk (by decide +kernel), (by decide +kernel), (by decide +kernel), (by decide +kernel)⟩,
   ⟨secS (cxlS 0x0202 [1, 2]), [1, 2], 1, cxlRuns_mk (by decide +kernel), (by decide +kernel), (by decide +kernel), (by decide +kernel)⟩,
   ⟨secS (cxlS 0x0202 [0, 2]), [0, 2], 1, cxlRuns_mk (by decide +kernel), (by decide +kernel), (by decide +kernel), (by decide +kernel)⟩,
   ⟨cxlS 0x0300 ([]), [], cxlRuns_mk (by decide +kernel), (by decide +kernel)⟩,
   ⟨cxlS 0x0301 (List.replicate 8 1), List.replicate 8 1, cxlRuns_mk (by decide +kernel), (by decide +kernel)⟩,
   ⟨cxlS 0x0400 ([]), [], cxlRuns_mk (by decide +kernel), (by decide +kernel)⟩,
   ⟨cxlS 0x0401 (celUuid ++ leBytes 4 0 ++ leBytes 4 4), celUuid ++ leBytes 4 0 ++ leBytes 4 4, cxlRuns_mk (by decide +kernel), (by decide +kernel), (by decide +kernel), cel_fits⟩,
   ⟨cxlS 0x4000 ([]), [], cxlRuns_mk (by decide +kernel), (by decide +kernel)⟩,
   ⟨cxlS 0x4200 ([]), [], cxlRuns_mk (by decide +kernel), (by decide +kernel)⟩,
   ⟨cxlS 0x4300 ([]), 0x4300, [], cxlRuns_mk (by decide +kernel), (by decide +kernel)⟩⟩

theorem witness_RegisterWrites :
    (∃ (s : State) (a : _) (v : _) (d : _), Takes s (.registerWrite none a 8 v) ∧ a % 8 = 0 ∧ s.is Fld.GLB_STATUS_FW_READY = true ∧ blockStore a (leBytes 8 v) = none ∧ regAt a = some d ∧ d.size = 8 ∧ commandWrite a .whole v = none) ∧
    (∃ (s : State) (a : _) (d : _) (f : RegField), s.canonical ∧ s.body.conf.locked = true ∧ regAt a = some d ∧ f ∈ d.fields ∧ f.acc = .rw) ∧
    (∃ (s : State) (a : _) (d : _) (f : RegField), s.canonical ∧ s.body.conf.locked = true ∧ regAt a = some d ∧ f ∈ d.fields ∧ f.acc = .rw1c) ∧
    (∃ (s : State) (a : _) (d : _) (f : RegField), s.canonical ∧ s.body.conf.locked = true ∧ regAt a = some d ∧ f ∈ d.fields ∧ f.acc = .rw1s) ∧
    (∃ (s : State) (a : _) (d : _) (f : RegField), s.canonical ∧ s.body.conf.locked = true ∧ regAt a = some d ∧ f ∈ d.fields ∧ (f.acc = .ro ∨ f.acc = .rwl)) ∧
    (∃ (s : State), s.body.conf.locked = true) ∧
    (∃ (s : State) (a : _) (n : _) (v : _), Takes s (.registerWrite none a n v) ∧ s.is Fld.GLB_STATUS_FW_READY = false ∧ ((a < 0x100000 ∨ 0x140000 ≤ a))) ∧
    (∃ (s : State) (m : _), Takes s (.brkOvfRearm m) ∧ s.is Fld.GLB_STATUS_FW_READY = true) ∧
    (∃ (s : State) (w : _) (o : _) (v : _), Takes s (.registerWrite (some w) o 8 v) ∧ s.is Fld.GLB_STATUS_FW_READY = true ∧ o % 8 = 0 ∧ 0x4000 ≤ o ∧ o < 0x8000) :=
  ⟨⟨withFlds [(Fld.GLB_STATUS_FW_READY, 1)] chip5, Reg.KNL_CTL, 0, _, takes_mk (by decide +kernel), (by decide +kernel), (by decide +kernel), (by decide +kernel), some_mk (by decide +kernel), (by decide +kernel), (by decide +kernel)⟩,
   ⟨chip5, 0x010100, _, ⟨4, 1, .rw, 0, 0, false⟩, canonical_mk (by decide +kernel), (by decide +kernel), some_mk (by decide +kernel), (by decide +kernel), (by decide +kernel)⟩,
   ⟨chip5, 0x000050, _, ⟨3, 1, .rw1c, 0, 0, false⟩, canonical_mk (by decide +kernel), (by decide +kernel), some_mk (by decide +kernel), (by decide +kernel), (by decide +kernel)⟩,
   ⟨chip5, 0x060020, _, ⟨0, 64, .rw1s, 0, 0, false⟩, canonical_mk (by decide +kernel), (by decide +kernel), some_mk (by decide +kernel), (by decide +kernel), (by decide +kernel)⟩,
   ⟨chip5, 0x070008, _, ⟨0, 16, .ro, 65535, 65535, false⟩, canonical_mk (by decide +kernel), (by decide +kernel), some_mk (by decide +kernel), (by decide +kernel), (by decide +kernel)⟩,
   ⟨chip5, (by decide +kernel)⟩,
   ⟨withFlds [(Fld.GLB_STATUS_FW_READY, 0)] chip5, 0x140000, 8, 1, takes_mk (by decide +kernel), (by decide +kernel), (by decide +kernel)⟩,
   ⟨withFlds [(Fld.GLB_STATUS_FW_READY, 1)] chip5, 2 ^ 25 - 1, takes_mk (by decide +kernel), (by decide +kernel)⟩,
   ⟨withFlds [(Fld.GLB_STATUS_FW_READY, 1)] chip5, 63, 0x7FF8, 1, takes_mk (by decide +kernel), (by decide +kernel), (by decide +kernel), (by decide +kernel), (by decide +kernel)⟩⟩

theorem witness_HostWindowAccesses :
    (∃ (s : State) (base : _), Takes s (.hdmDecoderCommit base (2 ^ 36) 1) ∧ base % 2 ^ 28 = 0) ∧
    (∃ (s : State) (base : _) (size : _) (ways : _), Takes s (.hdmDecoderCommit base size ways) ∧ (size ≠ 2 ^ 36 ∨ base % 2 ^ 28 ≠ 0 ∨ ways ≠ 1)) ∧
    (∃ (s : State) (off : _) (d : _), s.canonical ∧ Takes s (.hostWindowWrite off d) ∧ s.windowServed = true ∧ off + d.length ≤ 2 ^ 36) ∧
    (∃ (s : State) (off : _) (n : _), Takes s (.hostWindowRead off n false) ∧ s.windowServed = true ∧ off + n ≤ 2 ^ 36) ∧
    (∃ (s : State) (off : _) (n : _), Takes s (.hostWindowRead off n true) ∧ s.windowServed = true ∧ off + n ≤ 2 ^ 36) ∧
    (∃ (s : State) (off : _) (d : _), Takes s (.hostWindowWrite off d) ∧ s.windowServed = false ∧ off + d.length ≤ 2 ^ 36) ∧
    (∃ (off : _) (d : List Byte), 2 ^ 36 < off + d.length) ∧
    (∃ (off : _) (n : _), 2 ^ 36 < off + n) :=
  ⟨⟨chip5, 2 ^ 28, takes_mk (by decide +kernel), (by decide +kernel)⟩,
   ⟨chip5, 2 ^ 28, 2 ^ 36, 2, takes_mk (by decide +kernel), (by decide +kernel)⟩,
   ⟨hostS chip5, 2 ^ 36 - 1, [7], canonical_mk (by decide +kernel), takes_mk (by decide +kernel), (by decide +kernel), (by decide +kernel)⟩,
   ⟨hostS chip5, 2 ^ 36 - 1, 1, takes_mk (by decide +kernel), (by decide +kernel), (by decide +kernel)⟩,
   ⟨hostS chip5, 2 ^ 36 - 1, 1, takes_mk (by decide +kernel), (by decide +kernel), (by decide +kernel)⟩,
   ⟨chip5, 2 ^ 36 - 1, [7], takes_mk (by decide +kernel), (by decide +kernel), (by decide +kernel)⟩,
   ⟨2 ^ 36, [7], (by decide +kernel)⟩,
   ⟨2 ^ 36, 1, (by decide +kernel)⟩⟩

theorem witness_IslandRowsTakeEffect :
    (∃ (s : State) (n : _), s.canonical ∧ Takes s (.islIdleStop n) ∧ mayStopIsland n = true ∧ rtIsland s n = false ∧ s.get Fld.ISL_CTL_IDLE_US ≠ 0 ∧ s.isl n = IslSt.run) ∧
    (∃ (s : State) (n : _), s.canonical ∧ Takes s (.islIdleStop n) ∧ mayStopIsland n = true ∧ rtIsland s n = false ∧ s.get Fld.ISL_CTL_IDLE_US ≠ 0 ∧ s.isl n = IslSt.stopping) ∧
    (∃ (s : State) (n : _), Takes s (.islIdleStop n) ∧ (mayStopIsland n = false ∨ rtIsland s n = true)) ∧
    (∃ (s : State) (n : _), s.canonical ∧ Takes s (.whistle n) ∧ s.isl n = IslSt.stopped) ∧
    (∃ (s : State) (n : _), s.canonical ∧ Takes s (.whistle n) ∧ s.isl n = IslSt.stopping) ∧
    (∃ (s : State) (n : _), Takes s (.whistle n) ∧ s.isl n = IslSt.reset) ∧
    (∃ (s : State) (n : _) (cause : _) (credits : _), Takes s (.islReset n cause credits)) ∧
    (∃ (s : State) (n : _) (credits : _), Takes s (.limitBreach n credits)) ∧
    (∃ (s : State) (n : _) (st : _) (credits : _) (flag : _), s.canonical ∧ n < 56 ∧ st < 8 ∧ credits ≤ s.led.chip.inflight ∧ ((∀ f, flag = some f → f < 16))) ∧
    (∃ (s : State) (n : _), s.canonical ∧ Takes s (.islResetEnd n) ∧ s.isl n = IslSt.reset ∧ n ∉ s.body.plat.heldReset) ∧
    (∃ (s : State) (n : _), s.canonical ∧ Takes s (.islandRestart n) ∧ s.isl n = IslSt.halted) ∧
    (∃ (s : State) (n : _) (freq : _) (temp : _), Takes s (.islThrottle n freq temp .release)) ∧
    (∃ (s : State) (n : _) (freq : _) (temp : _) (b : _) (mw : _), Takes s (.islThrottle n freq temp (.block b mw))) ∧
    (∃ (s : State) (core : _), Takes s (.coreFault core) ∧ core ≤ 19 ∧ core ∉ s.body.plat.coresOut ∧ s.body.plat.fwAct = none) ∧
    (∃ (s : State), Takes s .mgmtTakeover ∧ s.is Fld.ISL_STATUS_STANDBY_OK = true) ∧
    (∃ (s : State), Takes s .barkIrqWindowEnd ∧ s.bark.winOpen = true ∧ s.bark.winPend = true) ∧
    (∃ (s : State) (n : _) (f : _) (m : _), neighbours s n = [m] ∧ f ≤ 8 * s.get (Fld.ISL_STATE_FREQ_MHZ m) ∧ s.get (Fld.ISL_STATE_FREQ_MHZ m) ≤ 8 * f) :=
  ⟨⟨islC 53 IslSt.run, 53, islC_canonical _ _, ⟨islC_works _ (by decide), rfl⟩, rfl, rfl, islC_idle (by decide), islC_isl 53 (by decide)⟩,
   ⟨islC 53 IslSt.stopping, 53, islC_canonical _ _, ⟨islC_works _ (by decide), rfl⟩, rfl, rfl, islC_idle (by decide), islC_isl 53 (by decide)⟩,
   ⟨chip5, 55, takes_mk (by decide +kernel), (by decide +kernel)⟩,
   ⟨islC 4 IslSt.stopped, 4, islC_canonical _ _, ⟨islC_works _ (by decide), rfl⟩, islC_isl 4 (by decide)⟩,
   ⟨islC 4 IslSt.stopping, 4, islC_canonical _ _, ⟨islC_works _ (by decide), rfl⟩, islC_isl 4 (by decide)⟩,
   ⟨islC 4 IslSt.reset, 4, ⟨islC_works _ (by decide), rfl⟩, islC_isl 4 (by decide)⟩,
   ⟨chip5, 55, .clock, 0, takes_mk (by decide +kernel)⟩,
   ⟨chip5, 55, 0, takes_mk (by decide +kernel)⟩,
   ⟨chip5, 55, 7, 0, some 15, canonical_mk (by decide +kernel), (by decide +kernel), (by decide +kernel), (by decide +kernel), (by decide +kernel)⟩,
   ⟨islC 55 IslSt.reset, 55, islC_canonical _ _, ⟨islC_works _ (by decide), rfl⟩, islC_isl 55 (by decide), (by decide)⟩,
   ⟨islC 55 IslSt.halted, 55, islC_canonical _ _, ⟨islC_works _ (by decide), rfl⟩, islC_isl 55 (by decide)⟩,
   ⟨chip5, 55, 100, 0, takes_mk (by decide +kernel)⟩,
   ⟨chip5, 55, 100, 0, 7, 1, takes_mk (by decide +kernel)⟩,
   ⟨chip5, 19, takes_mk (by decide +kernel), (by decide +kernel), (by decide +kernel), (by decide +kernel)⟩,
   ⟨chip5, takes_mk (by decide +kernel), (by decide +kernel)⟩,
   ⟨{ chip5 with bark := { winOpen := true, winPend := true } }, takes_mk (by decide +kernel), (by decide +kernel), (by decide +kernel)⟩,
   ⟨addReg (Reg.ISL_NEIGH 4) 32 (addReg (Reg.ISL_STATE 5) 1600 chip5), 4, 800, 5, (by decide +kernel), (by decide +kernel), (by decide +kernel)⟩⟩

theorem witness_ResetsAndPower :
    (∃ (straps : _), straps < 32) ∧
    (∃ (s : State), s.get Fld.PWR_STATUS_PF_STATE = 0 ∧ s.is Fld.PWR_STATUS_TRIP = false ∧ s.knlState ≠ KnlSt.powerLoss) ∧
    (∃ (s : State), s.get Fld.PWR_STATUS_PF_STATE = 2 ∧ s.is Fld.PWR_STATUS_TRIP = false ∧ s.knlState = KnlSt.powerLoss) ∧
    (∃ (s : State), s.get Fld.PWR_STATUS_PF_STATE = 1) ∧
    (∃ (s : State), s.get Fld.PWR_STATUS_PF_STATE ≠ 1 ∧ s.is Fld.PWR_STATUS_TRIP = false) ∧
    (∃ (s : State), s.get Fld.PWR_STATUS_PF_STATE = 1) ∧
    (∃ (s : State) (w : _) (r : _) (m : _), s.canonical ∧ Takes s (.cxlLinkUp w r m) ∧ s.body.cxl.perst = true ∧ 1 ∉ s.body.plat.clocksLost ∧ linkForm w r m = true) ∧
    (∃ (s : State), s.canonical ∧ Takes s .fwReady ∧ s.body.plat.booted = true ∧ s.is Fld.SEC_STATUS_RECOVERY = false ∧ s.body.cxl.perst = true ∧ s.get Fld.GLB_STATUS_HOST_MODE ≠ 0 ∧ s.is Fld.GLB_STATUS_FW_READY = false ∧ s.body.sec.raiseArb = false) ∧
    (∃ (s : State), Takes s .surpriseLinkDown ∧ s.get Fld.GLB_STATUS_HOST_MODE ≠ 0) ∧
    (∃ (s : State), s.canonical ∧ s.get Fld.PWR_STATUS_PF_STATE = 0) ∧
    (∃ (s : State), s.get Fld.PWR_STATUS_PF_STATE ≠ 0) ∧
    (∃ (s : State) (r : _), s.canonical ∧ r < 11 ∧ s.get Fld.PWR_STATUS_PF_STATE = 0) ∧
    (∃ (r : _), r < 11) ∧
    (∃ (s : State) (n : _) (temp : _), Takes s (.thermAlert n temp) ∧ (8 * s.get Fld.PWR_CTL_ALERT_C : Int) ≤ signedOf 12 temp ∧ s.is Fld.PWR_STATUS_ALERT = false) ∧
    (∃ (s : State), s.canonical ∧ s.is Fld.PWR_STATUS_TRIP = false) ∧
    (∃ (s : State) (n : _), s.canonical ∧ n < 56) ∧
    (∃ (s : State), Takes s (.refclkLoss 1) ∧ 1 ∉ s.body.plat.clocksLost) ∧
    (∃ (s : State) (k : _), Takes s (.refclkLoss (2 + k)) ∧ 2 + k ∉ s.body.plat.clocksLost) ∧
    (∃ (s : State), Takes s (.refclkLoss 0) ∧ 0 ∉ s.body.plat.clocksLost) ∧
    (∃ (s : State), Takes s (.refclkRestore 0) ∧ 0 ∈ s.body.plat.clocksLost) ∧
    (∃ (s : State) (k : _), Takes s (.refclkRestore k) ∧ k ∈ s.body.plat.clocksLost ∧ k ≠ 0) :=
  ⟨⟨31, (by decide +kernel)⟩,
   ⟨chip5, (by decide +kernel), (by decide +kernel), (by decide +kernel)⟩,
   ⟨withFlds [(Fld.PWR_STATUS_PF_STATE, 2), (Fld.KNL_STATUS_STATE, KnlSt.powerLoss)] chip5, (by decide +kernel), (by decide +kernel), (by decide +kernel)⟩,
   ⟨stopped1 chip5, (by decide +kernel)⟩,
   ⟨chip5, (by decide +kernel), (by decide +kernel)⟩,
   ⟨stopped1 chip5, (by decide +kernel)⟩,
   ⟨{ chip5 with body := { chip5.body with cxl := { perst := true } } }, 16, 5, 2, canonical_mk (by decide +kernel), takes_mk (by decide +kernel), (by decide +kernel), (by decide +kernel), (by decide +kernel)⟩,
   ⟨withFlds [(Fld.GLB_STATUS_HOST_MODE, 1), (Fld.GLB_STATUS_FW_READY, 0)] ({ chip5 with body := { chip5.body with cxl := { perst := true } } }), canonical_mk (by decide +kernel), takes_mk (by decide +kernel), (by decide +kernel), (by decide +kernel), (by decide +kernel), (by decide +kernel), (by decide +kernel), (by decide +kernel)⟩,
   ⟨withFlds [(Fld.GLB_STATUS_HOST_MODE, 2)] chip5, takes_mk (by decide +kernel), (by decide +kernel)⟩,
   ⟨chip5, canonical_mk (by decide +kernel), (by decide +kernel)⟩,
   ⟨stopped1 chip5, (by decide +kernel)⟩,
   ⟨chip5, 10, canonical_mk (by decide +kernel), (by decide +kernel), (by decide +kernel)⟩,
   ⟨10, (by decide +kernel)⟩,
   ⟨chip5, 55, 2047, takes_mk (by decide +kernel), (by decide +kernel), (by decide +kernel)⟩,
   ⟨chip5, canonical_mk (by decide +kernel), (by decide +kernel)⟩,
   ⟨chip5, 55, canonical_mk (by decide +kernel), (by decide +kernel)⟩,
   ⟨chip5, takes_mk (by decide +kernel), (by decide +kernel)⟩,
   ⟨chip5, 3, takes_mk (by decide +kernel), (by decide +kernel)⟩,
   ⟨chip5, takes_mk (by decide +kernel), (by decide +kernel)⟩,
   ⟨platS (fun p => { p with clocksLost := [0] }) chip5, takes_mk (by decide +kernel), (by decide +kernel)⟩,
   ⟨platS (fun p => { p with clocksLost := [5] }) chip5, 5, takes_mk (by decide +kernel), (by decide +kernel), (by decide +kernel)⟩⟩

theorem witness_TestAndManagementPorts :
    (∃ (s : State), s.canonical) ∧
    (∃ (s : State), s.canonical) ∧
    (∃ (s : State), s.canonical) ∧
    (∃ (s : State), s.canonical) ∧
    (∃ (s : State), s.canonical) ∧
    (∃ (s : State), s.canonical) ∧
    (∃ (s : State) (cells : _), s.canonical ∧ bsrFits cells = true) ∧
    (∃ (s : State) (enc : _), s.canonical ∧ enc < 256) ∧
    (∃ (s : State) (enc : _), enc < 255 ∧ s.is Fld.TST_STATUS_LOCKED = true) ∧
    (∃ (s : State) (enc : _), s.canonical ∧ 0x80 ≤ enc ∧ enc ≤ 0x8F ∧ bitsOf (s.get Fld.TST_STATUS_SCOPE) 0 1 = 1) ∧
    (∃ (s : State) (enc : _), 0x80 ≤ enc ∧ enc ≤ 0x8F ∧ bitsOf (s.get Fld.TST_STATUS_SCOPE) 0 1 = 0) ∧
    (∃ (s : State) (enc : _), s.canonical ∧ 0x90 ≤ enc ∧ enc ≤ 0x9F ∧ bitsOf (s.get Fld.TST_STATUS_SCOPE) 1 1 = 1) ∧
    (∃ (s : State) (enc : _), 0x90 ≤ enc ∧ enc ≤ 0x9F ∧ bitsOf (s.get Fld.TST_STATUS_SCOPE) 1 1 = 0) ∧
    (∃ (s : State) (enc : _), s.canonical ∧ 0xA0 ≤ enc ∧ enc ≤ 0xA7 ∧ bitsOf (s.get Fld.TST_STATUS_SCOPE) 2 1 = 1) ∧
    (∃ (s : State) (enc : _), 0xA0 ≤ enc ∧ enc ≤ 0xA7 ∧ bitsOf (s.get Fld.TST_STATUS_SCOPE) 2 1 = 0) ∧
    (∃ (s : State), s.canonical) ∧
    (∃ (s : State) (dyn : _), dyn < 128 ∧ s.get Fld.PWR_STATUS_PF_STATE = 0) ∧
    (∃ (s : State) (dyn : _), dyn < 128 ∧ s.get Fld.PWR_STATUS_PF_STATE = 0 ∧ s.body.plat.i3cAddr = none) ∧
    (∃ (s : State), s.get Fld.PWR_STATUS_PF_STATE ≠ 0) ∧
    (∃ (s : State), s.get Fld.PWR_STATUS_PF_STATE = 0 ∧ s.body.plat.pinsTaken = false ∧ secRuns s = true) ∧
    (∃ (s : State) (nonce : List Byte), s.get Fld.PWR_STATUS_PF_STATE = 0 ∧ s.body.plat.pinsTaken = false ∧ secRuns s = true ∧ quoteBlocked s = false ∧ nonce.length = 32) ∧
    (∃ (s : State), s.get Fld.PWR_STATUS_PF_STATE = 0 ∧ s.body.plat.pinsTaken = false ∧ mgmtRuns s = true) ∧
    (∃ (s : State), s.get Fld.PWR_STATUS_PF_STATE = 0 ∧ s.body.plat.pinsTaken = false ∧ mgmtRuns s = false) ∧
    (∃ (s : State), s.get Fld.PWR_STATUS_PF_STATE = 0 ∧ s.body.plat.pinsTaken = false) :=
  ⟨⟨chip5, canonical_mk (by decide +kernel)⟩,
   ⟨chip5, canonical_mk (by decide +kernel)⟩,
   ⟨chip5, canonical_mk (by decide +kernel)⟩,
   ⟨chip5, canonical_mk (by decide +kernel)⟩,
   ⟨chip5, canonical_mk (by decide +kernel)⟩,
   ⟨chip5, canonical_mk (by decide +kernel)⟩,
   ⟨chip5, 0, canonical_mk (by decide +kernel), bsrFits_zero⟩,
   ⟨chip5, 255, canonical_mk (by decide +kernel), (by decide +kernel)⟩,
   ⟨withFlds [(Fld.TST_STATUS_LOCKED, 1)] chip5, 254, (by decide +kernel), (by decide +kernel)⟩,
   ⟨scopeS 1, 0x8F, canonical_mk (by decide +kernel), (by decide +kernel), (by decide +kernel), (by decide +kernel)⟩,
   ⟨scopeS 6, 0x80, (by decide +kernel), (by decide +kernel), (by decide +kernel)⟩,
   ⟨scopeS 2, 0x9F, canonical_mk (by decide +kernel), (by decide +kernel), (by decide +kernel), (by decide +kernel)⟩,
   ⟨scopeS 5, 0x90, (by decide +kernel), (by decide +kernel), (by decide +kernel)⟩,
   ⟨scopeS 4, 0xA7, canonical_mk (by decide +kernel), (by decide +kernel), (by decide +kernel), (by decide +kernel)⟩,
   ⟨scopeS 3, 0xA0, (by decide +kernel), (by decide +kernel), (by decide +kernel)⟩,
   ⟨chip5, canonical_mk (by decide +kernel)⟩,
   ⟨chip5, 127, (by decide +kernel), (by decide +kernel)⟩,
   ⟨chip5, 127, (by decide +kernel), (by decide +kernel), (by decide +kernel)⟩,
   ⟨stopped1 chip5, (by decide +kernel)⟩,
   ⟨chip5, (by decide +kernel), (by decide +kernel), (by decide +kernel)⟩,
   ⟨chip5, List.replicate 32 0, (by decide +kernel), (by decide +kernel), (by decide +kernel), (by decide +kernel), (by decide +kernel)⟩,
   ⟨chip5, (by decide +kernel), (by decide +kernel), (by decide +kernel)⟩,
   ⟨platS (fun p => { p with mgmtUp := false }) chip5, (by decide +kernel), (by decide +kernel), (by decide +kernel)⟩,
   ⟨chip5, (by decide +kernel), (by decide +kernel)⟩⟩

theorem witness_LedgersBalance :
    (∃ (s t : State), s.led.balanced ∧ s.pending = [.whistle 4] ∧ step s = .next t) :=
  ⟨next5 (.whistle 4) State.reset, _, reset_balanced, rfl, rfl⟩

theorem witness_BarkStaysAccounted :
    (∃ (s t : State), s.bark.accounted ∧ s.pending = [.whistle 4] ∧ step s = .next t) :=
  ⟨next5 (.whistle 4) State.reset, _, reset_accounted, rfl, rfl⟩

theorem witness_CanonicalKept :
    (∃ (s t : State), s.canonical ∧ s.pending = [.whistle 4] ∧ step s = .next t) :=
  ⟨next5 (.whistle 4) chip5, _, canonical_mk (by decide +kernel), rfl, rfl⟩

theorem witness_BarkRecordsAreKept :
    (∃ (s : State) (r : BarkRec), barkFits s.bark (s.get Fld.BRK_CTL_RESERVE) r.severity = true) ∧
    (∃ (s : State) (r : BarkRec), barkFits s.bark (s.get Fld.BRK_CTL_RESERVE) r.severity = false) ∧
    (∃ (s : State) (r : BarkRec), s.canonical ∧ barkFits s.bark (s.get Fld.BRK_CTL_RESERVE) r.severity = false) ∧
    (∃ (s : State) (r : BarkRec), s.canonical ∧ barkFits s.bark (s.get Fld.BRK_CTL_RESERVE) r.severity = true ∧ 2 ≤ r.severity ∧ 4096 ≤ s.get Fld.BRK_CTL_RESERVE + (s.bark.stored - s.bark.head)) ∧
    (∃ (s : State), s.bark.made = s.bark.stored + s.bark.ovf) ∧
    (∃ (s : State) (src : _) (c : _) (u : State) (h : _), Runs s src 0x0702 c u ∧ u.bark.head ≤ h ∧ h ≤ u.bark.stored ∧ h % 2 ^ 32 = c.arg 0 32 ∧ h < u.bark.head + 2 ^ 32) ∧
    (∃ (s : State) (src : _) (c : _) (u : State), Runs s src 0x0702 c u ∧ ((∀ h, u.bark.head ≤ h → h ≤ u.bark.stored → h % 2 ^ 32 ≠ c.arg 0 32))) ∧
    (∃ (s : State) (src : _) (c : _) (u : State) (t : _), Runs s src 0x0702 c u ∧ exec (.barkAck src) s = .next t) :=
  ⟨⟨barkS 4031, fullRec 1, (by decide +kernel)⟩,
   ⟨barkS 4032, fullRec 1, (by decide +kernel)⟩,
   ⟨barkS 4096, fullRec 3, canonical_mk (by decide +kernel), (by decide +kernel)⟩,
   ⟨barkS 4032, fullRec 2, canonical_mk (by decide +kernel), (by decide +kernel), (by decide +kernel), (by decide +kernel)⟩,
   ⟨barkS 4096, (by decide +kernel)⟩,
   ⟨ask (cmdOf 0x0702 (leBytes 4 7)) (barkS 7), .mailbox, cmdOf 0x0702 (leBytes 4 7), _, 7, runs_mk (by decide +kernel), (by decide +kernel), (by decide +kernel), (by decide +kernel), (by decide +kernel)⟩,
   ⟨ask (cmdOf 0x0702 (leBytes 4 8)) (barkS 7), .mailbox, cmdOf 0x0702 (leBytes 4 8), _, runs_mk (by decide +kernel), fun h a b => by
    have e : (cmdOf 0x0702 (leBytes 4 8)).arg 0 32 = 8 := by decide +kernel
    have f : (barkS 7).bark.stored = 7 := rfl
    change h ≤ 7 at b
    omega⟩,
   ⟨ask (cmdOf 0x0702 (leBytes 4 7)) (barkS 7), .mailbox, cmdOf 0x0702 (leBytes 4 7), _, _, runs_mk (by decide +kernel), rfl⟩⟩

theorem witness_BalancedLedgersPassAudits :
    (∃ (l : Ledger), l.balanced) ∧
    (∃ (l : Ledger), l.balanced) ∧
    (∃ (s : State), s.led.balanced) ∧
    (∃ (l : Ledger), l.admitted % 2 ^ 64 ≠ (l.closed + l.failed + l.live) % 2 ^ 64) :=
  ⟨⟨{ admitted := 1, live := 1 }, live_balanced⟩,
   ⟨{}, empty_balanced⟩,
   ⟨State.reset, reset_balanced⟩,
   ⟨{ admitted := 1 }, (by decide +kernel)⟩⟩

theorem witness_StoppedAndIllFormed :
    (∃ (c : Instr) (s : State), runsStopped c = false ∧ s.works = false) ∧
    (∃ (c : Instr), c.wf = false) :=
  ⟨⟨.whistle 4, stopped1 chip5, (by decide +kernel), (by decide +kernel)⟩,
   ⟨.ringDoorbell 144 0, (by decide +kernel)⟩⟩

theorem witness_QuietRowsAndStores :
    (∃ (c : Instr) (s : State) (t : State), quietRow c = true ∧ exec c s = .next t) ∧
    (∃ (s : State), s.canonical) :=
  ⟨⟨.whistle 4, stopped1 chip5, _, (by decide +kernel), rfl⟩,
   ⟨chip5, canonical_mk (by decide +kernel)⟩⟩

theorem witness_ExecKeepsQueue :
    (∃ (c : Instr) (s : State) (t : State), exec c s = .next t) :=
  ⟨.whistle 4, chip5, _, rfl⟩

theorem witness_IdleIsOneTick :
    (∃ (s : State), s.pending = []) :=
  ⟨State.reset, (by decide +kernel)⟩


/-! ### Ill-formed commands, which the form check refuses: one for each check -/

/-- A ring pair past 143, in a command and a doorbell. -/
theorem test_wf_sources :
    Instr.wf (.identify (.ring 144)) = false ∧
    Instr.wf (.ringDoorbell 144 0) = false ∧
    Instr.wf (.ringDoorbell 0 4096) = false ∧
    Instr.wf (.cplHeadWrite 144 0) = false ∧
    Instr.wf (.cplHeadWrite 0 4096) = false ∧
    Instr.wf (.commandComplete 144) = false := by decide

/-- A mailbox opcode of more than 16 bits, a tenant window past 63, a calibration word past 1, a re-arm mask of more than 32 bits. -/
theorem test_wf_host_writes :
    Instr.wf (.mailboxDoorbell 65536 []) = false ∧
    Instr.wf (.registerWrite (some 64) 0 8 0) = false ∧
    Instr.wf (.sctCalReqWrite 2 0) = false ∧
    Instr.wf (.brkOvfRearm (2 ^ 32)) = false := by decide

/-- A job queue past 255, a sample queue past 15, mover and send queues past 63, tails past the slots. -/
theorem test_wf_job_queues :
    Instr.wf (.jobQueueDoorbell 256 0) = false ∧
    Instr.wf (.jobQueueDoorbell 0 4096) = false ∧
    Instr.wf (.decode 256) = false ∧
    Instr.wf (.sampleQueueDoorbell 16 0) = false ∧
    Instr.wf (.sampleQueueDoorbell 0 256) = false ∧
    Instr.wf (.sample 16 0) = false ∧
    Instr.wf (.movQueueDoorbell 64 0) = false ∧
    Instr.wf (.copy_ 64) = false ∧
    Instr.wf (.sendQueueDoorbell 0 256) = false ∧
    Instr.wf (.fillTimeout 262144) = false := by decide

/-- A lane, tile, macro, core or pipe the device does not have. -/
theorem test_wf_units :
    Instr.wf (.unitFault (.lane 272)) = false ∧
    Instr.wf (.unitFault (.tile 136)) = false ∧
    Instr.wf (.unitFault (.pipe 16 none)) = false ∧
    Instr.wf (.patrolTest (.macro_ 68) true) = false ∧
    Instr.wf (.patrolTest (.core 20) true) = false ∧
    Instr.wf (.patrolTest (.portLane 0 68) true) = false ∧
    Instr.wf (.coreFault 22) = false ∧
    Instr.wf (.sctCalibrationStart 68) = false ∧
    Instr.wf (.knlDieFail 512) = false := by decide

/-- A message whose fields do not fit. -/
theorem test_wf_messages :
    Instr.wf (.ping { phase := 10 }) = false ∧
    Instr.wf (.ping { handle := 2 ^ 64 }) = false ∧
    Instr.wf (.holdDrop { refs := List.replicate 13 0 }) = false ∧
    Instr.wf (.tokenAppend { tokens := List.replicate 17 0 }) = false ∧
    Instr.wf (.leashCas { chip := 65536 }) = false ∧
    Instr.wf (.inval { type := .inval, sender := 256 }) = false ∧
    Instr.wf (.offerTimeout (2 ^ 64)) = false ∧
    Instr.wf (.ownerTimeout 65536) = false := by decide

/-- An address of more than 64 bits, an operand wider than the atomic, a member past 255, a counter past 65,535. -/
theorem test_wf_accesses :
    Instr.wf (.fadd32 (.member 0) 0 0 (2 ^ 32) false) = false ∧
    Instr.wf (.cas32 (.member 0) 0 0 0 (2 ^ 32) false) = false ∧
    Instr.wf (.umin64 (.member 0) 0 (2 ^ 64) 0 false) = false ∧
    Instr.wf (.smax64 (.member 256) 0 0 0 false) = false ∧
    Instr.wf (.acnSignal (some 64) 0 0) = false ∧
    Instr.wf (.acnArm none 65536 0 0) = false ∧
    Instr.wf (.acnDisarm none 0 0 256) = false := by decide

/-- A port past 15, a width or lane it does not have, a flit with a wide field. -/
theorem test_wf_ports :
    Instr.wf (.nak 16 { type := 0, seq := 0 }) = false ∧
    Instr.wf (.flitReceive 0 { type := 0, seq := 4096 }) = false ∧
    Instr.wf (.portUp 0 5 0) = false ∧
    Instr.wf (.laneFail 0 68) = false ∧
    Instr.wf (.herderSelect 16) = false := by decide

/-- A tenant past 1,023, a kind past 1. -/
theorem test_wf_collars :
    Instr.wf (.collarRefill 1024 0) = false ∧
    Instr.wf (.collarRefill 0 2) = false ∧
    Instr.wf (.resvTimeout 2 0 0) = false := by decide

/-- An island past 55, a value its field does not hold. -/
theorem test_wf_islands :
    Instr.wf (.whistle 56) = false ∧
    Instr.wf (.islIdleStop 56) = false ∧
    Instr.wf (.islThrottle 0 4096 0 .release) = false ∧
    Instr.wf (.thermAlert 0 4096) = false ∧
    Instr.wf (.sctCalibrationEnd 0 256 0 0 true) = false := by decide

/-- Straps, link fields, rails, clocks and TAP encodings that do not exist. -/
theorem test_wf_pins :
    Instr.wf (.powerOnReset 32 true true) = false ∧
    Instr.wf (.cxlLinkUp 0 8 0) = false ∧
    Instr.wf (.cxlLinkUp 0 0 4) = false ∧
    Instr.wf (.railUv 11) = false ∧
    Instr.wf (.refclkLoss 6) = false ∧
    Instr.wf (.tapBypass 256) = false ∧
    Instr.wf (.mctpQuote []) = false ∧
    Instr.wf (.i3cSetdasa 128 0) = false := by decide

/-- A boundary register of more than 2,615 cells. -/
theorem test_wf_boundary : Instr.wf (.tapSamplePreload (2 ^ 2615)) = false := by
  unfold Instr.wf bsrFits bsrBound
  exact decide_eq_false (Nat.lt_irrefl _)

/-! ### Examples of the spec -/

/-- "One clipped block" (05_transcoder.md): 7.5 and 6.9 (here 6.90625), E4M3. The standard exponent is −6 and both store 448; without clipping
it is −5, 7.5 is exact and 6.9 stores 224. -/
def clipped : List Dy := ⟨15, -1⟩ :: ⟨221, -5⟩ :: List.replicate 30 ⟨0, 0⟩
theorem test_clipped_block : quantBlock 0 false clipped = (127 - 6, 0x7E :: 0x7E :: List.replicate 30 0, 1) := by decide +kernel
theorem test_no_clip_block : quantBlock 0 true clipped = (127 - 5, 0x77 :: 0x76 :: List.replicate 30 0, 0) := by decide +kernel

/-- "One selection" (04_scent.md). -/
def codes4 : List (Nat × Nat) :=
  (List.range 19).map (· + 2) |>.zip [131, 140, 129, 152, 133, 147, 128, 149, 130, 135, 146, 127, 150, 134, 144, 126, 138, 148, 132]
theorem test_selection : selectGroups 4 3 codes4 = [5, 7, 9, 12, 14, 19] := by decide +kernel

/-- "Waiting across the wrap" (08_fabric_memory_semantics.md): 31 increments do not fire, 32 do. -/
theorem test_counter_wrap :
    reached { count := 0xFFFFFFF0, target := 0x10 } = false ∧ reached { count := 0x0000000F, target := 0x10 } = false ∧
    reached { count := 0x00000010, target := 0x10 } = true := by decide

/-- "A scrub burst" (13_resilience.md): with 3,096 entries free, the severity-1 record SEQ 13,031 is stored and SEQ 13,032 is not. -/
theorem test_scrub_burst :
    barkFits { made := 13031, stored := 13031, head := 9000 } 64 1 = true ∧ barkFits { made := 13032, stored := 13032, head := 9000 } 64 1 = false ∧
    barkFits { made := 13032, stored := 13032, head := 9000 } 64 2 = true := by decide

/-! ### Single steps -/

/-- A rail above its tolerance sets flag 3 of the PWR block and stops nothing (R428). -/
theorem test_rail_over : ∃ t, exec (.railOv 3) chip5 = .next t ∧ t.rd Reg.PWR_ERR_FLAGS = 8 ∧ t.get Fld.PWR_STATUS_PF_STATE = 0 :=
  ⟨_, rfl, by decide +kernel, by decide +kernel⟩
/-- An I3C target without an address takes the one it is given (R435). -/
theorem test_i3c : ∃ t, exec (.i3cEntdaa 9) chip5 = .next t ∧ t.body.plat.i3cAddr = some 9 := ⟨_, rfl, by decide +kernel⟩
/-- A tick passes on an empty queue, and a command in front of another leaves that one waiting. -/
theorem test_queue : ∃ t, step { chip5 with pending := [.thermAlertRelease, .perstNRise] } = .next t ∧ t.pending = [.perstNRise] := ⟨_, rfl, by decide +kernel⟩
/-- A lowered PWRFAIL_N begins the flush (R428). -/
theorem test_pwrfail : ∃ t, exec .pwrfailFall chip5 = .next t ∧ t.get Fld.PWR_STATUS_PF_STATE = 1 := ⟨_, rfl, by decide +kernel⟩
/-- TRST_N selects IDCODE (R440). -/
theorem test_trst : ∃ t, exec .trst (withFlds [(Fld.TST_STATUS_INSTRUCTION, 0xFF)] chip5) = .next t ∧ t.get Fld.TST_STATUS_INSTRUCTION = 1 := ⟨_, rfl, by decide +kernel⟩

end Sys2Proof.Tests
end

section
/-! SUPPORT. What one command and one step can do: every outcome is one action on the state, so what every effect keeps, every step keeps. -/

namespace Sys2Proof.Machine

/-! ### One command -/

/-- A command's outcome is an action: one that the stopped device has too for the commands of `runsStopped`, one that needs the device to work for
the others. Only an access beyond the host window answers a fault. -/
theorem exec_outcome (c : Instr) (s : State) :
    exec c s = .fault .outsideHostWindow ∨ ∃ a, exec c s = if runsStopped c then doneAlways a s else done a s := by
  cases c
  case hostWindowWrite off d =>
    by_cases h : Mem.hostWindowSize < off + d.length
    · exact .inl (if_pos h)
    · exact .inr ⟨_, if_neg h⟩
  case hostWindowRead off n ue =>
    by_cases h : Mem.hostWindowSize < off + n
    · exact .inl (if_pos h)
    · exact .inr ⟨_, if_neg h⟩
  all_goals exact .inr ⟨_, rfl⟩

/-- A meaning that the stopped device leaves alone is its action where the device works. -/
theorem done_next {a : Act} {s t : State} (h : done a s = .next t) : t = run (when s.works a) s := by
  simp only [done, Host.Outcome.next.injEq] at h
  rw [run_when, h]
theorem doneAlways_next {a : Act} {s t : State} (h : doneAlways a s = .next t) : t = run a s := by
  simp only [doneAlways, Host.Outcome.next.injEq] at h
  exact h.symm

/-- What a command answers is the state after one action. -/
theorem exec_next {c : Instr} {s t : State} (h : exec c s = .next t) : ∃ a, t = run a s := by
  rcases exec_outcome c s with hf | ⟨a, ha⟩
  · rw [hf] at h; cases h
  · rw [ha] at h
    split at h
    · exact ⟨_, doneAlways_next h⟩
    · exact ⟨_, done_next h⟩

/-- What every effect keeps, every command keeps. -/
theorem exec_keeps {P : State → Prop} (he : ∀ e s, P s → P (applyEff e s)) {c : Instr} {s t : State} (h : exec c s = .next t) (hs : P s) : P t := by
  obtain ⟨a, rfl⟩ := exec_next h
  exact run_keeps he a s hs

/-! ### One step -/

/-- An answered step is a tick on an empty queue, or the command at the front on the queue's rest. -/
theorem step_next {s t : State} (h : step s = .next t) :
    (s.pending = [] ∧ t = idle s) ∨ ∃ c q, s.pending = c :: q ∧ exec c { s with pending := q } = .next t := by
  unfold step at h
  split at h
  · next hq => exact .inl ⟨hq, (Host.Outcome.next.inj h).symm⟩
  · next c q hq => exact .inr ⟨c, q, hq, h⟩

/-- What every effect keeps, and neither the queue nor the local counter matters to, every step keeps. -/
theorem step_keeps {P : State → Prop} (he : ∀ e s, P s → P (applyEff e s)) (hq : ∀ s q, P s → P { s with pending := q })
    (hi : ∀ s, P s → P (idle s)) {s t : State} (h : step s = .next t) (hs : P s) : P t := by
  rcases step_next h with ⟨_, rfl⟩ | ⟨c, q, _, hc⟩
  · exact hi s hs
  · exact exec_keeps he hc (hq s q hs)

/-- Settles O56: every effect keeps the canonical form, and neither the queue nor the local counter is part of it. -/
theorem canonicalKept : Obligations.CanonicalKept := by
  intro s t hs h
  exact step_keeps applyEff_canonical (fun _ _ hs => hs) (fun _ hs => hs) h hs

end Sys2Proof.Machine
end

section
/-! SUPPORT. A write to a register by the access types of its fields (R7, 00_scope.md): what each field reads as afterwards. -/

namespace Sys2Proof.Machine

/-! ### Bits of combined words -/

theorem testBit_bitsOf (v lo w i : Nat) : (bitsOf v lo w).testBit i = (decide (i < w) && v.testBit (lo + i)) := by
  rw [bitsOf, Nat.testBit_mod_two_pow, Nat.testBit_div_two_pow, Nat.add_comm]

theorem bitsOf_and (u v lo w : Nat) : bitsOf (u &&& v) lo w = bitsOf u lo w &&& bitsOf v lo w := by
  simp only [bitsOf, Nat.and_div_two_pow, Nat.and_mod_two_pow]
theorem bitsOf_or (u v lo w : Nat) : bitsOf (u ||| v) lo w = bitsOf u lo w ||| bitsOf v lo w := by
  simp only [bitsOf, Nat.or_div_two_pow, Nat.or_mod_two_pow]
theorem bitsOf_xor (u v lo w : Nat) : bitsOf (u ^^^ v) lo w = bitsOf u lo w ^^^ bitsOf v lo w := by
  simp only [bitsOf, Nat.xor_div_two_pow, Nat.xor_mod_two_pow]

/-- A field of the low n bits of a word is that field of the word. -/
theorem bitsOf_mod_two_pow {v lo w n : Nat} (h : lo + w ≤ n) : bitsOf (v % 2 ^ n) lo w = bitsOf v lo w := by
  refine Nat.eq_of_testBit_eq fun i => ?_
  simp only [testBit_bitsOf, Nat.testBit_mod_two_pow]
  by_cases hi : i < w
  · simp [show lo + i < n by omega]
  · simp [hi]

theorem bitsOf_ones {lo w n : Nat} (h : lo + w ≤ n) : bitsOf (2 ^ n - 1) lo w = 2 ^ w - 1 := by
  refine Nat.eq_of_testBit_eq fun i => ?_
  simp only [testBit_bitsOf, Nat.testBit_two_pow_sub_one]
  by_cases hi : i < w
  · simp [hi, show lo + i < n by omega]
  · simp [hi]

theorem bitsOf_zero (lo w : Nat) : bitsOf 0 lo w = 0 := by simp [bitsOf]

/-! ### The fields of a register -/

/-- Two fields of a register share no bit. -/
abbrev RegField.apart (f g : RegField) : Prop := f.lo + f.w ≤ g.lo ∨ g.lo + g.w ≤ f.lo

/-- A register's fields lie within its 64 bits and share none. -/
abbrev RegDesc.laidOut (d : RegDesc) : Prop := (∀ f ∈ d.fields, f.lo + f.w ≤ 64) ∧ d.fields.Pairwise RegField.apart

/-- Every register of the tables is laid out so. -/
theorem regsOfPage_laidOut (page : Nat) : ∀ d ∈ regsOfPage page, d.laidOut := by
  unfold regsOfPage
  split <;> decide +kernel

theorem regAt_laidOut {a : Nat} {d : RegDesc} (h : regAt a = some d) : d.laidOut :=
  regsOfPage_laidOut _ d (List.mem_of_find?_eq_some h)

/-- A word with the bits of the listed fields taken from another. -/
def takeFields (l : List RegField) (v m : Nat) : Nat := l.foldl (fun m f => withBits m f.lo f.w (bitsOf v f.lo f.w)) m

theorem withAcc_eq_takeFields (d : RegDesc) (k : Acc) (old v : Nat) : withAcc d k old v = takeFields (d.fields.filter fun f => f.acc == k) v old := rfl

theorem bitsOf_takeFields_other {l : List RegField} {f : RegField} (v m : Nat) (h : ∀ g ∈ l, g.apart f) :
    bitsOf (takeFields l v m) f.lo f.w = bitsOf m f.lo f.w := by
  induction l generalizing m with
  | nil => rfl
  | cons g l ih =>
    obtain ⟨hg, hl⟩ := List.forall_mem_cons.1 h
    calc bitsOf (takeFields l v (withBits m g.lo g.w (bitsOf v g.lo g.w))) f.lo f.w
        = bitsOf (withBits m g.lo g.w (bitsOf v g.lo g.w)) f.lo f.w := ih _ hl
      _ = bitsOf m f.lo f.w := hg.elim bitsOf_withBits_high bitsOf_withBits_low

theorem bitsOf_takeFields_mem {l : List RegField} {f : RegField} (v m : Nat) (hl : l.Pairwise RegField.apart) (hf : f ∈ l) :
    bitsOf (takeFields l v m) f.lo f.w = bitsOf v f.lo f.w := by
  induction l generalizing m with
  | nil => cases hf
  | cons g l ih =>
    obtain ⟨hg, hl⟩ := List.pairwise_cons.1 hl
    rcases List.mem_cons.1 hf with rfl | hf
    · calc bitsOf (takeFields l v (withBits m f.lo f.w (bitsOf v f.lo f.w))) f.lo f.w
          = bitsOf (withBits m f.lo f.w (bitsOf v f.lo f.w)) f.lo f.w := bitsOf_takeFields_other v _ fun x hx => (hg x hx).symm
        _ = bitsOf v f.lo f.w := by rw [bitsOf_withBits_same, Nat.mod_eq_of_lt (bitsOf_lt _ _ _)]
    · exact ih _ hl hf

theorem takeFields_lt {l : List RegField} {v m : Nat} (hl : ∀ f ∈ l, f.lo + f.w ≤ 64) (hm : m < 2 ^ 64) : takeFields l v m < 2 ^ 64 := by
  induction l generalizing m with
  | nil => exact hm
  | cons g l ih =>
    obtain ⟨hg, hl⟩ := List.forall_mem_cons.1 hl
    exact ih hl (withBits_lt hm hg)

/-- Adding the masks of fields a word has clear sets their bits. -/
theorem addMasks_eq_takeFields {l : List RegField} {m : Nat} (hw : ∀ f ∈ l, f.lo + f.w ≤ 64) (hl : l.Pairwise RegField.apart)
    (hm : ∀ f ∈ l, bitsOf m f.lo f.w = 0) : l.foldl (fun m f => m + (2 ^ f.w - 1) * 2 ^ f.lo) m = takeFields l (2 ^ 64 - 1) m := by
  induction l generalizing m with
  | nil => rfl
  | cons g l ih =>
    obtain ⟨hwg, hw⟩ := List.forall_mem_cons.1 hw
    obtain ⟨hg, hl⟩ := List.pairwise_cons.1 hl
    obtain ⟨hmg, hm⟩ := List.forall_mem_cons.1 hm
    have hstep : m + (2 ^ g.w - 1) * 2 ^ g.lo = withBits m g.lo g.w (bitsOf (2 ^ 64 - 1) g.lo g.w) := by
      have hlt : 2 ^ g.w - 1 < 2 ^ g.w := Nat.sub_lt (Nat.two_pow_pos _) Nat.one_pos
      rw [withBits, hmg, bitsOf_ones hwg, Nat.mod_eq_of_lt hlt, Nat.zero_mul, Nat.sub_zero]
    have hclear : ∀ f ∈ l, bitsOf (m + (2 ^ g.w - 1) * 2 ^ g.lo) f.lo f.w = 0 := by
      intro f hf
      rw [hstep, (hg f hf).elim bitsOf_withBits_high bitsOf_withBits_low, hm f hf]
    rw [List.foldl_cons, ih hw hl hclear, hstep]
    rfl

section
variable {d : RegDesc} {f : RegField} (hd : d.laidOut)
include hd

theorem withAcc_lt (k : Acc) {old : Nat} (v : Nat) (h : old < 2 ^ 64) : withAcc d k old v < 2 ^ 64 :=
  takeFields_lt (fun f hf => hd.1 f (List.mem_of_mem_filter hf)) h

theorem accMask_eq_withAcc (k : Acc) : accMask d k = withAcc d k 0 (2 ^ 64 - 1) :=
  addMasks_eq_takeFields (fun f hf => hd.1 f (List.mem_of_mem_filter hf)) (hd.2.filter _) fun _ _ => bitsOf_zero _ _

theorem accMask_lt (k : Acc) : accMask d k < 2 ^ 64 := by
  rw [accMask_eq_withAcc hd]; exact withAcc_lt hd k _ (by decide)

/-- A field is taken from the other word where it has the access type, and kept where it has not. -/
theorem bitsOf_withAcc (hf : f ∈ d.fields) (k : Acc) (old v : Nat) :
    bitsOf (withAcc d k old v) f.lo f.w = if f.acc = k then bitsOf v f.lo f.w else bitsOf old f.lo f.w := by
  rw [withAcc_eq_takeFields]
  split
  · next hk => exact bitsOf_takeFields_mem v old (hd.2.filter _) (List.mem_filter.2 ⟨hf, beq_iff_eq.2 hk⟩)
  · next hk =>
    refine bitsOf_takeFields_other v old fun g hg => ?_
    obtain ⟨hg, hgk⟩ := List.mem_filter.1 hg
    have hne : g ≠ f := by rintro rfl; exact hk (beq_iff_eq.1 hgk)
    have hsymm : Std.Symm RegField.apart := ⟨fun _ _ h => h.symm⟩
    exact hd.2.forall hg hf hne

theorem bitsOf_accMask (hf : f ∈ d.fields) (k : Acc) : bitsOf (accMask d k) f.lo f.w = if f.acc = k then 2 ^ f.w - 1 else 0 := by
  rw [accMask_eq_withAcc hd, bitsOf_withAcc hd hf, bitsOf_ones (hd.1 f hf), bitsOf_zero]

end

/-! ### The word a typed write leaves -/

/-- The word that a write leaves in a register (R7). -/
def typedWord (d : RegDesc) (p : Part) (old v : Nat) : Nat :=
  withAcc d .rw ((old ^^^ (old &&& (accMask d .rw1c &&& p.only v))) ||| (accMask d .rw1s &&& p.only v)) (p.ovr old v)

/-- What a field of an access type holds after bits are written to it, once the configuration is locked (R7). -/
def typedField : Acc → Nat → Nat → Nat
  | .rw, _, v => v
  | .rw1c, old, v => old ^^^ (old &&& v)
  | .rw1s, old, v => old ||| v
  | .ro, old, _ | .wo, old, _ | .rwl, old, _ => old

theorem run_typedWrite {s : State} (hs : s.body.conf.locked = true) (d : RegDesc) (a : Nat) (p : Part) (v : Nat) :
    run (typedWrite d a p v) s =
      if typedWord d p (s.rd a) v = s.rd a then s else { s with regs := regPut s.regs a (typedWord d p (s.rd a) v) } := by
  have hrun : run (typedWrite d a p v) s = run (when (typedWord d p (s.rd a) v != s.rd a) (setReg a (typedWord d p (s.rd a) v))) s := by
    simp [typedWrite, typedWord, hs]
  rw [hrun, run_when, run_setReg]
  by_cases h : typedWord d p (s.rd a) v = s.rd a
  · rw [if_pos h, if_neg (by simp [h])]
  · rw [if_neg h, if_pos (by simp [h])]

theorem typedWord_lt {d : RegDesc} (hd : d.laidOut) (p : Part) {old : Nat} (v : Nat) (h : old < 2 ^ 64) : typedWord d p old v < 2 ^ 64 := by
  have hclear : old &&& (accMask d .rw1c &&& p.only v) < 2 ^ 64 := Nat.and_lt_two_pow _ (Nat.lt_of_le_of_lt Nat.and_le_left (accMask_lt hd _))
  have hset : accMask d .rw1s &&& p.only v < 2 ^ 64 := Nat.lt_of_le_of_lt Nat.and_le_left (accMask_lt hd _)
  exact withAcc_lt hd _ _ (Nat.or_lt_two_pow (Nat.xor_lt_two_pow h hclear) hset)

/-- Each field of the word is as its access type has it. -/
theorem bitsOf_typedWord {d : RegDesc} {f : RegField} (hd : d.laidOut) (hf : f ∈ d.fields) (old v : Nat) :
    bitsOf (typedWord d .whole old v) f.lo f.w = typedField f.acc (bitsOf old f.lo f.w) (bitsOf v f.lo f.w) := by
  have hv : bitsOf (v % 2 ^ 64) f.lo f.w = bitsOf v f.lo f.w := bitsOf_mod_two_pow (hd.1 f hf)
  have hones : (2 ^ f.w - 1) &&& bitsOf v f.lo f.w = bitsOf v f.lo f.w := by
    rw [Nat.and_comm, Nat.and_two_pow_sub_one_eq_mod, Nat.mod_eq_of_lt (bitsOf_lt v f.lo f.w)]
  simp only [typedWord, Part.only, Part.ovr, bitsOf_withAcc hd hf, bitsOf_or, bitsOf_xor, bitsOf_and, bitsOf_accMask hd hf, hv]
  cases hk : f.acc <;> simp [typedField, hones]

/-- A field reads back as its access type has it. -/
theorem get_typedWrite {s : State} {a : Nat} {d : RegDesc} {f : RegField} (v : Nat) (hc : s.canonical) (hs : s.body.conf.locked = true)
    (hd : regAt a = some d) (hf : f ∈ d.fields) :
    (run (typedWrite d a .whole v) s).get ⟨a, f.lo, f.w⟩ = typedField f.acc (s.get ⟨a, f.lo, f.w⟩) (bitsOf v f.lo f.w) := by
  have hl := regAt_laidOut hd
  have hr : risingKeys s.regs = true := (canon_iff.1 hc.2.1).1
  have hrd : (run (typedWrite d a .whole v) s).rd a = typedWord d .whole (s.rd a) v := by
    rw [run_typedWrite hs]
    split
    · next h => exact h.symm
    · exact regRead_regPut_same a _ hr (typedWord_lt hl _ _ (regRead_lt _ _))
  simp only [State.get, hrd, bitsOf_typedWord hl hf]

/-- It touches no other register and nothing but the registers. -/
theorem typedWrite_frame {s : State} (hs : s.body.conf.locked = true) (d : RegDesc) (a : Nat) (p : Part) (v : Nat) :
    (∀ b, b ≠ a → (run (typedWrite d a p v) s).rd b = s.rd b) ∧ (run (typedWrite d a p v) s).body = s.body ∧
      (run (typedWrite d a p v) s).mem = s.mem ∧ (run (typedWrite d a p v) s).led = s.led ∧ (run (typedWrite d a p v) s).bark = s.bark := by
  rw [run_typedWrite hs]
  split
  · exact ⟨fun _ _ => rfl, rfl, rfl, rfl, rfl⟩
  · exact ⟨fun b hb => regRead_regPut_other _ _ hb, rfl, rfl, rfl, rfl⟩

/-! ### Which write a command of the host is -/

/-- REGISTER_WRITE by PF0 is its write of the register space. -/
theorem exec_registerWrite_pf0 {s : State} {a n v : Nat} (h : Takes s (.registerWrite none a n v)) :
    exec (.registerWrite none a n v) s = .next (run (regWrite a n v) s) := done_works h.works

/-- The same through a tenant window. -/
theorem exec_registerWrite_window {s : State} {w o n v : Nat} (h : Takes s (.registerWrite (some w) o n v)) :
    exec (.registerWrite (some w) o n v) s = .next (run (windowWrite w o n v) s) := by
  have hw : w < 64 := of_decide_eq_true h.form
  have hex : exec (.registerWrite (some w) o n v) s = done (when (decide (w < 64)) (windowWrite w o n v)) s := rfl
  rw [hex, done_works h.works, run_when, decide_eq_true hw, if_pos rfl]

/-- BRK_OVF_REARM is a write to its register. -/
theorem exec_brkOvfRearm {s : State} {m : Nat} (h : Takes s (.brkOvfRearm m)) :
    exec (.brkOvfRearm m) s = .next (run (regWrite Reg.BRK_OVF_REARM 8 (m % 2 ^ 32)) s) := by
  have hex : exec (.brkOvfRearm m) s = done (when (decide (m < 2 ^ 32)) (regWrite Reg.BRK_OVF_REARM 8 (m % 2 ^ 32))) s := rfl
  have hm : m < 2 ^ 32 := of_decide_eq_true h.form
  rw [hex, done_works h.works, run_when, decide_eq_true hm, if_pos rfl]

/-- Registers that are not served ignore writes (R337). -/
theorem run_regWrite_unserved {s : State} {a n v : Nat} (h : regServed s a = false) : run (regWrite a n v) s = s := by
  simp [regWrite, h]

/-- An aligned write of eight bytes to a register of that size, once the firmware is ready. -/
theorem run_regWrite_whole {s : State} {a v : Nat} {d : RegDesc} (ha : a % 8 = 0) (hfw : s.is Fld.GLB_STATUS_FW_READY = true)
    (hb : blockStore a (leBytes 8 v) = none) (hd : regAt a = some d) (h8 : d.size = 8) :
    run (regWrite a 8 v) s = run (writePart d a .whole v) s := by
  simp [regWrite, regServed, ha, hfw, hb, hd, h8]

/-- A register whose write is no command is written by its fields' access types. -/
theorem writePart_typed {d : RegDesc} {a : Nat} {p : Part} {v : Nat} (h : commandWrite a p v = none) : writePart d a p v = typedWrite d a p v := by
  rw [writePart, h]; rfl

/-- A write of BRK_OVF_REARM is its command (R379). -/
theorem writePart_brkOvfRearm (d : RegDesc) {m : Nat} (h : m < 2 ^ 32) : writePart d Reg.BRK_OVF_REARM .whole m = eff (.barkRearm m) := by
  have hm : m % 2 ^ 64 % 2 ^ 32 = m := by omega
  have hcmd : commandWrite Reg.BRK_OVF_REARM .whole m = some (eff (.barkRearm (m % 2 ^ 64 % 2 ^ 32))) := rfl
  rw [writePart, hcmd, hm]; rfl

/-- An aligned write of eight bytes in a window's counters is a store to the counters of its range (R332). -/
theorem run_windowWrite_counters {s : State} {w o v : Nat} (hw : w < 64) (hfw : s.is Fld.GLB_STATUS_FW_READY = true) (ha : o % 8 = 0)
    (hlo : 0x4000 ≤ o) (hhi : o < 0x8000) :
    run (windowWrite w o 8 v) s = run (acnStore (some w) (32 * s.get (Fld.ACN_TW_BASE w) + (o - 0x4000)) (leBytes 8 v)) s := by
  have hring : ¬ o < 0x1000 := by omega
  simp [windowWrite, hfw, ha, hlo, hhi, hring, Nat.not_lt.2 (Nat.le_of_lt_succ hw)]

/-- Settles O48: a typed write leaves in each field what its access type has (`get_typedWrite`), and the other writes go where their
address leads. -/
theorem registerWrites : Obligations.RegisterWrites := by
  refine ⟨?_, ?_, ?_, ?_, ?_, ?_, ?_, ?_, ?_⟩
  · intro s a v d hT ha hfw hb hd h8 hc
    rw [exec_registerWrite_pf0 hT, run_regWrite_whole ha hfw hb hd h8, writePart_typed hc]
  · intro s a v d f hc hs hd hf hk
    rw [get_typedWrite v hc hs hd hf, hk, typedField]
  · intro s a v d f hc hs hd hf hk
    rw [get_typedWrite v hc hs hd hf, hk, typedField]
  · intro s a v d f hc hs hd hf hk
    rw [get_typedWrite v hc hs hd hf, hk, typedField]
  · intro s a v d f hc hs hd hf hk
    rw [get_typedWrite v hc hs hd hf]
    rcases hk with hk | hk <;> rw [hk, typedField]
  · intro s a v d p hs
    exact typedWrite_frame hs d a p v
  · intro s a n v hT hfw ha
    rw [exec_registerWrite_pf0 hT, run_regWrite_unserved]
    rcases ha with ha | ha <;> simp [regServed, hfw] <;> omega
  · intro s m hT hfw
    have hm : m < 2 ^ 32 := of_decide_eq_true hT.form
    rw [exec_brkOvfRearm hT, Nat.mod_eq_of_lt hm, run_regWrite_whole rfl hfw rfl rfl rfl, writePart_brkOvfRearm _ hm]
  · intro s w o v hT hfw ha hlo hhi
    have hw : w < 64 := of_decide_eq_true hT.form
    rw [exec_registerWrite_window hT, run_windowWrite_counters hw hfw ha hlo hhi]

end Sys2Proof.Machine
end

section
/-! SUPPORT. What completing a command leaves alone: the ledgers, and every part of the remaining state in which neither the host interface
nor the outputs stand. -/

namespace Sys2Proof.Machine

/-! ### Ledgers -/

@[simp] theorem run_count_led (a n : Nat) (s : State) : (run (count a n) s).led = s.led := by rw [run_count]

@[simp] theorem run_tcount_led (t off n : Nat) (s : State) : (run (tcount t off n) s).led = s.led := by simp [run, tcount]

@[simp] theorem run_raise_led (blk bit : Nat) (s : State) : (run (raise blk bit) s).led = s.led := by simp [run, raise, raiseWith]

@[simp] theorem run_store_led (a : Nat) (bs : List Byte) (s : State) : (run (store a bs) s).led = s.led := by
  unfold run store
  induction bs generalizing a s with
  | nil => rfl
  | cons b bs ih => simp [byteEffs, ih]

@[simp] theorem run_setMbox_led (m : Mailbox) (s : State) : (run (setMbox m) s).led = s.led := by rw [setMbox, run_onBody]

@[simp] theorem run_setCmds_led (src : Src) (l : List Cmd) (s : State) : (run (setCmds src l) s).led = s.led := by
  cases src <;> rfl

/-! ### The remaining state -/

@[simp] theorem run_count_body (a n : Nat) (s : State) : (run (count a n) s).body = s.body := by rw [run_count]

@[simp] theorem run_tcount_body (t off n : Nat) (s : State) : (run (tcount t off n) s).body = s.body := by simp [run, tcount]

@[simp] theorem run_store_body (a : Nat) (bs : List Byte) (s : State) : (run (store a bs) s).body = s.body := by
  unfold run store
  induction bs generalizing a s with
  | nil => rfl
  | cons b bs ih => simp [byteEffs, ih]

/-- A part of the remaining state that holds nothing of the rings, the mailbox, the CXL event logs and the outputs. -/
def ApartFromHost {α : Type} (f : Body → α) : Prop :=
  ∀ b rings mbox cxl out, f { b with rings := rings, mbox := mbox, cxl := cxl, out := out } = f b

theorem apartFromHost_home : ApartFromHost Body.home := fun _ _ _ _ _ => rfl
theorem apartFromHost_knl : ApartFromHost Body.knl := fun _ _ _ _ _ => rfl

section
variable {α : Type} {f : Body → α} (hf : ApartFromHost f)
include hf

theorem ApartFromHost.bark (r : BarkRec) (s : State) : f (applyEff (.bark r) s).body = f s.body :=
  hf s.body s.body.rings s.body.mbox _ _

theorem ApartFromHost.raise (blk bit : Nat) (s : State) : f (run (raise blk bit) s).body = f s.body := by
  simp [run, Machine.raise, raiseWith, hf.bark]

theorem ApartFromHost.setMbox (m : Mailbox) (s : State) : f (run (setMbox m) s).body = f s.body :=
  hf s.body s.body.rings m s.body.cxl s.body.out

theorem ApartFromHost.setCmds (src : Src) (l : List Cmd) (s : State) : f (run (setCmds src l) s).body = f s.body := by
  cases src with
  | ring r => exact hf s.body (tput s.body.rings r { s.ring r with cmds := l }) s.body.mbox s.body.cxl s.body.out
  | mailbox => exact hf.setMbox { s.body.mbox with cmd := l.head? } s

end

/-! ### Completions -/

/-- What flags, counts, memory, the commands of a source and the mailbox do not matter to, a completion keeps. -/
theorem run_finish_keeps {P : State → Prop} (hraise : ∀ blk bit s, P s → P (run (raise blk bit) s))
    (hcount : ∀ a n s, P s → P (run (count a n) s)) (hstore : ∀ a bs s, P s → P (run (store a bs) s))
    (hcmds : ∀ src l s, P s → P (run (setCmds src l) s)) (hmbox : ∀ m s, P s → P (run (setMbox m) s))
    (ref : CmdRef) (status detail : Nat) (result out : List Byte) {s : State} (hs : P s) :
    P (run (finish ref status detail result out) s) := by
  have hwhen : ∀ c blk bit s, P s → P (run (when c (raise blk bit)) s) := by
    intro c blk bit s hs
    rw [run_when]
    split
    · exact hraise _ _ _ hs
    · exact hs
  rw [finish, run_look]
  split
  · exact hs
  · next c _ =>
    split
    · exact hs
    · rw [run_andThen]
      have hs1 := hwhen (c.opcode == 0x0104 && status == St.invalid) Blk.glb 2 s hs
      split
      · split <;> simp only [run_acts_cons, run_acts_nil] <;> exact hcmds _ _ _ (hstore _ _ _ hs1)
      · simp only [countCpl, run_acts_cons, run_acts_nil]
        exact hwhen _ _ _ _ (hcount _ _ _ (hmbox _ _ hs1))

@[simp] theorem run_finish_led (ref : CmdRef) (status detail : Nat) (result out : List Byte) (s : State) :
    (run (finish ref status detail result out) s).led = s.led :=
  run_finish_keeps (P := fun t => t.led = s.led) (fun _ _ _ h => (run_raise_led _ _ _).trans h) (fun _ _ _ h => (run_count_led _ _ _).trans h)
    (fun _ _ _ h => (run_store_led _ _ _).trans h) (fun _ _ _ h => (run_setCmds_led _ _ _).trans h)
    (fun _ _ h => (run_setMbox_led _ _).trans h) _ _ _ _ _ rfl

theorem ApartFromHost.finish {α : Type} {f : Body → α} (hf : ApartFromHost f) (ref : CmdRef) (status detail : Nat) (result out : List Byte)
    (s : State) : f (run (finish ref status detail result out) s).body = f s.body :=
  run_finish_keeps (P := fun t => f t.body = f s.body) (fun _ _ _ h => (hf.raise _ _ _).trans h)
    (fun a n t h => (congrArg f (run_count_body a n t)).trans h) (fun a bs t h => (congrArg f (run_store_body a bs t)).trans h)
    (fun _ _ _ h => (hf.setCmds _ _ _).trans h) (fun _ _ h => (hf.setMbox _ _).trans h) _ _ _ _ _ rfl

end Sys2Proof.Machine
end

section
/-! SUPPORT. The commands of a request at its home where they have their own effect: REQ_CLOSE, REQ_STATUS, REQ_LOG_APPEND, REQ_HANDOFF. -/

namespace Sys2Proof.Machine

section
variable {s v u : State} {src : Src} {c : Cmd} {q : HomeReq}

theorem exec_reqStatus (h : Runs s src 0x0306 c v) : exec (.reqStatus src) s = .next (run (opReqStatus ⟨src, c.seq⟩ c) v) := runs_done h _
theorem exec_reqClose (h : Runs s src 0x0303 c v) : exec (.reqClose src) s = .next (run (opReqClose ⟨src, c.seq⟩ c) v) := runs_done h _
theorem exec_reqLogAppend (h : Runs s src 0x0304 c v) : exec (.reqLogAppend src) s = .next (run (opReqLogAppend ⟨src, c.seq⟩ c) v) :=
  runs_done h _
theorem exec_reqHandoff (h : Runs s src 0x0302 c v) :
    exec (.reqHandoff src) s = .next (run (opReqHandoff localPhase ⟨src, c.seq⟩ c) v) := runs_done h _

/-! ### REQ_LOG_APPEND (R355) -/

/-- The tokens of a REQ_LOG_APPEND, from its input. -/
def appendToks (inp : List Byte) (n : Nat) : List Nat := (List.range n).map fun i => leNat ((inp.drop (4 * i)).take 4)

/-- The current turn record takes a note. -/
def noteTurn (note : List Byte) (l : List TurnRec) : List TurnRec :=
  match l.reverse with
  | [] => []
  | t :: l' => ({ t with note := note } :: l').reverse

/-- The record after an append: the tokens follow the log, and the current turn grows by them and takes the note, where there is one. -/
def appendRec (r : Rec) (c : Cmd) (inp : List Byte) : Rec :=
  let grown := growTurn (c.arg 12 16) r.turnRecs
  { r with log := r.log ++ appendToks inp (c.arg 12 16),
           turnRecs := if c.arg 14 8 == 1 then noteTurn ((inp.drop (4 * c.arg 12 16)).take 16) grown else grown }

theorem any_tooWide_eq_false {toks : List Nat} (h : ∀ t ∈ toks, t < 2 ^ 20) : (toks.any fun t => t / 2 ^ 20 != 0) = false := by
  refine List.any_eq_false.2 fun t ht => ?_
  rw [Nat.div_eq_of_lt (h t ht)]
  decide

section
variable (ref : CmdRef) (a : AtLive v (c.arg 0 64) u q)
  (hlen : 4 * c.arg 12 16 + (if c.arg 14 8 = 1 then 16 else 0) ≤ (cmdInput u ref.src c).length)
  (htok : ∀ t ∈ appendToks (cmdInput u ref.src c) (c.arg 12 16), t < 2 ^ 20)
include a hlen htok

theorem run_opReqLogAppend_append (hfirst : c.arg 8 32 = q.record.log.length) (hturn : c.arg 14 8 = 1 → q.record.turnRecs ≠ [])
    (hroom : q.record.log.length + c.arg 12 16 ≤ q.record.maxPositions + 16) :
    run (opReqLogAppend ref c) v = run (homeFin ref St.ok (leBytes 4 (appendRec q.record c (cmdInput u ref.src c)).log.length))
      (run (putReq (c.arg 0 64) { q with record := appendRec q.record c (cmdInput u ref.src c) }) u) := by
  have hwide := any_tooWide_eq_false htok
  rw [appendToks] at hwide
  have hnote : (c.arg 14 8 == 1 && q.record.turnRecs.isEmpty) = false := by simpa using hturn
  rw [opReqLogAppend, run_withLive a, run_look]
  simp only [beq_iff_eq, Nat.not_lt.2 hlen, hwide, hfirst, Nat.lt_irrefl, ne_eq, not_true, hnote, Nat.not_lt.2 hroom, reduceIte,
    Bool.false_eq_true]
  rw [run_acts_cons, run_acts_cons, run_acts_nil]
  simp only [appendRec, appendToks, beq_iff_eq]
  rfl

theorem run_opReqLogAppend_resent (hfirst : c.arg 8 32 < q.record.log.length)
    (hsame : (q.record.log.drop (c.arg 8 32)).take (c.arg 12 16) = appendToks (cmdInput u ref.src c) (c.arg 12 16))
    (hroom : c.arg 8 32 + c.arg 12 16 ≤ q.record.log.length) :
    run (opReqLogAppend ref c) v = run (finOk ref (leBytes 4 q.record.log.length)) u := by
  have hwide := any_tooWide_eq_false htok
  rw [appendToks] at hwide hsame
  rw [opReqLogAppend, run_withLive a, run_look]
  simp only [beq_iff_eq, Nat.not_lt.2 hlen, hwide, hfirst, hsame, hroom, and_self, reduceIte, Bool.false_eq_true]

end

end

/-- Settles O8: the commands by the case of `withReq` or `withLive` that their request is in, an append by its place against LOG_LEN. -/
theorem requestCommands : Obligations.RequestCommands := by
  refine ⟨?_, ?_, ?_, ?_, ?_, ?_⟩
  · intro s src c v u q h a hout
    rw [exec_reqStatus h, opReqStatus, run_withReq a, run_finOut hout, run_nop]
  · intro s src c v u q h a hl hc
    rw [exec_reqClose h, opReqClose, run_withReq a]
    simp [hl, hc]
  · intro s src c v u q h a hl hc
    rw [exec_reqClose h, opReqClose, run_withReq a]
    simp [hl, hc]
  · intro s src c v u q h a hl
    rw [exec_reqClose h, opReqClose, run_withReq a]
    simp [hl]
  · intro s src c v u q toks h a ht hlen htok hfirst hturn hroom
    subst ht
    refine ⟨appendRec q.record c (cmdInput u src c), rfl, rfl, rfl, rfl, ?_⟩
    rw [exec_reqLogAppend h, run_opReqLogAppend_append ⟨src, c.seq⟩ a hlen htok hfirst hturn hroom]
  · intro s src c v u q toks h a ht hlen htok hfirst hsame hroom
    subst ht
    rw [exec_reqLogAppend h, run_opReqLogAppend_resent ⟨src, c.seq⟩ a hlen htok hfirst hsame hroom]

/-! ### REQ_HANDOFF (R11, R12) -/

theorem handoffAllowed_self (p : Phase) : handoffAllowed p p = false := by cases p <;> rfl

theorem ne_of_handoffAllowed {p target : Phase} (h : handoffAllowed p target = true) : p ≠ target := by
  rintro rfl
  rw [handoffAllowed_self] at h
  cases h

/-- A request is handed off from ADMITTED, PROMPTING, GENERATING or LISTENING (R12). -/
theorem phase_of_handoffAllowed {p target : Phase} (h : handoffAllowed p target = true) :
    p = .admitted ∨ p = .prompting ∨ p = .generating ∨ p = .listening := by
  revert h
  cases p <;> simp [handoffAllowed]

/-- A change of phase keeps the epoch and the log, with or without a turn record. -/
theorem enterPhase_frame (tick : Nat) (p : Phase) (r : Rec) :
    (enterPhase tick p r).phase = p ∧ (enterPhase tick p r).epoch = r.epoch ∧ (enterPhase tick p r).log = r.log := by
  unfold enterPhase openTurn
  dsimp only
  split <;> exact ⟨rfl, rfl, rfl⟩

/-- Settles O9: in a phase of R12 the command goes by its owner, its target and the home's shares. -/
theorem handoffCommandTakesEffect : Obligations.HandoffCommandTakesEffect := by
  refine ⟨?_, ?_, ?_, ?_, enterPhase_frame⟩
  · intro s src c v u q target o h a ht hallow hchg ho hne hpod
    have hmode : ¬ (c.arg 11 8 = 2 ∧ ¬ (u.inPod (c.arg 8 16) = true ∧ u.inPod o = true)) := fun ⟨h2, hn⟩ => hn (hpod h2)
    rw [exec_reqHandoff h, opReqHandoff, run_withLive a, run_look]
    rcases phase_of_handoffAllowed hallow with hp | hp | hp | hp <;> rw [hp] at hallow <;>
      simp only [hp, ht, ho, hne, hmode, hallow, hchg, Option.some.injEq, Option.getD_some, Option.isSome_none, Bool.not_true,
        Bool.false_eq_true, false_and, reduceIte, run_acts_cons, run_acts_nil]
  · intro s src c v u q target h a ht hallow hchg ho hself hshare
    have hne := ne_of_handoffAllowed hallow
    rw [exec_reqHandoff h, opReqHandoff, run_withLive a, run_look]
    rcases phase_of_handoffAllowed hallow with hp | hp | hp | hp <;> rw [hp] at hallow hne <;>
      simp only [hp, ht, ho, hself, hshare, hne, hallow, hchg, Option.isSome_none, Bool.not_true, Bool.false_eq_true, and_false, reduceIte,
        run_acts_cons, run_acts_nil]
  · intro s src c v u q target h a ht hallow hchg ho hother
    have hne := ne_of_handoffAllowed hallow
    rw [exec_reqHandoff h, opReqHandoff, run_withLive a, run_look]
    rcases phase_of_handoffAllowed hallow with hp | hp | hp | hp <;> rw [hp] at hallow hne <;>
      simp only [hp, ht, ho, hother, hne, hallow, hchg, Option.isSome_none, Bool.not_true, Bool.false_eq_true, and_false, reduceIte,
        run_acts_cons, run_acts_nil]
  · intro s src c v u q h a ht ho hlive
    have hphase := (Bool.or_eq_true_iff.1 hlive).elim phase_of_handoffAllowed phase_of_handoffAllowed
    rw [exec_reqHandoff h, opReqHandoff, run_withLive a, run_look]
    rcases hphase with hp | hp | hp | hp <;> rw [hp] at ht <;> simp only [hp, ht, ho, and_self, reduceIte]

end Sys2Proof.Machine
end

section
/-! SUPPORT. KNL_PARK and KNL_RESUME where they have their own effect. -/

namespace Sys2Proof.Machine

section
variable {s v u : State} {src : Src} {c : Cmd} {q : HomeReq}

theorem exec_knlPark {missing : List (Nat × Nat)} (h : Runs s src 0x0501 c v) :
    exec (.knlPark src missing) s = .next (run (opKnlPark missing ⟨src, c.seq⟩ c) v) := runs_done h _
theorem exec_knlResume (h : Runs s src 0x0502 c v) : exec (.knlResume src) s = .next (run (opKnlResume ⟨src, c.seq⟩ c) v) := runs_done h _

/-- An image of at most 4 GiB has at most 65,536 units of data. -/
theorem ceilDiv_le_of_le {n : Nat} (h : n ≤ 2 ^ 32) : ceilDiv n 65536 ≤ 65536 := by
  unfold ceilDiv
  omega

/-- A key that is loaded where one is needed is not missing. -/
theorem and_isNone_eq_false {α : Type} {b : Bool} {o : Option α} (h : b = true → o.isSome = true) : (b && o.isNone) = false := by
  cases b with
  | false => rfl
  | true => exact Option.isNone_eq_false_iff.2 (h rfl)

/-- Where nothing holds a park back, the free slots and the capacity decide on it. -/
theorem run_opKnlPark_of_parts {missing : List (Nat × Nat)} {l : Loc} {m : Model} {p : ImgParts} (ref : CmdRef) (a : AtLive v (c.arg 0 64) u q)
    (hphase : q.record.phase = .listening) (howner : q.record.owner = some u.chipId) (hrec : u.knlState ≠ KnlSt.recovering)
    (hloc : u.loc (c.arg 0 64) = some l) (hmodel : u.locModel l = some m) (hacc : parksAccepted u = true) (hpages : pagesHere u l m = true)
    (hfetch : l.fetch = none) (hunit : unitRuns u (c.arg 0 64) = false)
    (hkey : u.isProt l.tenant = true → (tenantKnlKey u l.tenant).isSome = true) (hparts : parkParts u (c.arg 0 64) q m missing = some p)
    (hlen : (imageBytes p).1.length ≤ 2 ^ 32) :
    run (opKnlPark missing ref c) v = run ((freeSlot u).elim (refusePark ref l.tenant) fun slot =>
      if capacity u < usedUnits u + (unitsOfBytes (imageBytes p).1).length then refusePark ref l.tenant
      else beginPark ref (c.arg 0 64) q l.tenant slot p) u := by
  have hkeys := and_isNone_eq_false hkey
  rw [opKnlPark, run_withLive a, run_look]
  simp only [hphase, howner, hrec, hloc, hmodel, hacc, hpages, hfetch, hunit, hkeys, hparts, Nat.not_lt.2 (ceilDiv_le_of_le hlen),
    Option.bind_some, Option.map_some, Option.isSome_none, Bool.not_true, Bool.or_self, Bool.false_eq_true, ne_eq, not_true, reduceIte]
  cases freeSlot u with
  | none => rw [Option.elim_none]
  | some slot => rw [Option.elim_some]

/-- A refused park touches neither the home, nor the Kennel, nor the ledgers. -/
theorem refusePark_frame (s : State) (ref : CmdRef) (tenant : Nat) :
    (run (refusePark ref tenant) s).body.home = s.body.home ∧ (run (refusePark ref tenant) s).body.knl = s.body.knl ∧
      (run (refusePark ref tenant) s).led = s.led := by
  simp only [refusePark, fin, run_acts_cons, run_acts_nil, apartFromHost_home.finish, apartFromHost_knl.finish, run_finish_led,
    run_tcount_body, run_tcount_led, run_count_body, run_count_led, and_self]

end

/-- Settles O41: a park by the free slots and the capacity (`run_opKnlPark_of_parts`), a resume by its phase. -/
theorem parksAndResumesBegin : Obligations.ParksAndResumesBegin := by
  refine ⟨?_, ?_, refusePark_frame, ?_, ?_, ?_⟩
  · intro s src missing c v u q l m p slot h a hphase howner hrec hloc hmodel hacc hpages hfetch hunit hkey hparts hlen hslot hroom
    rw [exec_knlPark h, run_opKnlPark_of_parts _ a hphase howner hrec hloc hmodel hacc hpages hfetch hunit hkey hparts hlen, hslot,
      Option.elim_some, if_neg (Nat.not_lt.2 hroom)]
  · intro s src missing c v u q l m p h a hphase howner hrec hloc hmodel hacc hpages hfetch hunit hkey hparts hlen hfull
    rw [exec_knlPark h, run_opKnlPark_of_parts _ a hphase howner hrec hloc hmodel hacc hpages hfetch hunit hkey hparts hlen]
    cases freeSlot u with
    | none => rw [Option.elim_none]
    | some slot => rw [Option.elim_some, if_pos hfull]
  · intro s src c v u q l slot h a hphase howner hrec hloc himage hkey hfar
    have hkeys := and_isNone_eq_false hkey
    have hroom : (placeFar u .cache (u.group l.tenant)).isNone = false := Option.isNone_eq_false_iff.2 hfar
    rw [exec_knlResume h, opKnlResume, run_withLive a, run_look]
    simp only [hphase, howner, hrec, hloc, himage, hkeys, hroom, Bool.or_self, Bool.false_eq_true, ne_eq, not_true, reduceIte]
  · intro s src c v u q h a hphase
    rw [exec_knlResume h, opKnlResume, run_withLive a, run_look, hphase]
  · intro s src c v u q h a hphase
    rw [exec_knlResume h, opKnlResume, run_withLive a, run_look, hphase]

end Sys2Proof.Machine
end

section
/-! SUPPORT. The rows of state memory where they have their own effect: far reads, backup reads, retries and first passes (R32, R39, R44,
R46, R198, 02_state_memory.md and 07_ownership_and_recovery.md; R132, 05_transcoder.md). -/

namespace Sys2Proof.Machine

section
variable {s : State} {tag n k h l : Nat} {good : Bool}

theorem exec_farReadDone (hT : Takes s (.farReadDone tag good n)) :
    exec (.farReadDone tag good n) s = .next (run (actFarReadDone tag good n) s) := done_works hT.works
theorem exec_backupReadTimer (hT : Takes s (.backupReadTimer tag)) :
    exec (.backupReadTimer tag) s = .next (run (actBackupReadTimer tag) s) := done_works hT.works
theorem exec_prefetchRetry (hT : Takes s .prefetchRetry) : exec .prefetchRetry s = .next (run actPrefetchRetry s) := done_works hT.works
theorem exec_copydownHoldExpiry (hT : Takes s (.copydownHoldExpiry k)) :
    exec (.copydownHoldExpiry k) s = .next (run (actCopydownExpiry k) s) := done_works hT.works

theorem exec_firstPassComplete (hT : Takes s (.firstPassComplete h l)) :
    exec (.firstPassComplete h l) s = .next (run (actFirstPassComplete h l) s) := by
  have hform : (handleWf h && decide (l < 65536)) = true := hT.form
  have hex : exec (.firstPassComplete h l) s = done (when (handleWf h && decide (l < 65536)) (actFirstPassComplete h l)) s := rfl
  rw [hex, done_works hT.works, run_when, if_pos hform]

end

/-! ### Far reads (R32, R44, R46) -/

section
variable {s : State} {tag n : Nat} {r : PageRead} (hread : tget s.body.pages.reads tag = some r) (hchip : refChip r.src = s.chipId)
  (htier : refTier r.src ≤ 1)
include hread hchip htier

theorem run_actFarReadDone_void (good : Bool) (hvoid : r.void = true) :
    run (actFarReadDone tag good n) s = run (acts [count Reg.RQT_BACKUP_DISCARD 1, dropRead tag]) s := by
  rw [actFarReadDone, run_look]
  simp only [hread, hchip, Nat.not_lt.2 htier, hvoid, ne_eq, not_true, or_self, reduceIte]

variable {fk : Nat} {d f : Frame} (hvoid : r.void = false) (hres : s.resolve r.src = some fk) (hfar : keyTier fk ≠ 0)
  (hdst : s.frame r.dst = some d) (hframe : s.frame fk = some f)
include hvoid hres hfar hdst hframe

theorem run_actFarReadDone_corrected (hcrc : f.hdr.payloadCrc = pageCrc s fk f.hdr.storedLen) :
    run (actFarReadDone tag true n) s = run (acts [wonRead tag r, promote fk r.dst d.kind, afterLand n]) s := by
  have hright : (f.hdr.payloadCrc != pageCrc s fk f.hdr.storedLen) = false := bne_eq_false_iff_eq.2 hcrc
  rw [actFarReadDone, run_look]
  simp only [hread, hchip, Nat.not_lt.2 htier, hvoid, hres, hfar, hdst, hframe, hright, Bool.and_false, Bool.not_true, Bool.false_eq_true,
    ne_eq, not_true, or_self, reduceIte]

theorem run_actFarReadDone_firstError (hretried : r.retried = false) :
    run (actFarReadDone tag false n) s = run (acts [stallSync n,
      onPages (fun p => { p with reads := tmod p.reads tag fun x => { x with retried := true } }), stallSync 0]) s := by
  rw [actFarReadDone, run_look]
  simp only [hread, hchip, Nat.not_lt.2 htier, hvoid, hres, hfar, hdst, hframe, hretried, Bool.not_false, Bool.false_eq_true, ne_eq, not_true,
    or_self, reduceIte]

theorem run_actFarReadDone_secondError (hretried : r.retried = true) :
    run (actFarReadDone tag false n) s = run (acts [stallSync n, farUe fk, readFailed tag, stallSync 0]) s := by
  rw [actFarReadDone, run_look]
  simp only [hread, hchip, Nat.not_lt.2 htier, hvoid, hres, hfar, hdst, hframe, hretried, Bool.not_false, Bool.not_true, Bool.false_eq_true,
    ne_eq, not_true, or_self, reduceIte]

end

/-! ### Backups, retries, holds and first passes (R39, R132, R198) -/

/-- A read whose frame no other read fills, and that is neither void nor a backup, is read from the mirror's copy as well. -/
theorem run_actBackupReadTimer {s : State} {tag ref : Nat} {r : PageRead} (hread : tget s.body.pages.reads tag = some r)
    (hcopy : mirrorCopyOf s r.handle r.layer r.index = some ref) (hbackup : r.backup = false) (hvoid : r.void = false)
    (halone : ∀ e ∈ s.body.pages.reads, e.1 ≠ tag → e.2.dst ≠ r.dst) :
    run (actBackupReadTimer tag) s = run (acts [
      newRead { r with src := ref, backup := true, tracked := false, retried := false, issued := s.body.tick },
      count Reg.RQT_BACKUP 1, sendFetch ref]) s := by
  have hother : (s.body.pages.reads.any fun e => e.1 != tag && e.2.dst == r.dst) = false := by
    simpa only [List.any_eq_false, Bool.and_eq_true, bne_iff_ne, beq_iff_eq, not_and] using halone
  rw [actBackupReadTimer, run_look]
  simp only [hread, hcopy, hbackup, hvoid, hother, Bool.or_self, Bool.false_eq_true, reduceIte]

/-- The oldest retry leaves the list and is tried again as a page of its request's list. -/
theorem run_actPrefetchRetry {s : State} {h l i r : Nat} {rest : List (Nat × Nat × Nat)} {c : Loc}
    (hretry : s.body.pages.retry = (h, l, i) :: rest) (hloc : s.loc h = some c) (hpage : (c.layer l).pages[i]? = some r) :
    run actPrefetchRetry s = run (if (c.fetch.map (·.running)).getD false && fetchWants s c r then fetchPage h l i
      else prefetchPage h l i c.tenant (pageKind c.phase) r) (run (onPages fun p => { p with retry := rest }) s) := by
  rw [actPrefetchRetry, run_look]
  simp only [hretry, hloc, hpage, run_acts_cons, run_acts_nil]

theorem tget_tmod_same {α : Type} {t : List (Nat × α)} {a : Nat} {v : α} (f : α → α) (h : tget t a = some v) :
    tget (tmod t a f) a = some (f v) := by
  rw [tmod, h, tget_tput_same]

/-- A change of a frame's entry touches neither memory nor registers. -/
theorem run_modFrame (k : Nat) (g : Frame → Frame) (s : State) :
    run (modFrame k g) s = { s with body := { s.body with pages := { s.body.pages with frames := tmod s.body.pages.frames k g } } } := by
  rw [modFrame, onPages, run_onBody]

theorem frame_modFrame_same {k : Nat} {f : Frame} (g : Frame → Frame) {s : State} (h : s.frame k = some f) :
    (run (modFrame k g) s).frame k = some (g f) := by
  rw [run_modFrame]
  exact tget_tmod_same g h

theorem run_actFirstPassComplete {s : State} {h l : Nat} {c : Loc} {m : Model} {a : Act} (hpass : (h, l) ∈ s.body.pages.passes)
    (hloc : s.loc h = some c) (hmodel : s.locModel c = some m) (hbasis : makeBasis s h l c m = some a) :
    run (actFirstPassComplete h l) s = run (acts [a, passOver h l, drawFree, count Reg.TRC_BASES_BUILT 1,
      modLayer h l (fun y => { y with lrRejects := 0 }), addBases h l, settleWaiting h l]) s := by
  rw [actFirstPassComplete, run_look]
  simp only [List.contains_iff_mem.2 hpass, hloc, hmodel, hbasis, Bool.not_true, Bool.false_eq_true, reduceIte]

/-- Settles O22: a far read by its result and its first error (`run_actFarReadDone_corrected` and the lemmas after it), the others by
what the read, the retry, the frame or the pass is of. -/
theorem pageReadsTakeEffect : Obligations.PageReadsTakeEffect := by
  refine ⟨?_, ?_, ?_, ?_, ?_, ?_, ?_, ?_⟩
  · intro s n tag r fk d f hT hread hchip htier hvoid hres hfar hdst hframe hcrc
    rw [exec_farReadDone hT, run_actFarReadDone_corrected hread hchip htier hvoid hres hfar hdst hframe hcrc]
  · intro s n tag r fk d f hT hread hchip htier hvoid hres hfar hdst hframe hretried
    rw [exec_farReadDone hT, run_actFarReadDone_firstError hread hchip htier hvoid hres hfar hdst hframe hretried]
  · intro s n tag r fk d f hT hread hchip htier hvoid hres hfar hdst hframe hretried
    rw [exec_farReadDone hT, run_actFarReadDone_secondError hread hchip htier hvoid hres hfar hdst hframe hretried]
  · intro s n tag r good hT hread hchip htier hvoid
    rw [exec_farReadDone hT, run_actFarReadDone_void hread hchip htier good hvoid]
  · intro s tag r ref hT hread hcopy hbackup hvoid halone
    rw [exec_backupReadTimer hT, run_actBackupReadTimer hread hcopy hbackup hvoid halone]
  · intro s h l i rest c r hT hretry hloc hpage
    rw [exec_prefetchRetry hT, run_actPrefetchRetry hretry hloc hpage]
  · intro s k f hT hframe
    refine ⟨_, exec_copydownHoldExpiry hT, frame_modFrame_same _ hframe, ?_, ?_⟩ <;> rw [actCopydownExpiry, run_modFrame]
  · intro s h l c m a hT hpass hloc hmodel hbasis
    rw [exec_firstPassComplete hT, run_actFirstPassComplete hpass hloc hmodel hbasis]

end Sys2Proof.Machine
end

section
/-! SUPPORT. The rows of a migration where they have their own effect (R35, R51 to R53, 02_state_memory.md). -/

namespace Sys2Proof.Machine

section
variable {s : State} {k dst : Nat}

theorem exec_migrationStart (hT : Takes s (.migrationStart k dst)) :
    exec (.migrationStart k dst) s = .next (run (actMigrationStart k dst) s) := done_works hT.works
theorem exec_migrationCopyComplete (hT : Takes s (.migrationCopyComplete k)) :
    exec (.migrationCopyComplete k) s = .next (run (actMigrationCopyComplete k) s) := done_works hT.works
theorem exec_migrationFlipDone (hT : Takes s (.migrationFlipDone k)) :
    exec (.migrationFlipDone k) s = .next (run (actMigrationFlipDone k) s) := done_works hT.works
theorem exec_migrationDestFail (hT : Takes s (.migrationDestFail k)) :
    exec (.migrationDestFail k) s = .next (run (actMigrationDestFail k) s) := done_works hT.works
theorem exec_trackerGenAdvance (hT : Takes s .trackerGenAdvance) :
    exec .trackerGenAdvance s = .next (run actTrackerAdvance s) := done_works hT.works

/-! ### The start of a migration (R35, R51 to R53) -/

/-- No running job or mover descriptor names the frame. -/
theorem any_busy_eq_false (h : ∀ b ∈ s.body.pages.busy, b.2 ≠ k) : (s.body.pages.busy.any fun b => b.2 == k) = false := by
  simpa only [List.any_eq_false, beq_iff_eq] using h

/-- A shared page migrates only while no step job reads it (R35). -/
theorem shared_and_any_busy_eq_false {shared : Bool} (h : shared = true → ∀ b ∈ s.body.pages.busy, b.2 ≠ k) :
    (shared && s.body.pages.busy.any fun b => b.2 == k) = false := by
  cases shared with
  | false => rfl
  | true => exact any_busy_eq_false (h rfl)

/-- Where nothing refuses it, a migration within the chip takes its destination and marks its frame. -/
theorem run_actMigrationStart_local {f : Frame} (hframe : s.frame k = some f) (hpinned : f.hdr.pinned = false) (hmig : f.mig = none)
    (hstaging : f.staging = false) (hread : f.hdr.shared = true → ∀ b ∈ s.body.pages.busy, b.2 ≠ k)
    (hactive : s.get Fld.STM_STATUS_MIG_ACTIVE < s.get Fld.STM_MIG_CTL_MAX_ACTIVE) (htombs : tombstones s < 4096)
    (hchip : refChip dst = s.chipId) (hdst : destOk s dst = true) :
    run (actMigrationStart k dst) s = run (acts [
      takeFrame (fkey (refTier dst) (refFrame dst))
        { hdr := stagingHdr s f.hdr.owner f.hdr.layer f.hdr.tenant, kind := f.kind, staging := true },
      modFrame k (fun x => { x with
        mig := some { st := .migrating,
                      dst := mkRef s.chipId (refTier dst) (refFrame dst) (s.gen (fkey (refTier dst) (refFrame dst))) },
        hdr := { x.hdr with migrating := true } }),
      bumpFld Fld.STM_STATUS_MIG_ACTIVE 1]) s := by
  have hquiet := shared_and_any_busy_eq_false hread
  rw [actMigrationStart, run_look]
  simp only [hframe, hpinned, hmig, hstaging, hquiet, Nat.not_le.2 hactive, Nat.not_le.2 htombs, hdst, hchip, Option.isSome_none,
    Bool.not_true, Bool.or_self, decide_false, decide_true, Bool.false_eq_true, reduceIte, run_acts_cons, run_acts_nil, run_when]

/-! ### The end of the copy, the flip, and a lost destination (R51) -/

section
variable {f : Frame} {m : Mig} {dk : Nat} (hframe : s.frame k = some f) (hmig : f.mig = some m) (hdst : s.exact m.dst = some dk)
include hframe hmig hdst

theorem run_actMigrationCopyComplete_local (hst : m.st = .migrating) (hfree : ∀ b ∈ s.body.pages.busy, b.2 ≠ k) :
    run (actMigrationCopyComplete k) s = run (acts [migContent k dk f, moveRefs (s.refOf k) m.dst k dk, freeBacking f (keyTier dk == 0),
      modFrame k (fun x => { x with mig := some { m with st := .blocked } }), dirEvent k false]) s := by
  have hquiet := any_busy_eq_false hfree
  rw [actMigrationCopyComplete, run_look]
  simp only [hframe, hmig, hst, hquiet, hdst, Bool.false_eq_true, ne_eq, not_true, or_self, reduceIte]

/-- No update was held: the flip has none to apply at the destination. -/
theorem run_actMigrationFlipDone_local (hst : m.st = .blocked) (hheld : m.heldUpds = []) :
    run (actMigrationFlipDone k) s = run (acts [
      modFrame k (fun x => { x with mig := some { m with st := .tombstone, flipGen := s.rd Reg.STM_TRACKER_GEN, log := [], heldUpds := [],
                                                         waits := [] } }),
      modFrame dk (fun x => { x with staging := false }), count Reg.STM_MIG_COMMIT 1, dropFld Fld.STM_STATUS_MIG_ACTIVE 1,
      bumpFld Fld.STM_STATUS_TOMBSTONES 1, each m.waits servePage, resumeAll f.hdr.owner, afterLand 0, refeed]) s := by
  rw [actMigrationFlipDone, run_look]
  simp only [hframe, hmig, hst, hdst, hheld, ne_eq, not_true, reduceIte, run_acts_cons, run_acts_nil, run_each_nil]

/-- No update was held: an abandoned migration has none to apply at the frame. -/
theorem run_actMigrationDestFail_local (hst : m.st = .migrating) (hheld : m.heldUpds = []) :
    run (actMigrationDestFail k) s = run (acts [freeEntry dk,
      modFrame k (fun x => { x with mig := none, hdr := { x.hdr with migrating := false } }), count Reg.STM_MIG_ABORT 1,
      dropFld Fld.STM_STATUS_MIG_ACTIVE 1, resumeAll f.hdr.owner]) s := by
  rw [actMigrationDestFail, run_look]
  simp only [hframe, hmig, hst, hdst, hheld, ne_eq, not_true, reduceIte, run_acts_cons, run_acts_nil, run_each_nil]

end

end

/-! ### The tracker generation (R51) -/

theorem run_each_of_idle {α : Type} {l : List α} {g : α → Act} {s : State} (h : ∀ x ∈ l, run (g x) s = s) : run (each l g) s = s := by
  induction l with
  | nil => exact run_each_nil g s
  | cons x l ih =>
    obtain ⟨hx, hl⟩ := List.forall_mem_cons.1 h
    rw [run_each_cons, hx, ih hl]

/-- Where no frame is a tombstone, the advance frees none. -/
theorem run_actTrackerAdvance_of_no_tombstone {s : State}
    (h : ∀ e ∈ s.body.pages.frames, ∀ m, e.2.mig = some m → m.st ≠ .tombstone) :
    run actTrackerAdvance s = run (setReg Reg.STM_TRACKER_GEN (wrapAdd 32 (s.rd Reg.STM_TRACKER_GEN) 1)) s := by
  rw [actTrackerAdvance, run_acts_cons, run_acts_cons, run_acts_nil, run_look, run_look]
  refine run_each_of_idle fun e he => ?_
  cases hm : e.2.mig with
  | none => rw [run_nop]
  | some m =>
    dsimp only
    rw [if_neg fun hgone => h e he m hm hgone.1, run_nop]

/-- Settles O23: each row by the state its frame's migration is in; an advance of the generation touches tombstones only. -/
theorem migrationTakesEffect : Obligations.MigrationTakesEffect := by
  refine ⟨?_, ?_, ?_, ?_, ?_⟩
  · intro s k dst f hT hframe hpinned hmig hstaging hread hactive htombs hchip hdst
    rw [exec_migrationStart hT, run_actMigrationStart_local hframe hpinned hmig hstaging hread hactive htombs hchip hdst]
  · intro s k f m dk hT hframe hmig hst hfree hdst
    rw [exec_migrationCopyComplete hT, run_actMigrationCopyComplete_local hframe hmig hdst hst hfree]
  · intro s k f m dk hT hframe hmig hst hdst hheld
    rw [exec_migrationFlipDone hT, run_actMigrationFlipDone_local hframe hmig hdst hst hheld]
  · intro s k f m dk hT hframe hmig hst hdst hheld
    rw [exec_migrationDestFail hT, run_actMigrationDestFail_local hframe hmig hdst hst hheld]
  · intro s hT h
    rw [exec_trackerGenAdvance hT, run_actTrackerAdvance_of_no_tombstone h]

end Sys2Proof.Machine
end

section
/-! SUPPORT. The rows of step jobs up to their acceptance: doorbells, the re-enable of a queue, and the descriptors that a queue accepts
(R69, R70, R73, R74, R86, 03_attention_engines.md; R279, R281, 10_sharing_and_scheduling.md). -/

namespace Sys2Proof.Machine

/-- A meaning with a form check is its action where the device takes the command. -/
theorem Takes.done {s : State} {c : Instr} (hT : Takes s c) (a : Act) : Machine.done (when c.wf a) s = .next (run a s) := by
  rw [done_works hT.works, run_when, if_pos hT.form]

section
variable {s : State} {q tail : Nat}

theorem exec_jobQueueDoorbell (hT : Takes s (.jobQueueDoorbell q tail)) :
    exec (.jobQueueDoorbell q tail) s = .next (run (actJobDoorbell q tail) s) := hT.done _
theorem exec_jobQueueReenable (hT : Takes s (.jobQueueReenable q)) :
    exec (.jobQueueReenable q) s = .next (run (actJobReenable q) s) := hT.done _
theorem exec_promptChunk (hT : Takes s (.promptChunk q)) :
    exec (.promptChunk q) s = .next (run (acceptJob q Op.promptChunk) s) := hT.done _
theorem exec_decode (hT : Takes s (.decode q)) : exec (.decode q) s = .next (run (acceptJob q Op.decode) s) := hT.done _
theorem exec_verifyChain (hT : Takes s (.verifyChain q)) :
    exec (.verifyChain q) s = .next (run (acceptJob q Op.verifyChain) s) := hT.done _
theorem exec_verifyTree (hT : Takes s (.verifyTree q)) :
    exec (.verifyTree q) s = .next (run (acceptJob q Op.verifyTree) s) := hT.done _
theorem exec_partial (hT : Takes s (.partial_ q)) : exec (.partial_ q) s = .next (run (acceptJob q Op.partial_) s) := hT.done _
theorem exec_prefixPartial (hT : Takes s (.prefixPartial q)) :
    exec (.prefixPartial q) s = .next (run (acceptJob q Op.prefixPartial) s) := hT.done _
theorem exec_merge (hT : Takes s (.merge q)) : exec (.merge q) s = .next (run (acceptJob q Op.merge) s) := hT.done _

/-! ### Doorbells and the re-enable (R69, R70, R86) -/

theorem run_actJobDoorbell_open (hq : q < 256) (hopen : jqOpen s q = true) (hreenable : s.body.jobs.reenable.contains q = false)
    (htail : tail < s.jqDepth q) : run (actJobDoorbell q tail) s = run (setFld (Fld.DAE_JQ_PTR_TAIL q) tail) s := by
  rw [actJobDoorbell, run_look]
  simp only [hq, hopen, hreenable, htail, decide_true, Bool.not_false, Bool.and_self, reduceIte]

theorem run_actJobDoorbell_closed (hopen : jqOpen s q = false) : run (actJobDoorbell q tail) s = run jobRange s := by
  rw [actJobDoorbell, run_look]
  simp only [hopen, Bool.and_false, Bool.false_and, Bool.false_eq_true, reduceIte]

theorem run_actJobReenable (hreenable : s.body.jobs.reenable.contains q = true) (hended : ∀ e ∈ s.body.jobs.jobs, e.2.q ≠ q) :
    run (actJobReenable q) s = run (startJobQueue q) s := by
  have hnone : (s.body.jobs.jobs.any fun e => e.2.q == q) = false := by
    simpa only [List.any_eq_false, beq_iff_eq] using hended
  rw [actJobReenable, run_look]
  simp only [hreenable, hnone, Bool.not_false, Bool.and_self, reduceIte]

end

/-! ### Acceptance (R74, R279, R281) -/

section
variable {s : State} {q i op : Nat} (hat : AtSlot s q i op)
include hat

/-- A descriptor that a check of 1 to 7 refuses ends at once with the check's status. -/
theorem run_acceptJob_refused {st : Nat} (hcheck : checkJob s (slotBytes s q i) (slotDesc s q i) = some st) :
    run (acceptJob q op) s = run (endPlain s.body.jobs.next st) (run (takeSlot q i) s) := by
  rw [acceptJob, run_look]
  simp only [hat.next, hat.opcode, hat.free, hcheck, ne_eq, not_true, false_and, Bool.false_eq_true, or_self, reduceIte,
    run_acts_cons, run_acts_nil]

section
variable (hcheck : checkJob s (slotBytes s q i) (slotDesc s q i) = none)
include hcheck

/-- A step that its tenant's Collar covers, and that waits behind no deferred one, is charged and begins. -/
theorem run_acceptJob_begins (hqueue : behindDeferred s ((jobTenant s (slotDesc s q i)).getD 0) (slotDesc s q i) = false)
    (hcovers : covers s ((jobTenant s (slotDesc s q i)).getD 0) (slotDesc s q i) = true) :
    run (acceptJob q op) s = run (acts [takeSlot q i, reserve ((jobTenant s (slotDesc s q i)).getD 0) (slotDesc s q i),
      beginJob s.body.jobs.next, endFailed s.body.jobs.next]) s := by
  rw [acceptJob, run_look]
  simp only [hat.next, hat.opcode, hat.free, hcheck, hqueue, hcovers, ne_eq, not_true, false_and, Bool.false_eq_true, Bool.not_true,
    Bool.or_self, or_self, reduceIte, run_acts_cons, run_acts_nil]

/-- A step that the Collar does not cover is deferred. -/
theorem run_acceptJob_defers (hcovers : covers s ((jobTenant s (slotDesc s q i)).getD 0) (slotDesc s q i) = false) :
    run (acceptJob q op) s =
      run (defer s.body.jobs.next ((jobTenant s (slotDesc s q i)).getD 0) (slotDesc s q i)) (run (takeSlot q i) s) := by
  rw [acceptJob, run_look]
  simp only [hat.next, hat.opcode, hat.free, hcheck, hcovers, ne_eq, not_true, false_and, Bool.false_eq_true, Bool.not_false,
    Bool.or_true, or_self, reduceIte, run_acts_cons, run_acts_nil]

end

end

/-! ### What taking a slot does -/

@[simp] theorem run_bumpFld_body (f : Fld) (n : Nat) (s : State) : (run (bumpFld f n) s).body = s.body := by simp [run, bumpFld, setFld]
@[simp] theorem run_bumpFld_mem (f : Fld) (n : Nat) (s : State) : (run (bumpFld f n) s).mem = s.mem := by simp [run, bumpFld, setFld]
@[simp] theorem run_bumpFld_led (f : Fld) (n : Nat) (s : State) : (run (bumpFld f n) s).led = s.led := by simp [run, bumpFld, setFld]
@[simp] theorem run_count_mem (a n : Nat) (s : State) : (run (count a n) s).mem = s.mem := by rw [run_count]
@[simp] theorem run_onJobs_jobs (f : Jobs → Jobs) (s : State) : (run (onJobs f) s).body.jobs = f s.body.jobs := by rw [onJobs, run_onBody]
@[simp] theorem run_onJobs_mem (f : Jobs → Jobs) (s : State) : (run (onJobs f) s).mem = s.mem := by rw [onJobs, run_onBody]
@[simp] theorem run_onJobs_led (f : Jobs → Jobs) (s : State) : (run (onJobs f) s).led = s.led := by rw [onJobs, run_onBody]

theorem run_takeSlot_mem (q i : Nat) (s : State) : (run (takeSlot q i) s).mem = s.mem := by
  simp only [takeSlot, run_look, run_acts_cons, run_acts_nil, run_bumpFld_mem, run_count_mem, run_onJobs_mem]

theorem run_takeSlot_led (q i : Nat) (s : State) : (run (takeSlot q i) s).led = s.led := by
  simp only [takeSlot, run_look, run_acts_cons, run_acts_nil, run_bumpFld_led, run_count_led, run_onJobs_led]

theorem run_takeSlot_jobs (q i : Nat) (s : State) :
    (run (takeSlot q i) s).body.jobs.jobs = tput s.body.jobs.jobs s.body.jobs.next (newJob s q i) := by
  simp only [takeSlot, run_look, run_acts_cons, run_acts_nil, run_bumpFld_body, run_count_body, run_onJobs_jobs]

theorem job_takeSlot_same (q i : Nat) (s : State) : (run (takeSlot q i) s).job s.body.jobs.next = some (newJob s q i) := by
  rw [State.job, run_takeSlot_jobs, tget_tput_same]

theorem job_takeSlot_other (q i : Nat) (s : State) {k : Nat} (h : k ≠ s.body.jobs.next) : (run (takeSlot q i) s).job k = s.job k := by
  rw [State.job, run_takeSlot_jobs, tget_tput_other _ _ h, State.job]

/-- Settles O36: a doorbell by the state of its queue, a descriptor of each opcode by the outcome of its checks
(`run_acceptJob_begins`, `run_acceptJob_refused`, `run_acceptJob_defers`). -/
theorem stepJobsAreAccepted : Obligations.StepJobsAreAccepted := by
  refine ⟨?_, ?_, ?_, ?_, ?_, ?_, ?_, ?_, ?_, ?_, ?_, ?_, ?_, ?_, ?_, ?_, ?_, ?_, ?_⟩
  · intro s q tail hT hopen hreenable htail
    have hform : (decide (q < 256) && decide (tail < 4096)) = true := hT.form
    have hq : q < 256 := of_decide_eq_true (Bool.and_eq_true_iff.1 hform).1
    rw [exec_jobQueueDoorbell hT, run_actJobDoorbell_open hq hopen hreenable htail]
  · intro s q tail hT hopen
    rw [exec_jobQueueDoorbell hT, run_actJobDoorbell_closed hopen]
  · intro s q hT hreenable hended
    rw [exec_jobQueueReenable hT, run_actJobReenable hreenable hended]
  · intro s q i hT hat hcheck hqueue hcovers
    rw [exec_promptChunk hT, run_acceptJob_begins hat hcheck hqueue hcovers]
  · intro s q i hT hat hcheck hqueue hcovers
    rw [exec_decode hT, run_acceptJob_begins hat hcheck hqueue hcovers]
  · intro s q i hT hat hcheck hqueue hcovers
    rw [exec_verifyChain hT, run_acceptJob_begins hat hcheck hqueue hcovers]
  · intro s q i hT hat hcheck hqueue hcovers
    rw [exec_verifyTree hT, run_acceptJob_begins hat hcheck hqueue hcovers]
  · intro s q i hT hat hcheck hqueue hcovers
    rw [exec_partial hT, run_acceptJob_begins hat hcheck hqueue hcovers]
  · intro s q i hT hat hcheck hqueue hcovers
    rw [exec_prefixPartial hT, run_acceptJob_begins hat hcheck hqueue hcovers]
  · intro s q i hT hat hcheck hqueue hcovers
    rw [exec_merge hT, run_acceptJob_begins hat hcheck hqueue hcovers]
  · intro s q i st hT hat hcheck
    rw [exec_promptChunk hT, run_acceptJob_refused hat hcheck]
  · intro s q i st hT hat hcheck
    rw [exec_decode hT, run_acceptJob_refused hat hcheck]
  · intro s q i st hT hat hcheck
    rw [exec_verifyChain hT, run_acceptJob_refused hat hcheck]
  · intro s q i st hT hat hcheck
    rw [exec_verifyTree hT, run_acceptJob_refused hat hcheck]
  · intro s q i st hT hat hcheck
    rw [exec_partial hT, run_acceptJob_refused hat hcheck]
  · intro s q i st hT hat hcheck
    rw [exec_prefixPartial hT, run_acceptJob_refused hat hcheck]
  · intro s q i st hT hat hcheck
    rw [exec_merge hT, run_acceptJob_refused hat hcheck]
  · intro s q i hT hat hcheck hcovers
    rw [exec_decode hT, run_acceptJob_defers hat hcheck hcovers]
  · intro s q i
    exact ⟨_, rfl, job_takeSlot_same q i s, fun _ h => job_takeSlot_other q i s h, run_takeSlot_mem q i s, run_takeSlot_led q i s⟩

end Sys2Proof.Machine
end

section
/-! SUPPORT. Unit faults and the patrol where they have their own effect (R40, 02_state_memory.md; R81 to R83, 03_attention_engines.md; R145,
05_transcoder.md; R163, 06_sampler.md; R386, 13_resilience.md). -/

namespace Sys2Proof.Machine

section
variable {s : State}

theorem exec_unitFault {u : FaultUnit} (hT : Takes s (.unitFault u)) : exec (.unitFault u) s = .next (run (actUnitFault u) s) := hT.done _
theorem exec_patrolTest {u : PatrolUnit} {fails : Bool} (hT : Takes s (.patrolTest u fails)) :
    exec (.patrolTest u fails) s = .next (run (actPatrolTest u fails) s) := hT.done _

/-! ### Engines and their runs (R81 to R83) -/

/-- A unit that stands for a place fails with the runs of the jobs on its group. -/
theorem run_unitFails_placed {e n p : Nat} (hplace : unitPlace s e n = some p) :
    run (unitFails e n) s = run (acts [raiseWith (if e = 0 then Blk.dae else Blk.pae) 0 { island := unitIsland e n, unit := n },
      each (jobsOnGroup s e (p / groupUnits e)) failRun, mapOut e n]) s := by
  rw [unitFails, run_look]
  simp only [hplace]

/-- A run that may be replayed is abandoned, and nothing ends. -/
theorem run_failRun_replayed {id : Nat} {j : Job} (hjob : s.job id = some j) (hst : j.st = .running) (hend : j.endWith = none)
    (hreplays : j.replays < s.get Fld.DAE_CTL_REPLAY_MAX) : run (failRun id) s = run (abandonRun id j) s := by
  rw [failRun, run_look]
  simp only [hjob, hst, hend, Nat.not_le.2 hreplays, bne_self_eq_false, decide_false, Bool.false_eq_true, reduceIte, run_acts_cons,
    run_acts_nil, run_when]

theorem run_jobBufferFails_running {id : Nat} {j : Job} (hjob : s.job id = some j) (hst : j.st = .running) :
    run (jobBufferFails false id) s = run (endRunWith id St.busyRetry)
      (run (raiseWith Blk.dae 4 { handle := j.d.handle, epoch := j.d.epoch, step := j.d.step }) s) := by
  rw [jobBufferFails, run_look]
  simp only [hjob, hst, beq_self_eq_true, Bool.false_eq_true, reduceIte, run_acts_cons, run_acts_nil]

/-! ### State memory (R40) -/

/-- A sealed page that has a far copy is dropped from near state. -/
theorem run_nearFails_copied {k : Nat} {f : Frame} (hframe : s.frame k = some f) (hkind : f.kind ≠ .remoteCache)
    (hsealed : f.hdr.isSealed = true) (hcopy : f.hdr.backingRef ≠ 0) :
    run (nearFails k) s = run (acts [raiseWith Blk.stm 1 { addr := s.refOf k, handle := f.hdr.owner },
      each (jobsOnFrame s (· == k)) failRun, renameRef (s.refOf k) f.hdr.backingRef, freeFrame k, useRow k]) s := by
  rw [nearFails, run_look]
  simp only [hframe, beq_eq_false_iff_ne.2 hkind, hsealed, bne_iff_ne.2 hcopy, Bool.and_self, Bool.false_eq_true, reduceIte]

/-! ### The sampler and the transcoder (R145, R163) -/

theorem run_samplerFails_replayed {id : Nat} {x : Smp} (hsmp : s.smp id = some x) (hst : x.st = .logging)
    (hreplays : x.replays < s.get Fld.DAE_CTL_REPLAY_MAX) :
    run (samplerFails id) s = run (modSmp id fun y => { y with st := .faulted })
      (run (raiseWith Blk.smp 0 { island := 47, handle := x.handle, step := x.step }) s) := by
  rw [samplerFails, run_look]
  simp only [hsmp, hst, Nat.not_le.2 hreplays, bne_self_eq_false, Bool.false_eq_true, reduceIte, run_acts_cons, run_acts_nil]

theorem run_countTableFails_resident {h k : Nat} (hframe : ((s.loc h).bind (·.sampler)).bind s.resolve = some k) :
    run (countTableFails h) s = run (raiseWith Blk.smp 2 { handle := h }) (run (clearMem (payloadAt k) 32768) s) := by
  rw [countTableFails, run_look]
  simp only [hframe, run_acts_cons, run_acts_nil]

/-- A pipe that serves no job is mapped out; with 12 pipes left nothing more is flagged. -/
theorem run_pipeFails_idle {i : Nat} (hi : i < 16) (hok : bitsOf (s.get Fld.TRC_STATUS_PIPES_OK) i 1 = 1)
    (hleft : 12 ≤ ((List.range 16).filter fun x => bitsOf (withBits (s.get Fld.TRC_STATUS_PIPES_OK) i 1 0) x 1 == 1).length) :
    run (pipeFails i none) s = run (setFld Fld.TRC_STATUS_PIPES_OK (withBits (s.get Fld.TRC_STATUS_PIPES_OK) i 1 0))
      (run (raiseWith Blk.trc 0 { island := 35 + i / 4, unit := i % 4 }) s) := by
  rw [pipeFails, run_look]
  simp only [Nat.not_lt.2 (Nat.le_of_lt_succ hi), hok, Nat.not_lt.2 hleft, decide_false, Bool.false_or, Nat.one_ne_zero,
    Bool.false_eq_true, reduceIte, run_acts_cons, run_acts_nil, run_when, run_nop]

/-! ### The patrol (R386) -/

/-- A test of an idle unit that keeps no corrected errors is counted, and a failure is treated by the rules of the unit. -/
theorem run_actPatrolTest_plain {u : PatrolUnit} (fails : Bool) (hon : s.is Fld.ISL_CTL_PATROL_EN = true) (hidle : patrolIdle s u = true)
    (hplain : ∀ k n, u ≠ .near k n) :
    run (actPatrolTest u fails) s = run (when fails (acts [count Reg.ISL_PATROL_FAILS 1, raise Blk.isl 9, patrolFails u]))
      (run (count Reg.ISL_PATROL_RUNS 1) s) := by
  rw [actPatrolTest, run_look]
  · simp only [hon, hidle, Bool.not_true, Bool.or_self, Bool.false_eq_true, reduceIte, run_acts_cons, run_acts_nil, run_nop]
  · exact hplain

/-- A test of a near frame that passes leaves its corrected errors to the rule of its bank. -/
theorem run_actPatrolTest_near {k n : Nat} (hon : s.is Fld.ISL_CTL_PATROL_EN = true) :
    run (actPatrolTest (.near k n) false) s = run (bankErrors k n) (run (count Reg.ISL_PATROL_RUNS 1) s) := by
  rw [actPatrolTest, run_look]
  simp only [hon, patrolIdle, Bool.not_true, Bool.or_self, Bool.false_eq_true, reduceIte, run_acts_cons, run_acts_nil, run_when]

end

/-- Settles O38: each unit by its own rule, a patrol test by its unit and its outcome. -/
theorem unitFaultsTakeEffect : Obligations.UnitFaultsTakeEffect := by
  refine ⟨?_, ?_, ?_, ?_, ?_, ?_, ?_, ?_, ?_, ?_, ?_, ?_⟩
  · intro s n p hT hplace
    rw [exec_unitFault hT, actUnitFault, run_unitFails_placed hplace]
    rfl
  · intro s n p hT hplace
    rw [exec_unitFault hT, actUnitFault, run_unitFails_placed hplace]
    rfl
  · intro s id j hjob hst hend hreplays
    exact run_failRun_replayed hjob hst hend hreplays
  · intro s hT
    rw [exec_unitFault hT, actUnitFault]
  · intro s k f hT hframe hkind hsealed hcopy
    rw [exec_unitFault hT, actUnitFault, run_nearFails_copied hframe hkind hsealed hcopy]
  · intro s id j hT hjob hst
    rw [exec_unitFault hT, actUnitFault, run_jobBufferFails_running hjob hst]
  · intro s id x hT hsmp hst hreplays
    rw [exec_unitFault hT, actUnitFault, run_samplerFails_replayed hsmp hst hreplays]
  · intro s h k hT hframe
    rw [exec_unitFault hT, actUnitFault, run_countTableFails_resident hframe]
  · intro s i hT hi hok hleft
    rw [exec_unitFault hT, actUnitFault, run_pipeFails_idle hi hok hleft]
  · intro s n hT hon hidle
    rw [exec_patrolTest hT, run_actPatrolTest_plain false hon hidle (fun _ _ => PatrolUnit.noConfusion), run_when, if_neg Bool.false_ne_true]
  · intro s n hT hon hidle
    rw [exec_patrolTest hT, run_actPatrolTest_plain true hon hidle (fun _ _ => PatrolUnit.noConfusion), run_when, if_pos rfl, patrolFails,
      ← run_acts_cons]
  · intro s k n hT hon
    rw [exec_patrolTest hT, run_actPatrolTest_near hon]

end Sys2Proof.Machine
end

section
/-! SUPPORT. The rows of Scent where they have their own effect: an evaluation and the selection from its codes (R95 to R99, R104), and the
calibration and retirement of macros (R107 to R113, 04_scent.md). -/

namespace Sys2Proof.Machine

/-! ### What register writes and changes of Scent's own state leave alone -/

theorem run_bumpFld (f : Fld) (n : Nat) (s : State) : run (bumpFld f n) s = run (setFld f (wrapAdd f.w (s.get f) n)) s := rfl
theorem run_dropFld (f : Fld) (n : Nat) (s : State) : run (dropFld f n) s = run (setFld f (s.get f - n)) s := rfl

@[simp] theorem run_setFld_body (f : Fld) (v : Nat) (s : State) : (run (setFld f v) s).body = s.body := by rw [run_setFld]
@[simp] theorem run_setFld_mem (f : Fld) (v : Nat) (s : State) : (run (setFld f v) s).mem = s.mem := by rw [run_setFld]
@[simp] theorem run_setFld_led (f : Fld) (v : Nat) (s : State) : (run (setFld f v) s).led = s.led := by rw [run_setFld]
@[simp] theorem run_setReg_body (a v : Nat) (s : State) : (run (setReg a v) s).body = s.body := by rw [run_setReg]
@[simp] theorem run_setReg_mem (a v : Nat) (s : State) : (run (setReg a v) s).mem = s.mem := by rw [run_setReg]
@[simp] theorem run_setReg_led (a v : Nat) (s : State) : (run (setReg a v) s).led = s.led := by rw [run_setReg]
@[simp] theorem run_tcount_mem (t off n : Nat) (s : State) : (run (tcount t off n) s).mem = s.mem := by simp [run, tcount]
@[simp] theorem run_onScent_jobs (f : Scent → Scent) (s : State) : (run (onScent f) s).body.jobs = s.body.jobs := by rw [onScent, run_onBody]
@[simp] theorem run_onScent_mem (f : Scent → Scent) (s : State) : (run (onScent f) s).mem = s.mem := by rw [onScent, run_onBody]
@[simp] theorem run_onScent_led (f : Scent → Scent) (s : State) : (run (onScent f) s).led = s.led := by rw [onScent, run_onBody]
@[simp] theorem run_modLayer_jobs (h l : Nat) (f : Layer → Layer) (s : State) : (run (modLayer h l f) s).body.jobs = s.body.jobs := by
  rw [modLayer, modLoc, run_onBody]
@[simp] theorem run_modLayer_mem (h l : Nat) (f : Layer → Layer) (s : State) : (run (modLayer h l f) s).mem = s.mem := by
  rw [modLayer, modLoc, run_onBody]
@[simp] theorem run_modLayer_led (h l : Nat) (f : Layer → Layer) (s : State) : (run (modLayer h l f) s).led = s.led := by
  rw [modLayer, modLoc, run_onBody]

section
variable {s : State}

theorem exec_scentEval {id wait : Nat} {noise : List (Nat × Int)} {outs : List EvalOut} (hT : Takes s (.scentEval id noise outs wait)) :
    exec (.scentEval id noise outs wait) s = .next (run (actScentEval id noise outs wait) s) := done_works hT.works
theorem exec_sctCalReqWrite {w v : Nat} (hT : Takes s (.sctCalReqWrite w v)) :
    exec (.sctCalReqWrite w v) s = .next (run (actCalReqWrite w v) s) := hT.done _
theorem exec_sctRecalTemperature {m temp : Nat} (hT : Takes s (.sctRecalTemperature m temp)) :
    exec (.sctRecalTemperature m temp) s = .next (run (actRecalTemp m temp) s) := hT.done _
theorem exec_sctCalibrationStart {m : Nat} (hT : Takes s (.sctCalibrationStart m)) :
    exec (.sctCalibrationStart m) s = .next (run (actCalStart m) s) := hT.done _
theorem exec_sctCalibrationEnd {m gain off temp : Nat} {ok : Bool} (hT : Takes s (.sctCalibrationEnd m gain off temp ok)) :
    exec (.sctCalibrationEnd m gain off temp ok) s = .next (run (actCalEnd m gain off temp ok) s) := hT.done _

/-! A row names one of the 68 macros. -/

theorem lt_of_takes_sctRecalTemperature {m temp : Nat} (hT : Takes s (.sctRecalTemperature m temp)) : m < 68 := by
  have hform : (decide (m < 68) && decide (temp < 4096)) = true := hT.form
  exact of_decide_eq_true (Bool.and_eq_true_iff.1 hform).1
theorem lt_of_takes_sctCalibrationStart {m : Nat} (hT : Takes s (.sctCalibrationStart m)) : m < 68 := of_decide_eq_true hT.form
theorem lt_of_takes_sctCalibrationEnd {m gain off temp : Nat} {ok : Bool} (hT : Takes s (.sctCalibrationEnd m gain off temp ok)) : m < 68 := by
  have hform : (decide (m < 68) && decide (gain < 256) && decide (off < 256) && decide (temp < 4096)) = true := hT.form
  simp only [Bool.and_eq_true, decide_eq_true_eq, and_assoc] at hform
  exact hform.1

/-! ### An evaluation (R95) -/

/-- An evaluation in its turn, with finite inputs, loaded rows, and valid macros none of which calibrates, makes the selection. -/
theorem run_actScentEval_selects {u : State} {id wait : Nat} {noise : List (Nat × Int)} {outs : List EvalOut} {j0 j : Job} {c : Loc}
    {m : Model} {inp : JobIn} (hjob0 : s.job id = some j0) (hst : j0.st = .evaluating) (hturn : evalAhead s id j0 = false)
    (hread : u = run (readInputs id) s) (hjob : u.job id = some j) (hloc : u.loc j.d.handle = some c) (hmodel : jobModel u j.d = some m)
    (hinp : j.inp = some inp) (hfinite : badInputs u j = false) (hloaded : u.body.scent.loaded.contains j.d.handle = true)
    (hcal : ((macrosOf u j.d.handle j.d.layer).any fun n => u.mac (u.lmap n) == MacSt.calibrating) = false)
    (hvalid : ((macrosOf u j.d.handle j.d.layer).any fun n => outs.any fun o => o.macroNo == n && 2 ≤ o.bad) = false) :
    run (actScentEval id noise outs wait) s =
      run (pickPages id m j c (scentCodes u m j inp noise)) (run (macroNotes (macrosOf u j.d.handle j.d.layer) outs wait) u) := by
  rw [actScentEval, run_look]
  simp only [hjob0, hst, hturn, bne_self_eq_false, Bool.or_self, Bool.false_eq_true, reduceIte, run_acts_cons, run_acts_nil, run_look,
    ← hread, hjob, hloc, hmodel, hinp, hfinite, hloaded, Bool.not_true, hcal, hvalid]

/-! ### The selection (R97 to R99, R104) -/

theorem selectGroups_of_length_le {k margin : Nat} {cand : List (Nat × Nat)} (h : cand.length ≤ k) :
    selectGroups k margin cand = cand.map (·.1) := if_pos h

/-- Beyond TOPK candidates, the selected ones are those whose code comes within the margin of the k-th largest. -/
theorem mem_selectGroups_iff {k margin : Nat} {cand : List (Nat × Nat)} {g : Nat} (h : k < cand.length) :
    g ∈ selectGroups k margin cand ↔ ∃ e ∈ cand, e.1 = g ∧ kthLargest k (cand.map (·.2)) ≤ e.2 + margin := by
  rw [selectGroups, if_neg (Nat.not_le.2 h)]
  simp only [List.mem_map, List.mem_filter, decide_eq_true_eq, and_assoc, and_comm (a := _ ≤ _)]

/-- What a selection that is no audit leaves outside the job: the counts, the tenant's place in its audits, and the layer's selection. -/
def noteSelection (s : State) (m : Model) (j : Job) (codes : List (Nat × Nat)) (groups : List Nat) : Act :=
  acts [count Reg.SCT_CODE_SAT (codes.filter fun e => e.2 == 0 || e.2 == 255).length,
    onScent (fun x => { x with audits := tput x.audits (s.scentProf j.tenant) ((tget s.body.scent.audits (s.scentProf j.tenant)).getD 0 + 1) }),
    modLayer j.d.handle j.d.layer (fun y => { y with sel := groups }),
    count Reg.SCT_SEL_PAGES (pagesIn m j.range groups).length, count Reg.SCT_RANGE_PAGES j.range.length,
    tcount j.tenant TReg.SCT_TSEL_PAGES (pagesIn m j.range groups).length, tcount j.tenant TReg.SCT_TRANGE_PAGES j.range.length]

theorem run_noteSelection_frame (m : Model) (j : Job) (codes : List (Nat × Nat)) (groups : List Nat) (s u : State) :
    (run (noteSelection s m j codes groups) u).mem = u.mem ∧ (run (noteSelection s m j codes groups) u).led = u.led ∧
      (run (noteSelection s m j codes groups) u).body.jobs = u.body.jobs := by
  simp [noteSelection]

/-- Up to TOPK candidates, with no audits, the job reads the pages of the guaranteed groups and of every candidate. -/
theorem run_pickPages_few {id : Nat} {m : Model} {j : Job} {c : Loc} {codes : List (Nat × Nat)} {g : List Nat} (hg : g = jobGuaranteed s m j c)
    (hfew : (candidates codes g).length ≤ s.get (Fld.SCT_PROF_TOPK (s.scentProf j.tenant)))
    (haudit : s.get (Fld.SCT_PROF_AUDIT_LOG2 (s.scentProf j.tenant)) = 0) :
    run (pickPages id m j c codes) s =
      run (startReading id) (run (modJob id fun x => { x with st := .waiting, emit := pagesIn m j.range (g ++ (candidates codes g).map (·.1)) })
        (run (noteSelection s m j codes (g ++ (candidates codes g).map (·.1))) s)) := by
  subst hg
  rw [pickPages, run_look]
  simp only [selectGroups_of_length_le hfew, Nat.not_lt.2 hfew, haudit, ne_eq, not_true, false_and, reduceIte, noteSelection, run_acts_cons,
    run_acts_nil]

/-! ### What marks macros DUE (R107) -/

theorem run_actCalReqWrite_first {v : Nat} (hfw : s.is Fld.GLB_STATUS_FW_READY = true) :
    run (actCalReqWrite 0 v) s = run (each ((List.range 64).filter fun i => bitsOf v i 1 == 1 && s.mac i != MacSt.retired) fun i =>
      acts [look fun s => setReg (Reg.SCT_CAL_REQ 0) (withBits (s.rd (Reg.SCT_CAL_REQ 0)) i 1 1), markDue i]) s := by
  have hbits : ((List.range 64).filter fun i => bitsOf v i 1 == 1 && decide (i < 68) && s.mac i != MacSt.retired) =
      (List.range 64).filter fun i => bitsOf v i 1 == 1 && s.mac i != MacSt.retired :=
    List.filter_congr fun i hi => by
      rw [decide_eq_true (Nat.lt_trans (List.mem_range.1 hi) (by decide)), Bool.and_true]
  have hword : (decide (1 < 0) || !s.is Fld.GLB_STATUS_FW_READY) = false := by rw [hfw]; rfl
  rw [actCalReqWrite, run_look]
  simp only [Nat.mul_zero, Nat.zero_add, hbits, hword, Bool.false_eq_true, reduceIte]

/-- How far a temperature is from CAL_TEMP, the one of the last calibration. -/
abbrev calTempDiff (s : State) (m temp : Nat) : Nat := (signedOf 12 temp - signedOf 12 (s.get (Fld.SCT_MACRO_CAL_TEMP m))).natAbs

section
variable {m temp : Nat} (hm : m < 68)
include hm

theorem run_actRecalTemp_far (hfar : 8 * s.get Fld.SCT_CTL_RECAL_DEG ≤ calTempDiff s m temp) :
    run (actRecalTemp m temp) s = run (acts [setFld (Fld.ISL_STATE_TEMP (m / 17)) temp, markDue m,
      onScent fun x => { x with dueDiff := tput x.dueDiff m (calTempDiff s m temp) }]) s := by
  rw [actRecalTemp, run_look]
  simp only [hm, hfar, decide_true, run_when, reduceIte, run_acts_cons, run_acts_nil]

theorem run_actRecalTemp_near (hnear : calTempDiff s m temp < 8 * s.get Fld.SCT_CTL_RECAL_DEG) :
    run (actRecalTemp m temp) s = run (setFld (Fld.ISL_STATE_TEMP (m / 17)) temp) s := by
  rw [actRecalTemp, run_look]
  simp only [hm, Nat.not_le.2 hnear, decide_true, decide_false, run_when, Bool.false_eq_true, reduceIte, run_acts_cons, run_acts_nil]

end

/-! ### The start of a calibration (R107, R108) -/

/-- What the start of a calibration does. -/
def beginCalibration (m : Nat) : Act :=
  acts [setFld (Fld.SCT_MACRO_STATE m) MacSt.calibrating, bumpFld Fld.SCT_STATUS_CALIBRATING 1, count Reg.SCT_CAL_RUNS 1]

theorem run_actCalStart_begins {m : Nat} (hm : m < 68) (hdue : s.calDue m = true)
    (hroom : s.get Fld.SCT_STATUS_CALIBRATING < s.get Fld.SCT_CTL_MAX_CAL)
    (hfirst : ∀ k, k < 68 → s.calDue k = true → s.dueDiff k ≤ s.dueDiff m) :
    run (actCalStart m) s = run (beginCalibration m) s := by
  have hall : ((List.range 68).all fun k => !s.calDue k || decide (s.dueDiff k ≤ s.dueDiff m)) = true := by
    simpa only [List.all_eq_true, List.mem_range, Bool.or_eq_true, Bool.not_eq_true', decide_eq_true_eq, ← Bool.not_eq_true,
      ← imp_iff_not_or] using hfirst
  rw [actCalStart, run_look]
  simp only [hm, hdue, hroom, hall, decide_true, Bool.and_self, run_when, reduceIte, beginCalibration]

theorem run_beginCalibration_frame (m : Nat) (s : State) :
    (run (beginCalibration m) s).body = s.body ∧ (run (beginCalibration m) s).mem = s.mem ∧ (run (beginCalibration m) s).led = s.led := by
  simp [beginCalibration]

theorem get_setFld_otherReg {f g : Fld} {v : Nat} (h : g.addr ≠ f.addr) : (run (setFld f v) s).get g = s.get g := by
  rw [State.get, rd_setFld_other h, State.get]

theorem get_count_other {a n : Nat} {g : Fld} (h : g.addr ≠ a) : (run (count a n) s).get g = s.get g := by
  rw [State.get, State.rd, run_count, regRead_regPut_other _ _ h, State.get, State.rd]

/-- The registers of the macros lie beyond SCT_STATUS and the count of calibrations. -/
theorem reg_SCT_MACRO_apart (k : Nat) : Reg.SCT_MACRO k ≠ Reg.SCT_STATUS ∧ Reg.SCT_MACRO k ≠ Reg.SCT_CAL_RUNS := by
  simp only [Reg.SCT_MACRO, Reg.SCT_STATUS, Reg.SCT_CAL_RUNS]
  omega

theorem reg_SCT_MACRO_ne {k m : Nat} (h : k ≠ m) : Reg.SCT_MACRO k ≠ Reg.SCT_MACRO m := by
  simp only [Reg.SCT_MACRO]
  omega

/-- Of the states of the macros, the start of a calibration writes that of the one it is for. -/
theorem mac_beginCalibration (m k : Nat) : (run (beginCalibration m) s).mac k = (run (setFld (Fld.SCT_MACRO_STATE m) MacSt.calibrating) s).mac k := by
  have hstatus : (Fld.SCT_MACRO_STATE k).addr ≠ Fld.SCT_STATUS_CALIBRATING.addr := (reg_SCT_MACRO_apart k).1
  have hruns : (Fld.SCT_MACRO_STATE k).addr ≠ Reg.SCT_CAL_RUNS := (reg_SCT_MACRO_apart k).2
  simp only [beginCalibration, run_acts_cons, run_acts_nil, run_bumpFld, State.mac]
  rw [get_count_other hruns, get_setFld_otherReg hstatus]

theorem mac_beginCalibration_same (m : Nat) (hs : risingKeys s.regs = true) : (run (beginCalibration m) s).mac m = MacSt.calibrating := by
  rw [mac_beginCalibration, State.mac, get_setFld_same hs (by decide : 0 + 2 ≤ 64)]
  rfl

theorem mac_beginCalibration_other {m k : Nat} (h : k ≠ m) : (run (beginCalibration m) s).mac k = s.mac k := by
  have hreg : (Fld.SCT_MACRO_STATE k).addr ≠ (Fld.SCT_MACRO_STATE m).addr := reg_SCT_MACRO_ne h
  rw [mac_beginCalibration, State.mac, get_setFld_otherReg hreg, State.mac]

/-- MAX_CAL has 3 bits: below it, the count of calibrating macros does not wrap. -/
theorem calibrating_beginCalibration (m : Nat) (hs : risingKeys s.regs = true)
    (hroom : s.get Fld.SCT_STATUS_CALIBRATING < s.get Fld.SCT_CTL_MAX_CAL) :
    (run (beginCalibration m) s).get Fld.SCT_STATUS_CALIBRATING = s.get Fld.SCT_STATUS_CALIBRATING + 1 := by
  obtain ⟨hstatus, -⟩ := reg_SCT_MACRO_apart m
  have hmacro : (run (setFld (Fld.SCT_MACRO_STATE m) MacSt.calibrating) s).get Fld.SCT_STATUS_CALIBRATING = s.get Fld.SCT_STATUS_CALIBRATING :=
    get_setFld_otherReg hstatus.symm
  have hmax : s.get Fld.SCT_CTL_MAX_CAL < 2 ^ 3 := bitsOf_lt _ _ _
  have hw : Fld.SCT_STATUS_CALIBRATING.w = 7 := rfl
  simp only [beginCalibration, run_acts_cons, run_acts_nil, run_bumpFld]
  rw [get_count_other (by decide), get_setFld_same (risingKeys_regPut _ _ hs) (by decide), hmacro, hw, wrapAdd]
  omega

/-! ### The end of a calibration (R109, R112) -/

/-- What the end of a calibration does whether or not its check is met. -/
def endCalibration (s : State) (m gain off : Nat) : Act :=
  acts [setFld (Fld.SCT_MACRO_STATE m) MacSt.service, dropFld Fld.SCT_STATUS_CALIBRATING 1, setFld (Fld.SCT_MACRO_GAIN_TRIM m) gain,
    setFld (Fld.SCT_MACRO_OFFSET_TRIM m) off, setReg (Reg.SCT_CAL_REQ (m / 64)) (withBits (s.rd (Reg.SCT_CAL_REQ (m / 64))) (m % 64) 1 0)]

theorem run_endCalibration_frame (m gain off : Nat) (s u : State) :
    (run (endCalibration s m gain off) u).body = u.body ∧ (run (endCalibration s m gain off) u).mem = u.mem ∧
      (run (endCalibration s m gain off) u).led = u.led := by
  simp [endCalibration, run_dropFld]

section
variable {m gain off temp : Nat} (hm : m < 68) (hcal : s.mac m = MacSt.calibrating)
include hm hcal

theorem run_actCalEnd_met :
    run (actCalEnd m gain off temp true) s = run (acts [setFld (Fld.SCT_MACRO_CAL_TEMP m) temp, setFld (Fld.SCT_MACRO_DUE m) 0,
      setFld (Fld.SCT_MACRO_CAL_FAILS m) 0, onScent (fun x => { x with dueDiff := tdel x.dueDiff m }),
      reloadRows (s.get (Fld.SCT_MACRO_LOGICAL m))]) (run (endCalibration s m gain off) s) := by
  rw [actCalEnd, run_look]
  simp only [hm, hcal, decide_true, Bool.not_true, bne_self_eq_false, Bool.or_self, Bool.false_eq_true, reduceIte, run_acts_cons, run_acts_nil,
    endCalibration]

/-- A calibration that fails its check for the last time allowed is flagged, and retires what it was to calibrate. -/
theorem run_actCalEnd_failed (hlimit : s.get Fld.SCT_CTL_CAL_FAIL_LIMIT ≤ s.get (Fld.SCT_MACRO_CAL_FAILS m) + 1) :
    run (actCalEnd m gain off temp false) s = run (retireMacro m) (run (raiseWith Blk.sct 1 { unit := m })
      (run (setFld (Fld.SCT_MACRO_CAL_FAILS m) (s.get (Fld.SCT_MACRO_CAL_FAILS m) + 1)) (run (endCalibration s m gain off) s))) := by
  rw [actCalEnd, run_look]
  simp only [hm, hcal, hlimit, decide_true, Bool.not_true, bne_self_eq_false, Bool.or_self, Bool.false_eq_true, reduceIte, run_when,
    run_acts_cons, run_acts_nil, endCalibration]

end

end

/-- Settles O39: an evaluation and its selection (`run_actScentEval_selects`, `run_pickPages_few`, `mem_selectGroups_iff`), then each row of
the calibration of the macros by what it finds of the one it names. -/
theorem scentTakesEffect : Obligations.ScentTakesEffect := by
  refine ⟨?_, ?_, ?_, ?_, ?_, ?_, ?_, ?_, ?_⟩
  · intro s id noise outs wait j0 j c m inp u hT hjob0 hst hturn hread hjob hloc hmodel hinp hfinite hloaded hcal hvalid
    rw [exec_scentEval hT, run_actScentEval_selects hjob0 hst hturn hread hjob hloc hmodel hinp hfinite hloaded hcal hvalid]
  · intro s id m j c codes g hg hfew haudit
    exact ⟨_, run_pickPages_few hg hfew haudit, run_noteSelection_frame m j codes _ s s⟩
  · intro k margin cand g hmany
    exact mem_selectGroups_iff hmany
  · intro s v hT hfw
    rw [exec_sctCalReqWrite hT, run_actCalReqWrite_first hfw]
  · intro s m temp hT hfar
    rw [exec_sctRecalTemperature hT, run_actRecalTemp_far (lt_of_takes_sctRecalTemperature hT) hfar]
  · intro s m temp hT hnear
    rw [exec_sctRecalTemperature hT, run_actRecalTemp_near (lt_of_takes_sctRecalTemperature hT) hnear]
  · intro s m hcanon hT hdue hroom hfirst
    obtain ⟨-, hregs, -⟩ := hcanon
    have hrising : risingKeys s.regs = true := (Bool.and_eq_true_iff.1 hregs).1
    have hbegins := run_actCalStart_begins (lt_of_takes_sctCalibrationStart hT) hdue hroom hfirst
    exact ⟨_, by rw [exec_sctCalibrationStart hT, hbegins], mac_beginCalibration_same m hrising,
      fun k _ hk => mac_beginCalibration_other hk, calibrating_beginCalibration m hrising hroom, run_beginCalibration_frame m s⟩
  · intro s m gain off temp hT hcal
    rw [exec_sctCalibrationEnd hT, run_actCalEnd_met (lt_of_takes_sctCalibrationEnd hT) hcal, endCalibration]
    simp only [run_acts_cons, run_acts_nil]
  · intro s m gain off temp hT hcal hlimit
    have hfailed := run_actCalEnd_failed (gain := gain) (off := off) (temp := temp) (lt_of_takes_sctCalibrationEnd hT) hcal hlimit
    obtain ⟨hbody, hmem, hled⟩ := run_endCalibration_frame m gain off s s
    refine ⟨_, by rw [exec_sctCalibrationEnd hT, hfailed], ?_, ?_, ?_⟩
    · rw [run_setFld_body, hbody]
    · rw [run_setFld_mem, hmem]
    · rw [run_setFld_led, hled]

end Sys2Proof.Machine
end

section
/-! SUPPORT. The sampler where its rows have their own effect: the doorbell and the descriptors that a sample queue accepts (R148, R161,
R165, R167), the answers REPLAYED and BUSY_RETRY (R160, R162), and the rules of selection and acceptance (R152, R157, 06_sampler.md). -/

namespace Sys2Proof.Machine

section
variable {s : State} {q : Nat}

theorem exec_sampleQueueDoorbell {tail : Nat} (hT : Takes s (.sampleQueueDoorbell q tail)) :
    exec (.sampleQueueDoorbell q tail) s = .next (run (actSmpDoorbell q tail) s) := hT.done _
theorem exec_sample {ns : Nat} (hT : Takes s (.sample q ns)) : exec (.sample q ns) s = .next (run (acceptSmp q Op.sample ns) s) := hT.done _
theorem exec_acceptChain {ns : Nat} (hT : Takes s (.acceptChain q ns)) :
    exec (.acceptChain q ns) s = .next (run (acceptSmp q Op.acceptChain ns) s) := hT.done _
theorem exec_acceptTree {ns : Nat} (hT : Takes s (.acceptTree q ns)) :
    exec (.acceptTree q ns) s = .next (run (acceptSmp q Op.acceptTree ns) s) := hT.done _
theorem exec_gather {ns : Nat} (hT : Takes s (.gather q ns)) : exec (.gather q ns) s = .next (run (acceptSmp q Op.gather ns) s) := hT.done _
theorem exec_logTimeout {id : Nat} (hT : Takes s (.logTimeout id)) : exec (.logTimeout id) s = .next (run (actLogTimeout id) s) :=
  done_works hT.works

/-! ### The doorbell (R148) -/

theorem run_actSmpDoorbell_open {tail : Nat} (hq : q < 16) (hopen : sqOpen s q = true)
    (hreenable : s.body.sampling.reenable.contains q = false) (htail : tail < s.sqDepth q) :
    run (actSmpDoorbell q tail) s = run (setFld (Fld.SMP_SQ_PTR_TAIL q) tail) s := by
  rw [actSmpDoorbell, run_look]
  simp only [hq, hopen, hreenable, htail, decide_true, Bool.not_false, Bool.and_self, reduceIte]

/-! ### Acceptance of a descriptor (R148, R161, R165, R167) -/

section
variable {op i ns : Nat} {bs : List Byte} (hnext : nextSmp s q = some (i, bs)) (hturn : smpTurn s q = true)
include hnext hturn

/-- A SAMPLE or ACCEPT in its queue's turn that passes checks 1 to 3 runs, then the next batch is loaded ahead. -/
theorem run_acceptSmp_sample (hop : (smpDescOf bs).op = op) (hknown : knownSmp op = true) (hsample : op ≠ Op.gather)
    (hform : sampleForm s bs = true) (hlive : smpLive s (smpDescOf bs).handle (smpDescOf bs).epoch = none) :
    run (acceptSmp q op ns) s =
      run (prefetchNext q (smpDescOf bs)) (run (runSample s.body.sampling.next (smpDescOf bs)) (run (takeSmp q i ns bs) s)) := by
  rw [acceptSmp, run_look]
  simp only [hnext, hop, hturn, hknown, hsample, hform, hlive, ne_eq, not_true, false_and, Bool.true_eq_false, or_self, Bool.not_true,
    Bool.false_eq_true, reduceIte, run_acts_cons, run_acts_nil, run_when]

/-- A GATHER in its queue's turn that passes check 1 runs on its segments, then the next batch is loaded ahead. -/
theorem run_acceptSmp_gather {g : List (Nat × Nat × Bool × List Nat)} (hop : (smpDescOf bs).op = Op.gather)
    (hform : gatherForm s bs = true) (hsegs : segsOf s (smpDescOf bs) = some g) :
    run (acceptSmp q Op.gather ns) s =
      run (prefetchNext q (smpDescOf bs)) (run (runGather s.body.sampling.next (smpDescOf bs) g) (run (takeSmp q i ns bs) s)) := by
  have hknown : knownSmp Op.gather = true := rfl
  rw [acceptSmp, run_look]
  simp only [hnext, hop, hturn, hknown, hform, hsegs, Option.getD_some, ne_eq, not_true, false_and, Bool.true_eq_false, or_self,
    Bool.not_true, Bool.false_eq_true, reduceIte, run_acts_cons, run_acts_nil, run_when]

end

end

/-! ### What taking a slot does (R70, R148) -/

@[simp] theorem run_onSmp_sampling (f : Sampling → Sampling) (s : State) : (run (onSmp f) s).body.sampling = f s.body.sampling := by
  rw [onSmp, run_onBody]
@[simp] theorem run_onSmp_mem (f : Sampling → Sampling) (s : State) : (run (onSmp f) s).mem = s.mem := by rw [onSmp, run_onBody]
@[simp] theorem run_onSmp_led (f : Sampling → Sampling) (s : State) : (run (onSmp f) s).led = s.led := by rw [onSmp, run_onBody]

theorem run_takeSmp_mem (q i ns : Nat) (bs : List Byte) (s : State) : (run (takeSmp q i ns bs) s).mem = s.mem := by
  simp only [takeSmp, run_look, run_acts_cons, run_acts_nil, run_bumpFld_mem, run_onSmp_mem]

theorem run_takeSmp_led (q i ns : Nat) (bs : List Byte) (s : State) : (run (takeSmp q i ns bs) s).led = s.led := by
  simp only [takeSmp, run_look, run_acts_cons, run_acts_nil, run_bumpFld_led, run_onSmp_led]

theorem smp_takeSmp_same (q i ns : Nat) (bs : List Byte) (s : State) :
    (run (takeSmp q i ns bs) s).smp s.body.sampling.next = some (newSmp s q i ns bs) := by
  simp only [takeSmp, run_look, run_acts_cons, run_acts_nil, State.smp, run_bumpFld_body, run_onSmp_sampling, tget_tput_same]

/-! ### Steps that are done, and a home that does not answer (R160, R162) -/

theorem lastStepOf_resident {s : State} {h k : Nat} (hkey : samplerKey s h = some k) : lastStepOf s h = recLastStep s k := by
  simp only [lastStepOf, hkey]

/-- A STEP before the last one is answered with REPLAYED and nothing else: only the last one's tokens are kept. -/
theorem run_runSample_replayed {s : State} {d : SmpDesc} {c : Loc} {m : Model} {k : Nat} (id : Nat) (hloc : s.loc d.handle = some c)
    (hmodel : smpModel s d.handle = some m) (hkey : samplerKey s d.handle = some k) (hdone : d.step < recLastStep s k) :
    run (runSample id d) s = run (endSmp id St.replayed) s := by
  rw [runSample, run_look]
  simp only [hloc, hmodel, hkey, lastStepOf_resident hkey, hdone.le, hdone.ne, false_and, reduceIte]

theorem run_actLogTimeout_logging {s : State} {id : Nat} {x : Smp} (hsmp : s.smp id = some x) (hst : x.st = .logging) :
    run (actLogTimeout id) s = run (endSmp id St.busyRetry) (run (raise Blk.smp 3)
      (run (modSmp id fun y => { y with stalled := y.stalled + (s.body.tick - y.sent) }) s)) := by
  rw [actLogTimeout, run_look]
  simp only [hsmp, hst, bne_self_eq_false, Bool.false_eq_true, reduceIte, run_acts_cons, run_acts_nil]

/-! ### Selection and acceptance (R152, R157) -/

theorem select_temp_zero {p : Params} (htemp : f32IsZero p.temp = true) (c : List (Nat × Nat)) (z : List Nat) (u : Nat) :
    select p c z u = argmax (penalised p c z) := by
  rw [select, if_pos htemp]

section
variable {pick : Nat → List (Nat × Nat) → Nat} {drafts : List (Nat × Nat)} {x : Nat} {c : List (Nat × Nat)}

/-- A row whose token no draft below it carries ends the path; the token is the bonus token. -/
theorem acceptFrom_no_draft (n : Nat) (hnone : ∀ i, i < drafts.length → drafts.getD i (0, 0) ≠ (pick x c, x)) :
    acceptFrom pick drafts n x c = ([], pick x c) := by
  cases n with
  | zero => rw [acceptFrom]
  | succ n =>
    have hfind : ((List.range drafts.length).find? fun i => drafts.getD i (0, 0) == (pick x c, x)) = none := by
      simpa only [List.find?_range_eq_none, Bool.not_eq_true', beq_eq_false_iff_ne] using hnone
    simp only [acceptFrom, hfind]

/-- The first draft that carries the row's token is accepted, and acceptance goes on from its row with the token counted. -/
theorem acceptFrom_first_draft (n : Nat) {i : Nat} (hi : i < drafts.length) (hdraft : drafts.getD i (0, 0) = (pick x c, x))
    (hfirst : ∀ k, k < i → drafts.getD k (0, 0) ≠ (pick x c, x)) :
    acceptFrom pick drafts (n + 1) x c = ((i + 1) :: (acceptFrom pick drafts n (i + 1) (countPlus c (pick x c))).1,
      (acceptFrom pick drafts n (i + 1) (countPlus c (pick x c))).2) := by
  have hfind : ((List.range drafts.length).find? fun i => drafts.getD i (0, 0) == (pick x c, x)) = some i := by
    simpa only [List.find?_range_eq_some, List.mem_range, Bool.not_eq_true', beq_eq_false_iff_ne, beq_iff_eq] using ⟨hdraft, hi, hfirst⟩
  simp only [acceptFrom, hfind]

end

/-- Settles O40: a descriptor of each opcode by its checks (`run_acceptSmp_sample`, `run_acceptSmp_gather`), the acceptance of a row by the
first draft that carries its token (`acceptFrom_no_draft`, `acceptFrom_first_draft`). -/
theorem samplesTakeEffect : Obligations.SamplesTakeEffect := by
  refine ⟨?_, ?_, ?_, ?_, ?_, ?_, ?_, ?_, ?_, ?_, ?_⟩
  · intro s q tail hT hopen hreenable htail
    have hform : (decide (q < 16) && decide (tail < 256)) = true := hT.form
    have hq : q < 16 := of_decide_eq_true (Bool.and_eq_true_iff.1 hform).1
    rw [exec_sampleQueueDoorbell hT, run_actSmpDoorbell_open hq hopen hreenable htail]
  · intro s q ns i bs hT hnext hop hturn hform hlive
    rw [exec_sample hT, run_acceptSmp_sample hnext hturn hop (by decide) (by decide) hform hlive]
  · intro s q ns i bs hT hnext hop hturn hform hlive
    rw [exec_acceptChain hT, run_acceptSmp_sample hnext hturn hop (by decide) (by decide) hform hlive]
  · intro s q ns i bs hT hnext hop hturn hform hlive
    rw [exec_acceptTree hT, run_acceptSmp_sample hnext hturn hop (by decide) (by decide) hform hlive]
  · intro s q ns i bs g hT hnext hop hturn hform hsegs
    rw [exec_gather hT, run_acceptSmp_gather hnext hturn hop hform hsegs]
  · intro s q i ns bs
    exact ⟨_, rfl, smp_takeSmp_same q i ns bs s, run_takeSmp_mem q i ns bs s, run_takeSmp_led q i ns bs s⟩
  · intro s id d c m k hloc hmodel hkey hdone hlast
    exact run_runSample_replayed id hloc hmodel hkey (Nat.lt_of_le_of_ne hdone hlast)
  · intro s id x hT hsmp hst
    rw [exec_logTimeout hT, run_actLogTimeout_logging hsmp hst]
  · intro p c z u htemp
    exact select_temp_zero htemp c z u
  · intro pick drafts n x c hnone
    exact acceptFrom_no_draft n hnone
  · intro pick drafts n x c i hi hdraft hfirst
    exact acceptFrom_first_draft n hi hdraft hfirst

end Sys2Proof.Machine
end

section
/-! SUPPORT. REQ_ADMIT where it has its own effect, and what a change of the remaining state leaves alone. -/

namespace Sys2Proof.Machine

/-! ### Changes of the remaining state -/

section
variable (f : Body → Body) (s : State)

@[simp] theorem get_onBody (x : Fld) : (run (onBody f) s).get x = s.get x := by rw [run_onBody]; rfl
@[simp] theorem chipId_onBody : (run (onBody f) s).chipId = s.chipId := get_onBody f s _
@[simp] theorem homeMode_onBody : (run (onBody f) s).homeMode = s.homeMode := get_onBody f s _

end

@[simp] theorem run_onHome_home (f : Home → Home) (s : State) : (run (onHome f) s).body.home = f s.body.home := by rw [onHome, run_onBody]
@[simp] theorem homeMode_onHome (f : Home → Home) (s : State) : (run (onHome f) s).homeMode = s.homeMode := homeMode_onBody _ s

/-! ### REQ_ADMIT (R11, R171) -/

/-- A solo home shows a change of a record at once. -/
theorem run_putReq_solo (h : Nat) (q : HomeReq) {s : State} (hmode : s.homeMode = 0) :
    run (putReq h q) s = run (showRec q.record) (run (setReq h q) s) := by
  have hafter : (run (setReq h q) s).homeMode = 0 := (homeMode_onHome _ s).trans hmode
  have hnow : ¬ (0 = 2 ∨ 0 = 1 ∧ (run (setReq h q) s).body.home.mirrorAcked < (run (setReq h q) s).body.home.mirrorSent) := by simp
  rw [putReq, run_look, hmode, run_acts_cons, run_acts_cons, run_acts_cons, run_acts_nil, run_when, if_neg (by decide), observe, run_look,
    hafter, if_neg hnow, takeWithheld]

section
variable {s u : State} {src : Src} {c : Cmd}

theorem exec_reqAdmit (h : Runs s src 0x0301 c u) : exec (.reqAdmit src) s = .next (run (opReqAdmit ⟨src, c.seq⟩ c) u) := runs_done h _

/-- A state mirror that is one of the pod, and not the home itself, is no reason to refuse. -/
theorem any_badMirror_eq_false (h : ∀ x, admitMirror c = some x → u.inPod x = true ∧ x ≠ u.chipId) :
    ((admitMirror c).any fun x => !u.inPod x || x == u.chipId) = false := by
  cases hx : admitMirror c with
  | none => rfl
  | some x =>
    obtain ⟨hpod, hne⟩ := h x hx
    rw [Option.any_some, hpod, beq_false_of_ne hne]
    rfl

theorem run_opReqAdmit_admits {r slot log : Nat} {m : Model} {ps : List Prefix} (ref : CmdRef) (htenant : u.tenantRec (c.arg 0 16) = some r)
    (hmodel : u.modelOfTenant (c.arg 0 16) = some m)
    (hps : admitPrefixes u (c.arg 0 16) m ([c.arg 16 64, c.arg 24 64].filter (· != 0)) = some ps) (hmode : u.homeMode ≠ 2)
    (henabled : tenantEnabled r = true) (hlimit : ((longest ps).map (·.positions)).getD 0 ≤ admitMax c)
    (hmirror : ∀ x, admitMirror c = some x → u.inPod x = true ∧ x ≠ u.chipId) (hslot : admitSlot u = some slot)
    (hlog : placeLog u (4096 * logUnits (admitMax c)) = some log) :
    run (opReqAdmit ref c) u = run (homeFin ref St.ok (leBytes 8 (admitHandle u slot) ++ leBytes 8 log))
      (run (admitReq u c m ps slot log (((longest ps).map (·.positions)).getD 0)) u) := by
  rw [opReqAdmit, run_look]
  simp only [htenant, hmodel, hps, hmode, henabled, Nat.not_lt.2 hlimit, any_badMirror_eq_false hmirror, hslot, hlog, Bool.not_true,
    Bool.false_eq_true, reduceIte, run_acts_cons, run_acts_nil]

/-- An incarnation of zero is never issued (R171). -/
theorem nextInc_bounds {n : Nat} (h : n < 2 ^ 32) : 0 < nextInc n ∧ nextInc n < 2 ^ 32 := by
  unfold nextInc
  split <;> omega

/-- An admission without shared prefixes, at a solo home: entry, Leash state and ledger. -/
theorem run_admitReq_solo {m : Model} {slot log pos : Nat} (hmode : s.homeMode = 0) :
    (run (admitReq s c m [] slot log pos) s).req (admitHandle s slot)
        = some { record := admitRecord s c slot log pos, replayChip := 0 } ∧
      (run (admitReq s c m [] slot log pos) s).loc (admitHandle s slot) = some (admitLoc s c m [] pos) ∧
      (run (admitReq s c m [] slot log pos) s).led
        = { s.led with admitted := s.led.admitted + 1, live := s.led.live + 1 } := by
  rw [admitReq]
  simp only [run_acts_cons, run_acts_nil, run_each_nil, run_eff]
  rw [run_putReq_solo _ _ (by rw [homeMode_onHome, drawFree, homeMode_onBody, hmode])]
  exact ⟨tget_tput_same _ _ _, tget_tput_same _ _ _, rfl⟩

end

/-- Settles O7: a command that passes its checks is its admission and its completion (`run_opReqAdmit_admits`), and an admission at a solo home
puts in its entry, its Leash state and its count (`run_admitReq_solo`). -/
theorem admissionCompletes : Obligations.AdmissionCompletes := by
  refine ⟨?_, ?_, ?_, fun _ => nextInc_bounds, ?_⟩
  · intro s src c u r m ps slot log h htenant hmodel hps hmode henabled hlimit hmirror hslot hlog
    rw [exec_reqAdmit h, run_opReqAdmit_admits _ htenant hmodel hps hmode henabled hlimit hmirror hslot hlog]
  · intro s c slot log pos
    exact ⟨rfl, rfl, rfl, rfl, rfl, rfl, rfl, rfl⟩
  · intro s c m ps pos
    rfl
  · intro s c m slot log pos hmode _ _
    obtain ⟨hreq, hloc, hled⟩ := run_admitReq_solo (c := c) (m := m) (slot := slot) (log := log) (pos := pos) hmode
    exact ⟨⟨_, hreq, rfl⟩, hloc, congrArg Ledger.admitted hled, congrArg Ledger.live hled⟩

end Sys2Proof.Machine
end

section
/-! SUPPORT. LEASH_CAS, the compare-and-swap at a request's home (R182, 07_ownership_and_recovery.md). -/

namespace Sys2Proof.Machine

section
variable {s u : State} {m : Msg} {q : HomeReq}

theorem exec_leashCas (a : AtHome s m u q) : exec (.leashCas m) s = .next (run (actLeashCas m) s) := a.done _

/-- A change of phase leaves the Leash's own fields of the record. -/
theorem enterPhase_leash (tick : Nat) (p : Phase) (r : Rec) :
    (enterPhase tick p r).owner = r.owner ∧ (enterPhase tick p r).holders = r.holders ∧
      (enterPhase tick p r).pageListRef = r.pageListRef ∧ (enterPhase tick p r).positions = r.positions := by
  unfold enterPhase openTurn
  dsimp only
  split <;> exact ⟨rfl, rfl, rfl, rfl⟩

/-- The record after a LEASH_CAS that succeeds, before its phase changes: the sender owns the request at the next epoch, and the giver is a
holder (R182). -/
def casRec (m : Msg) (giver : Nat) (r : Rec) : Rec :=
  let others := r.holders.filter (· != m.sender)
  let toMirror := r.mirrored && r.stateMirror == m.sender
  { r with epoch := wrapAdd 32 r.epoch 1, owner := some m.sender, receiver := 0,
           holders := if others.contains giver then others else others ++ [giver],
           pageListRef := m.pageList, positions := m.positions,
           mirrored := r.mirrored && !toMirror, stateMirror := if toMirror then 0 else r.stateMirror }

theorem giver_mem_casRec (m : Msg) (g : Nat) (r : Rec) : g ∈ (casRec m g r).holders := by
  dsimp only [casRec]
  split
  · next h => exact List.contains_iff_mem.1 h
  · exact List.mem_append_right _ (List.mem_singleton_self g)

/-- The entry after a LEASH_CAS that succeeds. -/
def casEntry (tick : Nat) (m : Msg) (giver : Nat) (q : HomeReq) : HomeReq :=
  { q with record := enterPhase tick q.record.targetPhase (casRec m giver q.record), handoffCmd := none }

section
variable (a : AtHome s m u q) (hmode : u.homeMode ≠ 2)
include a hmode

theorem run_actLeashCas_moves {g : Nat} (hphase : q.record.phase = .handoff) (hsender : m.sender = q.record.receiver)
    (hepoch : m.epoch = q.record.epoch) (howner : q.record.owner = some g)
    (hroom : g ∈ q.record.holders.filter (· != m.sender) ∨ (q.record.holders.filter (· != m.sender)).length < 4) :
    run (actLeashCas m) s = run (acts [putReq m.handle (casEntry u.body.tick m g q), count Reg.RQT_HANDOFFS 1,
      result (casEntry u.body.tick m g q) m.sender .casResult St.ok 0,
      homeSend g .leashRelease { handle := m.handle, epoch := (casEntry u.body.tick m g q).record.epoch, flags := 1 },
      each q.handoffCmd.toList (fun c => homeFin c St.ok (leBytes 4 (casEntry u.body.tick m g q).record.epoch)), sendClose m.handle]) u := by
  rw [← List.contains_iff_mem] at hroom
  rw [actLeashCas, run_atHome a, run_look]
  dsimp only
  rw [if_neg hmode, if_pos ⟨hphase, hsender, hepoch⟩, howner, Option.getD_some, if_pos hroom]
  rfl

/-- A repeated LEASH_CAS is answered as the first was. -/
theorem run_actLeashCas_repeated (hphase : q.record.phase ≠ .handoff) (howner : q.record.owner = some m.sender)
    (hepoch : wrapAdd 32 m.epoch 1 = q.record.epoch) :
    run (actLeashCas m) s = run (acts [count Reg.RQT_CAS_REPEAT 1, result q m.sender .casResult St.ok 0]) u := by
  rw [actLeashCas, run_atHome a, run_look]
  dsimp only
  rw [if_neg hmode, if_neg fun h => hphase h.1, if_neg fun h => hphase h.1, if_pos ⟨howner, hepoch⟩]

theorem run_actLeashCas_notReceiver (hphase : q.record.phase = .handoff) (hsender : m.sender ≠ q.record.receiver)
    (hepoch : m.epoch = q.record.epoch) :
    run (actLeashCas m) s = run (result q m.sender .casResult St.notOwner 0) u := by
  rw [actLeashCas, run_atHome a, run_look]
  dsimp only
  rw [if_neg hmode, if_neg fun h => hsender h.2.1, if_pos ⟨hphase, hepoch⟩]

theorem run_actLeashCas_stale (hepoch : m.epoch < q.record.epoch)
    (hrepeat : ¬ (q.record.owner = some m.sender ∧ wrapAdd 32 m.epoch 1 = q.record.epoch)) :
    run (actLeashCas m) s = run (result q m.sender .casResult St.staleEpoch 0) u := by
  have hne := Nat.ne_of_lt hepoch
  rw [actLeashCas, run_atHome a, run_look]
  dsimp only
  rw [if_neg hmode, if_neg fun h => hne h.2.2, if_neg fun h => hne h.2, if_neg hrepeat, if_neg (Nat.lt_asymm hepoch), if_pos hepoch]

end
end

/-- Settles O16: the compare-and-swap by the phase, the sender and the epoch it names (`run_actLeashCas_moves` and the lemmas after it). -/
theorem leashCasGivesTheLeash : Obligations.LeashCasGivesTheLeash := by
  refine ⟨?_, ?_, ?_, ?_⟩
  · intro s m u q g a hmode hphase hsender hepoch howner hroom
    obtain ⟨hp, he, hl⟩ := enterPhase_frame u.body.tick q.record.targetPhase (casRec m g q.record)
    obtain ⟨ho, hh, hr, hn⟩ := enterPhase_leash u.body.tick q.record.targetPhase (casRec m g q.record)
    refine ⟨casEntry u.body.tick m g q, he, ho, hp, ?_, hl, rfl, hr, hn, ?_⟩
    · exact hh.symm ▸ giver_mem_casRec m g q.record
    · rw [exec_leashCas a, run_actLeashCas_moves a hmode hphase hsender hepoch howner hroom]
  · intro s m u q a hmode hphase howner hepoch
    rw [exec_leashCas a, run_actLeashCas_repeated a hmode hphase howner hepoch]
  · intro s m u q a hmode hphase hsender hepoch
    rw [exec_leashCas a, run_actLeashCas_notReceiver a hmode hphase hsender hepoch]
  · intro s m u q a hmode hepoch hrepeat
    rw [exec_leashCas a, run_actLeashCas_stale a hmode hepoch hrepeat]

end Sys2Proof.Machine
end

section
/-! SUPPORT. The other messages at a request's home: LEASH_QUERY, HOLD_DROP, HOLD_EMPTY, TOKEN_APPEND, REPLAY_REPORT. -/

namespace Sys2Proof.Machine

section
variable {s u : State} {m : Msg} {q : HomeReq}

theorem exec_leashQuery (a : AtHome s m u q) : exec (.leashQuery m) s = .next (run (actLeashQuery m) s) := a.done _
theorem exec_holdDrop (a : AtHome s m u q) : exec (.holdDrop m) s = .next (run (actHoldDrop m) s) := a.done _
theorem exec_holdEmpty (a : AtHome s m u q) : exec (.holdEmpty m) s = .next (run (actHoldEmpty m) s) := a.done _
theorem exec_tokenAppend (a : AtHome s m u q) : exec (.tokenAppend m) s = .next (run (actTokenAppend m) s) := a.done _
theorem exec_replayReport {h chip e n : Nat} (hT : Takes s (.replayReport h chip e n)) :
    exec (.replayReport h chip e n) s = .next (run (actReplayReport h chip e n) s) := hT.done _

/-- A LEASH_QUERY is answered by who the owner is, and by whether a hand-off is under way. -/
theorem run_actLeashQuery (a : AtHome s m u q) (hmode : u.homeMode ≠ 2) :
    run (actLeashQuery m) s = run (
      if q.record.owner = some m.sender ∧ m.epoch = q.record.epoch then
        if q.record.phase = .handoff then
          acts [cancelHandoff m.handle q, result q m.sender .queryResult St.ok 1, sendClose m.handle]
        else result q m.sender .queryResult St.ok 1
      else result q m.sender .queryResult St.ok (if q.record.holders.contains m.sender then 2 else 4)) u := by
  rw [actLeashQuery, run_atHome a, run_look, if_neg hmode]

theorem run_actHoldDrop_owner (a : AtHome s m u q) (howner : q.record.owner = some m.sender) (hepoch : m.epoch = q.record.epoch)
    (hphase : q.record.phase ≠ .handoff) :
    run (actHoldDrop m) s = run (homeSend m.chip .holdFree
      { handle := m.handle, epoch := q.record.epoch, chip := m.chip, flags := m.flags, refs := m.refs }) u := by
  rw [actHoldDrop, run_atHome a]
  dsimp only
  rw [if_pos ⟨howner, hepoch, hphase⟩]

/-- A HOLD_EMPTY takes the sender off HOLDER; the owner's answer to CLOSE ends the request. -/
theorem run_actHoldEmpty (a : AtHome s m u q) :
    run (actHoldEmpty m) s = run (when (q.closing && q.closeSent && q.record.owner == some m.sender) (closeDone m.handle))
      (run (putReq m.handle { q with record := { q.record with holders := q.record.holders.filter (· != m.sender) } }) u) := by
  rw [actHoldEmpty, run_atHome a, run_acts_cons, run_acts_cons, run_acts_nil]

/-! ### TOKEN_APPEND (R160, R162, R174) -/

/-- The record after the tokens of a STEP are appended. -/
def loggedRec (m : Msg) (r : Rec) : Rec :=
  { r with log := r.log ++ m.tokens, logStep := m.step, logCount := m.tokens.length, lastTokens := m.tokens,
           turnRecs := growTurn m.tokens.length r.turnRecs, mirrorPos := max r.mirrorPos m.mirrorPos,
           positions := max r.positions m.positions }

/-- Where the owner appends at the home epoch and no replay holds the request, the STEP decides. -/
theorem run_actTokenAppend_owner (a : AtHome s m u q) (hmode : u.homeMode ≠ 2) (howner : q.record.owner = some m.sender)
    (hepoch : m.epoch = q.record.epoch) (hpending : q.record.replayPending = false) (hreplaying : q.record.replaying = false) :
    run (actTokenAppend m) s = run (
      let answer (st : Nat) (toks : List Nat) : Act :=
        homeSend m.sender .tokenResult { handle := m.handle, epoch := q.record.epoch, status := st, step := m.step, tokens := toks }
      if m.step = q.record.logStep ∧ q.record.logCount ≠ 0 then answer St.ok q.record.lastTokens
      else if m.step ≤ q.record.logStep then answer St.replayed []
      else if q.record.maxPositions + 16 < q.record.log.length + m.tokens.length then answer St.invalid []
      else acts [putReq m.handle { q with record := loggedRec m q.record }, answer St.ok []]) u := by
  have hheld : (q.record.replayPending || q.record.replaying) = false := by rw [hpending, hreplaying, Bool.or_self]
  rw [actTokenAppend, run_atHome a, run_look]
  dsimp only
  rw [if_neg hmode, if_neg (Nat.not_lt.2 (Nat.le_of_eq hepoch.symm)), if_neg (not_not_intro (.inl ⟨howner, hepoch⟩)), hheld,
    if_neg Bool.false_ne_true]
  rfl

end

/-- A report of the owner at REPLAY_TO ends the replay; only a request whose image was lost becomes LISTENING by it. -/
theorem run_actReplayReport_owner {s : State} {h chip e n : Nat} {q : HomeReq} (hreq : s.req h = some q) (howner : q.record.owner = some chip)
    (hepoch : q.record.epoch = e) (hreplaying : q.record.replaying = true) (hto : q.record.replayTo ≤ n) (hparked : q.record.phase ≠ .parked)
    (hresuming : q.record.phase ≠ .resuming) :
    run (actReplayReport h chip e n) s = run (putReq h { q with record := { q.record with replaying := false, positions := n } }) s := by
  rw [actReplayReport, run_look, hreq]
  dsimp only
  rw [if_pos ⟨howner, hepoch, hreplaying, hto⟩, if_neg (not_or.2 ⟨hparked, hresuming⟩)]

/-- Settles O17: a query by its sender's standing (`run_actLeashQuery`), an append by its STEP (`run_actTokenAppend_owner`), the others by
their sender. -/
theorem homeMessagesTakeEffect : Obligations.HomeMessagesTakeEffect := by
  refine ⟨?_, ?_, ?_, ?_, ?_, ?_, ?_, ?_, ?_⟩
  · intro s m u q a hmode howner hepoch hphase
    rw [exec_leashQuery a, run_actLeashQuery a hmode, if_pos ⟨howner, hepoch⟩, if_neg hphase]
  · intro s m u q a hmode howner hepoch hphase
    rw [exec_leashQuery a, run_actLeashQuery a hmode, if_pos ⟨howner, hepoch⟩, if_pos hphase]
  · intro s m u q a hmode howner
    rw [exec_leashQuery a, run_actLeashQuery a hmode, if_neg fun h => howner h.1]
    simp only [List.contains_iff_mem]
  · intro s m u q a howner hepoch hphase
    rw [exec_holdDrop a, run_actHoldDrop_owner a howner hepoch hphase]
  · intro s m u q a hclosing
    rw [exec_holdEmpty a, run_actHoldEmpty a, hclosing, Bool.false_and, Bool.false_and, run_when, if_neg Bool.false_ne_true]
  · intro s m u q a hclosing hsent howner
    rw [exec_holdEmpty a, run_actHoldEmpty a, hclosing, hsent, howner, beq_self_eq_true, Bool.and_self, Bool.and_self, run_when, if_pos rfl]
  · intro s m u q a hmode howner hepoch hpending hreplaying hstep hroom
    refine ⟨loggedRec m q.record, rfl, rfl, rfl, rfl, rfl, ?_⟩
    rw [exec_tokenAppend a, run_actTokenAppend_owner a hmode howner hepoch hpending hreplaying]
    dsimp only
    rw [if_neg fun h => Nat.ne_of_gt hstep h.1, if_neg (Nat.not_le.2 hstep), if_neg (Nat.not_lt.2 hroom), run_acts_cons, run_acts_cons,
      run_acts_nil]
  · intro s m u q a hmode howner hepoch hpending hreplaying hstep hcount
    rw [exec_tokenAppend a, run_actTokenAppend_owner a hmode howner hepoch hpending hreplaying]
    dsimp only
    rw [if_pos ⟨hstep, hcount⟩]
  · intro s h chip e n q hT hreq howner hepoch hreplaying hto hparked hresuming
    rw [exec_replayReport hT, run_actReplayReport_owner hreq howner hepoch hreplaying hto hparked hresuming]

end Sys2Proof.Machine
end

section
/-! SUPPORT. The commands of recovery where they have their own effect: REQ_REPLAY, REQ_CHIP_DOWN, REQ_SET_PARTNER, REQ_SET_MIRROR. -/

namespace Sys2Proof.Machine

section
variable {s v u : State} {src : Src} {c : Cmd} {q : HomeReq}

theorem exec_reqReplay (h : Runs s src 0x0305 c v) : exec (.reqReplay src) s = .next (run (opReqReplay ⟨src, c.seq⟩ c) v) := runs_done h _
theorem exec_reqChipDown (h : Runs s src 0x0307 c v) : exec (.reqChipDown src) s = .next (run (opReqChipDown ⟨src, c.seq⟩ c) v) := runs_done h _
theorem exec_reqSetPartner (h : Runs s src 0x0308 c v) :
    exec (.reqSetPartner src) s = .next (run (opReqSetPartner ⟨src, c.seq⟩ c) v) := runs_done h _
theorem exec_reqSetMirror (h : Runs s src 0x0309 c v) :
    exec (.reqSetMirror src) s = .next (run (opReqSetMirror setMirror ⟨src, c.seq⟩ c) v) := runs_done h _

/-! ### REQ_REPLAY (R190) -/

/-- The record of a request without an owner once the replay chip has the Leash. -/
def replayRec (chip : Nat) (r : Rec) : Rec :=
  let need := r.replayFrom != r.replayTo
  { r with epoch := wrapAdd 32 r.epoch 1, owner := some chip, replayPending := false, replaying := need,
           holders := r.holders.filter (· != chip),
           phase := if !need && (r.phase == .parked || r.phase == .resuming) then .listening else r.phase }

theorem run_opReqReplay_grants (ref : CmdRef) (a : AtRequest v (c.arg 0 64) u q) (hlive : phaseLive q.record.phase = true)
    (hclosing : q.closing = false) (hpending : q.record.replayPending = true) (hreplaying : q.record.replaying = false)
    (howner : q.record.owner = none) (hfailed : c.arg 8 16 ∉ u.body.home.failedChips)
    (hshares : c.arg 8 16 = u.chipId → u.hasPrompt = true ∧ u.hasShare q.record.phase = true) :
    run (opReqReplay ref c) v = run (homeFin ref St.ok [])
      (run (homeSend (c.arg 8 16) .leashGrant
          { handle := c.arg 0 64, epoch := (replayRec (c.arg 8 16) q.record).epoch,
            flags := if q.record.replayFrom != q.record.replayTo then 1 else 0, source := 0, replayFrom := q.record.replayFrom,
            replayTo := q.record.replayTo, stepFloor := q.record.logStep, phase := phaseCode (replayRec (c.arg 8 16) q.record).phase })
        (run (putReq (c.arg 0 64) { q with record := replayRec (c.arg 8 16) q.record, replayChip := c.arg 8 16 }) u)) := by
  have hself : ¬ (c.arg 8 16 = u.chipId ∧ ¬ (u.hasPrompt = true ∧ u.hasShare q.record.phase = true)) := fun ⟨h, hn⟩ => hn (hshares h)
  rw [opReqReplay, run_withReq a, run_look]
  simp only [hlive, hclosing, hpending, hreplaying, howner, List.contains_eq_mem, hfailed, decide_false, hself, Bool.not_true, Bool.not_false,
    Bool.or_self, Bool.false_and, Bool.false_eq_true, reduceIte, Option.getD_none, Option.toList_none, run_acts_cons, run_acts_nil,
    run_each_nil]
  rfl

/-- A REQ_REPLAY repeated for the chip in force. -/
theorem run_opReqReplay_repeated (ref : CmdRef) (a : AtRequest v (c.arg 0 64) u q) (hlive : phaseLive q.record.phase = true)
    (hclosing : q.closing = false) (hreplaying : q.record.replaying = true) (hfailed : c.arg 8 16 ∉ u.body.home.failedChips)
    (hchip : q.replayChip = c.arg 8 16) : run (opReqReplay ref c) v = run (homeFin ref St.ok []) u := by
  rw [opReqReplay, run_withReq a, run_look]
  simp only [hlive, hclosing, hreplaying, hchip, List.contains_eq_mem, hfailed, decide_false, Bool.not_true, Bool.and_false, Bool.or_self,
    Bool.false_eq_true, reduceIte]

/-! ### REQ_CHIP_DOWN (R187, R197) -/

theorem run_opReqChipDown_other (ref : CmdRef) (hself : c.arg 0 16 ≠ u.chipId)
    (hpartner : u.is Fld.RQT_PARTNER_VALID = true → u.get Fld.RQT_PARTNER_PARTNER ≠ c.arg 0 16)
    (hmirror : u.body.home.mirrorOf ≠ some (c.arg 0 16)) :
    run (opReqChipDown ref c) u = run (homeFin ref St.ok []) (run (declareFailed (c.arg 0 16)) u) := by
  have hnotPartner : (u.is Fld.RQT_PARTNER_VALID && u.get Fld.RQT_PARTNER_PARTNER == c.arg 0 16) = false := by
    cases hv : u.is Fld.RQT_PARTNER_VALID with
    | false => rfl
    | true => exact beq_false_of_ne (hpartner hv)
  rw [opReqChipDown, run_look]
  simp only [hself, hnotPartner, beq_false_of_ne hmirror, Bool.false_eq_true, reduceIte, run_acts_cons, run_acts_nil, run_when]

/-! ### REQ_SET_PARTNER (R197) -/

/-- The copies of all records that a solo home sends its new partner. -/
def partnerCopies (x : Home) (p : Nat) : List Output :=
  x.reqs.zipIdx.map fun e => Output.mirror p (x.mirrorSent + e.2 + 1) (.record e.1.2.record)

theorem run_each_emit (l : List Output) (s : State) :
    run (each l emit) s = { s with body := { s.body with out := s.body.out ++ l } } := by
  induction l generalizing s with
  | nil => rw [run_each_nil, List.append_nil]
  | cons o l ih => rw [run_each_cons, ih, run_emit]; simp only [List.append_assoc, List.singleton_append]

section
variable (ref : CmdRef) (hnone : u.body.home.setPartner = none)
include hnone

theorem run_opReqSetPartner_solo (hmode : u.homeMode = 0) (hp : c.arg 0 16 ≠ 0) (hself : c.arg 0 16 ≠ u.chipId) :
    run (opReqSetPartner ref c) u = run (
      if (partnerCopies u.body.home (c.arg 0 16)).isEmpty then
        acts [setFld Fld.RQT_PARTNER_PARTNER (c.arg 0 16), setFld Fld.RQT_PARTNER_VALID 1, setFld Fld.RQT_STATUS_HOME_MODE 1, fin ref St.ok]
      else acts [each (partnerCopies u.body.home (c.arg 0 16)) emit, onHome fun x => { x with
        mirrorSent := u.body.home.mirrorSent + (partnerCopies u.body.home (c.arg 0 16)).length,
        setPartner := some (ref, c.arg 0 16, u.body.home.mirrorSent + (partnerCopies u.body.home (c.arg 0 16)).length) }]) u := by
  have hfree : ¬ (u.homeMode = 2 ∨ u.body.home.setPartner.isSome = true) := by simp [hmode, hnone]
  have hunpaired : ¬ u.homeMode = 1 := by simp [hmode]
  rw [opReqSetPartner, run_look]
  dsimp only
  rw [if_neg hfree, if_neg hp, if_neg (not_or.2 ⟨hself, fun h => hunpaired h.1⟩), if_neg hunpaired]
  rfl

/-- PARTNER 0 gives the partner up. -/
theorem run_opReqSetPartner_none (hmode : u.homeMode ≠ 2) (hp : c.arg 0 16 = 0) :
    run (opReqSetPartner ref c) u = run (acts [setFld Fld.RQT_PARTNER_PARTNER 0, setFld Fld.RQT_PARTNER_VALID 0,
      setFld Fld.RQT_STATUS_HOME_MODE 0, onHome (fun x => { x with mirrorAcked := x.mirrorSent }),
      releaseWithheld u.body.home.mirrorSent, fin ref St.ok]) u := by
  rw [opReqSetPartner, run_look]
  simp only [hmode, hnone, hp, Option.isSome_none, Bool.false_eq_true, or_self, reduceIte]

end

/-! ### REQ_SET_MIRROR (R13, R188) -/

/-- Outside a hand-off, a park and a resume, the command goes by the chip it names. -/
theorem run_opReqSetMirror (tell : Nat → Option Nat → Act) (ref : CmdRef) (a : AtLive v (c.arg 0 64) u q)
    (hhandoff : q.record.phase ≠ .handoff) (hparking : q.record.phase ≠ .parking) (hresuming : q.record.phase ≠ .resuming) :
    run (opReqSetMirror tell ref c) v = run (
      let leaveOld := when (q.record.mirrored && q.record.stateMirror != c.arg 8 16) (homeSend q.record.stateMirror .holdFree
        { handle := c.arg 0 64, epoch := q.record.epoch, chip := q.record.stateMirror })
      if c.arg 8 16 = 0 then
        acts [putReq (c.arg 0 64) { q with record := { q.record with mirrored := false, stateMirror := 0, mirrorPos := 0 } },
          tell (c.arg 0 64) none, leaveOld, homeFin ref St.ok []]
      else if !u.inPod (c.arg 8 16) || q.record.owner == some (c.arg 8 16) then finInvalid ref 1
      else acts [putReq (c.arg 0 64) { q with record := { q.record with mirrored := true, stateMirror := c.arg 8 16, mirrorPos := 0 } },
        tell (c.arg 0 64) (some (c.arg 8 16)), leaveOld, homeFin ref St.ok []]) u := by
  rw [opReqSetMirror, run_withLive a, run_look]
  dsimp only
  split
  · next hp => exact absurd hp hhandoff
  · next hp => exact absurd hp hparking
  · next hp => exact absurd hp hresuming
  · rfl

end

/-- Settles O10: each command by what its checks leave of it, in the state of the home and of the request. -/
theorem recoveryCommands : Obligations.RecoveryCommands := by
  refine ⟨?_, ?_, ?_, ?_, ?_, ?_, ?_, ?_⟩
  · intro s src c v u q h a hlive hclosing hpending hreplaying howner hfailed hshares
    refine ⟨replayRec (c.arg 8 16) q.record, rfl, rfl, rfl, rfl, rfl, ?_⟩
    rw [exec_reqReplay h, run_opReqReplay_grants _ a hlive hclosing hpending hreplaying howner hfailed hshares]
  · intro s src c v u q h a hlive hclosing hreplaying hfailed hchip
    rw [exec_reqReplay h, run_opReqReplay_repeated _ a hlive hclosing hreplaying hfailed hchip]
  · intro s src c u h hself hpartner hmirror
    rw [exec_reqChipDown h, run_opReqChipDown_other _ hself hpartner hmirror]
  · intro s src c u h hmode hnone hp hself hreqs
    have hempty : (partnerCopies u.body.home (c.arg 0 16)).isEmpty = true := by rw [partnerCopies, hreqs]; rfl
    rw [exec_reqSetPartner h, run_opReqSetPartner_solo _ hnone hmode hp hself, if_pos hempty]
  · intro s src c u h hmode hnone hp hself hreqs
    have hsome : ¬ (partnerCopies u.body.home (c.arg 0 16)).isEmpty = true := by simpa [partnerCopies] using hreqs
    have hlen : (partnerCopies u.body.home (c.arg 0 16)).length = u.body.home.reqs.length := by
      rw [partnerCopies, List.length_map, List.length_zipIdx]
    refine ⟨_, exec_reqSetPartner h, ?_⟩
    rw [run_opReqSetPartner_solo _ hnone hmode hp hself, if_neg hsome, hlen, run_acts_cons, run_acts_cons, run_acts_nil, run_each_emit, onHome,
      run_onBody]
    exact ⟨rfl, rfl⟩
  · intro s src c u h hmode hnone hp
    rw [exec_reqSetPartner h, run_opReqSetPartner_none _ hnone hmode hp]
  · intro s src c v u q h a hhandoff hparking hresuming hmirrored hchip hpod howner
    rw [exec_reqSetMirror h, run_opReqSetMirror _ _ a hhandoff hparking hresuming]
    simp only [hmirrored, hchip, hpod, beq_false_of_ne howner, Bool.false_and, Bool.not_true, Bool.or_self, Bool.false_eq_true, reduceIte,
      run_acts_cons, run_acts_nil, run_when]
  · intro s src c v u q h a hhandoff hparking hresuming hmirrored hchip hold
    have hleave : (q.record.stateMirror != 0) = true := bne_iff_ne.2 hold
    rw [exec_reqSetMirror h, run_opReqSetMirror _ _ a hhandoff hparking hresuming]
    simp only [hmirrored, hchip, hleave, Bool.and_self, reduceIte, run_acts_cons, run_acts_nil, run_when]

end Sys2Proof.Machine
end

section
/-! SUPPORT. The rows of liveness, failover, redirects and mirroring (R176, R187, R193 to R197, 07_ownership_and_recovery.md). -/

namespace Sys2Proof.Machine

section
variable {s : State}

theorem exec_ping {m : Msg} (hT : Takes s (.ping m)) : exec (.ping m) s = .next (run (actPing m) s) := hT.done _
theorem exec_pingAck {m : Msg} (hT : Takes s (.pingAck m)) : exec (.pingAck m) s = .next (run (actPingAck m) s) := hT.done _
theorem exec_pingInterval (hT : Takes s .pingInterval) : exec .pingInterval s = .next (run actPingInterval s) := done_works hT.works
theorem exec_ownerTimeout {chip : Nat} (hT : Takes s (.ownerTimeout chip)) :
    exec (.ownerTimeout chip) s = .next (run (actOwnerTimeout chip) s) := hT.done _
theorem exec_homeFence (hT : Takes s .homeFence) : exec .homeFence s = .next (run actHomeFence s) := done_works hT.works
theorem exec_partnerTakeover (hT : Takes s .partnerTakeover) : exec .partnerTakeover s = .next (run takeover s) := done_works hT.works
theorem exec_homeMoved {m : Msg} (hT : Takes s (.homeMoved m)) : exec (.homeMoved m) s = .next (run (actHomeMoved m) s) := hT.done _
theorem exec_homeReleased {m : Msg} (hT : Takes s (.homeReleased m)) :
    exec (.homeReleased m) s = .next (run (actHomeReleased m) s) := hT.done _
theorem exec_mirrorUpdate {home n : Nat} {x : MirrorUpd} (hT : Takes s (.mirrorUpdate home n x)) :
    exec (.mirrorUpdate home n x) s = .next (run (actMirrorUpdate home n x) s) := hT.done _
theorem exec_mirrorAck {n : Nat} (hT : Takes s (.mirrorAck n)) : exec (.mirrorAck n) s = .next (run (actMirrorAck n) s) :=
  done_works hT.works

/-! ### Messages to several chips -/

theorem run_sendMsg (tgt : Nat) (t : MsgType) (m : Msg) (s : State) :
    run (sendMsg tgt t m) s = { s with body := { s.body with out := s.body.out ++ [.msg tgt t m] } } := run_emit _ s

theorem run_each_sendMsg (l : List Nat) (t : MsgType) (m : Msg) (s : State) :
    run (each l fun tgt => sendMsg tgt t m) s
      = { s with body := { s.body with out := s.body.out ++ l.map fun tgt => Output.msg tgt t m } } := by
  have hemit : each l (fun tgt => sendMsg tgt t m) = each (l.map fun tgt => Output.msg tgt t m) emit := by
    rw [each, each, List.map_map]; rfl
  rw [hemit, run_each_emit]

/-- A message to all chips of a list but one. -/
theorem run_each_sendMsg_but (c : Nat) (l : List Nat) (t : MsgType) (m : Msg) (s : State) :
    run (each l fun tgt => if tgt = c then nop else sendMsg tgt t m) s
      = { s with body := { s.body with out := s.body.out ++ (l.filter (· != c)).map fun tgt => Output.msg tgt t m } } := by
  induction l generalizing s with
  | nil => simp
  | cons x l ih =>
    rw [run_each_cons, ih]
    by_cases hx : x = c
    · simp [hx]
    · simp [hx, run_sendMsg]

/-! ### Liveness (R187, R193) -/

/-- A PING of a chip that this one mirrors no records of. -/
theorem run_actPing {m : Msg} (hmirror : s.body.home.mirrorOf ≠ some m.sender) :
    run (actPing m) s = { s with body := { s.body with
      locs := tmod s.body.locs m.handle fun l => { l with home := m.sender }
      out := s.body.out ++ [.msg m.sender .pingAck
        { sender := s.chipId, handle := m.handle,
          flags := if s.is Fld.RQT_PARTNER_TAKEN && s.get Fld.RQT_PARTNER_TAKEN_FROM == m.sender then 1 else 0 }] } } := by
  rw [actPing, run_look, run_acts_cons, run_acts_cons, run_acts_nil, run_sendMsg, run_onBody, if_neg hmirror]

theorem run_actPingAck_recorded {m : Msg} (hmode : s.homeMode ≠ 2) :
    run (actPingAck m) s = run (onHome fun x => { x with lastAck := tput x.lastAck m.sender s.body.tick }) s := by
  rw [actPingAck, run_look, run_acts_cons, run_acts_cons, run_acts_nil, beq_false_of_ne hmode, Bool.false_and, Bool.false_and, run_when,
    if_neg Bool.false_ne_true]

/-- A fenced home whose partner has not taken its requests resumes as paired. -/
theorem run_actPingAck_resumes {m : Msg} (hmode : s.homeMode = 2) (hsender : m.sender = s.get Fld.RQT_PARTNER_PARTNER)
    (htaken : m.flags % 2 = 0) :
    run (actPingAck m) s = run (acts [onHome (fun x => { x with lastAck := tput x.lastAck m.sender s.body.tick }),
      setFld Fld.RQT_STATUS_HOME_MODE 1, releaseWithheld s.body.home.mirrorAcked]) s := by
  have hresumes : (s.homeMode == 2 && m.sender == s.get Fld.RQT_PARTNER_PARTNER && bitsOf m.flags 0 1 == 0) = true := by
    simp [hmode, hsender, bitsOf, htaken]
  rw [actPingAck, run_look, hresumes]
  simp only [run_acts_cons, run_acts_nil, run_when, reduceIte]

theorem run_actOwnerTimeout_watched {chip : Nat} (hself : chip ≠ s.chipId) (hwatched : chip ∈ pingTargets s)
    (hfailed : chip ∉ s.body.home.failedChips) (hmode : s.homeMode ≠ 2) :
    run (actOwnerTimeout chip) s = run (acts [when (s.is Fld.RQT_PARTNER_VALID && s.get Fld.RQT_PARTNER_PARTNER == chip) (raise Blk.rqt 3),
      declareFailed chip]) s := by
  rw [actOwnerTimeout, run_look,
    if_pos ⟨hself, List.contains_iff_mem.2 hwatched, fun h => hfailed (List.contains_iff_mem.1 h), hmode⟩]

/-! ### Takeover (R194) -/

/-- The chip neither mirrors a home nor waits for a new partner's copies. -/
def Home.unpartnered (x : Home) : Prop := x.mirrorOf = none ∧ x.setPartner = none

theorem run_each_keeps {α : Type} {P : State → Prop} {f : α → Act} (h : ∀ x s, P s → P (run (f x) s)) (l : List α) {s : State} (hs : P s) :
    P (run (each l f) s) := by
  induction l generalizing s with
  | nil => rwa [run_each_nil]
  | cons x l ih => rw [run_each_cons]; exact ih (h x s hs)

/-- An action that was withheld is a message, a completion or a shadow. -/
theorem takeWithheld_unpartnered (w : Withheld) {s : State} (h : s.body.home.unpartnered) : (run (takeWithheld w) s).body.home.unpartnered := by
  cases w with
  | send tgt t m => rw [takeWithheld, run_sendMsg]; exact h
  | complete ref st d res out => rw [takeWithheld, apartFromHost_home.finish]; exact h
  | shadow r => rw [takeWithheld, showRec, run_onHome_home]; exact h

theorem releaseWithheld_unpartnered (n : Nat) {s : State} (h : s.body.home.unpartnered) :
    (run (releaseWithheld n) s).body.home.unpartnered := by
  rw [releaseWithheld, run_look, run_acts_cons, run_acts_cons, run_acts_nil]
  refine run_each_keeps (P := fun t => t.body.home.unpartnered) (fun w _ hs => takeWithheld_unpartnered w.2 hs) _ ?_
  rw [run_onHome_home]
  exact h

theorem ApartFromHost.raiseWith {α : Type} {f : Body → α} (hf : ApartFromHost f) (blk bit : Nat) (c : Ctx) (s : State) :
    f (run (raiseWith blk bit c) s).body = f s.body := by
  simp [run, Machine.raiseWith, hf.bark]

/-- A takeover leaves no partnership, and ends with HOME_MOVED to every other chip of the pod. -/
theorem run_takeover {home : Nat} (hmirror : s.body.home.mirrorOf = some home) :
    ∃ t, t.body.home.unpartnered ∧
      run takeover s = run (each ((List.range 256).filterMap fun m => s.memberChip m) fun tgt =>
        if tgt = s.chipId then nop else sendMsg tgt .homeMoved { sender := s.chipId, chip := home }) t := by
  rw [takeover, run_look, hmirror]
  simp only [run_acts_cons, run_acts_nil]
  refine ⟨_, ?_, rfl⟩
  rw [apartFromHost_home.raiseWith, run_count_body, run_onHome_home]
  refine releaseWithheld_unpartnered _ ?_
  rw [run_setFld_body, run_setFld_body, run_onHome_home]
  exact ⟨rfl, rfl⟩

/-! ### Redirects and mirroring (R176, R196, R197) -/

theorem run_actHomeReleased_known {m : Msg} {n : Nat} (hredir : s.redirOf m.chip = some n) :
    run (actHomeReleased m) s = run (setReg (Reg.RQT_REDIR n) 0) s := by
  rw [actHomeReleased, run_look, hredir]

/-- The table of mirrored records after an update. -/
def mirroredAfter (l : List (Nat × Rec)) : MirrorUpd → List (Nat × Rec)
  | .record r => tput l r.handle r
  | .remove h => tdel l h

theorem run_actMirrorUpdate (home n : Nat) (x : MirrorUpd) :
    run (actMirrorUpdate home n x) s = { s with body := { s.body with
      home := { s.body.home with mirrorOf := some home, mirrorHeard := s.body.tick, mirrored := mirroredAfter s.body.home.mirrored x }
      out := s.body.out ++ [.mirrorAck home n] } } := by
  rw [actMirrorUpdate, run_look, run_acts_cons, run_acts_cons, run_acts_nil, run_emit, onHome, run_onBody]
  cases x <;> rfl

section
variable {n : Nat} (hacked : s.body.home.mirrorAcked < n) (hsent : n ≤ s.body.home.mirrorSent) (hmode : s.homeMode ≠ 2)
include hacked hsent hmode

/-- A new acknowledgement releases what waited for it. -/
theorem run_actMirrorAck_releases (hnone : s.body.home.setPartner = none) :
    run (actMirrorAck n) s = run (releaseWithheld n) (run (onHome fun x => { x with mirrorAcked := n }) s) := by
  have hnew : ¬ (n ≤ s.body.home.mirrorAcked ∨ s.body.home.mirrorSent < n) := by omega
  rw [actMirrorAck, run_look]
  dsimp only
  rw [if_neg hnew, hnone, run_acts_cons, run_acts_cons, run_acts_cons, run_acts_nil, run_nop, run_when, if_pos (bne_iff_ne.2 hmode)]

/-- The acknowledgement of the last copy of a new partner pairs the home as well. -/
theorem run_actMirrorAck_pairs {ref : CmdRef} {p last : Nat} (hset : s.body.home.setPartner = some (ref, p, last)) (hlast : last ≤ n) :
    run (actMirrorAck n) s = run (acts [onHome (fun x => { x with mirrorAcked := n }), releaseWithheld n,
      onHome (fun x => { x with setPartner := none }), setFld Fld.RQT_PARTNER_PARTNER p, setFld Fld.RQT_PARTNER_VALID 1,
      setFld Fld.RQT_STATUS_HOME_MODE 1, fin ref St.ok]) s := by
  have hnew : ¬ (n ≤ s.body.home.mirrorAcked ∨ s.body.home.mirrorSent < n) := by omega
  have hopen : (s.homeMode != 2) = true := bne_iff_ne.2 hmode
  rw [actMirrorAck, run_look]
  dsimp only
  rw [if_neg hnew, hset, hopen]
  simp only [hlast, reduceIte, run_acts_cons, run_acts_nil, run_when]

end

end

/-- Settles O18: each row by what the chip knows of the sender, of its partner and of the home it mirrors; a takeover ends with its
HOME_MOVED (`run_takeover`). -/
theorem failoverRowsTakeEffect : Obligations.FailoverRowsTakeEffect := by
  refine ⟨?_, ?_, ?_, ?_, ?_, ?_, ?_, ?_, ?_, ?_, ?_, ?_, ?_, ?_⟩
  · intro s m hT htaken hmirror
    refine ⟨_, exec_ping hT, ?_⟩
    rw [run_actPing hmirror, htaken]
    exact ⟨rfl, rfl, rfl, rfl⟩
  · intro s m hT htaken hfrom hmirror
    refine ⟨_, exec_ping hT, ?_⟩
    rw [run_actPing hmirror, htaken, beq_iff_eq.2 hfrom]
    rfl
  · intro s m hT hmode
    rw [exec_pingAck hT, run_actPingAck_recorded hmode]
  · intro s m hT hmode hsender htaken
    rw [exec_pingAck hT, run_actPingAck_resumes hmode hsender htaken]
  · intro s hT
    refine ⟨_, exec_pingInterval hT, ?_⟩
    rw [actPingInterval, run_look, run_each_sendMsg]
  · intro s chip hT hself hwatched hfailed hmode
    rw [exec_ownerTimeout hT, run_actOwnerTimeout_watched hself hwatched hfailed hmode]
  · intro s hT hmode
    rw [exec_homeFence hT, actHomeFence, run_look, if_pos hmode]
  · intro s home hT hmirror
    obtain ⟨t, ⟨hof, hset⟩, ht⟩ := run_takeover hmirror
    refine ⟨_, exec_partnerTakeover hT, ?_⟩
    rw [ht, run_each_sendMsg_but]
    refine ⟨hof, hset, fun tgt hne hmem => ?_⟩
    exact List.mem_append_right _ (List.mem_map_of_mem (List.mem_filter.2 ⟨hmem, bne_iff_ne.2 hne⟩))
  · intro s m hT
    rw [exec_homeMoved hT, actHomeMoved, run_acts_cons, run_acts_cons, run_acts_nil]
  · intro s m n hT hredir
    rw [exec_homeReleased hT, run_actHomeReleased_known hredir]
  · intro s home n r hT
    refine ⟨_, exec_mirrorUpdate hT, ?_⟩
    rw [run_actMirrorUpdate]
    exact ⟨rfl, rfl, rfl⟩
  · intro s home n h hT
    refine ⟨_, exec_mirrorUpdate hT, ?_⟩
    rw [run_actMirrorUpdate]
    rfl
  · intro s n hT hacked hsent hmode hnone
    rw [exec_mirrorAck hT, run_actMirrorAck_releases hacked hsent hmode hnone]
  · intro s n ref p last hT hacked hsent hmode hset hlast
    rw [exec_mirrorAck hT, run_actMirrorAck_pairs hacked hsent hmode hset hlast]

end Sys2Proof.Machine
end

section
/-! SUPPORT. A request's Leash state at a chip, and the rows of a hand-off at its giver (R12, R15, R181, R186). -/

namespace Sys2Proof.Machine

/-! ### A request's Leash state at a chip -/

section
variable {s : State} {h : Nat} {c : Loc} {m : Msg}

@[simp] theorem loc_setLoc_same (l : Loc) : (run (setLoc h l) s).loc h = some l := tget_tput_same _ h l
@[simp] theorem chipId_setLoc (l : Loc) : (run (setLoc h l) s).chipId = s.chipId := chipId_onBody _ s
@[simp] theorem modelOfTenant_setLoc (l : Loc) (t : Nat) : (run (setLoc h l) s).modelOfTenant t = s.modelOfTenant t := by
  rw [setLoc, run_onBody]; rfl

theorem loc_modLoc_same (f : Loc → Loc) (hloc : s.loc h = some c) : (run (modLoc h f) s).loc h = some (f c) := tget_tmod_same f hloc

/-- What a change does to other states than the request's does not matter. -/
theorem run_modLoc_congr {f g : Loc → Loc} (hloc : s.loc h = some c) (hfg : f c = g c) : run (modLoc h f) s = run (modLoc h g) s := by
  have htab : tmod s.body.locs h f = tmod s.body.locs h g := by
    rw [State.loc] at hloc
    rw [tmod, tmod, hloc]
    dsimp only
    rw [hfg]
  rw [modLoc, modLoc, run_onBody, run_onBody, htab]

theorem run_modLoc_none (f : Loc → Loc) (hloc : s.loc h = none) : run (modLoc h f) s = s := by
  rw [State.loc] at hloc
  rw [modLoc, run_onBody, tmod, hloc]

/-- A Leash state once the chip has heard from the request's home (R196). -/
def Loc.heard (m : Msg) (c : Loc) : Loc := { c with home := m.sender, epoch := max c.epoch m.epoch }

@[simp] theorem heard_st : (c.heard m).st = c.st := rfl
@[simp] theorem heard_held : (c.heard m).held = c.held := rfl

theorem loc_fromHome (hloc : s.loc m.handle = some c) : (run (fromHome m) s).loc m.handle = some (c.heard m) := loc_modLoc_same _ hloc
@[simp] theorem chipId_fromHome : (run (fromHome m) s).chipId = s.chipId := chipId_onBody _ s
@[simp] theorem hasShare_fromHome (p : Phase) : (run (fromHome m) s).hasShare p = s.hasShare p := rfl

end

section
variable {s : State} {m : Msg} {h : Nat}

theorem exec_handoffStart (a : AtChip s false m) : exec (.handoffStart m) s = .next (run (actHandoffStart m) s) := a.done _
theorem exec_offerAck (hT : Takes s (.offerAck m)) : exec (.offerAck m) s = .next (run (actOfferAck m) s) := hT.done _
theorem exec_offerTimeout (hT : Takes s (.offerTimeout h)) : exec (.offerTimeout h) s = .next (run (actOfferTimeout h) s) := hT.done _
theorem exec_handoffLimit (hT : Takes s (.handoffLimit h)) : exec (.handoffLimit h) s = .next (run (actHandoffLimit h) s) := hT.done _
theorem exec_leashRelease (a : AtChip s false m) : exec (.leashRelease m) s = .next (run (actLeashRelease m) s) := a.done _
theorem exec_queryResult (a : AtChip s true m) : exec (.queryResult m) s = .next (run (actQueryResult m) s) := a.done _

section
variable {c : Loc} {e : Nat}

/-! ### HANDOFF_START at the owner (R12, R181) -/

section
variable {target : Phase} (a : AtChip s false m) (hloc : s.loc m.handle = some c) (hst : c.st = .owner e) (hphase : phaseOf m.phase = some target)
include a hloc hst hphase

theorem run_actHandoffStart_drains (hchip : m.chip ≠ s.chipId) :
    run (actHandoffStart m) s = run (startDrain m (max e m.epoch) target) (run (fromHome m) s) := by
  rw [actHandoffStart, run_atChip a, run_acts_cons, run_acts_cons, run_acts_nil, run_look]
  simp only [loc_fromHome hloc, hphase, heard_st, hst, chipId_fromHome, hchip, reduceIte]

theorem run_actHandoffStart_self (hchip : m.chip = s.chipId) (hshare : s.hasShare target = true) :
    run (actHandoffStart m) s = run (acts [fromHome m, modLoc m.handle (fun c => { c with st := .owner (max e m.epoch) }),
      toHome m.handle .offerAck { epoch := max e m.epoch, status := St.ok, chip := s.chipId, phase := m.phase },
      localPhase m.handle target]) s := by
  rw [actHandoffStart, run_atChip a, run_acts_cons, run_acts_cons, run_acts_nil, run_look]
  simp only [loc_fromHome hloc, hphase, heard_st, hst, chipId_fromHome, hchip, hasShare_fromHome, hshare, reduceIte, run_acts_cons, run_acts_nil,
    run_when]

end

/-! ### The answer to an offer, and its absence (R12, R181, R186) -/

theorem run_actOfferAck_giver (hloc : s.loc m.handle = some c) (hst : c.st = .offering e) (hpeer : c.peer = m.sender) (hepoch : m.epoch = e) :
    run (actOfferAck m) s = run (if m.status = St.ok then modLoc m.handle fun c => { c with st := .waiting e } else sendQuery m.handle e) s := by
  rw [actOfferAck, run_look]
  simp only [hloc, hst, hpeer, hepoch, and_self, reduceIte]

/-- At a home that is no giver of the request, an OFFER_ACK is the owner's answer about its own share. -/
theorem run_actOfferAck_home {u : State} {q : HomeReq} (a : AtHome s m u q) (hloc : s.loc m.handle = none) :
    run (actOfferAck m) s = run (homeOfferAck m q) u := by
  have hhere : (s.req m.handle).isSome = true := Option.isSome_of_any a.here
  rw [actOfferAck, run_look]
  simp only [hloc, hhere, reduceIte]
  exact run_atHome a _ _

theorem run_homeOfferAck_ok {q : HomeReq} {ref : CmdRef} {target : Phase} (hchg : q.phaseChg = some (ref, target))
    (howner : q.record.owner = some m.sender) (hok : m.status = St.ok) :
    run (homeOfferAck m q) s = run (acts [putReq m.handle { q with record := enterPhase s.body.tick target q.record, phaseChg := none },
      homeFin ref St.ok (leBytes 4 q.record.epoch)]) s := by
  rw [homeOfferAck, run_look, hchg]
  dsimp only
  rw [if_neg (not_not_intro howner), if_pos hok]

theorem run_actOfferTimeout_offering (hloc : s.loc h = some c) (hst : c.st = .offering e) :
    run (actOfferTimeout h) s = run (
      if c.offers < 3 then acts [modLoc h (fun c => { c with offers := c.offers + 1 }), count Reg.RQT_OFFER_RESENT 1, sendOffer h e]
      else sendQuery h e) s := by
  rw [actOfferTimeout, run_look, hloc]
  dsimp only
  rw [hst]

theorem run_actHandoffLimit_waiting (hloc : s.loc h = some c) (hst : c.st = .waiting e) :
    run (actHandoffLimit h) s = run (sendQuery h e) s := by
  rw [actHandoffLimit, run_look, hloc]
  dsimp only
  rw [hst]

/-! ### What a waiting giver learns of its standing (R181) -/

section
variable {keep hold free : Bool} (hloc : s.loc m.handle = some c) (hst : c.st = .waiting e)
include hloc hst

theorem run_standing_waiting :
    run (standing m keep hold free) s = run (
      if keep && m.epoch == e then acts [modLoc m.handle (fun c => { c with st := .owner e }), resumeAll m.handle, unitEnded m.handle]
      else if hold && decide (e < m.epoch) then acts [becomeHolder m.handle m.epoch, stopJobs m.handle St.notOwner]
      else when (free && decide (e < m.epoch)) (acts [freeAllOf m.handle, stopJobs m.handle St.notOwner])) s := by
  rw [standing, run_look]
  simp only [hloc, hst, leashEpoch]

end

/-- The flags of a release or a query's result, bit by bit. -/
theorem flags_bit0 {f : Nat} (h : f % 2 = 1) : (bitsOf f 0 1 == 1) = true := by simp [bitsOf, h]
theorem flags_bit1_only {f : Nat} (h : f % 4 = 2) : (bitsOf f 0 1 == 1) = false ∧ (bitsOf f 1 1 == 1) = true := by
  have h0 : f / 2 ^ 0 % 2 ^ 1 = 0 := by omega
  have h1 : f / 2 ^ 1 % 2 ^ 1 = 1 := by omega
  rw [bitsOf, bitsOf, h0, h1]
  exact ⟨rfl, rfl⟩

end
end

/-- Settles O19: each message by the Leash state the giver is in, a release or an answer by its flags (`run_standing_waiting`). -/
theorem handoffAtTheGiver : Obligations.HandoffAtTheGiver := by
  refine ⟨?_, ?_, ?_, ?_, ?_, ?_, ?_, ?_, ?_, ?_, ?_⟩
  · intro s m c e target a hloc hst hphase hchip
    rw [exec_handoffStart a, run_actHandoffStart_drains a hloc hst hphase hchip]
  · intro s m c e target a hloc hst hphase hchip hshare
    rw [exec_handoffStart a, run_actHandoffStart_self a hloc hst hphase hchip hshare]
  · intro s m c e hT hloc hst hpeer hepoch hok
    rw [exec_offerAck hT, run_actOfferAck_giver hloc hst hpeer hepoch, if_pos hok]
  · intro s m c e hT hloc hst hpeer hepoch hno
    rw [exec_offerAck hT, run_actOfferAck_giver hloc hst hpeer hepoch, if_neg hno]
  · intro s m u q ref target a hloc hchg howner hok
    rw [exec_offerAck ⟨a.works, a.form⟩, run_actOfferAck_home a hloc, run_homeOfferAck_ok hchg howner hok]
  · intro s h c e hT hloc hst hoffers
    rw [exec_offerTimeout hT, run_actOfferTimeout_offering hloc hst, if_pos hoffers]
  · intro s h c e hT hloc hst hoffers
    rw [exec_offerTimeout hT, run_actOfferTimeout_offering hloc hst, if_neg (Nat.not_lt.2 hoffers)]
  · intro s h c e hT hloc hst
    rw [exec_handoffLimit hT, run_actHandoffLimit_waiting hloc hst]
  · intro s m c e a hloc hst hnewer hhold
    rw [exec_leashRelease a, actLeashRelease, run_atChip a, run_acts_cons, run_acts_cons, run_acts_nil, run_standing_waiting hloc hst,
      flags_bit0 hhold, decide_eq_true hnewer]
    rfl
  · intro s m c e a hloc hst hnewer hfree
    obtain ⟨hhold, hfree⟩ := flags_bit1_only hfree
    rw [exec_leashRelease a, actLeashRelease, run_atChip a, run_acts_cons, run_acts_cons, run_acts_nil, run_standing_waiting hloc hst,
      hhold, hfree, decide_eq_true hnewer]
    rfl
  · intro s m c e a hloc hst hepoch hkeep
    rw [exec_queryResult a, actQueryResult, run_atChip a, run_acts_cons, run_acts_cons, run_acts_nil, run_standing_waiting hloc hst,
      flags_bit0 hkeep, beq_iff_eq.2 hepoch]
    rfl

end Sys2Proof.Machine
end

section
/-! SUPPORT. The rows of a hand-off at its receiver, and grants (R181, R183, R184, R189, R191). -/

namespace Sys2Proof.Machine

section
variable {s : State} {m : Msg} {tbl : GivenTable} {h : Nat}

theorem exec_offer (a : AtChip s false m) : exec (.offer m tbl) s = .next (run (actOffer m tbl) s) := a.done _
theorem exec_casResult (a : AtChip s true m) : exec (.casResult m) s = .next (run (actCasResult m) s) := a.done _
theorem exec_casTimeout (hT : Takes s (.casTimeout h)) : exec (.casTimeout h) s = .next (run (actCasTimeout h) s) := hT.done _
theorem exec_handoffCancel (a : AtChip s false m) : exec (.handoffCancel m) s = .next (run (actHandoffCancel m) s) := a.done _
theorem exec_fetchStart (hT : Takes s .fetchStart) : exec .fetchStart s = .next (run (startFetches 1) s) := done_works hT.works
theorem exec_fetchComplete (hT : Takes s (.fetchComplete h)) : exec (.fetchComplete h) s = .next (run (fetchComplete h) s) := hT.done _
theorem exec_leashGrant (a : AtChip s false m) : exec (.leashGrant m tbl) s = .next (run (actLeashGrant m tbl) s) := a.done _

/-! ### OFFER (R181, R183, R184) -/

/-- The Leash state of a chip that takes an offer of a request it has nothing of. -/
def offeredLoc (s : State) (m : Msg) (tbl : GivenTable) (target : Phase) (md : Model) : Loc :=
  { givenLoc s { home := s.homeOf m.handle } tbl (givenLayers md tbl) with
    st := .receiving m.epoch, wasHolder := false, epoch := max 0 m.epoch, peer := m.sender, phase := target, target := target
    mode := bitsOf m.flags 0 2, copyFree := goesCopyFree s m target tbl, budget := m.budget, budgetTick := s.body.tick, offers := 0
    fetch := none, dropping := none, replay := none }

/-- Where the chip has the shares, only the choice of R184 is left: copy-free or Fetch. -/
theorem run_actOffer_taken {target : Phase} {md : Model} (a : AtChip s false m) (hloc : s.loc m.handle = none)
    (hphase : phaseOf m.phase = some target) (hmodel : s.modelOfTenant tbl.tenant = some md)
    (htarget : target = .prompting ∨ target = .generating) (hshare : s.hasShare target = true) (hsampler : tbl.sampler = none) :
    run (actOffer m tbl) s = run (acts [setLoc m.handle (offeredLoc s m tbl target md), drawFree, ackOffer m St.ok,
      if goesCopyFree s m target tbl then count Reg.RQT_COPY_FREE 1 else addFetch m.handle m.sender false,
      when (target == .generating) (tryAlloc m.handle)]) s := by
  have hallowed : ((target == .prompting || target == .generating || target == .listening) && s.hasShare target
      && (target != .listening || (fpartFor s .cache (s.group tbl.tenant)).isSome)) = true := by
    rcases htarget with rfl | rfl <;> simp [hshare]
  have hnotListening : (target == .listening) = false := by rcases htarget with rfl | rfl <;> rfl
  rw [actOffer, run_atChip a, run_look]
  simp only [hloc, Option.getD_none, hphase, hmodel, hallowed, takeSampler, hsampler, reduceIte]
  cases hfree : goesCopyFree s m target tbl <;>
    simp only [offeredLoc, hfree, hnotListening, run_acts_cons, run_acts_nil, run_nop, run_when, Bool.false_eq_true, reduceIte] <;> rfl

/-- An offer of the epoch in force, or of an older one, is acknowledged again. -/
theorem run_actOffer_repeated {c : Loc} {e : Nat} (a : AtChip s false m) (hloc : s.loc m.handle = some c) (hst : c.st = .receiving e)
    (hepoch : m.epoch ≤ e) : run (actOffer m tbl) s = run (ackOffer m St.ok) s := by
  rw [actOffer, run_atChip a, run_look]
  simp only [hloc, Option.getD_some, hst, hepoch, reduceIte]

/-! ### The result of the compare-and-swap (R181) -/

section
variable {c : Loc} {e : Nat} (a : AtChip s true m) (hloc : s.loc m.handle = some c) (hst : c.st = .casing e)
include a hloc hst

theorem run_actCasResult_ok (hok : m.status = St.ok) (hepoch : m.epoch = wrapAdd 32 e 1) :
    run (actCasResult m) s = run (takeOwner m.handle m.epoch) (run (fromHome m) s) := by
  rw [actCasResult, run_atChip a, run_acts_cons, run_acts_cons, run_acts_nil, run_look]
  simp only [loc_fromHome hloc, heard_st, hst, hok, hepoch, reduceIte]

theorem run_actCasResult_refused (hrefused : m.status = St.staleEpoch ∨ m.status = St.notOwner) :
    run (actCasResult m) s = run (acts [discardCopies m.handle, stopJobs m.handle m.status]) (run (fromHome m) s) := by
  have hnotOk : m.status ≠ St.ok := by rcases hrefused with h | h <;> rw [h] <;> decide
  rw [actCasResult, run_atChip a, run_acts_cons, run_acts_cons, run_acts_nil, run_look]
  simp only [loc_fromHome hloc, heard_st, hst, hnotOk, hrefused, reduceIte]

end

theorem run_actCasTimeout_casing {c : Loc} {e : Nat} (hloc : s.loc h = some c) (hst : c.st = .casing e) (hdropping : c.dropping = none) :
    run (actCasTimeout h) s = run (sendCas h e) s := by
  rw [actCasTimeout, run_look]
  simp only [hloc, hst, hdropping]

theorem run_actHandoffCancel_receiver {c : Loc} {e : Nat} (a : AtChip s false m) (hloc : s.loc m.handle = some c)
    (hst : c.st = .receiving e ∨ c.st = .casing e) :
    run (actHandoffCancel m) s = run (acts [discardCopies m.handle, stopJobs m.handle St.notOwner]) s := by
  rw [actHandoffCancel, run_atChip a, run_look]
  rcases hst with hst | hst <;> simp only [hloc, hst]

/-! ### Fetches (R183, R184) -/

theorem run_fetchComplete_done {c : Loc} {f : FetchSt} (hloc : s.loc h = some c) (hfetch : c.fetch = some f) (hrunning : f.running = true)
    (hdone : fetchDone s h c = true) : run (fetchComplete h) s = run (endFetch h c f) s := by
  rw [fetchComplete, run_look]
  simp only [hloc, hfetch, hrunning, hdone, Bool.not_true, Bool.or_self, Bool.false_eq_true, reduceIte]

/-! ### LEASH_GRANT (R189 to R191) -/

/-- An owner adopts a greater epoch; without a replay of its own the grant leaves the one in force. -/
theorem run_actLeashGrant_owner {c : Loc} {e : Nat} (a : AtChip s false m) (hloc : s.loc m.handle = some c) (hst : c.st = .owner e)
    (hepoch : e < m.epoch) (hreplay : m.flags % 2 = 0) :
    run (actLeashGrant m tbl) s = run (acts [modLoc m.handle (fun x => { x with st := .owner m.epoch, replay := c.replay }),
      raiseSteps m.handle m.stepFloor [], fromHome m]) s := by
  have hbit : ¬ bitsOf m.flags 0 1 = 1 := by simp [bitsOf, hreplay]
  have hmod : run (modLoc m.handle fun x => { x with st := .owner m.epoch, replay := x.replay }) s
      = run (modLoc m.handle fun x => { x with st := .owner m.epoch, replay := c.replay }) s := run_modLoc_congr hloc rfl
  have hhave : run (haveLoc m.handle) s = s := by rw [haveLoc, run_look, hloc, Option.isSome_some, if_pos rfl, run_nop]
  rw [actLeashGrant, run_atChip a, run_acts_cons, run_acts_cons, run_acts_nil, run_look, hhave]
  simp only [hloc, hst, hbit, hepoch, decide_true, Option.isSome_none, Bool.false_eq_true, reduceIte, run_acts_cons, run_acts_nil, run_when]
  rw [← hmod]

/-- The Leash state of a chip that takes the Leash of a LISTENING request it has nothing of, with a source's pages. -/
def grantedLoc (s : State) (m : Msg) (tbl : GivenTable) (md : Model) : Loc :=
  { givenLoc s { home := s.homeOf m.handle } tbl (givenLayers md tbl) with
    st := .owner m.epoch, wasHolder := false, phase := .listening, target := .listening, peer := m.source, mode := 1, copyFree := false
    fetch := none, dropping := none
    replay := if bitsOf m.flags 0 1 = 1 then some (m.replayFrom, m.replayTo) else none
    isMirror := false, copies := [] }

theorem run_actLeashGrant_source {md : Model} (a : AtChip s false m) (hloc : s.loc m.handle = none)
    (hmodel : s.modelOfTenant tbl.tenant = some md) (hother : m.source ≠ s.chipId) (hsource : m.source ≠ 0) (hsampler : tbl.sampler = none)
    (hphase : phaseOf m.phase = some .listening) :
    run (actLeashGrant m tbl) s = run (acts [setLoc m.handle { home := s.homeOf m.handle }, setLoc m.handle (grantedLoc s m tbl md), drawFree,
      settleHeld m.handle, raiseSteps m.handle m.stepFloor [], fromHome m, addFetch m.handle m.source false]) s := by
  have hhave : run (haveLoc m.handle) s = run (setLoc m.handle { home := s.homeOf m.handle }) s := by
    rw [haveLoc, run_look, hloc, Option.isSome_none, if_neg Bool.false_ne_true]
  have hown : (m.source == s.chipId) = false := beq_false_of_ne hother
  have hfetch : (!false && m.source != 0) = true := bne_iff_ne.2 hsource
  have hnotGenerating : (Phase.listening == Phase.generating) = false := rfl
  rw [actLeashGrant, run_atChip a, run_acts_cons, run_acts_cons, run_acts_nil, run_look, hhave]
  simp only [loc_setLoc_same, modelOfTenant_setLoc, chipId_setLoc, hmodel, hown, hfetch, hphase, hsampler, takeSampler, Option.getD_some,
    Bool.false_eq_true, reduceIte, hnotGenerating, run_acts_cons, run_acts_nil, run_nop, run_when]
  rfl

end

/-- Settles O20: an offer by the choice of R184 (`run_actOffer_taken`), the other messages by the Leash state of the chip, a grant by whether
the chip owns the request already (`run_actLeashGrant_owner`, `run_actLeashGrant_source`). -/
theorem handoffAtTheReceiver : Obligations.HandoffAtTheReceiver := by
  refine ⟨?_, ?_, ?_, ?_, ?_, ?_, ?_, ?_, ?_, ?_, ?_⟩
  · intro s m tbl target md a hloc hphase hmodel htarget hshare hsampler hfree
    refine ⟨offeredLoc s m tbl target md, rfl, rfl, rfl, rfl, rfl, hfree, ?_⟩
    rw [exec_offer a, run_actOffer_taken a hloc hphase hmodel htarget hshare hsampler, if_pos hfree]
  · intro s m tbl target md a hloc hphase hmodel htarget hshare hsampler hfetch
    refine ⟨offeredLoc s m tbl target md, rfl, rfl, rfl, hfetch, ?_⟩
    rw [exec_offer a, run_actOffer_taken a hloc hphase hmodel htarget hshare hsampler, hfetch, if_neg Bool.false_ne_true]
  · intro s m tbl c e a hloc hst hepoch
    rw [exec_offer a, run_actOffer_repeated a hloc hst hepoch]
  · intro s m c e a hloc hst hok hepoch
    rw [exec_casResult a, run_actCasResult_ok a hloc hst hok hepoch]
  · intro s m c e a hloc hst hrefused
    rw [exec_casResult a, run_actCasResult_refused a hloc hst hrefused]
  · intro s h c e hT hloc hst hdropping
    rw [exec_casTimeout hT, run_actCasTimeout_casing hloc hst hdropping]
  · intro s m c e a hloc hst
    rw [exec_handoffCancel a, run_actHandoffCancel_receiver a hloc hst]
  · intro s hT
    exact exec_fetchStart hT
  · intro s h c f hT hloc hfetch hrunning hdone
    rw [exec_fetchComplete hT, run_fetchComplete_done hloc hfetch hrunning hdone]
  · intro s m tbl c e a hloc hst hepoch hreplay
    rw [exec_leashGrant a, run_actLeashGrant_owner a hloc hst hepoch hreplay]
  · intro s m tbl md a hloc hmodel hother hsource hsampler hphase
    refine ⟨grantedLoc s m tbl md, rfl, rfl, rfl, ?_⟩
    rw [exec_leashGrant a, run_actLeashGrant_source a hloc hmodel hother hsource hsampler hphase]

end Sys2Proof.Machine
end

section
/-! SUPPORT. HOLD_FREE, CLOSE and TOKEN_RESULT at a chip (R14, R160, R178, R182). -/

namespace Sys2Proof.Machine

section
variable {s : State} {m : Msg} {c : Loc}

theorem exec_holdFree (a : AtChip s false m) : exec (.holdFree m) s = .next (run (actHoldFree m) s) := a.done _
theorem exec_close (a : AtChip s false m) : exec (.close m) s = .next (run (actClose m) s) := a.done _
theorem exec_tokenResult (a : AtChip s true m) : exec (.tokenResult m) s = .next (run (actTokenResult m) s) := a.done _

theorem filter_not_contains_self (l : List Nat) : (l.filter fun r => !l.contains r) = [] :=
  List.filter_eq_nil_iff.2 fun r hr => by simp [hr]

/-- HOLD_FREE with ALL at a holder leaves no held frame: the chip is holder no more, and answers. -/
theorem run_actHoldFree_all (a : AtChip s false m) (hloc : s.loc m.handle = some c) (hst : c.st = .holder) (hall : m.flags % 2 = 1) :
    run (actHoldFree m) s = run (acts [fromHome m, freeHeld c.held, modLoc m.handle (fun c => { c with held := [], st := .none }),
      sendMsg m.sender .holdEmpty { handle := m.handle, epoch := m.epoch, sender := s.chipId }]) s := by
  have hbit : bitsOf m.flags 0 1 = 1 := beq_iff_eq.1 (flags_bit0 hall)
  rw [actHoldFree, run_atChip a, run_acts_cons, run_acts_cons, run_acts_nil, run_look]
  simp only [loc_fromHome hloc, heard_st, heard_held, hst, hbit, chipId_fromHome, filter_not_contains_self, List.isEmpty_nil, one_ne_zero,
    false_and, reduceIte, run_acts_cons, run_acts_nil, run_when]

/-- A chip that knows nothing of the hold answers a repeated HOLD_FREE again. -/
theorem run_actHoldFree_unknown (a : AtChip s false m) (hloc : s.loc m.handle = none) (hall : m.flags % 2 = 1) :
    run (actHoldFree m) s = run (sendMsg m.sender .holdEmpty { handle := m.handle, epoch := m.epoch, sender := s.chipId }) s := by
  rw [actHoldFree, run_atChip a, run_acts_cons, run_acts_cons, run_acts_nil, fromHome, run_modLoc_none _ hloc, run_look]
  simp only [hloc, flags_bit0 hall, Bool.true_or, run_when, reduceIte]

theorem run_actClose_known (a : AtChip s false m) (hloc : s.loc m.handle = some c) :
    run (actClose m) s = run (acts [fromHome m, modLoc m.handle (fun c => { c with closing := true }),
      each (s.body.jobs.jobs.filter fun e => e.2.d.handle == m.handle && ofRequest e.2.d.op) (fun e => closeJob e.1 e.2),
      unitEnded m.handle]) s := by
  have hjobs : (run (fromHome m) s).body.jobs = s.body.jobs := by rw [fromHome, modLoc, run_onBody]
  rw [actClose, run_atChip a, run_acts_cons, run_acts_cons, run_acts_nil, run_look]
  simp only [loc_fromHome hloc, hjobs, run_acts_cons, run_acts_nil]

/-- Once nothing of a closing request runs, the close goes on to its end. -/
theorem run_unitEnded_closing {h : Nat} (hloc : s.loc h = some c) (hidle : unitRuns s h = false) (hclosing : c.closing = true) :
    run (unitEnded h) s = run (finishClose h) s := by
  rw [unitEnded, run_look]
  simp only [hloc, hidle, hclosing, Bool.false_eq_true, reduceIte]

/-- Only STALE_EPOCH has an owner query for its standing. -/
theorem run_actTokenResult_ok (a : AtChip s true m) (hok : m.status = St.ok) :
    run (actTokenResult m) s = run (acts [fromHome m, tokenResult m]) s := by
  have hstale : (m.status == St.staleEpoch) = false := by rw [hok]; rfl
  rw [actTokenResult, run_atChip a]
  simp only [run_acts_cons, run_acts_nil, run_look, hstale]
  split
  · split
    · rw [run_when, if_neg Bool.false_ne_true]
    · rw [run_nop]
  · rw [run_nop]

end

/-- Settles O21: a HOLD_FREE by what the chip holds (`run_actHoldFree_all`, `run_actHoldFree_unknown`), a close by what runs. -/
theorem holderAndCloseRows : Obligations.HolderAndCloseRows := by
  refine ⟨?_, ?_, ?_, ?_, ?_⟩
  · intro s m c a hloc hst hall
    rw [exec_holdFree a, run_actHoldFree_all a hloc hst hall]
  · intro s m a hloc hall
    rw [exec_holdFree a, run_actHoldFree_unknown a hloc hall]
  · intro s m c a hloc
    rw [exec_close a, run_actClose_known a hloc]
  · intro s h c hloc hidle hclosing
    exact run_unitEnded_closing hloc hidle hclosing
  · intro s m c e a _ _ hok
    rw [exec_tokenResult a, run_actTokenResult_ok a hok]

end Sys2Proof.Machine
end

section
/-! SUPPORT. Little-endian numbers, and what memory holds after a store (R5, 00_scope.md). -/

namespace Sys2Proof.Machine

/-! ### Little-endian numbers -/

theorem length_leBytes (n v : Nat) : (leBytes n v).length = n := by
  induction n generalizing v with
  | zero => rfl
  | succ n ih => rw [leBytes, List.length_cons, ih]

theorem leNat_leBytes (n v : Nat) : leNat (leBytes n v) = v % 2 ^ (8 * n) := by
  induction n generalizing v with
  | zero => rw [leBytes, leNat, Nat.mul_zero, pow_zero, Nat.mod_one]
  | succ n ih =>
    rw [leBytes, leNat, ih, BitVec.toNat_ofNat, Nat.mul_succ, Nat.add_comm (8 * n) 8, pow_add, Nat.mod_mul]
    rfl

theorem leNat_leBytes_of_lt {n v : Nat} (h : v < 2 ^ (8 * n)) : leNat (leBytes n v) = v := by
  rw [leNat_leBytes, Nat.mod_eq_of_lt h]

theorem leNat_lt (bs : List Byte) : leNat bs < 2 ^ (8 * bs.length) := by
  induction bs with
  | nil => exact Nat.one_pos
  | cons b bs ih =>
    have hb := b.isLt
    rw [leNat, List.length_cons, Nat.mul_succ, pow_add]
    omega

/-! ### Bytes of memory -/

variable {s t : State}

theorem length_bytes (s : State) (a n : Nat) : (s.bytes a n).length = n := by
  induction n generalizing a with
  | zero => rfl
  | succ n ih => rw [State.bytes, List.length_cons, ih]

theorem num_lt (s : State) (a n : Nat) : s.num a n < 2 ^ (8 * n) := by
  have h := leNat_lt (s.bytes a n)
  rwa [length_bytes] at h

theorem byte_congr (h : t.mem = s.mem) (a : Nat) : t.byte a = s.byte a := by rw [State.byte, h, State.byte]

theorem bytes_congr (h : t.mem = s.mem) (a n : Nat) : t.bytes a n = s.bytes a n := by
  induction n generalizing a with
  | zero => rfl
  | succ n ih => rw [State.bytes, State.bytes, byte_congr h, ih]

theorem State.canonical.risingMem (h : s.canonical) : risingKeys s.mem = true := (canon_iff.1 h.1).1

/-! ### Stores -/

theorem run_store_cons (a : Nat) (b : Byte) (bs : List Byte) (s : State) :
    run (store a (b :: bs)) s = run (store (a + 1) bs) (applyEff (.mem a b) s) := rfl

@[simp] theorem run_store_regs (a : Nat) (bs : List Byte) (s : State) : (run (store a bs) s).regs = s.regs := by
  induction bs generalizing a s with
  | nil => rfl
  | cons b bs ih => rw [run_store_cons, ih, applyEff_mem_regs]

/-- What is stored reads back. -/
theorem bytes_store_same (a : Nat) (bs : List Byte) (h : s.canonical) : (run (store a bs) s).bytes a bs.length = bs := by
  induction bs generalizing a s with
  | nil => rfl
  | cons b bs ih =>
    have hb : (applyEff (.mem a b) s).byte a = b := by
      rw [State.byte, applyEff_mem_mem]
      exact cget_cput_same a b h.risingMem
    rw [run_store_cons, List.length_cons, State.bytes, ih (a + 1) (applyEff_canonical _ _ h),
      byte_store_other _ _ _ (.inl (Nat.lt_succ_self a)), hb]

theorem num_storeNum_same (a n v : Nat) (h : s.canonical) : (run (storeNum a n v) s).num a n = v % 2 ^ (8 * n) := by
  have hb := bytes_store_same a (leBytes n v) h
  rw [length_leBytes] at hb
  rw [storeNum, State.num, hb, leNat_leBytes]

theorem byte_storeNum_other (a n v : Nat) (s : State) {b : Nat} (h : b < a ∨ a + n ≤ b) : (run (storeNum a n v) s).byte b = s.byte b :=
  byte_store_other _ _ _ (by rwa [length_leBytes])

/-! ### Answers -/

@[simp] theorem run_emit_mem (o : Output) (s : State) : (run (emit o) s).mem = s.mem := by rw [run_emit]
@[simp] theorem run_emit_regs (o : Output) (s : State) : (run (emit o) s).regs = s.regs := by rw [run_emit]
@[simp] theorem run_emit_out (o : Output) (s : State) : (run (emit o) s).body.out = s.body.out ++ [o] := by rw [run_emit]
@[simp] theorem run_answer_mem (src : AccFrom) (tag st : Nat) (d : List Byte) (s : State) : (run (answer src tag st d) s).mem = s.mem :=
  run_emit_mem _ s
@[simp] theorem run_answer_regs (src : AccFrom) (tag st : Nat) (d : List Byte) (s : State) : (run (answer src tag st d) s).regs = s.regs :=
  run_emit_regs _ s
@[simp] theorem run_answer_out (src : AccFrom) (tag st : Nat) (d : List Byte) (s : State) :
    (run (answer src tag st d) s).body.out = s.body.out ++ [Output.answer (accTag src) tag st d] := run_emit_out _ s

end Sys2Proof.Machine
end

section
/-! SUPPORT. The atomics where they have their own effect (R209, 08_fabric_memory_semantics.md). -/

namespace Sys2Proof.Machine

/-- An access that is admitted goes on. -/
theorem run_withAdmission {s : State} {src : AccFrom} {addr : Nat} {k : AccKind} (h : admits s src addr k = true) (tag : Nat) (st : Bool)
    (a : Act) : run (withAdmission src tag addr k st a) s = run a s := by
  rw [withAdmission, run_look, if_pos h]

section
variable {s : State} {src : AccFrom} {tag addr op w a b p : Nat} {noret : Bool}

theorem run_atomic (f : Nat → Nat) (hadmit : admits s src addr (.atomic op w a b) = true) (hat : atomicAt s addr w = some p) :
    run (atomic op w f src tag addr a b noret) s = run (answer src tag Ans.ok (if noret then [] else leBytes w (s.num p w)))
      (run (storeNum p w (f (s.num p w) % 2 ^ (8 * w))) s) := by
  rw [atomic, run_withAdmission hadmit, run_look, hat, run_acts_cons, run_acts_cons, run_acts_nil]

/-- An atomic whose operation makes the new value of the old one does what R209 says of it. -/
theorem atomicDone_of_value {f : Nat → Nat} {new : Nat} (hs : s.canonical) (hadmit : admits s src addr (.atomic op w a b) = true)
    (hat : atomicAt s addr w = some p) (hnew : f (s.num p w) % 2 ^ (8 * w) = new) :
    AtomicDone s (run (atomic op w f src tag addr a b noret) s) src tag p w new noret := by
  rw [run_atomic f hadmit hat, hnew]
  refine ⟨?_, fun x hx => ?_, ?_, ?_⟩
  · rw [State.num, bytes_congr (run_answer_mem _ _ _ _ _), ← State.num, num_storeNum_same p w new hs, ← hnew, Nat.mod_mod]
  · rw [byte_congr (run_answer_mem _ _ _ _ _), byte_storeNum_other p w new s hx]
  · rw [run_answer_out, storeNum, run_store_body]
  · rw [run_answer_regs, storeNum, run_store_regs]

theorem lt_of_atomicWf {x : Nat} {ops : List Nat} (h : atomicWf src addr w ops = true) (hx : x ∈ ops) : x < 2 ^ w := by
  rw [atomicWf, Bool.and_eq_true, List.all_eq_true] at h
  exact of_decide_eq_true (h.2 x hx)

end

/-! ### The operations, on operands of w bits -/

/-- The two's-complement value of a word is the library's. -/
theorem signedOf_eq_toInt {w : Nat} (v : Nat) (hw : 0 < w) : signedOf w v = (BitVec.ofNat w v).toInt := by
  have hhalf : 2 ^ w = 2 * 2 ^ (w - 1) := by rw [← Nat.pow_succ', Nat.succ_eq_add_one, Nat.sub_add_cancel hw]
  rw [signedOf, BitVec.toInt_eq_toNat_cond, BitVec.toNat_ofNat]
  by_cases h : v % 2 ^ w < 2 ^ (w - 1)
  · rw [if_pos h, if_pos (by omega)]
  · rw [if_neg h, if_neg (by omega)]

section
variable {w a old : Nat} (ha : a < 2 ^ w) (ho : old < 2 ^ w)
include ha ho

theorem umin_mod : umin w a old % 2 ^ w = min old a := by
  rw [umin, Nat.mod_eq_of_lt ha, Nat.mod_eq_of_lt (Nat.lt_of_le_of_lt (Nat.min_le_left _ _) ho)]

theorem umax_mod : umax w a old % 2 ^ w = max old a := by
  rw [umax, Nat.mod_eq_of_lt ha, Nat.mod_eq_of_lt (Nat.max_lt.2 ⟨ho, ha⟩)]

theorem cas_mod {compare : Nat} (hc : compare < 2 ^ w) : cas w compare a old % 2 ^ w = if old = compare then a else old := by
  rw [cas, Nat.mod_eq_of_lt hc]
  split
  · exact Nat.mod_eq_of_lt ha
  · exact Nat.mod_eq_of_lt ho

theorem smin_mod (hw : 0 < w) : smin w a old % 2 ^ w = if (BitVec.ofNat w a).toInt < (BitVec.ofNat w old).toInt then a else old := by
  rw [smin, signedOf_eq_toInt a hw, signedOf_eq_toInt old hw]
  split
  · exact Nat.mod_eq_of_lt ha
  · exact Nat.mod_eq_of_lt ho

theorem smax_mod (hw : 0 < w) : smax w a old % 2 ^ w = if (BitVec.ofNat w old).toInt < (BitVec.ofNat w a).toInt then a else old := by
  rw [smax, signedOf_eq_toInt old hw, signedOf_eq_toInt a hw]
  split
  · exact Nat.mod_eq_of_lt ha
  · exact Nat.mod_eq_of_lt ho

end

section
variable {s : State} {src : AccFrom} {tag addr a compare : Nat} {noret : Bool}

theorem exec_fadd32 (hT : Takes s (.fadd32 src tag addr a noret)) :
    exec (.fadd32 src tag addr a noret) s = .next (run (atomic 0 4 (fadd a) src tag addr a 0 noret) s) := hT.done _
theorem exec_fadd64 (hT : Takes s (.fadd64 src tag addr a noret)) :
    exec (.fadd64 src tag addr a noret) s = .next (run (atomic 1 8 (fadd a) src tag addr a 0 noret) s) := hT.done _
theorem exec_umin32 (hT : Takes s (.umin32 src tag addr a noret)) :
    exec (.umin32 src tag addr a noret) s = .next (run (atomic 4 4 (umin 32 a) src tag addr a 0 noret) s) := hT.done _
theorem exec_umin64 (hT : Takes s (.umin64 src tag addr a noret)) :
    exec (.umin64 src tag addr a noret) s = .next (run (atomic 5 8 (umin 64 a) src tag addr a 0 noret) s) := hT.done _
theorem exec_umax32 (hT : Takes s (.umax32 src tag addr a noret)) :
    exec (.umax32 src tag addr a noret) s = .next (run (atomic 6 4 (umax 32 a) src tag addr a 0 noret) s) := hT.done _
theorem exec_umax64 (hT : Takes s (.umax64 src tag addr a noret)) :
    exec (.umax64 src tag addr a noret) s = .next (run (atomic 7 8 (umax 64 a) src tag addr a 0 noret) s) := hT.done _
theorem exec_smin32 (hT : Takes s (.smin32 src tag addr a noret)) :
    exec (.smin32 src tag addr a noret) s = .next (run (atomic 8 4 (smin 32 a) src tag addr a 0 noret) s) := hT.done _
theorem exec_smin64 (hT : Takes s (.smin64 src tag addr a noret)) :
    exec (.smin64 src tag addr a noret) s = .next (run (atomic 9 8 (smin 64 a) src tag addr a 0 noret) s) := hT.done _
theorem exec_smax32 (hT : Takes s (.smax32 src tag addr a noret)) :
    exec (.smax32 src tag addr a noret) s = .next (run (atomic 10 4 (smax 32 a) src tag addr a 0 noret) s) := hT.done _
theorem exec_smax64 (hT : Takes s (.smax64 src tag addr a noret)) :
    exec (.smax64 src tag addr a noret) s = .next (run (atomic 11 8 (smax 64 a) src tag addr a 0 noret) s) := hT.done _
theorem exec_cas32 (hT : Takes s (.cas32 src tag addr compare a noret)) :
    exec (.cas32 src tag addr compare a noret) s = .next (run (atomic 2 4 (cas 32 compare a) src tag addr compare a noret) s) := hT.done _
theorem exec_cas64 (hT : Takes s (.cas64 src tag addr compare a noret)) :
    exec (.cas64 src tag addr compare a noret) s = .next (run (atomic 3 8 (cas 64 compare a) src tag addr compare a noret) s) := hT.done _
theorem exec_fpadd32 (hT : Takes s (.fpadd32 src tag addr a noret)) :
    exec (.fpadd32 src tag addr a noret) s = .next (run (atomic 12 4 (fpadd a) src tag addr a 0 noret) s) := hT.done _

end

/-- Settles O27: each atomic stores its operation's value and answers the old one (`atomicDone_of_value`), with the operation's value taken
to the width of the word. -/
theorem atomicsTakeEffect : Obligations.AtomicsTakeEffect := by
  refine ⟨?_, ?_, ?_, ?_, ?_, ?_, ?_, ?_, ?_, ?_, ?_, ?_, ?_⟩
  · intro s src tag addr a noret p hs hT hadmit hat
    exact ⟨_, exec_fadd32 hT, atomicDone_of_value hs hadmit hat rfl⟩
  · intro s src tag addr a noret p hs hT hadmit hat
    exact ⟨_, exec_fadd64 hT, atomicDone_of_value hs hadmit hat rfl⟩
  · intro s src tag addr a noret p hs hT hadmit hat
    have ha : a < 2 ^ 32 := lt_of_atomicWf hT.form (List.mem_singleton_self a)
    exact ⟨_, exec_umin32 hT, atomicDone_of_value hs hadmit hat (umin_mod ha (num_lt s p 4))⟩
  · intro s src tag addr a noret p hs hT hadmit hat
    have ha : a < 2 ^ 64 := lt_of_atomicWf hT.form (List.mem_singleton_self a)
    exact ⟨_, exec_umin64 hT, atomicDone_of_value hs hadmit hat (umin_mod ha (num_lt s p 8))⟩
  · intro s src tag addr a noret p hs hT hadmit hat
    have ha : a < 2 ^ 32 := lt_of_atomicWf hT.form (List.mem_singleton_self a)
    exact ⟨_, exec_umax32 hT, atomicDone_of_value hs hadmit hat (umax_mod ha (num_lt s p 4))⟩
  · intro s src tag addr a noret p hs hT hadmit hat
    have ha : a < 2 ^ 64 := lt_of_atomicWf hT.form (List.mem_singleton_self a)
    exact ⟨_, exec_umax64 hT, atomicDone_of_value hs hadmit hat (umax_mod ha (num_lt s p 8))⟩
  · intro s src tag addr a noret p hs hT hadmit hat
    have ha : a < 2 ^ 32 := lt_of_atomicWf hT.form (List.mem_singleton_self a)
    exact ⟨_, exec_smin32 hT, atomicDone_of_value hs hadmit hat (smin_mod ha (num_lt s p 4) (by decide))⟩
  · intro s src tag addr a noret p hs hT hadmit hat
    have ha : a < 2 ^ 64 := lt_of_atomicWf hT.form (List.mem_singleton_self a)
    exact ⟨_, exec_smin64 hT, atomicDone_of_value hs hadmit hat (smin_mod ha (num_lt s p 8) (by decide))⟩
  · intro s src tag addr a noret p hs hT hadmit hat
    have ha : a < 2 ^ 32 := lt_of_atomicWf hT.form (List.mem_singleton_self a)
    exact ⟨_, exec_smax32 hT, atomicDone_of_value hs hadmit hat (smax_mod ha (num_lt s p 4) (by decide))⟩
  · intro s src tag addr a noret p hs hT hadmit hat
    have ha : a < 2 ^ 64 := lt_of_atomicWf hT.form (List.mem_singleton_self a)
    exact ⟨_, exec_smax64 hT, atomicDone_of_value hs hadmit hat (smax_mod ha (num_lt s p 8) (by decide))⟩
  · intro s src tag addr x a noret p hs hT hadmit hat
    have hx : x < 2 ^ 32 := lt_of_atomicWf hT.form (List.mem_cons_self ..)
    have ha : a < 2 ^ 32 := lt_of_atomicWf hT.form (List.mem_cons_of_mem _ (List.mem_singleton_self a))
    exact ⟨_, exec_cas32 hT, atomicDone_of_value hs hadmit hat (cas_mod ha (num_lt s p 4) hx)⟩
  · intro s src tag addr x a noret p hs hT hadmit hat
    have hx : x < 2 ^ 64 := lt_of_atomicWf hT.form (List.mem_cons_self ..)
    have ha : a < 2 ^ 64 := lt_of_atomicWf hT.form (List.mem_cons_of_mem _ (List.mem_singleton_self a))
    exact ⟨_, exec_cas64 hT, atomicDone_of_value hs hadmit hat (cas_mod ha (num_lt s p 8) hx)⟩
  · intro s src tag addr a noret p hs hT hadmit hat
    have ha : a < 2 ^ 32 := lt_of_atomicWf hT.form (List.mem_singleton_self a)
    exact ⟨_, exec_fpadd32 hT, atomicDone_of_value hs hadmit hat (by rw [fpadd, Nat.mod_eq_of_lt ha])⟩

end Sys2Proof.Machine
end

section
/-! SUPPORT. Arrival counters where a store to them has its own effect (R228 to R233, 08_fabric_memory_semantics.md). -/

namespace Sys2Proof.Machine

@[simp] theorem run_dropFld_body (f : Fld) (n : Nat) (s : State) : (run (dropFld f n) s).body = s.body := by rw [run_dropFld, run_setFld_body]
@[simp] theorem run_dropFld_mem (f : Fld) (n : Nat) (s : State) : (run (dropFld f n) s).mem = s.mem := by rw [run_dropFld, run_setFld_mem]
@[simp] theorem run_dropFld_led (f : Fld) (n : Nat) (s : State) : (run (dropFld f n) s).led = s.led := by rw [run_dropFld, run_setFld_led]

/-! ### Which store a command is (R228, R232) -/

section
variable {s : State} {window : Option Nat} {n v tg r : Nat}

theorem lt_of_acnWf (h : acnWf window n = true) : n < 65536 := of_decide_eq_true (Bool.and_eq_true_iff.1 h).2

theorem lt_of_acnWf_and {b : Bool} (h : (acnWf window n && b) = true) : n < 65536 := lt_of_acnWf (Bool.and_eq_true_iff.1 h).1

theorem arm_operands_lt (h : (acnWf window n && decide (tg < 2 ^ 32) && decide (r < 256)) = true) : n < 65536 ∧ tg < 2 ^ 32 ∧ r < 256 := by
  simp only [Bool.and_eq_true, decide_eq_true_eq] at h
  exact ⟨lt_of_acnWf h.1.1, h.1.2, h.2⟩

theorem exec_acnSignal (hT : Takes s (.acnSignal window n v)) :
    exec (.acnSignal window n v) s = .next (run (acnStore window (32 * n + 16) (leBytes 4 v)) s) := hT.done _

theorem exec_acnArm (hT : Takes s (.acnArm window n tg r)) : exec (.acnArm window n tg r) s =
    .next (run (acnStore window (32 * n + 8) (leBytes 8 (tg % 2 ^ 32 + r % 256 * 2 ^ 32 + 2 ^ 40))) s) := hT.done _

theorem exec_acnDisarm (hT : Takes s (.acnDisarm window n tg r)) : exec (.acnDisarm window n tg r) s =
    .next (run (acnStore window (32 * n + 8) (leBytes 8 (tg % 2 ^ 32 + r % 256 * 2 ^ 32))) s) := hT.done _

/-- The counter may be stored to: aperture 3 reaches every counter, a window those of its range. -/
def counterInReach (s : State) (window : Option Nat) (n : Nat) : Prop := ∀ w, window = some w → inAcnRange s w n = true

theorem counterInReach_none (s : State) (n : Nat) : counterInReach s none n := fun _ h => nomatch h
theorem counterInReach_some {w : Nat} (h : inAcnRange s w n = true) : counterInReach s (some w) n := fun _ hw => Option.some.inj hw ▸ h

/-- A store within one counter that the window reaches arms or disarms, adds 1, or is performed as nothing. -/
theorem run_acnStore_within {o : Nat} {d : List Byte} (hn : n < 65536) (hreach : counterInReach s window n) (ho : o + d.length ≤ 32)
    (hd : 0 < d.length) : run (acnStore window (32 * n + o) d) s =
      if o = 8 ∧ d.length = 8 then run (armStore n (leNat d)) s else if o = 16 ∧ d.length = 4 then run (arrive n .signal) s else s := by
  have hfirst : (32 * n + o) / 32 = n := by omega
  have hlast : (32 * n + o + d.length - 1) / 32 = n := by omega
  have hoff : (32 * n + o) % 32 = o := by omega
  have hmax : ¬ 65535 < n := by omega
  rw [acnStore, run_look]
  cases window with
  | none =>
    simp only [hfirst, hoff, hmax, Bool.false_eq_true, reduceIte]
    split_ifs <;> rfl
  | some w =>
    simp only [hfirst, hlast, hoff, hmax, hreach w rfl, Bool.not_true, Bool.or_self, Bool.false_eq_true, reduceIte]
    split_ifs <;> rfl

theorem exec_acnSignal_reached (hT : Takes s (.acnSignal window n v)) (hreach : counterInReach s window n) :
    exec (.acnSignal window n v) s = .next (run (arrive n .signal) s) := by
  rw [exec_acnSignal hT, run_acnStore_within (lt_of_acnWf_and hT.form) hreach (by rw [length_leBytes]; decide)
    (by rw [length_leBytes]; decide), length_leBytes]
  rfl

theorem run_acnStore_arm (hn : n < 65536) (hv : v < 2 ^ 64) (hreach : counterInReach s window n) :
    run (acnStore window (32 * n + 8) (leBytes 8 v)) s = run (armStore n v) s := by
  rw [run_acnStore_within hn hreach (by rw [length_leBytes]; decide) (by rw [length_leBytes]; decide), length_leBytes,
    leNat_leBytes_of_lt hv]
  rfl

theorem exec_acnArm_reached (hT : Takes s (.acnArm window n tg r)) (hreach : counterInReach s window n) :
    exec (.acnArm window n tg r) s = .next (run (armStore n (tg + r * 2 ^ 32 + 2 ^ 40)) s) := by
  obtain ⟨hn, htg, hr⟩ := arm_operands_lt hT.form
  rw [exec_acnArm hT, Nat.mod_eq_of_lt htg, Nat.mod_eq_of_lt hr, run_acnStore_arm hn (by omega) hreach]

theorem exec_acnDisarm_reached (hT : Takes s (.acnDisarm window n tg r)) (hreach : counterInReach s window n) :
    exec (.acnDisarm window n tg r) s = .next (run (armStore n (tg + r * 2 ^ 32)) s) := by
  obtain ⟨hn, htg, hr⟩ := arm_operands_lt hT.form
  rw [exec_acnDisarm hT, Nat.mod_eq_of_lt htg, Nat.mod_eq_of_lt hr, run_acnStore_arm hn (by omega) hreach]

theorem exec_acnSignal_outside {w : Nat} (hT : Takes s (.acnSignal (some w) n v)) (hout : inAcnRange s w n = false) :
    exec (.acnSignal (some w) n v) s = .next (run (raise Blk.acn 2) s) := by
  have hn : (32 * n + 16) / 32 = n := by omega
  rw [exec_acnSignal hT, acnStore, run_look]
  simp only [hn, hout, Bool.not_false, Bool.true_or, reduceIte]

end

/-! ### A counter after its replacement -/

section
variable {s t : State} {n : Nat} {c : Counter}

theorem counter_congr (h : t.body.acn = s.body.acn) (k : Nat) : t.counter k = s.counter k := by rw [State.counter, h, State.counter]

theorem run_setCounter (n : Nat) (c : Counter) (s : State) : run (setCounter n c) s =
    { s with body := { s.body with acn := { s.body.acn with counters := tput s.body.acn.counters n c } } } := by
  rw [setCounter, run_onBody]

theorem run_setCounter_counters (n : Nat) (c : Counter) (s : State) :
    (run (setCounter n c) s).body.acn.counters = tput s.body.acn.counters n c := by rw [run_setCounter]
@[simp] theorem run_setCounter_mem (n : Nat) (c : Counter) (s : State) : (run (setCounter n c) s).mem = s.mem := by rw [run_setCounter]
@[simp] theorem run_setCounter_led (n : Nat) (c : Counter) (s : State) : (run (setCounter n c) s).led = s.led := by rw [run_setCounter]

@[simp] theorem counter_setCounter_same : (run (setCounter n c) s).counter n = c := by
  rw [State.counter, run_setCounter_counters, tget_tput_same, Option.getD_some]

theorem counter_setCounter_other {k : Nat} (h : k ≠ n) : (run (setCounter n c) s).counter k = s.counter k := by
  rw [State.counter, run_setCounter_counters, tget_tput_other _ _ h, State.counter]

/-! ### Firing (R230) -/

theorem run_fireCheck_waits (h : (s.counter n).armed = true → reached (s.counter n) = false) : run (fireCheck n) s = s := by
  have hwait : ((s.counter n).armed && reached (s.counter n)) = false := by
    cases ha : (s.counter n).armed with
    | false => rw [Bool.false_and]
    | true => rw [h ha, Bool.and_false]
  rw [fireCheck, run_look]
  simp only [hwait, Bool.false_eq_true, reduceIte, run_nop]

/-- What a counter holds once it has fired. -/
abbrev Counter.spent (c : Counter) : Counter := { c with armed := false, fired := true }

theorem run_fireCheck_fires (harmed : (s.counter n).armed = true) (hreached : reached (s.counter n) = true) :
    run (fireCheck n) s = run (acts [setCounter n (s.counter n).spent, dropFld Fld.ACN_STATUS_ARMED 1, raiseEvent n (s.counter n).spent]) s := by
  rw [fireCheck, run_look]
  simp only [harmed, hreached, Bool.and_self, reduceIte]

/-! ### Increments (R229, R233) -/

/-- What a counter holds after an increment. -/
abbrev Counter.incremented (c : Counter) : Counter := { c with count := wrapAdd 32 c.count 1 }

theorem run_arrive_waits (src : ArriveSrc) (h : (s.counter n).armed = true → reached (s.counter n).incremented = false) :
    run (arrive n src) s = run (setCounter n (s.counter n).incremented) (run (eff (.arrive src)) s) := by
  rw [arrive, run_look]
  simp only [run_acts_cons, run_acts_nil]
  exact run_fireCheck_waits (by rwa [counter_setCounter_same])

theorem run_arrive_fires (src : ArriveSrc) (harmed : (s.counter n).armed = true) (hreached : reached (s.counter n).incremented = true) :
    run (arrive n src) s = run (acts [eff (.arrive src), setCounter n (s.counter n).incremented,
      setCounter n (s.counter n).incremented.spent, dropFld Fld.ACN_STATUS_ARMED 1, raiseEvent n (s.counter n).incremented.spent]) s := by
  have hsame := counter_setCounter_same (s := run (eff (.arrive src)) s) (n := n) (c := (s.counter n).incremented)
  rw [arrive, run_look]
  simp only [run_acts_cons, run_acts_nil]
  rw [run_fireCheck_fires (by rwa [hsame]) (by rwa [hsame]), hsame]
  simp only [run_acts_cons, run_acts_nil]

/-! ### Arming and disarming (R228, R230) -/

/-- What a counter holds after an arming store. -/
abbrev Counter.armedAt (c : Counter) (tg r : Nat) : Counter := { c with target := tg, route := r, armed := true, fired := false }

variable {tg r : Nat}

/-- ACN_STATUS.ARMED counts a counter that was not armed. -/
theorem run_armStore_arms (htg : tg < 2 ^ 32) (hr : r < 256) : run (armStore n (tg + r * 2 ^ 32 + 2 ^ 40)) s =
    run (fireCheck n) (run (when (!(s.counter n).armed) (bumpFld Fld.ACN_STATUS_ARMED 1)) (run (setCounter n ((s.counter n).armedAt tg r)) s)) := by
  have hbit : bitsOf (tg + r * 2 ^ 32 + 2 ^ 40) 40 1 = 1 := by unfold bitsOf; omega
  have htarget : bitsOf (tg + r * 2 ^ 32 + 2 ^ 40) 0 32 = tg := by unfold bitsOf; omega
  have hroute : bitsOf (tg + r * 2 ^ 32 + 2 ^ 40) 32 8 = r := by unfold bitsOf; omega
  rw [armStore, run_look]
  simp only [hbit, htarget, hroute, beq_self_eq_true, reduceIte, run_acts_cons, run_acts_nil, run_when]
  cases (s.counter n).armed <;> simp only [run_nop, Bool.not_true, Bool.not_false, Bool.false_eq_true, reduceIte]

theorem counter_arming (b : Bool) (f : Fld) (k : Nat) : (run (when b (bumpFld f k)) (run (setCounter n c) s)).counter n = c := by
  rw [run_when]
  split
  · rw [counter_congr (congrArg Body.acn (run_bumpFld_body _ _ _)), counter_setCounter_same]
  · exact counter_setCounter_same

theorem run_armStore_waits (htg : tg < 2 ^ 32) (hr : r < 256) (hreached : reached ((s.counter n).armedAt tg r) = false) :
    run (armStore n (tg + r * 2 ^ 32 + 2 ^ 40)) s =
      run (when (!(s.counter n).armed) (bumpFld Fld.ACN_STATUS_ARMED 1)) (run (setCounter n ((s.counter n).armedAt tg r)) s) := by
  rw [run_armStore_arms htg hr]
  exact run_fireCheck_waits fun _ => by rwa [counter_arming]

theorem run_armStore_fires (htg : tg < 2 ^ 32) (hr : r < 256) (hreached : reached ((s.counter n).armedAt tg r) = true) :
    run (armStore n (tg + r * 2 ^ 32 + 2 ^ 40)) s = run (acts [setCounter n ((s.counter n).armedAt tg r),
      when (!(s.counter n).armed) (bumpFld Fld.ACN_STATUS_ARMED 1), setCounter n ((s.counter n).armedAt tg r).spent,
      dropFld Fld.ACN_STATUS_ARMED 1, raiseEvent n ((s.counter n).armedAt tg r).spent]) s := by
  rw [run_armStore_arms htg hr, run_fireCheck_fires (by rw [counter_arming]) (by rwa [counter_arming]), counter_arming]
  simp only [run_acts_cons, run_acts_nil]

/-- A disarming store keeps COUNT, TARGET, ROUTE and FIRED; a counter that is not armed does not fire. -/
theorem run_armStore_disarms (htg : tg < 2 ^ 32) (hr : r < 256) : run (armStore n (tg + r * 2 ^ 32)) s =
    run (when (s.counter n).armed (dropFld Fld.ACN_STATUS_ARMED 1)) (run (setCounter n { s.counter n with armed := false }) s) := by
  have hbit : (bitsOf (tg + r * 2 ^ 32) 40 1 == 1) = false := beq_eq_false_iff_ne.2 (by unfold bitsOf; omega)
  rw [armStore, run_look]
  simp only [hbit, Bool.false_eq_true, reduceIte, run_acts_cons, run_acts_nil, run_when]
  cases (s.counter n).armed with
  | false =>
    simp only [run_nop, Bool.false_eq_true, reduceIte]
    exact run_fireCheck_waits fun h => by rw [counter_setCounter_same] at h; cases h
  | true =>
    simp only [reduceIte]
    refine run_fireCheck_waits fun h => ?_
    rw [counter_congr (congrArg Body.acn (run_dropFld_body _ _ _)), counter_setCounter_same] at h
    cases h

/-- A counter is replaced, and a field of a register changes besides. -/
theorem setCounter_frame {b : Bool} {a : Act} (ha : ∀ s, (run a s).body = s.body ∧ (run a s).mem = s.mem ∧ (run a s).led = s.led) (s : State) :
    (run (when b a) (run (setCounter n c) s)).counter n = c ∧
      (∀ k, k ≠ n → (run (when b a) (run (setCounter n c) s)).counter k = s.counter k) ∧
      (run (when b a) (run (setCounter n c) s)).mem = s.mem ∧ (run (when b a) (run (setCounter n c) s)).led = s.led := by
  have hset : ∀ k, k ≠ n → (run (setCounter n c) s).counter k = s.counter k := fun k hk => counter_setCounter_other hk
  rw [run_when]
  split
  · obtain ⟨hbody, hmem, hled⟩ := ha (run (setCounter n c) s)
    refine ⟨?_, fun k hk => ?_, hmem.trans (run_setCounter_mem _ _ _), hled.trans (run_setCounter_led _ _ _)⟩
    · rw [counter_congr (congrArg Body.acn hbody), counter_setCounter_same]
    · rw [counter_congr (congrArg Body.acn hbody), hset k hk]
  · exact ⟨counter_setCounter_same, hset, run_setCounter_mem _ _ _, run_setCounter_led _ _ _⟩

end

/-- Settles O28: a store goes to its counter (`run_acnStore_within`), which fires or waits by the test of R230 (`run_fireCheck_fires`,
`run_fireCheck_waits`). -/
theorem countersTakeEffect : Obligations.CountersTakeEffect := by
  refine ⟨?_, ?_, ?_, ?_, ?_, ?_, ?_, ?_, ?_, ?_⟩
  · intro s n v hT hwait
    refine ⟨_, exec_acnSignal_reached hT (counterInReach_none s n), ?_⟩
    rw [run_arrive_waits .signal hwait, run_eff]
    refine ⟨counter_setCounter_same, fun k hk => ?_, ?_, ?_, ?_⟩
    · rw [counter_setCounter_other hk, counter_congr (congrArg Body.acn (applyEff_arrive_body _ _))]
    · rw [run_setCounter_led]; rfl
    · rw [run_setCounter_led]; rfl
    · rw [run_setCounter_mem, applyEff_arrive_mem]
  · intro s n v hT harmed hreached
    refine ⟨(s.counter n).incremented.spent, rfl, rfl, rfl, rfl, ?_⟩
    rw [exec_acnSignal_reached hT (counterInReach_none s n), run_arrive_fires .signal harmed hreached]
  · intro s n tg r hT hreached
    obtain ⟨_, htg, hr⟩ := arm_operands_lt hT.form
    refine ⟨_, exec_acnArm_reached hT (counterInReach_none s n), ?_⟩
    rw [run_armStore_waits htg hr hreached]
    exact setCounter_frame (fun s => ⟨run_bumpFld_body _ _ s, run_bumpFld_mem _ _ s, run_bumpFld_led _ _ s⟩) s
  · intro s n tg r hT harmed hreached
    obtain ⟨_, htg, hr⟩ := arm_operands_lt hT.form
    refine ⟨((s.counter n).armedAt tg r).spent, rfl, rfl, rfl, rfl, rfl, ?_⟩
    rw [exec_acnArm_reached hT (counterInReach_none s n), run_armStore_fires htg hr hreached, harmed]
    simp only [run_acts_cons, run_acts_nil, run_when, Bool.not_true, Bool.false_eq_true, reduceIte]
  · intro s n tg r hT harmed hreached
    obtain ⟨_, htg, hr⟩ := arm_operands_lt hT.form
    refine ⟨((s.counter n).armedAt tg r).spent, rfl, rfl, rfl, rfl, rfl, ?_⟩
    rw [exec_acnArm_reached hT (counterInReach_none s n), run_armStore_fires htg hr hreached, harmed]
    simp only [run_acts_cons, run_acts_nil, run_when, Bool.not_false, reduceIte]
  · intro s n tg r hT
    obtain ⟨_, htg, hr⟩ := arm_operands_lt hT.form
    refine ⟨_, exec_acnDisarm_reached hT (counterInReach_none s n), ?_⟩
    rw [run_armStore_disarms htg hr]
    exact setCounter_frame (fun s => ⟨run_dropFld_body _ _ s, run_dropFld_mem _ _ s, run_dropFld_led _ _ s⟩) s
  · intro s w n v hT hout
    exact exec_acnSignal_outside hT hout
  · intro s w n v hT hin
    exact exec_acnSignal_reached hT (counterInReach_some hin)
  · intro s w n tg r hT hin
    exact exec_acnArm_reached hT (counterInReach_some hin)
  · intro s w n tg r hT hin
    exact exec_acnDisarm_reached hT (counterInReach_some hin)

end Sys2Proof.Machine
end

section
/-! SUPPORT. Answers, timeouts and fences of this chip as a requester (R207, R212, R213, R249, 08_fabric_memory_semantics.md). -/

namespace Sys2Proof.Machine

section
variable {s : State} {tag st : Nat} {data : List Byte} {who : Requester}

theorem exec_accessAnswer (hT : Takes s (.accessAnswer tag st data)) :
    exec (.accessAnswer tag st data) s = .next (run (actAccessAnswer tag st data) s) := done_works hT.works
theorem exec_loadTimeout {page : Bool} (hT : Takes s (.loadTimeout page tag)) :
    exec (.loadTimeout page tag) s = .next (run (actLoadTimeout page tag) s) := done_works hT.works
theorem exec_fabricFence (hT : Takes s (.fabricFence who)) : exec (.fabricFence who) s = .next (run (actFabricFence who) s) :=
  done_works hT.works

/-! ### Answers and timeouts -/

/-- An answer with OK is no refusal and brings no error: it ends its access. -/
theorem run_actAccessAnswer_ok {a : Access} (hwaits : tget s.body.fabric.waiting tag = some a) :
    run (actAccessAnswer tag Ans.ok data) s = run (acts [onFabric (fun f => { f with waiting := tdel f.waiting tag }),
      accessOver a Ans.ok data, fenceDone a.who]) s := by
  have hreject : (Ans.ok == Ans.reject) = false := rfl
  have hue : (Ans.ok == Ans.ue) = false := rfl
  rw [actAccessAnswer, run_look]
  simp only [hwaits, hreject, hue, run_acts_cons, run_acts_nil, run_when, Bool.false_eq_true, reduceIte]

theorem run_actAccessAnswer_late (hlate : tget s.body.fabric.waiting tag = none) : run (actAccessAnswer tag st data) s = s := by
  rw [actAccessAnswer, run_look]
  simp only [hlate, run_nop]

theorem run_timeoutAccess_fenced {a : Access} (hwaits : tget s.body.fabric.waiting tag = some a) (hwho : holdsToFence a.who = false) :
    run (timeoutAccess tag) s = run (acts [onFabric (fun f => { f with waiting := tdel f.waiting tag }), count Reg.MOV_TIMEOUTS 1,
      raise Blk.mov 3, accessOver a Ans.timeout [], fenceDone a.who]) s := by
  rw [timeoutAccess, run_look]
  simp only [hwaits, hwho, Bool.false_eq_true, reduceIte]

theorem run_timeoutRead_page {r : PageRead} (hread : tget s.body.pages.reads tag = some r) (hchip : refChip r.src ≠ s.chipId)
    (htier : refTier r.src ≤ 1) (hmov : r.mov = none) : run (timeoutRead tag) s =
      run (acts [count Reg.MOV_TIMEOUTS 1, raise Blk.mov 3, stallSync 0, readFailed tag, stallSync 0]) s := by
  rw [timeoutRead, run_look]
  simp only [hread, hchip, Nat.not_lt.2 htier, hmov, or_self, reduceIte]

/-! ### Fences (R212) -/

/-- A requester that fences for the first time: its fence is noted and looked at. -/
theorem run_actFabricFence_new (hnew : who ∉ s.body.fabric.fences) : run (actFabricFence who) s =
    run (fenceDone who) (run (onFabric fun f => { f with fences := f.fences ++ [who] }) s) := by
  rw [actFabricFence, run_look, if_neg (mt List.contains_iff_mem.1 hnew), run_acts_cons, run_acts_cons, run_acts_nil]

theorem run_fenceDone_waits (hwaits : ∃ e ∈ s.body.fabric.waiting, e.2.who = who) : run (fenceDone who) s = s := by
  have hany : (s.body.fabric.waiting.any fun e => e.2.who == who) = true := by
    simpa only [List.any_eq_true, beq_iff_eq] using hwaits
  rw [fenceDone, run_look]
  simp only [hany, Bool.not_true, Bool.and_false, run_when, Bool.false_eq_true, reduceIte]

/-- Nothing of a requester is held back: releasing it sends nothing. -/
theorem run_releaseHeld_none (hheld : ∀ e ∈ s.body.fabric.held, e.1 ≠ who) :
    run (releaseHeld who) s = run (onFabric fun f => { f with held := f.held.filter fun e => e.1 != who }) s := by
  have hnone : (s.body.fabric.held.filter fun e => e.1 == who) = [] :=
    List.filter_eq_nil_iff.2 fun e he => by simpa only [beq_iff_eq] using hheld e he
  rw [releaseHeld, run_look]
  simp only [hnone, run_acts_cons, run_acts_nil, run_each_nil]

@[simp] theorem run_onFabric_fabric (f : Fabric → Fabric) (s : State) : (run (onFabric f) s).body.fabric = f s.body.fabric := by
  rw [onFabric, run_onBody]
@[simp] theorem run_onFabric_out (f : Fabric → Fabric) (s : State) : (run (onFabric f) s).body.out = s.body.out := by
  rw [onFabric, run_onBody]
@[simp] theorem run_emit_fabric (o : Output) (s : State) : (run (emit o) s).body.fabric = s.body.fabric := by rw [run_emit]

/-- A fence none of whose requester's accesses waits, has timed out or is held back is complete, without an error. -/
theorem run_fenceDone_completes (hfence : who ∈ s.body.fabric.fences) (hwaits : ∀ e ∈ s.body.fabric.waiting, e.2.who ≠ who)
    (hfailed : ∀ e ∈ s.body.fabric.failed, e.1 ≠ who) (hheld : ∀ e ∈ s.body.fabric.held, e.1 ≠ who) :
    (run (fenceDone who) s).body.out = s.body.out ++ [Output.fenced who true] ∧
      (run (fenceDone who) s).body.fabric.waiting = s.body.fabric.waiting := by
  have hidle : (s.body.fabric.waiting.any fun e => e.2.who == who) = false := by
    simpa only [List.any_eq_false, beq_iff_eq] using hwaits
  have hclean : (s.body.fabric.failed.any fun e => e.1 == who) = false := by
    simpa only [List.any_eq_false, beq_iff_eq] using hfailed
  rw [fenceDone, run_look]
  simp only [List.contains_iff_mem.2 hfence, hidle, hclean, Bool.not_false, Bool.and_self, run_when, reduceIte, run_acts_cons, run_acts_nil]
  rw [run_releaseHeld_none (by simpa only [run_onFabric_fabric, run_emit_fabric] using hheld)]
  simp only [run_onFabric_out, run_emit_out, run_onFabric_fabric, run_emit_fabric, and_self]

end

/-- Settles O25: an answer or a timeout by the access or the read that waits (`run_actAccessAnswer_ok`, `run_timeoutAccess_fenced`,
`run_timeoutRead_page`), a fence by what its requester waits for (`run_fenceDone_waits`, `run_fenceDone_completes`). -/
theorem requesterRowsTakeEffect : Obligations.RequesterRowsTakeEffect := by
  refine ⟨?_, ?_, ?_, ?_, ?_, ?_⟩
  · intro s tag data a hT hwaits
    rw [exec_accessAnswer hT, run_actAccessAnswer_ok hwaits]
  · intro s tag st data hT hlate
    rw [exec_accessAnswer hT, run_actAccessAnswer_late hlate]
  · intro s tag a hT hwaits hwho
    rw [exec_loadTimeout hT, actLoadTimeout, if_neg Bool.false_ne_true, run_timeoutAccess_fenced hwaits hwho]
  · intro s tag r hT hread hchip htier hmov
    rw [exec_loadTimeout hT, actLoadTimeout, if_pos rfl, run_timeoutRead_page hread hchip htier hmov]
  · intro s who hT hnew hwaits
    refine ⟨_, exec_fabricFence hT, ?_⟩
    rw [run_actFabricFence_new hnew, run_fenceDone_waits (by simpa only [run_onFabric_fabric] using hwaits)]
    simp only [run_onFabric_fabric, run_onFabric_out, and_self]
  · intro s who hT hnew hwaits hfailed hheld
    refine ⟨_, exec_fabricFence hT, ?_⟩
    rw [run_actFabricFence_new hnew]
    have hdone := run_fenceDone_completes (who := who) (s := run (onFabric fun f => { f with fences := f.fences ++ [who] }) s)
      (by rw [run_onFabric_fabric]; exact List.mem_append_right _ (List.mem_singleton_self who))
      (by simpa only [run_onFabric_fabric] using hwaits) (by simpa only [run_onFabric_fabric] using hfailed)
      (by simpa only [run_onFabric_fabric] using hheld)
    simpa only [run_onFabric_fabric, run_onFabric_out] using hdone

end Sys2Proof.Machine
end

section
/-! SUPPORT. The mover: its doorbell, the acceptance, start and end of its descriptors (R224 to R227, 08_fabric_memory_semantics.md). -/

namespace Sys2Proof.Machine

section
variable {s : State} {q i op : Nat} {bs : List Byte}

theorem exec_movQueueDoorbell {tail : Nat} (hT : Takes s (.movQueueDoorbell q tail)) :
    exec (.movQueueDoorbell q tail) s = .next (run (qDoorbell .mov q tail) s) := hT.done _
theorem exec_copy (hT : Takes s (.copy_ q)) : exec (.copy_ q) s = .next (run (movAccept MovOp.copy q) s) := hT.done _
theorem exec_copyPage (hT : Takes s (.copyPage q)) : exec (.copyPage q) s = .next (run (movAccept MovOp.copyPage q) s) := hT.done _
theorem exec_fill (hT : Takes s (.fill q)) : exec (.fill q) s = .next (run (movAccept MovOp.fill q) s) := hT.done _
theorem exec_barrier (hT : Takes s (.barrier q)) : exec (.barrier q) s = .next (run (movAccept MovOp.barrier q) s) := hT.done _
theorem exec_moverDescriptorEnd {id : Nat} (hT : Takes s (.moverDescriptorEnd id)) :
    exec (.moverDescriptorEnd id) s = .next (run (actMoverEnd id) s) := done_works hT.works

/-- A doorbell of an open queue within its depth, for either kind of queue (R70, R224). -/
theorem run_qDoorbell_open {k : QKind} {tail : Nat} (hq : q < 64) (hopen : qOpen s k q = true) (hreenable : q ∉ s.qReenable k)
    (htail : tail < s.qDepth k q) : run (qDoorbell k q tail) s = run (setFld (qTail k q) tail) s := by
  have hnot : (s.qReenable k).contains q = false := Bool.eq_false_iff.2 (mt List.contains_iff_mem.1 hreenable)
  rw [qDoorbell, run_look]
  simp only [hq, hopen, hnot, htail, decide_true, Bool.not_false, Bool.and_self, reduceIte]

/-! ### Acceptance (R224, R226) -/

/-- The next descriptor is accepted and starts where its opcode is the row's, fewer than the limit run, and none runs that it must wait
for. -/
theorem run_movAccept_takes (hnext : nextDesc s .mov q = some (i, bs)) (hop : (movDescOf bs).op = op)
    (hlimit : (s.body.mover.live.filter fun e => e.2.q == q).length < s.get Fld.MOV_CAPS_INFLIGHT)
    (hfence : (movDescOf bs).fence = true ∨ op = MovOp.barrier → ∀ e ∈ s.body.mover.live, e.2.q ≠ q) :
    run (movAccept op q) s = run (movStart s.body.mover.next) (run (movTake q i bs) s) := by
  have hwait : (((movDescOf bs).fence || op == MovOp.barrier) && (s.body.mover.live.filter fun e => e.2.q == q).length != 0) = false := by
    by_cases h : (movDescOf bs).fence = true ∨ op = MovOp.barrier
    · have hnone : (s.body.mover.live.filter fun e => e.2.q == q) = [] :=
        List.filter_eq_nil_iff.2 fun e he => by simpa only [beq_iff_eq] using hfence h e he
      rw [hnone, List.length_nil, bne_self_eq_false, Bool.and_false]
    · obtain ⟨hf, ho⟩ := not_or.1 h
      rw [Bool.eq_false_iff.2 hf, beq_eq_false_iff_ne.2 ho, Bool.or_self, Bool.false_and]
  rw [movAccept, run_look]
  simp only [hnext, hop, hwait, Nat.not_le.2 hlimit, bne_self_eq_false, Bool.false_and, Bool.false_eq_true, decide_false, Bool.or_self,
    reduceIte, run_acts_cons, run_acts_nil]

end

/-! ### The start (R225, R226) -/

section
variable {s : State} {id : Nat} {m : Mov} (hlive : tget s.body.mover.live id = some m)
include hlive

theorem run_movStart_badForm (hform : movFormOk m.desc (movDescOf m.desc) = false) :
    run (movStart id) s = run (modMov id fun x => { x with status := St.invalid }) s := by
  rw [movStart, run_look]
  simp only [hlive, hform, Bool.not_false, Bool.true_or, reduceIte]

/-- What a descriptor that passes its checks sends out. -/
def movOut (id : Nat) (d : MovDesc) : Act := match d.op with
  | 1 => acts [modMov id (fun x => { x with left := (movParts d).length }),
               each (movParts d) fun p => sendAccess (.mov id) (d.src + p.1) (.load p.2)]
  | 2 => acts [modMov id (fun x => { x with left := 1 }), movReadPage id d]
  | 3 => acts [modMov id (fun x => { x with left := (movParts d).length }),
               each (movParts d) fun p => sendAccess (.mov id) (d.dst + p.1) (.store (fillBytes d.pattern p.2))]
  | _ => nop

theorem run_movStart_passes {ctx : AccCtx} (hform : movFormOk m.desc (movDescOf m.desc) = true)
    (harrival : qArrivalOk s .mov m.q (movDescOf m.desc).arrival = true) (hctx : qCtx s .mov m.q = some ctx)
    (hpass : movPass s ctx (movDescOf m.desc) = true) : run (movStart id) s = run (movOut id (movDescOf m.desc)) s := by
  rw [movStart, run_look]
  simp only [hlive, hform, harrival, hctx, hpass, Bool.not_true, Bool.or_self, Bool.false_eq_true, reduceIte]
  rfl

/-! ### The end (R212, R227) -/

theorem run_actMoverEnd_answered (hleft : m.left = 0) :
    run (actMoverEnd id) s = run (restartQueue .mov m.q) (run (endMov id m) s) := by
  rw [actMoverEnd, run_look]
  simp only [hlive, hleft, bne_self_eq_false, Bool.false_eq_true, reduceIte, run_acts_cons, run_acts_nil]

end

/-- Settles O29: an acceptance by the queue's limit and fence (`run_movAccept_takes`), a start by its opcode and its checks
(`run_movStart_passes`, `run_movStart_badForm`). -/
theorem moverTakesEffect : Obligations.MoverTakesEffect := by
  refine ⟨?_, ?_, ?_, ?_, ?_, ?_, ?_, ?_, ?_, ?_⟩
  · intro s q tail hT hopen hreenable htail
    have hform : (decide (q < 64) && decide (tail < 256)) = true := hT.form
    rw [exec_movQueueDoorbell hT, run_qDoorbell_open (of_decide_eq_true (Bool.and_eq_true_iff.1 hform).1) hopen hreenable htail]
  · intro s q i bs hT hnext hop hlimit hfence
    rw [exec_copy hT, run_movAccept_takes (op := MovOp.copy) hnext hop hlimit fun h => hfence (h.resolve_right (by decide))]
  · intro s q i bs hT hnext hop hlimit hfence
    rw [exec_copyPage hT, run_movAccept_takes (op := MovOp.copyPage) hnext hop hlimit fun h => hfence (h.resolve_right (by decide))]
  · intro s q i bs hT hnext hop hlimit hfence
    rw [exec_fill hT, run_movAccept_takes (op := MovOp.fill) hnext hop hlimit fun h => hfence (h.resolve_right (by decide))]
  · intro s q i bs hT hnext hop hlimit _ hidle
    rw [exec_barrier hT, run_movAccept_takes (op := MovOp.barrier) hnext hop hlimit fun _ => hidle]
  · intro s id m ctx hlive hform harrival hctx hpass hop
    rw [run_movStart_passes hlive hform harrival hctx hpass]
    simp only [movOut, hop]
  · intro s id m ctx hlive hform harrival hctx hpass hop
    rw [run_movStart_passes hlive hform harrival hctx hpass]
    simp only [movOut, hop]
  · intro s id m ctx hlive hform harrival hctx hpass hop
    rw [run_movStart_passes hlive hform harrival hctx hpass]
    simp only [movOut, hop]
  · intro s id m hlive hform
    exact run_movStart_badForm hlive hform
  · intro s id m hT hlive hleft
    rw [exec_moverDescriptorEnd hT, run_actMoverEnd_answered hlive hleft]

end Sys2Proof.Machine
end

section
/-! SUPPORT. Loads, stores and hints at the chip they reach (R203, R206 to R208, R213, R223, 08_fabric_memory_semantics.md). -/

namespace Sys2Proof.Machine

section
variable {s : State} {src : AccFrom} {tag addr n : Nat} {d : List Byte} {ue : Bool}

theorem exec_load (hT : Takes s (.load_ src tag addr n ue)) :
    exec (.load_ src tag addr n ue) s = .next (run (actLoad src tag addr n ue) s) := hT.done _
theorem exec_store (hT : Takes s (.store_ src tag addr d)) :
    exec (.store_ src tag addr d) s = .next (run (actStore src tag addr d) s) := hT.done _
theorem exec_hintFetch (hT : Takes s (.hintFetch src tag addr d)) :
    exec (.hintFetch src tag addr d) s = .next (run (actHintFetch src tag addr d) s) := hT.done _

@[simp] theorem run_raise_mem (blk bit : Nat) (s : State) : (run (raise blk bit) s).mem = s.mem := by simp [run, raise, raiseWith]

theorem run_refuse_mem (b : Bool) (s : State) : (run (refuse src tag b) s).mem = s.mem := by
  simp only [refuse, run_acts_cons, run_acts_nil, run_answer_mem, run_raise_mem, run_count_mem]

/-! ### Loads (R203, R207, R213) -/

/-- A load in range answers its bytes, or UE where they cannot be corrected; one of aperture 2 counts what it touches beyond an enabled
queue. -/
theorem run_actLoad_reads (hadmit : admits s src addr (.load n) = true) (hbytes : loadBytes s addr n = some d)
    (hqueue : faAperture addr = 2 → jobLoadRange s (faOffset addr) n = false) : run (actLoad src tag addr n ue) s =
      if ue then run (answer src tag Ans.ue []) (run (loadUe addr) s) else run (answer src tag Ans.ok d) s := by
  have hrange : (faAperture addr == 2 && jobLoadRange s (faOffset addr) n) = false := by
    by_cases h : faAperture addr = 2
    · rw [hqueue h, Bool.and_false]
    · rw [beq_eq_false_iff_ne.2 h, Bool.false_and]
  rw [actLoad, run_withAdmission hadmit, run_look]
  simp only [hbytes, hrange, run_acts_cons, run_acts_nil, run_when, Bool.false_eq_true, reduceIte]
  cases ue <;> simp only [Bool.false_eq_true, reduceIte, run_acts_cons, run_acts_nil]

theorem run_actLoad_refused (hadmit : admits s src addr (.load n) = true) (hbytes : loadBytes s addr n = none) :
    run (actLoad src tag addr n ue) s = run (refuse src tag false) s := by
  rw [actLoad, run_withAdmission hadmit, run_look, hbytes]

theorem loadBytes_shared (hap : faAperture addr = 1) (hregion : faRegion addr = 4)
    (hlimit : faInner addr + n ≤ s.get Fld.MOV_CTL_SHARED_MIB * 2 ^ 20) :
    loadBytes s addr n = some (s.bytes (Mem.shared + faInner addr) n) := by
  simp only [loadBytes, hap, hregion, hlimit, decide_true, Bool.and_self, reduceIte]

theorem loadBytes_register (hap : faAperture addr = 4) (hn : n ≤ 8) (hlimit : faOffset addr + n ≤ 0x1000000) :
    loadBytes s addr n = some (leBytes n (readReg s (faOffset addr) n)) := by
  simp only [loadBytes, hap, hn, hlimit, reduceIte]

/-! ### Stores (R207) -/

theorem run_actStore_performs {a : Act} (hadmit : admits s src addr (.store d) = true) (hperform : performStore s addr d = some a) :
    run (actStore src tag addr d) s = run (answer src tag Ans.ok []) (run a s) := by
  rw [actStore, run_withAdmission hadmit, run_look, hperform, run_acts_cons, run_acts_cons, run_acts_nil]

theorem run_actStore_refused (hadmit : admits s src addr (.store d) = true) (hperform : performStore s addr d = none) :
    run (actStore src tag addr d) s = run (refuse src tag true) s := by
  rw [actStore, run_withAdmission hadmit, run_look, hperform]

theorem performStore_shared (hap : faAperture addr = 1) (hregion : faRegion addr = 4)
    (hlimit : faInner addr + d.length ≤ s.get Fld.MOV_CTL_SHARED_MIB * 2 ^ 20) :
    performStore s addr d = some (store (Mem.shared + faInner addr) d) := by
  simp only [performStore, plainStore, hap, hregion, hlimit, decide_true, Bool.and_self, reduceIte]

/-! ### Hints (R223) -/

section
variable (hadmit : admits s src addr (.hint (leNat (d.take 8))) = true) (hap : faAperture addr = 1) (hregion : faRegion addr = 5)
  (hinner : faInner addr = 0) (hlen : d.length = 16)
include hadmit hap hregion hinner hlen

/-- A hint store at its place is looked at where it is admitted. -/
theorem run_actHintFetch_placed {f : Frame} {a : Act} (hzero : leNat (d.drop 8) = 0) (hframe : hintFrame s (leNat (d.take 8)) = some f)
    (hread : issueRead s f.hdr.owner f.hdr.layer (f.hdr.firstPos / 2 ^ f.hdr.pLog2) f.hdr.tenant f.kind (leNat (d.take 8)) 2 = some a) :
    run (actHintFetch src tag addr d) s = run (acts [a, count Reg.MOV_HINT_PLACED 1, answer src tag Ans.ok []]) s := by
  rw [actHintFetch, run_withAdmission hadmit]
  simp only [hap, hregion, hinner, hlen, hzero, hframe, hread, ne_eq, not_true, or_self, reduceIte, run_look, run_acts_cons, run_acts_nil]

/-- A hint that names no page it may bring is dropped, whatever the rest of its 16 bytes says. -/
theorem run_actHintFetch_dropped (hframe : hintFrame s (leNat (d.take 8)) = none) :
    run (actHintFetch src tag addr d) s = run (acts [count Reg.MOV_HINT_DROPPED 1, answer src tag Ans.ok []]) s := by
  rw [actHintFetch, run_withAdmission hadmit]
  simp only [hap, hregion, hinner, hlen, hframe, ne_eq, not_true, or_self, ite_self, reduceIte, run_look, run_acts_cons, run_acts_nil]

end

end

/-- Settles O26: a load by its bytes and their error (`run_actLoad_reads`), a store by whether the chip performs it, a hint by its frame. -/
theorem accessesTakeEffect : Obligations.AccessesTakeEffect := by
  refine ⟨?_, ?_, ?_, ?_, ?_, ?_, ?_, ?_, ?_, ?_⟩
  · intro s src tag addr n d hT hadmit hbytes hqueue
    refine ⟨_, exec_load hT, ?_⟩
    rw [run_actLoad_reads hadmit hbytes hqueue, if_neg Bool.false_ne_true]
    exact ⟨run_answer_out _ _ _ _ _, run_answer_mem _ _ _ _ _, run_answer_regs _ _ _ _ _⟩
  · intro s src tag addr n d hT hadmit hbytes hqueue
    rw [exec_load hT, run_actLoad_reads hadmit hbytes hqueue, if_pos rfl]
  · intro s src tag addr n ue hT hadmit hbytes
    rw [exec_load hT, run_actLoad_refused hadmit hbytes]
  · intro s addr n hap hregion hlimit
    exact loadBytes_shared hap hregion hlimit
  · intro s addr n hap hn hlimit
    exact loadBytes_register hap hn hlimit
  · intro s src tag addr d a hT hadmit hperform
    rw [exec_store hT, run_actStore_performs hadmit hperform]
  · intro s src tag addr d hT hadmit hperform
    exact ⟨_, exec_store hT, by rw [run_actStore_refused hadmit hperform, run_refuse_mem], run_actStore_refused hadmit hperform⟩
  · intro s src tag addr d hs hT hadmit hap hregion hlimit
    refine ⟨_, exec_store hT, ?_⟩
    rw [run_actStore_performs hadmit (performStore_shared hap hregion hlimit)]
    refine ⟨?_, ?_, fun x hx => ?_⟩
    · rw [bytes_congr (run_answer_mem _ _ _ _ _), bytes_store_same _ _ hs]
    · rw [run_answer_regs, run_store_regs]
    · rw [byte_congr (run_answer_mem _ _ _ _ _), byte_store_other _ _ _ hx]
  · intro s src tag addr d f a hT hadmit hap hregion hinner hlen hzero hframe hread
    rw [exec_hintFetch hT, run_actHintFetch_placed hadmit hap hregion hinner hlen hzero hframe hread]
  · intro s src tag addr d hT hadmit hap hregion hinner hlen hframe
    rw [exec_hintFetch hT, run_actHintFetch_dropped hadmit hap hregion hinner hlen hframe]

end Sys2Proof.Machine
end

section
/-! SUPPORT. The coherence messages at the frame home and at the reader (R214 to R219, R221, 08_fabric_memory_semantics.md). -/

namespace Sys2Proof.Machine

section
variable {s : State} {m : CohMsg} {k : Nat}

theorem exec_pageRead (hT : Takes s (.pageRead m)) : exec (.pageRead m) s = .next (run (actPageRead m) s) := hT.done _
theorem exec_inval (hT : Takes s (.inval m)) : exec (.inval m) s = .next (run (actInval m) s) := hT.done _
theorem exec_invalAck (hT : Takes s (.invalAck m)) : exec (.invalAck m) s = .next (run (actInvalAck m) s) := hT.done _
theorem exec_drop (hT : Takes s (.drop m)) : exec (.drop m) s = .next (run (actDrop m) s) := hT.done _
theorem exec_fenceNotice (hT : Takes s (.fenceNotice m)) : exec (.fenceNotice m) s = .next (run (metFence m.sender) s) := hT.done _
theorem exec_fenced (hT : Takes s (.fenced m)) : exec (.fenced m) s = .next (run (metFence m.sender) s) := hT.done _
theorem exec_flushDone (hT : Takes s (.flushDone m)) : exec (.flushDone m) s = .next (run (actFlushDone m) s) := hT.done _
theorem exec_invalTimeout (hT : Takes s (.invalTimeout k)) : exec (.invalTimeout k) s = .next (run (actInvalTimeout k) s) :=
  done_works hT.works
theorem exec_genStale {found : List (Nat × Nat)} (hT : Takes s (.genStale m found)) :
    exec (.genStale m found) s = .next (run (actGenStale movNoPage m found) s) := hT.done _
theorem exec_notSealed (hT : Takes s (.notSealed m)) : exec (.notSealed m) s = .next (run (actNotSealed movNoPage m) s) := hT.done _
theorem exec_pageData {hb data scale : List Byte} (hT : Takes s (.pageData m hb data scale)) :
    exec (.pageData m hb data scale) s = .next (run (actPageData movPage m hb data scale) s) := hT.done _

theorem run_each_singleton {α : Type} (x : α) (f : α → Act) (s : State) : run (each [x] f) s = run (f x) s := by
  rw [run_each_cons, run_each_nil]

end

/-! ### A page read at its frame's home (R214, R216, R218) -/

section
variable {s : State} {w : WaitRead}

theorem run_servePage_fenced (hfenced : w.reader ∈ s.body.coh.fenced) : run (servePage w) s = run (sendCoh w.reader .fenced 0 []) s := by
  rw [servePage, run_look]
  simp only [List.contains_iff_mem.2 hfenced, reduceIte]

variable (hfenced : w.reader ∉ s.body.coh.fenced)
include hfenced

theorem run_servePage_stale (hexact : s.exact w.ref = none) :
    run (servePage w) s = run (acts [count Reg.MOV_GEN_STALE 1, answerRead w.reader .genStale w.ref]) s := by
  rw [servePage, run_look]
  simp only [Bool.eq_false_iff.2 (mt List.contains_iff_mem.1 hfenced), hexact, Bool.false_eq_true, reduceIte]

section
variable {k : Nat} {f : Frame} (hexact : s.exact w.ref = some k) (hframe : s.frame k = some f) (hmig : f.mig = none)
  (hstaging : f.staging = false) (hdir : tget s.body.coh.dir k = none)
include hexact hframe hmig hstaging hdir

theorem run_servePage_untracked (hsealed : f.hdr.isSealed = true) (htracked : w.tracked = false) :
    run (servePage w) s = run (sendPage w.reader w.ref k) s := by
  rw [servePage, run_look]
  simp only [Bool.eq_false_iff.2 (mt List.contains_iff_mem.1 hfenced), hexact, hframe, hmig, hstaging, hdir, hsealed, htracked,
    Option.map_none, Bool.not_true, Bool.not_false, Bool.false_and, Bool.false_eq_true, reduceIte]

theorem run_servePage_tracked (htracked : w.tracked = true)
    (hset : (s.body.coh.dir.filter fun e => dirSet e.1 == dirSet k).length < 16) :
    run (servePage w) s = run (sendPage w.reader w.ref k) (run (grantReader k w.reader) s) := by
  rw [servePage, run_look]
  simp only [Bool.eq_false_iff.2 (mt List.contains_iff_mem.1 hfenced), hexact, hframe, hmig, hstaging, hdir, htracked, Nat.not_le.2 hset,
    Option.map_none, Bool.not_true, Bool.false_eq_true, reduceIte, run_acts_cons, run_acts_nil]

end

end

theorem run_actPageRead_single {m : CohMsg} {r : Nat} (hrefs : m.refs = [r]) (s : State) :
    run (actPageRead m) s = run (servePage { reader := m.sender, tracked := m.tracked, ref := r }) s := by
  rw [actPageRead, hrefs, run_each_singleton]

/-! ### Readers leave a directory entry (R216, R218) -/

section
variable {s : State}

theorem run_onCoh (f : Coh → Coh) (s : State) : run (onCoh f) s = { s with body := { s.body with coh := f s.body.coh } } := by
  rw [onCoh, run_onBody]

/-- Where no read waits for a way, a free way serves none. -/
theorem run_serveWays_idle (hwaits : s.body.coh.waitWay = []) : (run serveWays s).body = s.body := by
  rw [serveWays, run_look]
  simp only [hwaits, List.filter_nil, run_acts_cons, run_acts_nil, run_each_nil, run_onCoh]
  rw [← hwaits]

/-- The other readers of an entry that is not BLOCKED stay. -/
theorem run_readerGone_open {r ref : Nat} {d : DirEntry} (hdir : tget s.body.coh.dir (fkey (refTier ref) (refFrame ref)) = some d)
    (hgen : d.gen = refGen ref) (hblocked : d.blocked = false) (hleft : d.readers.filter (· != r) ≠ []) :
    run (readerGone r ref) s = run (onCoh fun c => { c with
      dir := tput c.dir (fkey (refTier ref) (refFrame ref)) { d with readers := d.readers.filter (· != r) } }) s := by
  have hsome : (d.readers.filter (· != r)).isEmpty = false := Bool.eq_false_iff.2 (mt List.isEmpty_iff.1 hleft)
  rw [readerGone, run_look]
  simp only [hdir, hgen, hblocked, hsome, ne_eq, not_true, Bool.false_eq_true, reduceIte]

theorem run_actInvalTimeout_first {k : Nat} {d : DirEntry} (hdir : tget s.body.coh.dir k = some d) (hblocked : d.blocked = true)
    (hresent : d.resent = false) : run (actInvalTimeout k) s = run (acts [each d.pending (sendInval (mkRef s.chipId (keyTier k) (keyFrame k) d.gen)),
      onCoh fun c => { c with dir := tmod c.dir k fun x => { x with resent := true } }]) s := by
  rw [actInvalTimeout, run_look]
  simp only [hdir, hblocked, hresent, Bool.not_true, Bool.not_false, Bool.false_eq_true, reduceIte]

theorem run_actInvalTimeout_second {k : Nat} {d : DirEntry} (hdir : tget s.body.coh.dir k = some d) (hblocked : d.blocked = true)
    (hresent : d.resent = true) : run (actInvalTimeout k) s = run (acts [
      each (d.pending.filter fun r => !s.body.coh.fenced.contains r) fenceReader,
      each d.pending fun r => readerGone r (mkRef s.chipId (keyTier k) (keyFrame k) d.gen)]) s := by
  rw [actInvalTimeout, run_look]
  simp only [hdir, hblocked, hresent, Bool.not_true, Bool.false_eq_true, reduceIte]

end

/-! ### The reader (R215, R219) -/

/-- The acknowledgement of an INVAL. -/
def ackInval (m : CohMsg) : Act :=
  look fun s => emit (.coh m.sender { type := .invalAck, sender := s.member, seq := m.seq, refs := m.refs } none [] [])

section
variable {s : State} {m : CohMsg}

theorem run_actInval_unknown (hunknown : ∀ r ∈ m.refs, tget s.body.coh.cache r = none) :
    run (actInval m) s = run (acts [count Reg.MOV_INVAL_RECV 1, ackInval m, refeed]) s := by
  rw [actInval, ackInval]
  simp only [run_acts_cons, run_acts_nil]
  rw [run_each_of_idle fun r hr => ?_]
  rw [run_look, run_count_body, hunknown r hr, run_nop]

theorem run_actInval_valid {r : Nat} {c : CacheEntry} (hrefs : m.refs = [r]) (hcache : tget s.body.coh.cache r = some c)
    (hvalid : c.st = .valid) (hidle : ∀ b ∈ s.body.pages.busy, b.2 ≠ c.key) : run (actInval m) s =
      run (acts [count Reg.MOV_INVAL_RECV 1, onCoh (fun x => { x with cache := tdel x.cache r }), freeFrame c.key, ackInval m, refeed]) s := by
  rw [actInval, ackInval]
  simp only [run_acts_cons, run_acts_nil]
  rw [hrefs, run_each_singleton, run_look (s := run (count Reg.MOV_INVAL_RECV 1) s), run_count_body]
  simp only [hcache, hvalid, any_busy_eq_false hidle, Bool.false_eq_true, reduceIte, run_acts_cons, run_acts_nil]

/-- The one read of a page whose reference is old is given up, the page renamed, and read again for its Fetch. -/
theorem run_actGenStale_fetch {mov : Nat → Nat → Act} {found : List (Nat × Nat)} {r new tag : Nat} {x : PageRead} (hrefs : m.refs = [r])
    (hreads : (s.body.pages.reads.filter fun e => e.2.src == r) = [(tag, x)]) (hmov : x.mov = none) (hfetch : x.forFetch = true)
    (hfound : tget found r = some new) : run (actGenStale mov m found) s =
      run (acts [giveUpRead tag, movedRef r new, fetchPage x.handle x.layer x.index, refeed]) s := by
  rw [actGenStale, hrefs, run_each_singleton, run_look]
  simp only [hreads, hmov, hfound, List.filter_cons, hfetch, List.filter_nil, reduceIte, run_acts_cons, run_acts_nil, run_each_singleton]

theorem run_actNotSealed_retry {mov : Nat → Nat → Act} {r tag : Nat} {x : PageRead} (hrefs : m.refs = [r])
    (hreads : (s.body.pages.reads.filter fun e => e.2.src == r) = [(tag, x)]) (hmov : x.mov = none) :
    run (actNotSealed mov m) s = run (acts [giveUpRead tag, addRetry x.handle x.layer x.index]) s := by
  rw [actNotSealed, hrefs, run_each_singleton, run_look, hreads, run_each_singleton]
  simp only [hmov]

/-! ### PAGE_DATA (R207, R219, R226) -/

section
variable {mov : Nat → PageHeader → List Byte → List Byte → Act} {hb data scale : List Byte} {ref : Nat} (hrefs : m.refs = [ref])
  (hnamed : ref ≠ 0) (hcrc : dataCrcOk (hdrOf hb) data scale = true)
include hrefs hnamed hcrc

/-- Data for an open store target of this chip are written into it. -/
theorem run_actPageData_target {k : Nat} (hchip : refChip ref = s.chipId) (hexact : s.exact ref = some k) (hopen : targetOpen s k = true) :
    run (actPageData mov m hb data scale) s =
      run (emit (.answer m.sender m.seq Ans.ok [])) (run (writeTarget k (hdrOf hb) data scale m.tracked) s) := by
  rw [actPageData, run_look]
  simp only [hrefs, hnamed, hchip, hexact, hopen, hcrc, Bool.not_true, Bool.false_eq_true, reduceIte, run_acts_cons, run_acts_nil]

/-- Data of another chip's page under the reference it was asked by fill the frame of its read. -/
theorem run_actPageData_read {tag : Nat} {r : PageRead} (hchip : refChip ref ≠ s.chipId)
    (hfind : s.body.pages.reads.find? (fun e => refChip e.2.src != s.chipId && refTier e.2.src ≤ 1 && !e.2.needs && e.2.src == ref) = some (tag, r))
    (hread : tget s.body.pages.reads tag = some r) (hvoid : r.void = false) (hmov : r.mov = none) (hpage : (hdrOf hb).pageRef = ref) :
    run (actPageData mov m hb data scale) s = run (landPage tag r (hdrOf hb) data scale) s := by
  have hmatch := List.find?_some hfind
  have hsrc : r.src = ref := beq_iff_eq.1 (Bool.and_eq_true_iff.1 hmatch).2
  rw [actPageData, run_look]
  simp only [hrefs, hnamed, hchip, hfind, hvoid, hcrc, hmov, hpage, hsrc, bne_self_eq_false, Bool.and_false, Bool.false_and, Bool.not_true,
    Bool.false_eq_true, reduceIte, run_acts_cons, run_acts_nil, run_when, run_look, hread]

end

end

/-- Settles O24: a page read by its reader, its frame and its directory entry (`run_servePage_fenced` and the lemmas after it), the other
messages by the entry or the read they name. -/
theorem coherenceRowsTakeEffect : Obligations.CoherenceRowsTakeEffect := by
  refine ⟨?_, ?_, ?_, ?_, ?_, ?_, ?_, ?_, ?_, ?_, ?_, ?_, ?_, ?_, ?_, ?_, ?_, ?_, ?_⟩
  · intro s m r k f hT hrefs hfenced hexact hframe hmig hstaging hsealed hdir htracked
    rw [exec_pageRead hT, run_actPageRead_single hrefs, run_servePage_untracked hfenced hexact hframe hmig hstaging hdir hsealed htracked]
  · intro s m r k f hT hrefs hfenced hexact hframe hmig hstaging hdir htracked hset
    rw [exec_pageRead hT, run_actPageRead_single hrefs, run_servePage_tracked hfenced hexact hframe hmig hstaging hdir htracked hset]
  · intro s m r hT hrefs hfenced
    rw [exec_pageRead hT, run_actPageRead_single hrefs, run_servePage_fenced hfenced]
  · intro s m r hT hrefs hfenced hexact
    rw [exec_pageRead hT, run_actPageRead_single hrefs, run_servePage_stale hfenced hexact]
  · intro s m hT hunknown
    rw [exec_inval hT, run_actInval_unknown hunknown, ackInval]
  · intro s m r c hT hrefs hcache hvalid hidle
    rw [exec_inval hT, run_actInval_valid hrefs hcache hvalid hidle, ackInval]
  · intro s m hT
    rw [exec_invalAck hT, actInvalAck]
  · intro s m hT
    rw [exec_drop hT, actDrop, run_acts_cons, run_acts_cons, run_acts_nil]
  · intro s hwaits
    exact run_serveWays_idle hwaits
  · intro s r ref d hdir hgen hblocked hleft
    rw [run_readerGone_open hdir hgen hblocked hleft, run_onCoh, tget_tput_same, Option.map_some]
  · intro s m hT
    exact exec_fenceNotice hT
  · intro s m hT
    exact exec_fenced hT
  · intro s m hT
    refine ⟨_, exec_flushDone hT, ?_⟩
    rw [actFlushDone, run_onCoh]
    exact ⟨rfl, rfl, rfl⟩
  · intro s k d hT hdir hblocked hresent
    rw [exec_invalTimeout hT, run_actInvalTimeout_first hdir hblocked hresent]
  · intro s k d hT hdir hblocked hresent
    rw [exec_invalTimeout hT, run_actInvalTimeout_second hdir hblocked hresent]
  · intro s m found r new tag x hT hrefs hreads hmov hfetch hfound
    rw [exec_genStale hT, run_actGenStale_fetch hrefs hreads hmov hfetch hfound]
  · intro s m r tag x hT hrefs hreads hmov
    rw [exec_notSealed hT, run_actNotSealed_retry hrefs hreads hmov]
  · intro s m hb data scale ref k hT hrefs hnamed hchip hexact hopen hcrc
    rw [exec_pageData hT, run_actPageData_target hrefs hnamed hcrc hchip hexact hopen]
  · intro s m hb data scale ref tag r hT hrefs hnamed hchip hfind hread hvoid hmov hcrc hpage
    rw [exec_pageData hT, run_actPageData_read hrefs hnamed hcrc hchip hfind hread hvoid hmov hpage]

end Sys2Proof.Machine
end

section
/-! SUPPORT. Receive buffers: BUF_WITHDRAW of a posted one, and the posted-buffers ledger (R258, R264, 09_transport_and_links.md). -/

namespace Sys2Proof.Machine

/-- The ledger counts a withdrawal only where it counts a buffer outstanding (R264). -/
theorem applyEff_bufWithdraw_led (s : State) : (applyEff .bufWithdraw s).led = if 0 < s.led.bufOutstanding then
    { s.led with bufWithdrawn := s.led.bufWithdrawn + 1, bufOutstanding := s.led.bufOutstanding - 1 } else s.led := by
  simp only [applyEff]
  split <;> rfl

section
variable {s u : State} {src : Src} {c : Cmd}

theorem exec_bufWithdraw (h : Runs s src 0x0602 c u) : exec (.bufWithdraw src) s = .next (run (opBufWithdraw ⟨src, c.seq⟩ c) u) :=
  runs_done h _

@[simp] theorem run_setBuf_led (n : Nat) (b : Buf) (s : State) : (run (setBuf n b) s).led = s.led := by rw [setBuf, onXpt, run_onBody]

theorem run_opBufWithdraw_posted_led (n : Nat) (hmine : bufMine (srcWindow src) (u.buf (c.arg 0 32)) = true)
    (hposted : (u.buf (c.arg 0 32)).st = .posted) : (run (opBufWithdraw ⟨src, n⟩ c) u).led = (applyEff .bufWithdraw u).led := by
  rw [opBufWithdraw, run_look]
  simp only [hmine, hposted, Bool.not_true, Bool.false_eq_true, reduceIte, freeBuf, finOk, run_acts_cons, run_acts_nil, run_look, run_eff,
    run_finish_led, applyEff_bufWithdraw_led, run_setBuf_led, run_dropFld_led]

/-- A withdrawal of a posted buffer is counted exactly where the ledger has one outstanding. -/
theorem bufWithdrawn_opBufWithdraw_posted_iff (n : Nat) (hmine : bufMine (srcWindow src) (u.buf (c.arg 0 32)) = true)
    (hposted : (u.buf (c.arg 0 32)).st = .posted) :
    (run (opBufWithdraw ⟨src, n⟩ c) u).led.bufWithdrawn = u.led.bufWithdrawn + 1 ↔ 0 < u.led.bufOutstanding := by
  rw [run_opBufWithdraw_posted_led n hmine hposted, applyEff_bufWithdraw_led]
  split
  · next h => exact iff_of_true rfl h
  · next h => exact iff_of_false (Nat.ne_of_lt (Nat.lt_succ_self _)) h

end

/-- A BUF_WITHDRAW of buffer 0. -/
def withdrawCmd : Cmd := { seq := 0, opcode := 0x0602, cid := 0, args := List.replicate 32 0 }

/-- A chip whose buffer 0 is POSTED, though its ledger counts no buffer outstanding, and whose mailbox holds the command. -/
def uncountedPosted : State :=
  { State.reset with body := { State.reset.body with mbox := { cmd := some withdrawCmd, iface := some 0 }, xpt := { bufs := [(0, { st := .posted })] } } }

theorem uncountedPosted_runs : Runs uncountedPosted .mailbox 0x0602 withdrawCmd (uncountedPosted.begun .mailbox withdrawCmd) where
  works := by decide +kernel
  turn := by decide +kernel
  checks := by decide +kernel
  begun := rfl

/-- Refutes O13: no hypothesis of its third clause ties the buffer's state to the ledger. In `uncountedPosted` the POSTED buffer is
withdrawn while the ledger has none outstanding, and no withdrawal is counted (`bufWithdrawn_opBufWithdraw_posted_iff`). -/
theorem not_bufferCommands : ¬ Obligations.BufferCommands := by
  intro ⟨_, _, hwithdraw, _⟩
  have hmine : bufMine (srcWindow .mailbox) ((uncountedPosted.begun .mailbox withdrawCmd).buf (withdrawCmd.arg 0 32)) = true := rfl
  have hposted : ((uncountedPosted.begun .mailbox withdrawCmd).buf (withdrawCmd.arg 0 32)).st = .posted := by decide +kernel
  have hnone : (uncountedPosted.begun .mailbox withdrawCmd).led.bufOutstanding = 0 := by decide +kernel
  obtain ⟨t, ht, _, _, _, hcounted⟩ := hwithdraw _ _ _ _ uncountedPosted_runs hmine hposted
  rw [exec_bufWithdraw uncountedPosted_runs] at ht
  obtain rfl := Host.Outcome.next.inj ht
  exact absurd ((bufWithdrawn_opBufWithdraw_posted_iff _ hmine hposted).1 hcounted) (by rw [hnone]; decide)

end Sys2Proof.Machine
end

section
/-! SUPPORT. Messages sent, sent again, given up and answered (R253 to R256), and packets received into buffers (R252, R257 to R262,
09_transport_and_links.md). -/

namespace Sys2Proof.Machine

/-! ### What the shared operations leave alone -/

theorem apartFromHost_xpt : ApartFromHost Body.xpt := fun _ _ _ _ _ => rfl

@[simp] theorem run_onXpt_xpt (f : Xpt → Xpt) (s : State) : (run (onXpt f) s).body.xpt = f s.body.xpt := by rw [onXpt, run_onBody]
@[simp] theorem run_setBuf_mem (n : Nat) (b : Buf) (s : State) : (run (setBuf n b) s).mem = s.mem := by rw [setBuf, onXpt, run_onBody]
@[simp] theorem run_syncCtx_body (s : State) : (run syncCtx s).body = s.body := by rw [syncCtx, run_look, run_setFld_body]
@[simp] theorem run_syncCtx_mem (s : State) : (run syncCtx s).mem = s.mem := by rw [syncCtx, run_look, run_setFld_mem]
@[simp] theorem run_syncCtx_led (s : State) : (run syncCtx s).led = s.led := by rw [syncCtx, run_look, run_setFld_led]

theorem buf_congr {s t : State} (h : t.body.xpt = s.body.xpt) (n : Nat) : t.buf n = s.buf n := by rw [State.buf, h, State.buf]

@[simp] theorem buf_setBuf_same (n : Nat) (b : Buf) (s : State) : (run (setBuf n b) s).buf n = b := by
  rw [State.buf, setBuf, run_onXpt_xpt, tget_tput_same, Option.getD_some]

/-- The use of a key leaves the messages in flight. -/
theorem run_useKey_sent (peer epoch : Nat) (s : State) : (run (useKey peer epoch) s).body.xpt.sent = s.body.xpt.sent := by
  rw [useKey, run_look]
  simp only [run_acts_cons, run_acts_nil, run_when, run_setFld_body, run_onXpt_xpt]
  split
  · rw [run_count_body]
  · rfl

/-! ### The rows -/

section
variable {s : State}

theorem exec_sendQueueDoorbell {q tail : Nat} (hT : Takes s (.sendQueueDoorbell q tail)) :
    exec (.sendQueueDoorbell q tail) s = .next (run (qDoorbell .xpt q tail) s) := hT.done _
theorem exec_send {q : Nat} {r : SrcRead} (hT : Takes s (.send q r)) : exec (.send q r) s = .next (run (actSend q r) s) := hT.done _
theorem exec_rtoExpiry {n : Nat} {r : SrcRead} (hT : Takes s (.rtoExpiry n r)) :
    exec (.rtoExpiry n r) s = .next (run (actRtoExpiry n r) s) := done_works hT.works
theorem exec_sendGiveUp {n : Nat} (hT : Takes s (.sendGiveUp n)) : exec (.sendGiveUp n) s = .next (run (actSendGiveUp n) s) :=
  done_works hT.works
theorem exec_ackPacketReceive {bs : List Byte} (hT : Takes s (.ackPacketReceive bs)) :
    exec (.ackPacketReceive bs) s = .next (run (actAckPacket bs) s) := done_works hT.works
theorem exec_dataPacketReceive {bs : List Byte} {n : Nat} {b : Bool} (hT : Takes s (.dataPacketReceive bs n b)) :
    exec (.dataPacketReceive bs n b) s = .next (run (actDataPacket bs n b) s) := done_works hT.works
theorem exec_fillTimeout {n : Nat} (hT : Takes s (.fillTimeout n)) : exec (.fillTimeout n) s = .next (run (actFillTimeout n) s) := hT.done _

/-! ### SEND (R253 to R255) -/

section
variable {q i p : Nat} {bs : List Byte} (r : SrcRead) (hnext : nextDesc s .xpt q = some (i, bs)) (hsource : sendSource s (sendDescOf bs) = some p)
include hnext hsource

theorem run_actSend_badForm (hform : sendForm s q (sendDescOf bs) = false) :
    run (actSend q r) s = run (acts [acceptSlot .xpt q i, endSend q i (s.get (qSeq .xpt q)) St.invalid bs s.body.tick]) s := by
  rw [actSend, run_look]
  simp only [hnext, hsource, hform, Bool.not_false, reduceIte]

theorem run_actSend_starts (hform : sendForm s q (sendDescOf bs) = true) (hwin : sendWinOk s q (sendDescOf bs) = true)
    (hpod : (sendDescOf bs).dst = s.chipId ∨ s.body.sec.podCur.isSome = true) (hroom : s.body.xpt.sent.length < 16384)
    (hordered : orderedFree s (sendDescOf bs) = true) (hue : r.ue = none) :
    run (actSend q r) s = run (acts [acceptSlot .xpt q i,
      onXpt (fun t => { t with nextSeq := (s.body.xpt.nextSeq + 1) % 2 ^ 48, sent := tput t.sent s.body.xpt.nextSeq (startedMessage s q i bs p) }), syncSent,
      when (0 < r.resends) (count Reg.XPT_BLOCK_RESEND r.resends),
      transmit (s.get (qTraffic .xpt q) % 64) s.body.xpt.nextSeq bs (s.bytes p (sendDescOf bs).length) false r.lost (ceilDiv (sendDescOf bs).length 4096)]) s := by
  have hkey : ¬((sendDescOf bs).dst ≠ s.chipId ∧ s.body.sec.podCur.isNone = true) := by
    rintro ⟨hdst, hnone⟩
    rcases hpod with h | h
    · exact hdst h
    · simp [Option.isNone_iff_eq_none.1 hnone] at h
  rw [actSend, run_look]
  simp only [hnext, hsource, hform, hwin, hordered, hue, if_neg hkey, Nat.not_le.2 hroom, Bool.not_true, Bool.or_self, decide_false,
    Bool.false_eq_true, reduceIte, Option.getD_none, Option.isSome_none, run_acts_cons, run_acts_nil, run_when]

end

/-! ### Without an answer (R254) -/

section
variable {n : Nat} {x : Sent} (hsent : tget s.body.xpt.sent n = some x)
include hsent

theorem run_actRtoExpiry_again {r : SrcRead} (hretx : x.retx < s.get Fld.XPT_CTL_RETRY_MAX) (htime : s.body.tick ≤ x.first + 400000)
    (hue : r.ue = none) :
    run (actRtoExpiry n r) s = run (acts [onXpt (fun t => { t with sent := tput t.sent n { x with retx := x.retx + 1, last := s.body.tick } }),
      when (0 < r.resends) (count Reg.XPT_BLOCK_RESEND r.resends),
      transmit (s.get (qTraffic .xpt x.q) % 64) n x.desc x.data true r.lost (ceilDiv x.data.length 4096)]) s := by
  rw [actRtoExpiry, run_look]
  simp only [hsent, hue, Nat.not_le.2 hretx, Nat.not_lt.2 htime, decide_false, Bool.or_self, Bool.false_eq_true, reduceIte, Option.getD_none,
    Option.isSome_none, run_acts_cons, run_acts_nil, run_when]

theorem run_actRtoExpiry_over (r : SrcRead) (hover : s.get Fld.XPT_CTL_RETRY_MAX ≤ x.retx ∨ x.first + 400000 < s.body.tick) :
    run (actRtoExpiry n r) s = run (onXpt fun t => { t with sent := tput t.sent n { x with ovr := true } }) s := by
  rw [actRtoExpiry, run_look]
  simp only [hsent, Bool.or_eq_true, decide_eq_true_eq, if_pos hover]

theorem run_actSendGiveUp_over (hover : x.ovr = true ∨ s.get Fld.XPT_CTL_RETRY_MAX ≤ x.retx) :
    run (actSendGiveUp n) s = run (endMessage n St.busyRetry) (run (raise Blk.xpt 3) s) := by
  rw [actSendGiveUp, run_look]
  simp only [hsent, Bool.or_eq_true, decide_eq_true_eq, if_pos (Or.inl hover : _ ∨ x.first + 400000 < s.body.tick), run_acts_cons, run_acts_nil]

end

/-! ### Answers (R254, R256) -/

theorem run_takeAck_decides {seq bufId bufGen reason st : Nat} {x : Sent} (hsent : tget s.body.xpt.sent seq = some x)
    (hid : (sendDescOf x.desc).bufId = bufId) (hgen : (sendDescOf x.desc).bufGen = bufGen) (hst : ackStatus reason = some st) :
    run (takeAck seq bufId bufGen reason) s = run (endMessage seq st) s := by
  rw [takeAck, run_look]
  simp only [hsent, hid, hgen, hst, ne_eq, not_true, or_self, reduceIte]

theorem run_takeAck_orphan {seq : Nat} (bufId bufGen reason : Nat) (hnone : tget s.body.xpt.sent seq = none) :
    run (takeAck seq bufId bufGen reason) s = run (count Reg.XPT_ACK_ORPHAN 1) s := by
  rw [takeAck, run_look]
  simp only [hnone]

/-! ### Packets that open, and packets without a key (R249, R252) -/

section
variable {bs k : List Byte}

/-- What opens is of a kind of R249, under an epoch whose pod key is held. -/
theorem kind_and_key_of_opens (h : opens s bs = some k) :
    (packetOf (bs.take 56)).kind < 4 ∧ (podKeyOf s (packetOf (bs.take 56)).epoch).isSome = true := by
  rw [opens] at h
  split at h
  · exact nomatch h
  · next hkind =>
    refine ⟨Nat.not_le.1 hkind, ?_⟩
    split at h
    · exact nomatch h
    · next hkey => rw [hkey, Option.isSome_some]

theorem run_openPacket_opens (f : Packet → List Byte → Act) (h : opens s bs = some k) :
    run (openPacket bs f) s =
      run (f (packetOf (bs.take 56)) k) (run (useKey (packetOf (bs.take 56)).src (packetOf (bs.take 56)).epoch) s) := by
  obtain ⟨hkind, hkey⟩ := kind_and_key_of_opens h
  rw [openPacket, run_look]
  simp only [h, Nat.not_le.2 hkind, Option.isNone_eq_false_iff.2 hkey, Bool.false_eq_true, reduceIte, run_acts_cons, run_acts_nil]

theorem run_openPacket_noKey (f : Packet → List Byte → Act) (hkind : (packetOf (bs.take 56)).kind < 4)
    (hkey : podKeyOf s (packetOf (bs.take 56)).epoch = none) :
    run (openPacket bs f) s = run (acts [acts [count Reg.XPT_AUTH_FAIL 1, raise Blk.xpt 0], raise Blk.xpt 1]) s := by
  rw [openPacket, run_look]
  simp only [hkey, Nat.not_le.2 hkind, Option.isNone_none, reduceIte]

theorem run_actAckPacket_opens (h : opens s bs = some k) (hkind : (packetOf (bs.take 56)).kind = 1) :
    run (actAckPacket bs) s = run (takeAck (packetOf (bs.take 56)).seq (packetOf (bs.take 56)).bufId (packetOf (bs.take 56)).bufGen
      ((packetOf (bs.take 56)).offset % 256)) (run (useKey (packetOf (bs.take 56)).src (packetOf (bs.take 56)).epoch) s) := by
  rw [actAckPacket, run_openPacket_opens _ h, if_neg (not_not.2 hkind)]

theorem run_actDataPacket_opens (n : Nat) (h : opens s bs = some k) (hkind : (packetOf (bs.take 56)).kind = 0) :
    run (actDataPacket bs n false) s = run (acts [useKey (packetOf (bs.take 56)).src (packetOf (bs.take 56)).epoch,
      when (0 < n) (count Reg.XPT_BLOCK_RESEND n), receive (packetOf (bs.take 56)) k (ackPacket (packetOf (bs.take 56)))]) s := by
  rw [actDataPacket, run_openPacket_opens _ h]
  simp only [hkind, ne_eq, not_true, Bool.false_eq_true, reduceIte, run_acts_cons, run_acts_nil]

end

/-! ### The receiver's procedure (R259) -/

section
variable {p : Packet} {k : List Byte} (reply : Nat → Act) (hwf : p.wellFormed k.length = true)
include hwf

theorem run_receive_whole (hgen : p.bufGen = (s.buf p.bufId).gen) (hposted : (s.buf p.bufId).st = .posted)
    (hlen : p.totalLen ≤ (s.buf p.bufId).length) (hone : p.totalLen ≤ 4096) :
    run (receive p k reply) s = run (completeBuf (s.buf p.bufId) p reply)
      (run (store (xptAddr (s.buf p.bufId).hostwin (s.buf p.bufId).addr p.offset) k) s) := by
  rw [receive, run_look]
  simp only [hwf, hgen, hposted, hone, Nat.not_lt.2 hlen, Bool.not_true, Bool.false_eq_true, reduceIte, run_acts_cons, run_acts_nil]

theorem run_receive_duplicate (hgen : p.bufGen = (s.buf p.bufId).gen) (hcomplete : (s.buf p.bufId).st = .complete)
    (hlast : (s.buf p.bufId).last = some (p.src, p.seq)) : run (receive p k reply) s = run (count Reg.XPT_DUP_DISCARD 1) (run (reply 0) s) := by
  rw [receive, run_look]
  simp only [hwf, hgen, hcomplete, hlast, Bool.not_true, Bool.false_eq_true, reduceIte, run_acts_cons, run_acts_nil]

theorem run_receive_stale (hgen : p.bufGen ≠ (s.buf p.bufId).gen) (hlast : (s.buf p.bufId).last ≠ some (p.src, p.seq)) :
    run (receive p k reply) s = run (count Reg.XPT_STALE_DISCARD 1) (run (reply 1) s) := by
  rw [receive, run_look]
  simp only [hwf, hgen, hlast, and_false, Bool.not_true, Bool.false_eq_true, reduceIte, run_acts_cons, run_acts_nil]

end

/-! ### An abandoned fill (R262) -/

theorem run_abandonFill_frame (n : Nat) (b : Buf) (st : BufSt) (s : State) :
    (run (abandonFill n b st) s).buf n = { b with st := st, gen := (b.gen + 1) % 65536, ctx := none } ∧
      (run (abandonFill n b st) s).led = s.led ∧ (run (abandonFill n b st) s).mem = s.mem := by
  simp only [abandonFill, run_acts_cons, run_acts_nil, run_count_led, run_raise_led, run_syncCtx_led, run_setBuf_led, run_count_mem,
    run_raise_mem, run_syncCtx_mem, run_setBuf_mem, and_self, and_true]
  rw [buf_congr (congrArg Body.xpt (run_count_body _ _ _)), buf_congr (apartFromHost_xpt.raise _ _ _),
    buf_congr (congrArg Body.xpt (run_syncCtx_body _)), buf_setBuf_same]

end

/-- Settles O30: a descriptor by its checks, a message without an answer by its retries and its age, an answer by the message it matches
(`run_actSend_starts`, `run_actRtoExpiry_again`, `run_takeAck_decides`). -/
theorem sendingTakesEffect : Obligations.SendingTakesEffect := by
  refine ⟨?_, ?_, ?_, ?_, ?_, ?_, ?_, ?_⟩
  · intro s q tail hT hopen hreenable htail
    have hform : (decide (q < 64) && decide (tail < 256)) = true := hT.form
    rw [exec_sendQueueDoorbell hT, run_qDoorbell_open (of_decide_eq_true (Bool.and_eq_true_iff.1 hform).1) hopen hreenable htail]
  · intro s q r i bs p hT hnext hsource hform hwin hpod hroom hordered hue
    rw [exec_send hT, run_actSend_starts r hnext hsource hform hwin hpod hroom hordered hue]
  · intro s q r i bs p hT hnext hsource hform
    rw [exec_send hT, run_actSend_badForm r hnext hsource hform]
  · intro s n r x hT hsent hretx htime hue
    rw [exec_rtoExpiry hT, run_actRtoExpiry_again hsent hretx htime hue]
  · intro s n r x hT hsent hover
    refine ⟨_, exec_rtoExpiry hT, ?_⟩
    rw [run_actRtoExpiry_over hsent r hover]
    refine ⟨rfl, rfl, rfl, ?_⟩
    rw [run_onXpt_xpt, tget_tput_same, Option.map_some]
  · intro s n x hT hsent hover
    rw [exec_sendGiveUp hT, run_actSendGiveUp_over hsent hover]
  · intro s bs k x st hT hopens hkind hsent hid hgen hst
    rw [exec_ackPacketReceive hT, run_actAckPacket_opens hopens hkind,
      run_takeAck_decides ((congrArg (tget · _) (run_useKey_sent _ _ s)).trans hsent) hid hgen hst]
  · intro s bs k hT hopens hkind hnone
    rw [exec_ackPacketReceive hT, run_actAckPacket_opens hopens hkind,
      run_takeAck_orphan _ _ _ ((congrArg (tget · _) (run_useKey_sent _ _ s)).trans hnone)]

/-- Settles O31: a packet by its key (`run_openPacket_noKey`, `run_actDataPacket_opens`), an opened one by the state and the generation of
its buffer (`run_receive_whole` and the lemmas after it). -/
theorem receivingTakesEffect : Obligations.ReceivingTakesEffect := by
  refine ⟨?_, ?_, ?_, ?_, ?_, ?_⟩
  · intro s bs n b hT hkind hkey
    rw [exec_dataPacketReceive hT, actDataPacket, run_openPacket_noKey _ hkind hkey]
  · intro s bs n k hT hopens hkind
    rw [exec_dataPacketReceive hT, run_actDataPacket_opens n hopens hkind]
  · intro s p k reply hwf hgen hposted hlen hone
    exact run_receive_whole reply hwf hgen hposted hlen hone
  · intro s p k reply hwf hgen hcomplete hlast
    exact run_receive_duplicate reply hwf hgen hcomplete hlast
  · intro s p k reply hwf hgen hlast
    exact run_receive_stale reply hwf hgen hlast
  · intro s n hT hfilling
    refine ⟨_, exec_fillTimeout hT, ?_⟩
    rw [actFillTimeout, run_look, if_pos hfilling]
    exact run_abandonFill_frame n (s.buf n) .posted s

end Sys2Proof.Machine
end

section
/-! SUPPORT. Links: flits, replays, retraining, ports up and down, lanes and their spares (R241 to R245, 09_transport_and_links.md). -/

namespace Sys2Proof.Machine

/-! ### The rows -/

section
variable {s : State} {p : Nat}

theorem exec_flitReceive {f : Flit} (hT : Takes s (.flitReceive p f)) :
    exec (.flitReceive p f) s = .next (run (actFlitReceive p f) s) := hT.done _
theorem exec_nak {f : Flit} (hT : Takes s (.nak p f)) : exec (.nak p f) s = .next (run (actNak p f) s) := hT.done _
theorem exec_replayTimeout (hT : Takes s (.replayTimeout p)) : exec (.replayTimeout p) s = .next (run (replayLink p) s) := hT.done _
theorem exec_retrain (hT : Takes s (.retrain p)) : exec (.retrain p) s = .next (run (actRetrain p) s) := hT.done _
theorem exec_retrainDone (hT : Takes s (.retrainDone p)) : exec (.retrainDone p) s = .next (run (actRetrainDone p) s) := hT.done _
theorem exec_retrainTimeout (hT : Takes s (.retrainTimeout p)) :
    exec (.retrainTimeout p) s = .next (run (actRetrainTimeout p) s) := hT.done _
theorem exec_portUp {w peer : Nat} (hT : Takes s (.portUp p w peer)) :
    exec (.portUp p w peer) s = .next (run (actPortUp p w peer) s) := hT.done _
theorem exec_laneFail {lane : Nat} (hT : Takes s (.laneFail p lane)) :
    exec (.laneFail p lane) s = .next (run (actLaneFail p lane) s) := hT.done _
theorem exec_spareLaneTrained (hT : Takes s (.spareLaneTrained p)) :
    exec (.spareLaneTrained p) s = .next (run (actSpareLaneTrained p) s) := hT.done _

/-! ### What a flag leaves alone -/

theorem apartFromHost_links : ApartFromHost Body.links := fun _ _ _ _ _ => rfl

@[simp] theorem run_raiseWith_led (blk bit : Nat) (c : Ctx) (s : State) : (run (raiseWith blk bit c) s).led = s.led := by
  simp [run, raiseWith]
@[simp] theorem run_raiseWith_mem (blk bit : Nat) (c : Ctx) (s : State) : (run (raiseWith blk bit c) s).mem = s.mem := by
  simp [run, raiseWith]
@[simp] theorem run_setLink_led (l : Link) (s : State) : (run (setLink p l) s).led = s.led := by rw [setLink, run_onBody]
@[simp] theorem run_setLink_mem (l : Link) (s : State) : (run (setLink p l) s).mem = s.mem := by rw [setLink, run_onBody]

theorem link_congr {s t : State} (h : t.body.links = s.body.links) (p : Nat) : t.link p = s.link p := by rw [State.link, h, State.link]

@[simp] theorem link_setLink_same (l : Link) (s : State) : (run (setLink p l) s).link p = l := by
  rw [State.link, setLink, run_onBody, tget_tput_same, Option.getD_some]

section
variable (hup : s.portUp p = true)
include hup

/-! ### Flits received (R241, R244) -/

section
variable {f : Flit}

theorem run_actFlitReceive_inSequence (hcrc : f.crcGood = true) (htype : f.type = 1 ∨ f.type = 2) (hseq : f.seq % 4096 = (s.link p).rxNext) :
    run (actFlitReceive p f) s = run (acts [count (Reg.FAB_FEC_CORR p) f.fec, count (Reg.FAB_FLITS_RX p) 1, linkAck p f,
      modLink p (fun l => { l with rxNext := (l.rxNext + 1) % 4096, nakSent := false }),
      emit (.idle p (s.link p).rxNext false (f.vc % 4) (if f.type = 1 then 1 else 0)), pumpLink p]) s := by
  rw [actFlitReceive, run_look]
  rcases htype with htype | htype <;>
    simp only [hup, hcrc, htype, hseq, Bool.not_true, Bool.false_eq_true, reduceIte, run_acts_cons, run_acts_nil]

theorem run_actFlitReceive_idle (hcrc : f.crcGood = true) (htype : f.type = 0) :
    run (actFlitReceive p f) s = run (acts [count (Reg.FAB_FEC_CORR p) f.fec, linkAck p f, pumpLink p]) s := by
  rw [actFlitReceive, run_look]
  simp only [hup, hcrc, htype, Bool.not_true, Bool.false_eq_true, reduceIte, run_acts_cons, run_acts_nil]

theorem run_actFlitReceive_badCrc (hcrc : f.crcGood = false) (hnak : (s.link p).nakSent = false) (htype : f.type ≠ 0) :
    run (actFlitReceive p f) s = run (acts [count (Reg.FAB_FEC_CORR p) f.fec, count (Reg.FAB_CRC_ERR p) 1, raiseWith Blk.fab 0 { unit := p },
      modLink p (fun l => { l with nakSent := true }), emit (.idle p (((s.link p).rxNext + 4095) % 4096) true 0 0)]) s := by
  rw [actFlitReceive, run_look]
  simp only [hup, hcrc, hnak, bne_iff_ne.2 htype, Bool.not_true, Bool.not_false, Bool.false_eq_true, reduceIte, run_when, run_acts_cons,
    run_acts_nil]

theorem run_actNak_good (hcrc : f.crcGood = true) :
    run (actNak p f) s = run (acts [count (Reg.FAB_FEC_CORR p) f.fec, linkAck p f, replayLink p, pumpLink p]) s := by
  rw [actNak, run_look]
  simp only [hup, hcrc, Bool.not_true, Bool.false_eq_true, reduceIte, run_acts_cons, run_acts_nil]

end

/-! ### Replay, retraining (R241, R242) -/

theorem run_replayLink_unacked (hretrain : (s.link p).retraining = false) (hunacked : (s.link p).unacked ≠ 0) :
    run (replayLink p) s = run (acts [setLink p { s.link p with replays := (s.link p).replays + 1 },
      emit (.replay p (s.link p).base (s.link p).unacked), count (Reg.FAB_REPLAYS p) 1, count (Reg.FAB_REPLAY_FLITS p) (s.link p).unacked,
      raiseWith Blk.fab 1 { unit := p }]) s := by
  rw [replayLink, run_look]
  simp only [hup, hretrain, beq_eq_false_iff_ne.2 hunacked, Bool.not_true, Bool.or_self, Bool.false_eq_true, reduceIte]

theorem run_actRetrain_begins (hretrain : (s.link p).retraining = false) (hmax : s.get Fld.FAB_CTL_REPLAY_MAX ≤ (s.link p).replays) :
    run (actRetrain p) s = run (acts [setLink p { s.link p with retraining := true }, count (Reg.FAB_RETRAINS p) 1,
      raiseWith Blk.fab 2 { unit := p }]) s := by
  rw [actRetrain, run_look]
  simp only [hup, hretrain, Nat.not_lt.2 hmax, Bool.not_true, decide_false, Bool.or_self, Bool.false_eq_true, reduceIte]

/-! ### Lanes (R245) -/

section
variable {lane : Nat}

theorem run_actLaneFail_narrows (hlane : (lanesOf s p).contains lane = true) (hrest : (lanesOf s p).filter (· != lane) ≠ []) :
    run (actLaneFail p lane) s = run (acts [raiseWith Blk.fab 3 { unit := lane }, modLink p (fun l => { l with lanesOut := l.lanesOut ++ [lane] }),
      when (64 ≤ lane) (setFld (Fld.FAB_PORT_STATUS_SPARED p) 0),
      setFld (Fld.FAB_PORT_STATUS_WIDTH p) ((lanesOf s p).filter (· != lane)).length,
      setFld (Fld.FAB_PORT_STATUS_DEGRADED p) (if ((lanesOf s p).filter (· != lane)).length < 4 then 1 else 0),
      exchangeLanes p ((lanesOf s p).filter (· != lane))]) s := by
  rw [actLaneFail, run_look]
  simp only [hup, hlane, List.isEmpty_eq_false_iff.2 hrest, Bool.not_true, Bool.or_self, Bool.false_eq_true, reduceIte, run_acts_cons, run_acts_nil]

theorem run_actLaneFail_last (hlane : lanesOf s p = [lane]) :
    run (actLaneFail p lane) s = run (acts [raiseWith Blk.fab 3 { unit := lane }, modLink p (fun l => { l with lanesOut := l.lanesOut ++ [lane] }),
      when (64 ≤ lane) (setFld (Fld.FAB_PORT_STATUS_SPARED p) 0), portDown p]) s := by
  have hmem : [lane].contains lane = true := by simp
  have hnone : [lane].filter (· != lane) = [] := by simp
  rw [actLaneFail, run_look]
  simp only [hup, hlane, hmem, hnone, List.isEmpty_nil, Bool.not_true, Bool.or_self, Bool.false_eq_true, reduceIte]

/-- What a spare that takes the place of a lane of port p sets down. -/
def takeSpare (p lane : Nat) : Act :=
  acts [setFld (Fld.FAB_SPARE_MAP_LANE (p / 4)) lane, setFld (Fld.FAB_SPARE_MAP_IN_USE (p / 4)) 1, setFld (Fld.FAB_PORT_STATUS_SPARED p) 1,
    useSpare 7 lane]

theorem run_actSpareLaneTrained_takes {u : State} (hfailed : (s.link p).lanesOut.find? (· < 64) = some lane)
    (hauto : s.is Fld.FAB_CTL_SPARE_AUTO = true) (hfree : s.is (Fld.FAB_SPARE_MAP_IN_USE (p / 4)) = false) (hleft : s.sparesLeft 7 ≠ 0)
    (hu : u = run (takeSpare p lane) s) :
    run (actSpareLaneTrained p) s = run (acts [setFld (Fld.FAB_PORT_STATUS_WIDTH p) (lanesOf u p).length,
      setFld (Fld.FAB_PORT_STATUS_DEGRADED p) (if (lanesOf u p).length < 4 then 1 else 0), exchangeLanes p (lanesOf u p)]) u := by
  rw [actSpareLaneTrained, run_look]
  simp only [hu, takeSpare, hup, hfailed, hauto, hfree, beq_eq_false_iff_ne.2 hleft, Bool.not_true, Bool.or_self, Bool.false_eq_true, reduceIte,
    run_look, run_acts_cons, run_acts_nil]

end

end

/-! ### The end of a retrain, a port that comes up (R242, R243) -/

theorem run_actRetrainDone_retraining (hretrain : (s.link p).retraining = true) :
    run (actRetrainDone p) s = run (acts [modLink p (fun l => { l with retraining := false, replays := 0 }), replayLink p, pumpLink p]) s := by
  rw [actRetrainDone, run_look, run_when, if_pos hretrain]

theorem run_actRetrainTimeout_retraining (hretrain : (s.link p).retraining = true) : run (actRetrainTimeout p) s = run (portDown p) s := by
  rw [actRetrainTimeout, run_look, run_when, if_pos hretrain]

/-- With no lane failed, a port comes up at the width that trained. -/
theorem run_actPortUp_allLanes {w : Nat} (peer : Nat) (hp : p < 16) (hw : w < 5) (hdown : s.portUp p = false)
    (henable : s.is (Fld.FAB_PORT_CFG_ENABLE p) = true) (hlanes : (s.link p).lanesOut = []) (hpos : 0 < w)
    (hclock : s.body.plat.clocksLost.contains (2 + p / 4) = false) :
    run (actPortUp p w peer) s = run (acts [herderSync, setLink p { credits := freshCredits }, setFld (Fld.FAB_PORT_STATUS_UP p) 1,
      setFld (Fld.FAB_PORT_STATUS_WIDTH p) w, setFld (Fld.FAB_PORT_STATUS_DEGRADED p) (if w < 4 then 1 else 0),
      setFld (Fld.FAB_PORT_STATUS_PEER_ID p) (if s.is (Fld.FAB_PORT_CFG_AGENT p) then 0 else peer), tagPort p]) s := by
  have hwidth : ∀ n, min w (min 4 (4 + n)) = w := fun n => by omega
  have hp' : ¬ 15 < p := by omega
  rw [actPortUp, run_look]
  simp only [hlanes, List.length_nil, Nat.sub_zero, hwidth, hp', hdown, henable, hclock, beq_eq_false_iff_ne.2 hpos.ne', decide_false,
    Bool.not_true, Bool.or_self, Bool.false_eq_true, reduceIte]

end

/-- Settles O32: a flit by its CRC, its type and its place in the sequence (`run_actFlitReceive_inSequence` and the lemmas after it), a
retrain by the replays before it, a port by its lanes. -/
theorem linksTakeEffect : Obligations.LinksTakeEffect := by
  refine ⟨?_, ?_, ?_, ?_, ?_, ?_, ?_, ?_, ?_⟩
  · intro s p f hT hup hcrc htype hseq
    rw [exec_flitReceive hT, run_actFlitReceive_inSequence hup hcrc htype hseq]
  · intro s p f hT hup hcrc htype
    rw [exec_flitReceive hT, run_actFlitReceive_idle hup hcrc htype]
  · intro s p f hT hup hcrc hnak htype
    rw [exec_flitReceive hT, run_actFlitReceive_badCrc hup hcrc hnak htype]
  · intro s p f hT hup hcrc
    rw [exec_nak hT, run_actNak_good hup hcrc]
  · intro s p hT hup hretrain hunacked
    rw [exec_replayTimeout hT, run_replayLink_unacked hup hretrain hunacked]
  · intro s p hT hup hretrain hmax
    refine ⟨_, exec_retrain hT, ?_⟩
    rw [run_actRetrain_begins hup hretrain hmax]
    simp only [run_acts_cons, run_acts_nil, run_raiseWith_led, run_raiseWith_mem, run_count_led, run_count_mem, run_setLink_led,
      run_setLink_mem, and_self, and_true]
    rw [link_congr (apartFromHost_links.raiseWith _ _ _ _), link_congr (congrArg Body.links (run_count_body _ _ _)), link_setLink_same]
  · intro s p hT hretrain
    rw [exec_retrainDone hT, run_actRetrainDone_retraining hretrain]
  · intro s p hT hretrain
    rw [exec_retrainTimeout hT, run_actRetrainTimeout_retraining hretrain]
  · intro s p w peer hT hdown henable hlanes hpos hclock
    have hform : (decide (p < 16) && decide (w < 5) && chipWf peer) = true := hT.form
    obtain ⟨hports, _⟩ := Bool.and_eq_true_iff.1 hform
    obtain ⟨hp, hw⟩ := Bool.and_eq_true_iff.1 hports
    rw [exec_portUp hT, run_actPortUp_allLanes peer (of_decide_eq_true hp) (of_decide_eq_true hw) hdown henable hlanes hpos hclock]
    rfl

/-- Settles O33: a failed lane by the lanes that remain, a trained spare by the lanes the port then has. -/
theorem lanesAreSpared : Obligations.LanesAreSpared := by
  refine ⟨?_, ?_, ?_⟩
  · intro s p lane r hT hup hlane hr hrest
    subst hr
    rw [exec_laneFail hT, run_actLaneFail_narrows hup hlane hrest]
  · intro s p lane hT hup hlane
    rw [exec_laneFail hT, run_actLaneFail_last hup hlane]
  · intro s p lane u hT hfailed hup hauto hfree hleft hu
    rw [exec_spareLaneTrained hT, run_actSpareLaneTrained_takes hup hfailed hauto hfree hleft hu]

end Sys2Proof.Machine
end

section
/-! SUPPORT. Collars: a refill, and the release of a reservation past its timeout (R278, R280, R281, 10_sharing_and_scheduling.md). -/

namespace Sys2Proof.Machine

section
variable {s : State} {x k : Nat}

theorem exec_collarRefill (hT : Takes s (.collarRefill x k)) : exec (.collarRefill x k) s = .next (run (refill x k) s) := hT.done _
theorem exec_resvTimeout {h n : Nat} (hT : Takes s (.resvTimeout k h n)) :
    exec (.resvTimeout k h n) s = .next (run (actResvTimeout k h n) s) := hT.done _

/-! ### The account of a Collar -/

theorem acctGet_acctPut_same (l : Ledger) (key : Nat) (c : CollarAcct) : acctGet (acctPut l key c) key = c := by
  rw [acctGet, acctPut, tget_tput_same, Option.getD_some]

theorem acctGet_acctPut_other (l : Ledger) {key j : Nat} (c : CollarAcct) (h : j ≠ key) : acctGet (acctPut l key c) j = acctGet l j := by
  rw [acctGet, acctPut, tget_tput_other _ _ h, acctGet]

theorem acctGet_colGrant_same (key n : Nat) (s : State) : acctGet (applyEff (.colGrant key n) s).led key =
    { acctGet s.led key with granted := (acctGet s.led key).granted + n, balance := (acctGet s.led key).balance + n } :=
  acctGet_acctPut_same _ _ _

theorem acctGet_colGrant_other {key j : Nat} (n : Nat) (s : State) (h : j ≠ key) :
    acctGet (applyEff (.colGrant key n) s).led j = acctGet s.led j := acctGet_acctPut_other _ _ h

theorem acctGet_colExpire_same (key n : Nat) (s : State) : acctGet (applyEff (.colExpire key n) s).led key =
    { acctGet s.led key with expired := (acctGet s.led key).expired + n, balance := (acctGet s.led key).balance - n } :=
  acctGet_acctPut_same _ _ _

theorem acctGet_colExpire_other {key j : Nat} (n : Nat) (s : State) (h : j ≠ key) :
    acctGet (applyEff (.colExpire key n) s).led j = acctGet s.led j := acctGet_acctPut_other _ _ h

/-! ### A refill (R278) -/

/-- What a refill grants, and what of it CAP takes back. -/
def grantToCap (x k : Nat) : Act := look fun s =>
  acts [eff (.colGrant (2 * x + k) (colRate s x k)), look fun t =>
    when (decide (0 < colBalance t x k - (colCap t x k : Int)))
      (eff (.colExpire (2 * x + k) (colBalance t x k - (colCap t x k : Int)).toNat))]

/-- The tick of the next refill of the Collar, an interval after the one now due. -/
def scheduleRefill (x k : Nat) (s : State) : Act :=
  onJobs fun j => { j with refill := tput j.refill (2 * x + k) ((tget j.refill (2 * x + k)).getD s.body.tick + colInterval s x k * 1024) }

theorem run_refill_off (hoff : colOn s x k = false) : run (refill x k) s = s := by
  rw [refill, run_look]
  simp only [hoff, Bool.not_false, reduceIte, run_nop]

theorem run_refill_on (hon : colOn s x k = true) : run (refill x k) s = run (walkTenant x)
    (run (scheduleRefill x k s) (run (grantToCap x k) s)) := by
  rw [refill, grantToCap, run_look, run_look]
  simp only [hon, scheduleRefill, Bool.not_true, Bool.false_eq_true, reduceIte, run_acts_cons, run_acts_nil]

theorem colCap_colGrant (key n : Nat) (s : State) : colCap (applyEff (.colGrant key n) s) x k = colCap s x k := rfl
theorem colBalance_colGrant (n : Nat) (s : State) : colBalance (applyEff (.colGrant (2 * x + k) n) s) x k = colBalance s x k + n := by
  rw [colBalance, acctGet_colGrant_same, colBalance]

/-- The two ends of a refill: within CAP the grant stays, beyond it the excess expires. -/
theorem run_grantToCap (x k : Nat) (s : State) : run (grantToCap x k) s =
    if colBalance s x k + colRate s x k ≤ colCap s x k then applyEff (.colGrant (2 * x + k) (colRate s x k)) s
    else applyEff (.colExpire (2 * x + k) (colBalance s x k + colRate s x k - colCap s x k).toNat)
      (applyEff (.colGrant (2 * x + k) (colRate s x k)) s) := by
  simp only [grantToCap, run_look, run_acts_cons, run_acts_nil, run_eff, run_when, colBalance_colGrant, colCap_colGrant, decide_eq_true_eq,
    ← not_le, sub_nonpos, ite_not]

theorem colBalance_grantToCap (x k : Nat) (s : State) :
    colBalance (run (grantToCap x k) s) x k = min (colBalance s x k + colRate s x k) (colCap s x k) := by
  rw [run_grantToCap]
  split
  next hle => rw [colBalance_colGrant, min_eq_left hle]
  next hgt =>
    rw [colBalance, acctGet_colExpire_same]
    change colBalance (applyEff (.colGrant (2 * x + k) (colRate s x k)) s) x k - _ = _
    rw [colBalance_colGrant]
    omega

/-- A refill counts RATE as granted, and of the Collar's account leaves the reserved amount. -/
theorem acctGet_grantToCap_same (x k : Nat) (s : State) :
    (acctGet (run (grantToCap x k) s).led (2 * x + k)).granted = (acctGet s.led (2 * x + k)).granted + colRate s x k ∧
      (acctGet (run (grantToCap x k) s).led (2 * x + k)).reserved = (acctGet s.led (2 * x + k)).reserved := by
  rw [run_grantToCap]
  split
  next => simp only [acctGet_colGrant_same, and_self]
  next => simp only [acctGet_colExpire_same, acctGet_colGrant_same, and_self]

theorem acctGet_grantToCap_other {j : Nat} (s : State) (h : j ≠ 2 * x + k) : acctGet (run (grantToCap x k) s).led j = acctGet s.led j := by
  rw [run_grantToCap]
  split
  next => rw [acctGet_colGrant_other _ _ h]
  next => rw [acctGet_colExpire_other _ _ h, acctGet_colGrant_other _ _ h]

theorem run_grantToCap_frame (x k : Nat) (s : State) :
    (run (grantToCap x k) s).mem = s.mem ∧ (run (grantToCap x k) s).regs = s.regs ∧ (run (grantToCap x k) s).body = s.body := by
  rw [run_grantToCap]
  split <;> simp

@[simp] theorem run_onJobs_regs (f : Jobs → Jobs) (s : State) : (run (onJobs f) s).regs = s.regs := by rw [onJobs, run_onBody]

/-- A tenant with no deferred job has nothing to walk. -/
theorem run_walkTenant_none (h : tget s.body.jobs.deferred x = none) : run (walkTenant x) s = s := by
  rw [walkTenant, run_look, h]
  exact run_nop s

theorem deferred_scheduleRefill (x k : Nat) (s t : State) :
    (run (scheduleRefill x k s) t).body.jobs.deferred = t.body.jobs.deferred := by rw [scheduleRefill, run_onJobs_jobs]

/-- Without deferred jobs a refill is its grant, and the instant of the next one. -/
theorem run_refill_idle (hon : colOn s x k = true) (hnone : tget s.body.jobs.deferred x = none) :
    run (refill x k) s = run (scheduleRefill x k s) (run (grantToCap x k) s) := by
  obtain ⟨_, _, hbody⟩ := run_grantToCap_frame x k s
  rw [run_refill_on hon, run_walkTenant_none (by rw [deferred_scheduleRefill, hbody, hnone])]

/-! ### A reservation past its timeout (R280) -/

theorem run_actResvTimeout_held {h n : Nat} {r : Resv} (hr : resvOf s k h n = some r) :
    run (actResvTimeout k h n) s = run (acts [releaseResv r, raise Blk.col 1, walkTenant r.1]) s := by
  rw [actResvTimeout, run_look]
  simp only [hr]

end

/-- Settles O35: a refill by its grant and what CAP takes back of it (`run_grantToCap`), a reservation by its place in the table. -/
theorem collarsRefillAndRelease : Obligations.CollarsRefillAndRelease := by
  refine ⟨?_, ?_, ?_, ?_⟩
  · intro s x k hT hon hnone
    obtain ⟨hmem, hregs, _⟩ := run_grantToCap_frame x k s
    obtain ⟨hgranted, hreserved⟩ := acctGet_grantToCap_same x k s
    refine ⟨_, exec_collarRefill hT, ?_⟩
    rw [run_refill_idle hon hnone, scheduleRefill, colBalance, run_onJobs_led, run_onJobs_mem, run_onJobs_regs]
    exact ⟨colBalance_grantToCap x k s, hgranted, hreserved, fun j hj => acctGet_grantToCap_other s hj, hmem, hregs⟩
  · intro s x k hT _
    exact exec_collarRefill hT
  · intro s x k hT hoff
    rw [exec_collarRefill hT, run_refill_off hoff]
  · intro s k h n r hT hr
    rw [exec_resvTimeout hT, run_actResvTimeout_held hr]

end Sys2Proof.Machine
end

section
/-! SUPPORT. The Herder: what a free port starts, and what a refill instant leaves in a shaper (R272, R274, R276,
10_sharing_and_scheduling.md). -/

namespace Sys2Proof.Machine

theorem exec_herderSelect {s : State} {p : Nat} (hT : Takes s (.herderSelect p)) :
    exec (.herderSelect p) s = .next (run (actHerderSelect p) s) := hT.done _
theorem exec_shaperRefill {s : State} (hT : Takes s .shaperRefill) : exec .shaperRefill s = .next (run actShaperRefill s) :=
  done_works hT.works

/-! ### Selection (R274) -/

/-- The queue of a list whose finish tag is earlier than every other's is the one the scan for the least tag ends at. -/
theorem foldl_earlier_eq {finish : Nat → Nat} {n b : Nat} {l : List Nat} (hmem : n ∈ b :: l)
    (hleast : ∀ x ∈ b :: l, x ≠ n → earlier (finish n) (finish x) = true ∧ earlier (finish x) (finish n) = false) :
    l.foldl (fun b x => if earlier (finish x) (finish b) then x else b) b = n := by
  induction l generalizing b with
  | nil => exact (List.mem_singleton.1 hmem).symm
  | cons x l ih =>
    obtain ⟨hb, hx, hl⟩ : _ ∧ _ ∧ _ := by simpa only [List.forall_mem_cons] using hleast
    rw [List.foldl_cons]
    refine ih ?_ (List.forall_mem_cons.2 ⟨?_, hl⟩)
    · by_cases hbn : b = n
      · by_cases hxn : x = n
        · rw [hbn, hxn, ite_self]; exact List.mem_cons_self
        · rw [hbn, (hx hxn).2, if_neg Bool.false_ne_true]; exact List.mem_cons_self
      · by_cases hxn : x = n
        · rw [hxn, (hb hbn).1, if_pos rfl]; exact List.mem_cons_self
        · have hnl : n ∈ l := by simpa [Ne.symm hbn, Ne.symm hxn] using hmem
          exact List.mem_cons_of_mem _ hnl
    · split
      · exact hx
      · exact hb

section
variable {s u : State} {p : Nat} (hu : u = run herderSync s)
include hu

/-- A port that still sends a packet starts nothing. -/
theorem run_actHerderSelect_busy (hleft : (u.link p).left ≠ none) : run (actHerderSelect p) s = u := by
  have hbusy : (u.link p).left.isSome = true := Option.isSome_iff_ne_none.2 hleft
  rw [actHerderSelect, run_acts_cons, ← hu, run_acts_cons, run_acts_nil, run_look]
  simp only [hbusy, Bool.or_true, reduceIte, run_nop]

section
variable (hup : u.portUp p = true) (hretrain : (u.link p).retraining = false) (hleft : (u.link p).left = none)
include hup hretrain hleft

theorem run_actHerderSelect_control (hsel : selectable u p (64 * p) = true) :
    run (actHerderSelect p) s = run (startPacket p (64 * p)) u := by
  rw [actHerderSelect, run_acts_cons, ← hu, run_acts_cons, run_acts_nil, run_look]
  simp only [hup, hretrain, hleft, hsel, Bool.not_true, Option.isSome_none, Bool.or_self, Bool.false_eq_true, reduceIte]

theorem run_actHerderSelect_least {n : Nat} (hctrl : selectable u p (64 * p) = false) (hlo : 64 * p < n) (hhi : n < 64 * p + 64)
    (hsel : selectable u p n = true)
    (hleast : ∀ x, 64 * p < x → x < 64 * p + 64 → x ≠ n → selectable u p x = true →
      earlier (u.tq n).finish (u.tq x).finish = true ∧ earlier (u.tq x).finish (u.tq n).finish = false) :
    run (actHerderSelect p) s = run (startPacket p n) u := by
  have hqueues : ∀ x, x ∈ ((List.range 63).map fun i => 64 * p + i + 1).filter (selectable u p) ↔
      (64 * p < x ∧ x < 64 * p + 64) ∧ selectable u p x = true := by
    intro x
    rw [List.mem_filter, List.mem_map]
    refine and_congr_left' ⟨?_, fun hx => ⟨x - (64 * p + 1), List.mem_range.2 (by omega), by omega⟩⟩
    rintro ⟨i, hi, rfl⟩
    have := List.mem_range.1 hi
    omega
  have hn := (hqueues n).2 ⟨⟨hlo, hhi⟩, hsel⟩
  rw [actHerderSelect, run_acts_cons, ← hu, run_acts_cons, run_acts_nil, run_look]
  simp only [hup, hretrain, hleft, hctrl, Bool.not_true, Option.isSome_none, Bool.or_self, Bool.false_eq_true, reduceIte]
  split
  next hnil => rw [hnil] at hn; cases hn
  next b l hcons =>
    rw [hcons] at hn hqueues
    rw [foldl_earlier_eq (finish := fun x => (u.tq x).finish) hn fun x hx hne => ?_]
    obtain ⟨⟨hxlo, hxhi⟩, hxsel⟩ := (hqueues x).1 hx
    exact hleast x hxlo hxhi hne hxsel

end

end

/-! ### What leaves a shaper alone -/

/-- From s to t memory, the ledgers and the registers and the state of queue n's shaper are kept. -/
structure KeepsShaper (n : Nat) (s t : State) : Prop where
  mem : t.mem = s.mem
  led : t.led = s.led
  shaped : tget t.body.herder.shaped n = tget s.body.herder.shaped n
  cfg : t.rd (Reg.HRD_Q_CFG n) = s.rd (Reg.HRD_Q_CFG n)
  state : t.rd (Reg.HRD_Q_STATE n) = s.rd (Reg.HRD_Q_STATE n)

namespace KeepsShaper
variable {n : Nat} {s t u : State}

theorem refl (n : Nat) (s : State) : KeepsShaper n s s := ⟨rfl, rfl, rfl, rfl, rfl⟩

theorem trans (h : KeepsShaper n s t) (h' : KeepsShaper n t u) : KeepsShaper n s u :=
  ⟨h'.mem.trans h.mem, h'.led.trans h.led, h'.shaped.trans h.shaped, h'.cfg.trans h.cfg, h'.state.trans h.state⟩

theorem shapeOn (h : KeepsShaper n s t) : shapeOn t n = shapeOn s n := by rw [Machine.shapeOn, h.shaped, Machine.shapeOn]
theorem shape (h : KeepsShaper n s t) : t.is (Fld.HRD_Q_CFG_SHAPE n) = s.is (Fld.HRD_Q_CFG_SHAPE n) := by
  rw [State.is, State.get, State.is, State.get, show t.rd (Fld.HRD_Q_CFG_SHAPE n).addr = _ from h.cfg]; rfl
theorem rate (h : KeepsShaper n s t) : t.get (Fld.HRD_Q_CFG_RATE n) = s.get (Fld.HRD_Q_CFG_RATE n) := by
  rw [State.get, State.get, show t.rd (Fld.HRD_Q_CFG_RATE n).addr = _ from h.cfg]; rfl
theorem depth (h : KeepsShaper n s t) : t.get (Fld.HRD_Q_CFG_DEPTH n) = s.get (Fld.HRD_Q_CFG_DEPTH n) := by
  rw [State.get, State.get, show t.rd (Fld.HRD_Q_CFG_DEPTH n).addr = _ from h.cfg]; rfl
theorem tokens (h : KeepsShaper n s t) : t.get (Fld.HRD_Q_STATE_TOKENS n) = s.get (Fld.HRD_Q_STATE_TOKENS n) := by
  rw [State.get, State.get, show t.rd (Fld.HRD_Q_STATE_TOKENS n).addr = _ from h.state]; rfl
theorem tokensOf (h : KeepsShaper n s t) : tokensOf t n = tokensOf s n := by rw [Machine.tokensOf, h.tokens, Machine.tokensOf]

theorem onHerder {f : Herder → Herder} (hf : ∀ x, tget (f x).shaped n = tget x.shaped n) (s : State) :
    KeepsShaper n s (run (Machine.onHerder f) s) := ⟨rfl, rfl, hf _, rfl, rfl⟩

theorem when {c : Bool} {a : Act} (h : KeepsShaper n s (run a s)) : KeepsShaper n s (run (Machine.when c a) s) := by
  rw [run_when]
  split
  · exact h
  · exact refl n s

/-- What holds of one element's action holds of the whole list's. -/
theorem each {α : Type} {f : α → Act} {l : List α} (h : ∀ x ∈ l, ∀ s, KeepsShaper n s (run (f x) s)) (s : State) :
    KeepsShaper n s (run (each l f) s) := by
  induction l generalizing s with
  | nil => rw [run_each_nil]; exact refl n s
  | cons x l ih =>
    obtain ⟨hx, hl⟩ := List.forall_mem_cons.1 h
    rw [run_each_cons]
    exact (hx s).trans (ih hl _)

end KeepsShaper

/-! ### Flags of the Herder -/

theorem regRead_flagPut_other (m : List (Nat × W64)) {fa ea a : Nat} (b : Nat) (hf : a ≠ fa) (he : a ≠ ea) :
    regRead (flagPut m fa ea b) a = regRead m a := by
  rw [flagPut, regRead_regPut_other _ _ he, regRead_regPut_other _ _ hf]

/-- An error record writes no register but the flags and the counters of the BRK block. -/
theorem rd_bark_other (r : BarkRec) (s : State) {a : Nat} (h : Reg.BRK_ERR_EVT 1 < a) : (applyEff (.bark r) s).rd a = s.rd a := by
  have hflags : a ≠ Reg.BRK_ERR_FLAGS := by simp only [Reg.BRK_ERR_EVT, Reg.BRK_ERR_FLAGS] at h ⊢; omega
  have hevt0 : a ≠ Reg.BRK_ERR_EVT 0 := by simp only [Reg.BRK_ERR_EVT] at h ⊢; omega
  simp only [State.rd, applyEff, barkEff]
  split
  · split
    · exact regRead_flagPut_other _ _ hflags h.ne'
    · rfl
  · exact regRead_flagPut_other _ _ hflags hevt0

theorem rd_raiseWith_hrd {bit : Nat} (c : Ctx) (s : State) {a : Nat} (hbit : bit < 2) (ha : Reg.HRD_Q_CFG 0 ≤ a) :
    (run (raiseWith Blk.hrd bit c) s).rd a = s.rd a := by
  have hflags : a ≠ (flagAddrs Blk.hrd).1 := by
    simp only [flagAddrs, Blk.hrd, Reg.HRD_Q_CFG, Reg.HRD_ERR_FLAGS] at ha ⊢; omega
  have hevt : a ≠ (flagAddrs Blk.hrd).2 + 4 * bit := by
    simp only [flagAddrs, Blk.hrd, Reg.HRD_Q_CFG, Reg.HRD_ERR_EVT] at ha ⊢; omega
  have hbrk : Reg.BRK_ERR_EVT 1 < a := by simp only [Reg.BRK_ERR_EVT, Reg.HRD_Q_CFG] at ha ⊢; omega
  simp only [run, raiseWith, applyAll_cons, applyAll_nil]
  rw [rd_bark_other _ _ hbrk, State.rd, applyEff_reg_regs, regRead_regPut_other _ _ hevt, applyEff_reg_regs,
    regRead_regPut_other _ _ hflags, State.rd]

theorem apartFromHost_herder : ApartFromHost Body.herder := fun _ _ _ _ _ => rfl

theorem keepsShaper_raiseWith {bit : Nat} (n : Nat) (c : Ctx) (s : State) (hbit : bit < 2) :
    KeepsShaper n s (run (raiseWith Blk.hrd bit c) s) where
  mem := run_raiseWith_mem _ _ _ s
  led := run_raiseWith_led _ _ _ s
  shaped := by rw [apartFromHost_herder.raiseWith]
  cfg := rd_raiseWith_hrd c s hbit (by simp only [Reg.HRD_Q_CFG]; omega)
  state := rd_raiseWith_hrd c s hbit (by simp only [Reg.HRD_Q_CFG, Reg.HRD_Q_STATE]; omega)

/-! ### Queueing and tagging leave every shaper alone (R272, R274) -/

/-- Every port that is up tags its queues. -/
def tagPorts : Act := look fun s => each ((List.range 16).filter s.portUp) tagPort

section
variable (n : Nat) (s : State)

theorem keepsShaper_admitOne (i : Nat) (o : Output) : KeepsShaper n s (run (admitOne i o) s) := by
  rw [admitOne, run_look]
  cases legOf s o with
  | none => exact .refl n s
  | some g =>
    dsimp only
    exact .onHerder (by intro _; rfl) s

theorem keepsShaper_admitAll : KeepsShaper n s (run admitAll s) := by
  rw [admitAll, run_look, run_acts_cons, run_acts_cons, run_acts_nil]
  exact (KeepsShaper.each (by intro e _ s; exact keepsShaper_admitOne n s e.1 e.2) s).trans (.onHerder (by intro _; rfl) _)

theorem keepsShaper_tagPort (p : Nat) : KeepsShaper n s (run (tagPort p) s) := by
  refine KeepsShaper.each (fun m _ s => ?_) s
  rw [run_look]
  dsimp only
  split
  · exact .refl n s
  · split
    · split
      · exact .refl n s
      · exact .onHerder (by intro _; rfl) s
    · rw [run_when]
      split
      next hheld =>
        have hbit : m % 64 < 2 := of_decide_eq_true (Bool.and_eq_true_iff.1 hheld).1
        rw [run_acts_cons, run_acts_cons, run_acts_nil]
        exact (KeepsShaper.onHerder (by intro _; rfl) s).trans (keepsShaper_raiseWith n _ _ hbit)
      next => exact .refl n s

theorem keepsShaper_tagPorts : KeepsShaper n s (run tagPorts s) := by
  rw [tagPorts, run_look]
  exact .each (fun p _ s => keepsShaper_tagPort n s p) s

theorem keepsShaper_herderSync : KeepsShaper n s (run herderSync s) := by
  rw [herderSync, run_acts_cons, run_acts_cons, run_acts_nil]
  exact (keepsShaper_admitAll n s).trans (keepsShaper_tagPorts n _)

end

/-! ### A refill instant (R276) -/

/-- The token count that a refill instant in state s gives queue n, where its register then holds the count of state t. -/
def refilled (s t : State) (n : Nat) : Int :=
  min (s.get (Fld.HRD_Q_CFG_DEPTH n) : Int) ((if shapeOn s n then tokensOf t n else 0) + s.get (Fld.HRD_Q_CFG_RATE n))

/-- What a refill instant in state s does to the shaper of queue n. -/
def refillShaper (s : State) (n : Nat) : Act := look fun t =>
  acts [when (s.is (Fld.HRD_Q_CFG_SHAPE n) != shapeOn s n)
      (onHerder fun h => { h with shaped := tput h.shaped n (s.is (Fld.HRD_Q_CFG_SHAPE n)) }),
    when (s.is (Fld.HRD_Q_CFG_SHAPE n)) (setFld (Fld.HRD_Q_STATE_TOKENS n) (wordOf 32 (refilled s t n)))]

/-- A refill instant at every queue. -/
def refillShapers : Act := look fun s => each (List.range 1024) fun n => refillShaper s n

theorem run_actShaperRefill (s : State) : run actShaperRefill s = run tagPorts (run refillShapers (run herderSync s)) := by
  simp only [actShaperRefill, refillShapers, refillShaper, refilled, tagPorts, run_acts_cons, run_acts_nil]

/-- The shaper of another queue is left alone. -/
theorem keepsShaper_refillShaper (s t : State) {m n : Nat} (h : m ≠ n) : KeepsShaper n t (run (refillShaper s m) t) := by
  have hcfg : Reg.HRD_Q_CFG n ≠ (Fld.HRD_Q_STATE_TOKENS m).addr := by
    simp only [Fld.HRD_Q_STATE_TOKENS, Reg.HRD_Q_CFG, Reg.HRD_Q_STATE]; omega
  have hstate : Reg.HRD_Q_STATE n ≠ (Fld.HRD_Q_STATE_TOKENS m).addr := by
    simp only [Fld.HRD_Q_STATE_TOKENS, Reg.HRD_Q_STATE]; omega
  have htokens (v : Nat) (t : State) : KeepsShaper n t (run (setFld (Fld.HRD_Q_STATE_TOKENS m) v) t) :=
    ⟨run_setFld_mem _ _ t, run_setFld_led _ _ t, by rw [run_setFld_body], rd_setFld_other hcfg, rd_setFld_other hstate⟩
  have hshaped (t : State) : KeepsShaper n t (run (onHerder fun h => { h with shaped := tput h.shaped m (s.is (Fld.HRD_Q_CFG_SHAPE m)) }) t) :=
    .onHerder (fun _ => tget_tput_other _ _ h.symm) t
  rw [refillShaper, run_look, run_acts_cons, run_acts_cons, run_acts_nil]
  exact (hshaped t).when.trans (htokens _ _).when

/-- An enabled shaper takes its new count of tokens. -/
theorem run_refillShaper_enabled {s : State} {n : Nat} (t : State) (hcfg : s.is (Fld.HRD_Q_CFG_SHAPE n) = true) (hon : shapeOn s n = true) :
    run (refillShaper s n) t = run (setFld (Fld.HRD_Q_STATE_TOKENS n)
      (wordOf 32 (min (s.get (Fld.HRD_Q_CFG_DEPTH n) : Int) (tokensOf t n + s.get (Fld.HRD_Q_CFG_RATE n))))) t := by
  rw [refillShaper, run_look, run_acts_cons, run_acts_cons, run_acts_nil]
  simp only [hcfg, hon, refilled, bne_self_eq_false, run_when, Bool.false_eq_true, reduceIte]

theorem run_each_append {α : Type} (l l' : List α) (f : α → Act) (s : State) :
    run (each (l ++ l') f) s = run (each l' f) (run (each l f) s) := by
  induction l generalizing s with
  | nil => rw [List.nil_append, run_each_nil]
  | cons x l ih => rw [List.cons_append, run_each_cons, run_each_cons, ih]

theorem wordOf_lt (w : Nat) (i : Int) : wordOf w i < 2 ^ w := by
  have hpos : (0 : Int) < ((2 ^ w : Nat) : Int) := by exact_mod_cast Nat.two_pow_pos w
  have hlt := Int.emod_lt_of_pos i hpos
  have hnonneg := Int.emod_nonneg i hpos.ne'
  rw [wordOf]
  omega

/-- Of the writes of a refill instant only its own reaches a queue's shaper. -/
theorem refillShapers_spec {s : State} {n : Nat} (hs : s.canonical) (hn : n < 1024) (hcfg : s.is (Fld.HRD_Q_CFG_SHAPE n) = true)
    (hon : shapeOn s n = true) :
    ∃ t, run refillShapers s = t ∧ t.mem = s.mem ∧ t.led = s.led ∧ shapeOn t n = true ∧
      t.get (Fld.HRD_Q_STATE_TOKENS n) =
        wordOf 32 (min (s.get (Fld.HRD_Q_CFG_DEPTH n) : Int) (tokensOf s n + s.get (Fld.HRD_Q_CFG_RATE n))) := by
  obtain ⟨before, after, hsplit⟩ := List.append_of_mem (List.mem_range.2 hn)
  have hnodup : (before ++ n :: after).Nodup := hsplit ▸ List.nodup_range
  obtain ⟨_, hcons, hdisj⟩ := List.nodup_append.1 hnodup
  have hbefore := KeepsShaper.each (n := n) (l := before) (f := refillShaper s)
    (fun m hm t => keepsShaper_refillShaper s t (hdisj m hm n List.mem_cons_self)) s
  have hafter := KeepsShaper.each (n := n) (l := after) (f := refillShaper s)
    (fun m hm t => keepsShaper_refillShaper s t (ne_of_mem_of_not_mem hm (List.nodup_cons.1 hcons).1))
  have hregs : risingKeys (run (each before (refillShaper s)) s).regs = true :=
    (canon_iff.1 (run_keeps applyEff_canonical _ s hs).2.1).1
  rw [refillShapers, run_look, hsplit, run_each_append, run_each_cons, run_refillShaper_enabled _ hcfg hon, hbefore.tokensOf]
  refine ⟨_, rfl, ?_, ?_, ?_, ?_⟩
  · rw [(hafter _).mem, run_setFld_mem, hbefore.mem]
  · rw [(hafter _).led, run_setFld_led, hbefore.led]
  · rw [(hafter _).shapeOn, shapeOn, run_setFld_body, ← shapeOn, hbefore.shapeOn, hon]
  · rw [(hafter _).tokens, get_setFld_same hregs (by decide : 0 + 32 ≤ 64)]
    exact Nat.mod_eq_of_lt (wordOf_lt 32 _)

/-- Settles O34: the port's choice by the tags of the queues it can select (`foldl_earlier_eq`), a refill by the one write that reaches a
queue's shaper (`refillShapers_spec`). -/
theorem herderSelectsAndRefills : Obligations.HerderSelectsAndRefills := by
  refine ⟨?_, ?_, ?_, ?_⟩
  · intro s p u hT hu hup hretrain hleft hsel
    rw [exec_herderSelect hT, run_actHerderSelect_control hu hup hretrain hleft hsel]
  · intro s p u n hT hu hup hretrain hleft hctrl hlo hhi hsel hleast
    rw [exec_herderSelect hT, run_actHerderSelect_least hu hup hretrain hleft hctrl hlo hhi hsel hleast]
  · intro s p u hT hu hleft
    rw [exec_herderSelect hT, run_actHerderSelect_busy hu hleft]
  · intro s n hs hT hn hcfg hon
    have hsync := keepsShaper_herderSync n s
    obtain ⟨t, ht, hmem, hled, hton, htokens⟩ := refillShapers_spec (run_keeps applyEff_canonical herderSync s hs) hn
      (hsync.shape.trans hcfg) (hsync.shapeOn.trans hon)
    have htag := keepsShaper_tagPorts n t
    refine ⟨_, exec_shaperRefill hT, ?_⟩
    rw [run_actShaperRefill, ht]
    refine ⟨?_, ?_, ?_, ?_⟩
    · rw [htag.mem, hmem, hsync.mem]
    · rw [htag.led, hled, hsync.led]
    · rw [htag.shapeOn, hton]
    · rw [htag.tokens, htokens, hsync.depth, hsync.rate, hsync.tokensOf]

end Sys2Proof.Machine
end

section
/-! SUPPORT. Step jobs from their dispatch to their end: dispatch, the ends of runs, the stall limit, internal replays (R50, 02_state_memory.md;
R75 to R77, R82, 03_attention_engines.md; R284, 10_sharing_and_scheduling.md). -/

namespace Sys2Proof.Machine

/-! ### The rows -/

section
variable {s : State} {id : Nat}

theorem exec_jobDispatch {pae : Bool} (hT : Takes s (.jobDispatch pae)) :
    exec (.jobDispatch pae) s = .next (run (actDispatch pae) s) := done_works hT.works
theorem exec_subjobEnd {n hw : Nat} (hT : Takes s (.subjobEnd id n hw)) :
    exec (.subjobEnd id n hw) s = .next (run (actSubjobEnd id n hw) s) := done_works hT.works
theorem exec_jobEnd {n hw : Nat} (hT : Takes s (.jobEnd id n hw)) :
    exec (.jobEnd id n hw) s = .next (run (actJobEnd id n hw) s) := done_works hT.works
theorem exec_stallLimit (hT : Takes s (.stallLimit id)) : exec (.stallLimit id) s = .next (run (actStallLimit id) s) :=
  done_works hT.works
theorem exec_internalReplay {smp : Bool} (hT : Takes s (.internalReplay smp id)) :
    exec (.internalReplay smp id) s = .next (run (actReplay smp id) s) := done_works hT.works

end

/-! ### Dispatch (R284) -/

section
variable {s u : State} {pae : Bool} {x : Nat × Job} {f : List Nat × Bool × List Nat × Bool}
  (hu : u = run (liftGroups (if pae then 1 else 0)) s) (hfit : fitJob u x.2 = some f)
include hu hfit

/-- The first job of class 0, where it fits, is dispatched. -/
theorem run_actDispatch_class0
    (hfirst : (inQueueOrder u (if pae then 1 else 0) ((readyJobs u (if pae then 1 else 0)).filter fun x => x.2.cls == 0)).head? = some x) :
    run (actDispatch pae) s = run (liftGroups (if pae then 1 else 0)) (run (dispatchJob x.1 f) u) := by
  obtain ⟨rest, hcons⟩ := List.head?_eq_some_iff.1 hfirst
  rw [actDispatch, run_acts_cons, ← hu, run_acts_cons, run_acts_cons, run_acts_nil, run_look]
  simp only [hcons, List.findSome?_cons, hfit, Option.map_some]

/-- Without a ready job of class 0 the chosen job, where it fits, is dispatched. -/
theorem run_actDispatch_chosen (hnone : ∀ y ∈ readyJobs u (if pae then 1 else 0), y.2.cls ≠ 0)
    (hchosen : chooseJob u (if pae then 1 else 0) (readyJobs u (if pae then 1 else 0)) = some x) :
    run (actDispatch pae) s = run (liftGroups (if pae then 1 else 0)) (run (dispatchJob x.1 f) u) := by
  have hclass0 : ((readyJobs u (if pae then 1 else 0)).filter fun x => x.2.cls == 0) = [] :=
    List.filter_eq_nil_iff.2 fun y hy => by simpa using hnone y hy
  have hothers : ((readyJobs u (if pae then 1 else 0)).filter fun x => x.2.cls != 0) = readyJobs u (if pae then 1 else 0) :=
    List.filter_eq_self.2 fun y hy => by simpa using hnone y hy
  rw [actDispatch, run_acts_cons, ← hu, run_acts_cons, run_acts_cons, run_acts_nil, run_look]
  simp only [hclass0, hothers, inQueueOrder, List.foldl_nil, List.findSome?_nil, hchosen, hfit]

end

/-! ### What taking groups leaves alone -/

@[simp] theorem run_holdGroups_mem (e : Nat) (gs : List Nat) (s : State) : (run (holdGroups e gs) s).mem = s.mem := by
  simp [run, holdGroups, setFld]
@[simp] theorem run_holdGroups_led (e : Nat) (gs : List Nat) (s : State) : (run (holdGroups e gs) s).led = s.led := by
  simp [run, holdGroups, setFld]

theorem inflight_credIssue (n : Nat) (s : State) : (applyEff (.credIssue none n) s).led.chip.inflight = s.led.chip.inflight + n := rfl

theorem job_putJob_same (id : Nat) (j : Job) (s : State) : (run (putJob id j) s).job id = some j := by
  rw [State.job, putJob, run_onJobs_jobs, tget_tput_same]

/-- What an action keeps, it keeps where it depends on a condition. -/
theorem run_when_keeps {α : Type} {f : State → α} {c : Bool} {a : Act} {s : State} (h : f (run a s) = f s) : f (run (when c a) s) = f s := by
  rw [run_when]
  split
  · exact h
  · rfl

section
variable {s : State} {id : Nat} {j : Job} (hjob : s.job id = some j)
include hjob

/-! ### The start of a run (R74, R75, R287) -/

/-- A job whose turn passes its checks, and whose intake ends nothing, starts on its groups. -/
theorem run_dispatchJob_starts {w : Job} (f : List Nat × Bool × List Nat × Bool) (hbegun : j.begun = false) (hturn : checkTurn s j.d = none)
    (hintake : (run (intake id) (run (stallJob 0 id) s)).job id = some w) (hend : w.endWith = none) :
    run (dispatchJob id f) s = run (startJob id f.1 f.2.1 f.2.2.1 f.2.2.2) (run (intake id) (run (stallJob 0 id) s)) := by
  rw [dispatchJob, run_look]
  simp only [hjob, hbegun, hturn, Bool.false_eq_true, reduceIte, run_acts_cons, run_acts_nil, run_look, hintake, hend]

/-- A job that starts runs on its groups, and carries one credit of the on-chip crossing. -/
theorem run_startJob_running (gs tiles : List Nat) (res fallback : Bool) :
    ∃ w t, w.st = .running ∧ w.groups = gs ∧ t.led.chip.inflight = s.led.chip.inflight + 1 ∧ t.mem = s.mem ∧
      run (startJob id gs res tiles fallback) s = run (putJob id w) t := by
  rw [startJob, run_look]
  simp only [hjob, run_acts_cons, run_acts_nil]
  refine ⟨_, _, rfl, rfl, ?_, ?_, rfl⟩
  · rw [run_onJobs_led, run_eff, inflight_credIssue, run_holdGroups_led, run_holdGroups_led, run_when_keeps (f := State.led) (by simp),
      run_when_keeps (f := State.led) (by simp)]
  · rw [run_onJobs_mem, run_eff, applyEff_credIssue_mem, run_holdGroups_mem, run_holdGroups_mem, run_when_keeps (f := State.mem) (by simp),
      run_when_keeps (f := State.mem) (by simp)]

/-! ### The ends of runs (R76, R77) -/

theorem run_actSubjobEnd_next {n hw : Nat} (hst : j.st = .running) (hmore : j.subDone + 1 < j.subs) (hend : j.endWith = none) :
    run (actSubjobEnd id n hw) s = run (modJob id fun x => { x with st := .between, subDone := x.subDone + 1 }) (run (endRun id n hw) s) := by
  rw [actSubjobEnd, run_look]
  simp only [hjob, hst, hend, Nat.not_le.2 hmore, bne_self_eq_false, decide_false, Bool.or_self, Bool.false_eq_true, reduceIte,
    run_acts_cons, run_acts_nil, run_nop]

section
variable {n hw : Nat} (hst : j.st = .running) (hlast : j.subs ≤ j.subDone + 1)
include hst hlast

theorem run_actJobEnd_pae (hpae : onPae j.d.op = true) :
    run (actJobEnd id n hw) s = run (settleRun id) (run (modJob id fun x => { x with subDone := x.subDone + 1 }) (run (endRun id n hw) s)) := by
  rw [actJobEnd, run_look]
  simp only [hjob, hst, hpae, Nat.not_lt.2 hlast, bne_self_eq_false, decide_false, Bool.or_self, Bool.not_true, Bool.false_eq_true, reduceIte,
    run_acts_cons, run_acts_nil, run_when]

theorem run_actJobEnd_dae (hpae : onPae j.d.op = false) (hmerge : j.d.op ≠ Op.merge) :
    run (actJobEnd id n hw) s = run (acts [endRun id n hw, modJob id (fun x => { x with subDone := x.subDone + 1 }),
      count Reg.DAE_MERGES (j.subs - 1 + j.d.parts), settleRun id]) s := by
  rw [actJobEnd, run_look]
  simp only [hjob, hst, hpae, hmerge, Nat.not_lt.2 hlast, bne_self_eq_false, decide_false, Bool.or_self, Bool.not_false, Bool.false_eq_true,
    reduceIte, run_acts_cons, run_acts_nil, run_when]

end

/-! ### On to the outputs (R77, R181) -/

section
variable (hend : j.endWith = none)
include hend

/-- A job of no request needs nobody's leave to write. -/
theorem run_settleRun_requestless (hop : ofRequest j.d.op = false) : run (settleRun id) s = run (writeOutput id) s := by
  rw [settleRun, run_look]
  simp only [hjob, hend, hop, Bool.not_false, reduceIte]

/-- The owner of the job's epoch writes, where the tail takes updates. -/
theorem run_settleRun_owner {c : Loc} (hop : ofRequest j.d.op = true) (hloc : s.loc j.d.handle = some c) (hown : c.st = .owner j.d.epoch)
    (htail : tailBlocked s j = false) : run (settleRun id) s = run (writeOutput id) s := by
  rw [settleRun, run_look]
  simp only [hjob, hend, hop, hloc, hown, htail, Bool.not_true, Bool.false_eq_true, reduceIte]

end

/-! ### The stall limit, and replays (R50, R82) -/

theorem run_actStallLimit_waiting (hst : j.st = .waiting) (haway : jobResident s j = false) :
    run (actStallLimit id) s = run (endJob id St.busyRetry) (run (count Reg.STM_STALL_ABORT 1) (run (stallJob 0 id) s)) := by
  rw [actStallLimit, run_look]
  simp only [hjob, hst, haway, bne_self_eq_false, Bool.or_self, Bool.false_eq_true, reduceIte, run_acts_cons, run_acts_nil]

theorem run_actInternalReplay_faulted (hst : j.st = .faulted) :
    run (actInternalReplay id) s = run (acts [
      modJob id (fun x => { x with st := .waiting, fReplay := true, replays := x.replays + 1, subDone := 0, subs := 1 }),
      count Reg.DAE_INT_REPLAYS 1, feedJob id, nameFrames id, endFailed id, stallSync 0]) s := by
  rw [actInternalReplay, run_look]
  simp only [hjob, hst, bne_self_eq_false, Bool.false_eq_true, reduceIte]

end

theorem run_replaySmp_faulted {s : State} {id : Nat} {x : Smp} (hsmp : s.smp id = some x) (hst : x.st = .faulted) :
    run (replaySmp id) s = run (sendTokens id) (run (modSmp id fun y => { y with fReplay := true, replays := y.replays + 1 }) s) := by
  rw [replaySmp, run_look]
  simp only [hsmp, hst, beq_self_eq_true, run_when, reduceIte, run_acts_cons, run_acts_nil]

/-- Settles O37: a dispatch by the job it comes to (`run_actDispatch_class0`, `run_actDispatch_chosen`), the end of a run by the sub-jobs that
remain, the stall limit and a replay by the state the job is in. -/
theorem stepJobsRunAndEnd : Obligations.StepJobsRunAndEnd := by
  refine ⟨?_, ?_, ?_, ?_, ?_, ?_, ?_, ?_, ?_, ?_, ?_, ?_⟩
  · intro s pae u x f hT hu hfirst hfit
    rw [exec_jobDispatch hT, run_actDispatch_class0 hu hfit hfirst]
  · intro s pae u x f hT hu hnone hchosen hfit
    rw [exec_jobDispatch hT, run_actDispatch_chosen hu hfit hnone hchosen]
  · intro s id j f u v w hjob hbegun hturn hu hv hintake hend
    subst hu hv
    exact run_dispatchJob_starts hjob f hbegun hturn hintake hend
  · intro s id j gs res tiles fallback hjob
    obtain ⟨w, t, hst, hgroups, hinflight, hmem, hrun⟩ := run_startJob_running hjob gs tiles res fallback
    refine ⟨_, rfl, ?_⟩
    rw [hrun, job_putJob_same]
    refine ⟨congrArg some hst, congrArg some hgroups, ?_, ?_⟩
    · rw [putJob, run_onJobs_led, hinflight]
    · rw [putJob, run_onJobs_mem, hmem]
  · intro s id n hw j hT hjob hst hmore hend
    rw [exec_subjobEnd hT, run_actSubjobEnd_next hjob hst hmore hend]
  · intro s id n hw j hT hjob hst hlast hpae
    rw [exec_jobEnd hT, run_actJobEnd_pae hjob hst hlast hpae]
  · intro s id n hw j hT hjob hst hlast hpae hmerge
    rw [exec_jobEnd hT, run_actJobEnd_dae hjob hst hlast hpae hmerge]
  · intro s id j hjob hend hop
    exact run_settleRun_requestless hjob hend hop
  · intro s id j c hjob hend hop hloc hown htail
    exact run_settleRun_owner hjob hend hop hloc hown htail
  · intro s id j hT hjob hst haway
    rw [exec_stallLimit hT, run_actStallLimit_waiting hjob hst haway]
  · intro s id j hT hjob hst
    rw [exec_internalReplay hT, actReplay, if_neg Bool.false_ne_true, run_actInternalReplay_faulted hjob hst]
  · intro s id x hT hsmp hst
    rw [exec_internalReplay hT, actReplay, if_pos rfl, run_replaySmp_faulted hsmp hst]

end Sys2Proof.Machine
end

section
/-! SUPPORT. The commands of the Kennel where they have their own effect: the profile and its DIRTY_LIMIT, the format, the health report
(R295, R296, R316, R322, 11_kennel.md; R354, R359, 12_host_interface.md). -/

namespace Sys2Proof.Machine

section
variable {s u : State} {src : Src} {c : Cmd} {pop : NandPop}

theorem exec_knlProfileLoad (h : Runs s src 0x0503 c u) :
    exec (.knlProfileLoad src pop) s = .next (run (opKnlProfile pop ⟨src, c.seq⟩ c) u) := runs_done h _
theorem exec_knlFormat (h : Runs s src 0x0504 c u) : exec (.knlFormat src) s = .next (run (opKnlFormat ⟨src, c.seq⟩ c) u) := runs_done h _
theorem exec_knlHealth (h : Runs s src 0x0505 c u) : exec (.knlHealth src) s = .next (run (opKnlHealth ⟨src, c.seq⟩ c) u) := runs_done h _

/-! ### DIRTY_LIMIT (R316) -/

/-- Of the numbers up to m, the limit is no less than one that fits. -/
theorem le_flushLimit {slc nat n m : Nat} (hle : n ≤ m) (hfits : flushFits slc nat n = true) : n ≤ flushLimit slc nat m := by
  induction m with
  | zero => exact hle
  | succ m ih =>
    rw [flushLimit]
    split
    · exact hle
    · next hnot =>
      have hne : n ≠ m + 1 := by rintro rfl; exact hnot hfits
      exact ih (by omega)

theorem flushLimit_le (slc nat m : Nat) : flushLimit slc nat m ≤ m := by
  induction m with
  | zero => exact Nat.le_refl 0
  | succ m ih =>
    rw [flushLimit]
    split
    · exact Nat.le_refl _
    · exact Nat.le_succ_of_le ih

/-- A limit other than 0 fits the flush. -/
theorem flushFits_flushLimit {slc nat m : Nat} (hne : flushLimit slc nat m ≠ 0) : flushFits slc nat (flushLimit slc nat m) = true := by
  induction m with
  | zero => exact absurd rfl hne
  | succ m ih =>
    rw [flushLimit] at hne ⊢
    split
    · next hfits => exact hfits
    · next hnot =>
      rw [if_neg hnot] at hne
      exact ih hne

/-- DIRTY_LIMIT is the flush's limit where that is 16 or more, and else 0. -/
theorem dirtyLimit_eq (slc nat : Nat) : dirtyLimit slc nat = if flushLimit slc nat 1024 < 16 then 0 else flushLimit slc nat 1024 := rfl

theorem le_dirtyLimit {slc nat n : Nat} (hlow : 16 ≤ n) (hhigh : n ≤ 1024) (hfits : flushFits slc nat n = true) : n ≤ dirtyLimit slc nat := by
  have hle := le_flushLimit hhigh hfits
  rw [dirtyLimit_eq, if_neg (by omega)]
  exact hle

theorem dirtyLimit_fits {slc nat : Nat} (hne : dirtyLimit slc nat ≠ 0) :
    flushFits slc nat (dirtyLimit slc nat) = true ∧ 16 ≤ dirtyLimit slc nat ∧ dirtyLimit slc nat ≤ 1024 := by
  rw [dirtyLimit_eq] at hne ⊢
  split
  · next hlow => rw [if_pos hlow] at hne; exact absurd rfl hne
  · next hlow => exact ⟨flushFits_flushLimit (by omega), by omega, flushLimit_le _ _ _⟩

/-! ### KNL_PROFILE_LOAD (R296, R359, R434) -/

/-- NV-DDR3 at 0.60 V, or NV-LPDDR4 at 1.20 V, is a mismatch. -/
theorem modeMismatch_of_strap (h : (u.is Fld.PWR_STRAPS_NF_VCCQ = true ∧ pop.mode = 1) ∨ (u.is Fld.PWR_STRAPS_NF_VCCQ = false ∧ pop.mode = 2)) :
    modeMismatch u pop = true := by
  rcases h with ⟨hstrap, hmode⟩ | ⟨hstrap, hmode⟩ <;> simp [modeMismatch, hstrap, hmode]

theorem run_opKnlProfile_mismatch (ref : CmdRef) (h : modeMismatch u pop = true) : run (opKnlProfile pop ref c) u = run (finInvalid ref 0) u := by
  rw [opKnlProfile, run_look]
  simp only [h, Bool.or_true, reduceIte]

/-- A profile that may be loaded takes effect by the state the Kennel is in. -/
theorem run_opKnlProfile_loads (ref : CmdRef) (hprof : profBad (cmdInput u ref.src c) = false) (hmode : modeMismatch u pop = false)
    (hpop : popBad pop = false) (hrej : pop.rejected = false) :
    run (opKnlProfile pop ref c) u =
      run (finOk ref (leBytes 2 (dirtyLimit (profWord (cmdInput u ref.src c) 0) (profWord (cmdInput u ref.src c) 2))))
        (run (if u.knlState = KnlSt.off then acts [loadProfile (cmdInput u ref.src c) pop, setFld Fld.KNL_STATUS_STATE KnlSt.recovering]
          else acts [loadProfile (cmdInput u ref.src c) pop,
            writeExcess (dirtyLimit (profWord (cmdInput u ref.src c) 0) (profWord (cmdInput u ref.src c) 2)), syncKennel]) u) := by
  rw [opKnlProfile, run_look]
  simp only [hprof, hmode, hpop, hrej, Bool.or_self, Bool.false_eq_true, reduceIte, run_acts_cons, run_acts_nil, run_when]

/-! ### KNL_FORMAT (R354) -/

@[simp] theorem run_clearMem_led (a n : Nat) (s : State) : (run (clearMem a n) s).led = s.led := by rw [clearMem, run_eff, applyEff_memClear_led]

@[simp] theorem run_onFlash_led (f : KFlash → KFlash) (s : State) : (run (onFlash f) s).led = s.led := by rw [onFlash, run_onBody]
@[simp] theorem run_onRam_led (f : KRam → KRam) (s : State) : (run (onRam f) s).led = s.led := by rw [onRam, run_onBody]
theorem run_onFlash_knl (f : KFlash → KFlash) (s : State) :
    (run (onFlash f) s).body.knl = { s.body.knl with flash := f s.body.knl.flash } := by rw [onFlash, run_onBody]
theorem run_onRam_knl (f : KRam → KRam) (s : State) : (run (onRam f) s).body.knl = { s.body.knl with ram := f s.body.knl.ram } := by
  rw [onRam, run_onBody]

/-- The registers of spares, wear and capacity follow without a change of the Kennel's tables. -/
@[simp] theorem run_syncKennel_knl (s : State) : (run syncKennel s).body.knl = s.body.knl := by
  simp only [syncKennel, syncFree, run_look, run_acts_cons, run_acts_nil, run_setReg_body, run_setFld_body]
  rw [run_when_keeps (f := fun t => t.body.knl) (apartFromHost_knl.raise _ _ _), run_setFld_body, run_setFld_body]
@[simp] theorem run_syncKennel_led (s : State) : (run syncKennel s).led = s.led := by
  simp only [syncKennel, syncFree, run_look, run_acts_cons, run_acts_nil, run_setReg_led, run_setFld_led]
  rw [run_when_keeps (f := State.led) (run_raise_led _ _ _), run_setFld_led, run_setFld_led]

/-- A format leaves no image and no unit on a formatted flash, and the ledgers as they were. -/
theorem run_formatAll (s : State) : (run formatAll s).kr.images = [] ∧ (run formatAll s).kf.units = [] ∧ (run formatAll s).kf.formatted = true ∧
    (run formatAll s).led = s.led := by
  have hcleared (l : List (Nat × KTag)) : (run (each l fun u => clearMem (Mem.flashUnit u.1) 65536) s).led = s.led :=
    run_each_keeps (P := fun t => t.led = s.led) (fun _ _ h => (run_clearMem_led _ _ _).trans h) l rfl
  simp only [formatAll, State.kr, State.kf, run_look, run_acts_cons, run_acts_nil, run_syncKennel_knl, run_syncKennel_led, run_setFld_body,
    run_setFld_led, run_count_body, run_count_led, run_onRam_knl, run_onRam_led, run_onFlash_knl, run_onFlash_led, hcleared, and_self]

/-- Without a durable image or one being written a format goes ahead. -/
theorem run_opKnlFormat_erases (ref : CmdRef) (hoff : u.knlState ≠ KnlSt.off) (hrec : u.knlState ≠ KnlSt.recovering)
    (himages : ∀ e ∈ u.kr.images, e.2.st ≠ .durable ∧ e.2.st ≠ .writing) :
    run (opKnlFormat ref c) u = run (finOk ref (leBytes 8 (capacity (run formatAll u))))
      (run (onRam fun r => { r with bufSize := bufSizeNow (run formatAll u) }) (run formatAll u)) := by
  have hnone : (u.kr.images.any fun e => e.2.st == .durable || e.2.st == .writing) = false := by
    refine List.any_eq_false.2 fun e he => ?_
    simp [himages e he]
  rw [opKnlFormat, run_look, hnone]
  simp only [hoff, hrec, Bool.false_eq_true, or_self, reduceIte, run_acts_cons, run_acts_nil, run_look]

/-! ### KNL_HEALTH (R322) -/

/-- The report is 32 words of 8 bytes. -/
theorem length_knlHealth (s : State) : (knlHealth s).length = 256 := by
  simp [knlHealth, List.length_flatMap, length_leBytes, Function.comp_def]

end

/-- Settles O42: a profile by its form, the interface mode and the Kennel's state, a format by the images, and DIRTY_LIMIT by the descent of
`flushLimit` from 1,024. -/
theorem profileFormatHealth : Obligations.ProfileFormatHealth := by
  refine ⟨?_, ?_, ?_, fun _ _ _ => le_dirtyLimit, fun _ _ => dirtyLimit_fits, ?_, run_formatAll, ?_, length_knlHealth⟩
  · intro s src pop c u h hprof hmode hpop hrej hoff
    rw [exec_knlProfileLoad h, run_opKnlProfile_loads ⟨src, c.seq⟩ hprof hmode hpop hrej, if_pos hoff]
    simp only [run_acts_cons, run_acts_nil]
  · intro s src pop c u h hprof hmode hpop hrej hon
    rw [exec_knlProfileLoad h, run_opKnlProfile_loads ⟨src, c.seq⟩ hprof hmode hpop hrej, if_neg hon]
    simp only [run_acts_cons, run_acts_nil]
  · intro s src pop c u h hmode
    rw [exec_knlProfileLoad h, run_opKnlProfile_mismatch ⟨src, c.seq⟩ (modeMismatch_of_strap hmode)]
  · intro s src c u t h hoff hrec himages ht
    rw [exec_knlFormat h, run_opKnlFormat_erases ⟨src, c.seq⟩ hoff hrec himages, ht]
  · intro s src c u h hlen
    rw [exec_knlHealth h, opKnlHealth, run_look, run_finOut (by rw [length_knlHealth]; exact hlen), run_nop]

end Sys2Proof.Machine
end

section
/-! SUPPORT. The end of a NAND program: which programs are under way after it (R305, 11_kennel.md). -/

namespace Sys2Proof.Machine

theorem run_onRam_kr (f : KRam → KRam) (s : State) : (run (onRam f) s).kr = f s.kr := by rw [State.kr, State.kr, run_onRam_knl]
@[simp] theorem run_onFlash_kr (f : KFlash → KFlash) (s : State) : (run (onFlash f) s).kr = s.kr := by rw [State.kr, State.kr, run_onFlash_knl]
@[simp] theorem run_count_kr (a n : Nat) (s : State) : (run (count a n) s).kr = s.kr := by rw [State.kr, State.kr, run_count_body]
@[simp] theorem run_store_kr (a : Nat) (bs : List Byte) (s : State) : (run (store a bs) s).kr = s.kr := by rw [State.kr, State.kr, run_store_body]
@[simp] theorem run_clearMem_kr (a n : Nat) (s : State) : (run (clearMem a n) s).kr = s.kr := by
  rw [State.kr, State.kr, clearMem, run_eff, applyEff_memClear_body]
@[simp] theorem run_copyMem_kr (a b n : Nat) (s : State) : (run (copyMem a b n) s).kr = s.kr := by
  rw [State.kr, State.kr, copyMem, run_eff, applyEff_memCopy_body]

/-- What a unit takes from its program does not matter to the programs under way. -/
theorem run_progContent_progs (u : Nat) (p : Prog) (s : State) : (run (progContent u p) s).kr.progs = s.kr.progs := by
  rw [progContent, run_look]
  split
  · rw [run_nop]
  · split
    · split
      · simp only [run_acts_cons, run_acts_nil, run_count_kr, run_store_kr, run_clearMem_kr]
      · rw [run_nop]
    · split
      · rw [run_copyMem_kr]
      · simp only [run_acts_cons, run_acts_nil]
        split <;> simp only [run_nop, run_count_kr, run_onRam_kr, run_copyMem_kr]

/-- A program that ends takes the first entry of its unit off the programs under way, and no other. -/
theorem run_programmed_progs (u : Nat) (p : Prog) (s : State) : (run (programmed u p) s).kr.progs = tdel s.kr.progs u := by
  simp only [programmed, run_acts_cons, run_acts_nil, run_onFlash_kr, run_progContent_progs, run_count_kr, run_onRam_kr]

/-- The program of the first data unit of slot 4's image. -/
def firstUnitProg : Prog := { tag := { seq := 1, slot := 4, index := 0 }, why := .park 4 }

/-- A chip whose table of programs under way lists unit 70 twice. -/
def listedTwice : State :=
  { State.reset with body := { State.reset.body with knl := { ram := { progs := [(70, firstUnitProg), (70, firstUnitProg)] } } } }

/-- Refutes O43: its third clause asks no hypothesis of the table of programs, whose keys need not be rising. In `listedTwice` unit 70
is still listed after its program has ended (`run_programmed_progs`); with rising keys it is not (`tget_tdel_same`). -/
theorem not_kennelRowsTakeEffect : ¬ Obligations.KennelRowsTakeEffect := by
  intro ⟨_, _, hended, _⟩
  obtain ⟨_, hgone, _⟩ := hended listedTwice 70 firstUnitProg (by decide)
  have hlisted : tget (tdel listedTwice.kr.progs 70) 70 = some firstUnitProg := rfl
  rw [run_programmed_progs, hlisted] at hgone
  cases hgone

end Sys2Proof.Machine
end

section
/-! SUPPORT. What every command and every step keeps (R378, R389, 13_resilience.md), and what the stopped device and an ill-formed command
leave undone (R428, R430, R440, 15_package_power_test.md). -/

namespace Sys2Proof.Machine

/-! ### One step -/

/-- Settles O1: the step of a queue with a command at its front. -/
theorem stepRunsFront : Obligations.StepRunsFront := by
  intro c q s
  simp only [step]

/-- Settles O2: a command's next state is one action on the state, and no action touches the queue. -/
theorem execKeepsQueue : Obligations.ExecKeepsQueue := by
  intro c s t h
  obtain ⟨a, rfl⟩ := exec_next h
  exact run_pending a s

/-- Settles O3: the step of an empty queue. -/
theorem idleIsOneTick : Obligations.IdleIsOneTick := by
  intro s hq
  simp only [step, hq, idle]

/-! ### Ledgers and the Bark ring -/

/-- Settles O54: every effect keeps the six identities, and neither the queue nor the local counter is part of them. -/
theorem ledgersBalance : Obligations.LedgersBalance := by
  intro s t hs h
  exact step_keeps (P := fun s => s.led.balanced) applyEff_balanced (fun _ _ hs => hs) (fun _ hs => hs) h hs

/-- Settles O55: every effect keeps the ring accounted, and neither the queue nor the local counter is part of it. -/
theorem barkStaysAccounted : Obligations.BarkStaysAccounted := by
  intro s t hs h
  exact step_keeps (P := fun s => s.bark.accounted) applyEff_accounted (fun _ _ hs => hs) (fun _ hs => hs) h hs

/-! ### Ill-formed commands -/

/-- A command of a source the device does not have is carried out only where the source is well-formed. -/
theorem runOp_eq_when (op : Nat) (src : Src) (f : CmdRef → Cmd → Act) : runOp op src f = when src.wf (runOp op src f) := by
  funext s
  unfold when
  split
  · rfl
  · next h => simp [runOp, look, pickCmd, h, nop]

/-- Every command's action is one that its form guards; only an access beyond the host window answers a fault. -/
theorem exec_outcome_guarded (c : Instr) (s : State) :
    exec c s = .fault .outsideHostWindow ∨ ∃ a, exec c s = if runsStopped c then doneAlways (when c.wf a) s else done (when c.wf a) s := by
  cases c
  case hostWindowWrite off d =>
    by_cases h : Mem.hostWindowSize < off + d.length
    · exact .inl (if_pos h)
    · exact .inr ⟨actWindowWrite off d, if_neg h⟩
  case hostWindowRead off n ue =>
    by_cases h : Mem.hostWindowSize < off + n
    · exact .inl (if_pos h)
    · exact .inr ⟨actWindowRead off n ue, if_neg h⟩
  case ifaceOpen | identify | configStage | configCommit | configConfirm | heel | configRead | configDiscard | tenantQuery | reqAdmit
      | reqHandoff | reqClose | reqLogAppend | reqReplay | reqStatus | reqChipDown | reqSetPartner | reqSetMirror | prefixCreate
      | prefixRelease | prefixDemote | prefixPin | pageLoad | embLoad | knlPark | knlResume | knlProfileLoad | knlFormat | knlHealth
      | knlKeyLoad | bufPost | bufWithdraw | podKeyInstall | health | barkAck | ledgerAudit | spareMap | fwInfo | fwStage | fwActivate
      | attestQuote | certRead | testUnlock =>
    exact .inr ⟨_, congrArg (done · s) (runOp_eq_when _ _ _)⟩
  all_goals exact .inr ⟨_, rfl⟩

theorem exec_illFormed {c : Instr} {s : State} (hc : c.wf = false) (hf : exec c s ≠ .fault .outsideHostWindow) : exec c s = .next s := by
  obtain ⟨a, ha⟩ := (exec_outcome_guarded c s).resolve_left hf
  rw [ha, hc]
  simp [done, doneAlways]

/-- The rows that can answer the fault have no operand that is ill-formed. -/
theorem exec_fault_wf {c : Instr} {s : State} (h : exec c s = .fault .outsideHostWindow) : c.wf = true := by
  cases c
  case hostWindowWrite => rfl
  case hostWindowRead => rfl
  all_goals cases h

/-- Settles O59: every outcome is an action that the device's working and the command's form guard (`exec_outcome_guarded`), or the fault. -/
theorem stoppedAndIllFormed : Obligations.StoppedAndIllFormed := by
  refine ⟨fun c s hc hs => ?_, fun c s hc => exec_illFormed hc fun hf => ?_, fun c s r h => ?_⟩
  · rcases exec_outcome c s with hf | ⟨a, ha⟩
    · exact .inr hf
    · rw [ha, hc]
      exact .inl (done_stopped hs)
  · rw [exec_fault_wf hf] at hc
    cases hc
  · rcases exec_outcome c s with hf | ⟨a, ha⟩
    · rw [hf] at h; cases h
    · rw [ha] at h
      split at h <;> cases h

end Sys2Proof.Machine
end

section
/-! SUPPORT. Which rows leave memory, the tenant-window counters and the ledgers alone (R334, 12_host_interface.md; R389, 13_resilience.md),
and what stores and clears leave of memory. -/

namespace Sys2Proof.Machine

/-- What a quiet row leaves alone: memory, the tenant-window counters, the ledgers. -/
def State.stored (s : State) : List Host.Cell × List (Nat × Nat) × Ledger := (s.mem, s.treg, s.led)

/-! ### The shared operations -/

section
variable (s : State)

@[simp] theorem stored_onBody (f : Body → Body) : (run (onBody f) s).stored = s.stored := by simp [State.stored, onBody]
@[simp] theorem stored_setReg (a v : Nat) : (run (setReg a v) s).stored = s.stored := by simp [State.stored, setReg]
@[simp] theorem stored_setFld (f : Fld) (v : Nat) : (run (setFld f v) s).stored = s.stored := by simp [State.stored, run, setFld]
@[simp] theorem stored_bumpFld (f : Fld) (n : Nat) : (run (bumpFld f n) s).stored = s.stored := by rw [run_bumpFld, stored_setFld]
@[simp] theorem stored_dropFld (f : Fld) (n : Nat) : (run (dropFld f n) s).stored = s.stored := by rw [run_dropFld, stored_setFld]
@[simp] theorem stored_count (a n : Nat) : (run (count a n) s).stored = s.stored := by simp [State.stored, run, count]
@[simp] theorem stored_raiseWith (blk bit : Nat) (c : Ctx) : (run (raiseWith blk bit c) s).stored = s.stored := by
  simp [State.stored, run, raiseWith]
@[simp] theorem stored_raise (blk bit : Nat) : (run (raise blk bit) s).stored = s.stored := stored_raiseWith s blk bit {}
@[simp] theorem stored_emit (o : Output) : (run (emit o) s).stored = s.stored := stored_onBody s _
@[simp] theorem stored_drawFree : (run drawFree s).stored = s.stored := stored_onBody s _
@[simp] theorem stored_onPlat (f : Plat → Plat) : (run (onPlat f) s).stored = s.stored := stored_onBody s _
@[simp] theorem stored_onSec (f : Sec → Sec) : (run (onSec f) s).stored = s.stored := stored_onBody s _
@[simp] theorem stored_onXpt (f : Xpt → Xpt) : (run (onXpt f) s).stored = s.stored := stored_onBody s _
@[simp] theorem stored_onScent (f : Scent → Scent) : (run (onScent f) s).stored = s.stored := stored_onBody s _
@[simp] theorem stored_onFlash (f : KFlash → KFlash) : (run (onFlash f) s).stored = s.stored := stored_onBody s _
@[simp] theorem stored_onRam (f : KRam → KRam) : (run (onRam f) s).stored = s.stored := stored_onBody s _
@[simp] theorem stored_setIsl (n v : Nat) : (run (setIsl n v) s).stored = s.stored := stored_setFld s _ v
@[simp] theorem stored_setTap (i : Nat) : (run (setTap i) s).stored = s.stored := stored_setFld s _ i
@[simp] theorem stored_barkRearm (m : Nat) : (applyEff (.barkRearm m) s).stored = s.stored := by simp [State.stored]
@[simp] theorem stored_barkWindow (o p : Bool) : (applyEff (.barkWindow o p) s).stored = s.stored := by simp [State.stored]

end

section
variable {s : State}

@[simp] theorem stored_when {c : Bool} {a : Act} (h : (run a s).stored = s.stored) : (run (when c a) s).stored = s.stored := run_when_keeps h

theorem stored_each {α : Type} {f : α → Act} (h : ∀ x s, (run (f x) s).stored = s.stored) (l : List α) : (run (each l f) s).stored = s.stored :=
  run_each_keeps (P := fun t => t.stored = s.stored) (fun x t ht => (h x t).trans ht) l rfl

end

/-! ### Islands, cores and repairs -/

section
variable (s : State)

@[simp] theorem stored_raiseOpt (f : Option (Nat × Nat)) : (run (raiseOpt f) s).stored = s.stored := by cases f <;> simp [raiseOpt]
@[simp] theorem stored_loseSpare (kind : Nat) : (run (loseSpare kind) s).stored = s.stored := by simp [loseSpare, apply_ite State.stored]
@[simp] theorem stored_logRepair (kind unit : Nat) : (run (logRepair kind unit) s).stored = s.stored := by
  simp [logRepair, apply_ite State.stored]
@[simp] theorem stored_useSpare (kind unit : Nat) : (run (useSpare kind unit) s).stored = s.stored := by
  rw [useSpare, run_look]
  split <;> simp

theorem stored_actRepairBurn : (run actRepairBurn s).stored = s.stored := by
  rw [actRepairBurn, run_look]
  split
  · simp
  · split <;> simp

theorem stored_actIslIdleStop (n : Nat) : (run (actIslIdleStop n) s).stored = s.stored := by
  rw [actIslIdleStop, run_look]
  split_ifs <;> simp

theorem stored_actWhistle (n : Nat) : (run (actWhistle n) s).stored = s.stored := by
  rw [actWhistle, run_look]
  split_ifs <;> simp

theorem stored_actIslResetEnd (n : Nat) : (run (actIslResetEnd n) s).stored = s.stored := by
  rw [actIslResetEnd, run_look]
  split <;> simp

theorem stored_actIslandRestart (n : Nat) : (run (actIslandRestart n) s).stored = s.stored := by
  rw [actIslandRestart, run_look]
  split <;> simp

theorem stored_actIslThrottle (n freq temp : Nat) (cause : ThrottleCause) : (run (actIslThrottle n freq temp cause) s).stored = s.stored := by
  rw [actIslThrottle, run_look]
  split <;> simp

theorem stored_actCoreFault (core : Nat) : (run (actCoreFault core) s).stored = s.stored := by
  rw [actCoreFault, run_look]
  split_ifs <;> simp

theorem stored_actMgmtTakeover : (run actMgmtTakeover s).stored = s.stored := by
  rw [actMgmtTakeover, run_look]
  split <;> simp

theorem stored_actSecRestart (back : Bool) : (run (actSecRestart back) s).stored = s.stored := by
  rw [actSecRestart]
  split <;> simp

theorem stored_actSecReentry (back : Bool) : (run (actSecReentry back) s).stored = s.stored := by
  rw [actSecReentry, run_look]
  split_ifs <;> simp

theorem stored_actBarkIrqWindowEnd : (run actBarkIrqWindowEnd s).stored = s.stored := by
  rw [actBarkIrqWindowEnd, run_look]
  split_ifs <;> simp

/-! ### Power, temperature and the link -/

@[simp] theorem stored_powerFail : (run powerFail s).stored = s.stored := by simp [powerFail, apply_ite State.stored]
theorem stored_actPwrfailFall : (run actPwrfailFall s).stored = s.stored := by simp [actPwrfailFall, apply_ite State.stored]
theorem stored_actRailUv (rail : Nat) : (run (actRailUv rail) s).stored = s.stored := by
  rw [actRailUv, run_look]
  split <;> simp
theorem stored_actThermAlert (n temp : Nat) : (run (actThermAlert n temp) s).stored = s.stored := by
  simp [actThermAlert, apply_ite State.stored]
theorem stored_actThermRelease : (run actThermRelease s).stored = s.stored := by simp [actThermRelease, apply_ite State.stored]
theorem stored_actThermalTrip (n : Nat) : (run (actThermalTrip n) s).stored = s.stored := by simp [actThermalTrip, stored_each]

@[simp] theorem stored_portReset : (run portReset s).stored = s.stored := by simp [portReset]
@[simp] theorem stored_hostifReset : (run hostifReset s).stored = s.stored := by simp [hostifReset, stored_each]
theorem stored_actLinkDown : (run actLinkDown s).stored = s.stored := by simp [actLinkDown, apply_ite State.stored]
@[simp] theorem stored_raiseCount (slot : Nat) : (run (raiseCount slot) s).stored = s.stored := by simp [raiseCount, apply_ite State.stored]
theorem stored_actFwReady : (run actFwReady s).stored = s.stored := by
  rw [actFwReady, run_look]
  split <;> simp [apply_ite State.stored]
theorem stored_actCxlLinkUp (w r m : Nat) : (run (actCxlLinkUp w r m) s).stored = s.stored := by
  rw [actCxlLinkUp, run_look]
  split <;> simp
theorem stored_actHdmCommit (base size ways : Nat) : (run (actHdmCommit base size ways) s).stored = s.stored := by
  rw [actHdmCommit]
  split <;> simp
theorem stored_actWindowRead (off n : Nat) (ue : Bool) : (run (actWindowRead off n ue) s).stored = s.stored := by
  rw [actWindowRead, run_look]
  split_ifs <;> simp

/-! ### Keys and the test port -/

@[simp] theorem stored_showEpochs : (run showEpochs s).stored = s.stored := by simp [showEpochs]
theorem stored_actPodKeyRotate : (run actPodKeyRotate s).stored = s.stored := by
  rw [actPodKeyRotate, run_look]
  split <;> simp
@[simp] theorem stored_lockPort : (run lockPort s).stored = s.stored := by simp [lockPort, apply_ite State.stored]
theorem stored_actTestRelock : (run actTestRelock s).stored = s.stored := by simp [actTestRelock, apply_ite State.stored]
@[simp] theorem stored_takePins (i : Nat) (hiz : Bool) : (run (takePins i hiz) s).stored = s.stored := by simp [takePins, apply_ite State.stored]
@[simp] theorem stored_tapBypass (enc : Nat) : (run (tapBypass enc) s).stored = s.stored := by simp [tapBypass, apply_ite State.stored]
theorem stored_tapPrivate (enc lo hi bit : Nat) : (run (tapPrivate enc lo hi bit) s).stored = s.stored := by
  rw [tapPrivate, run_look]
  split <;> simp
theorem stored_actSetdasa (static dyn : Nat) : (run (actSetdasa static dyn) s).stored = s.stored := by simp [actSetdasa, apply_ite State.stored]
theorem stored_actEntdaa (dyn : Nat) : (run (actEntdaa dyn) s).stored = s.stored := by simp [actEntdaa, apply_ite State.stored]

/-! ### Calibration and the Kennel -/

theorem stored_actRecalTemp (m temp : Nat) : (run (actRecalTemp m temp) s).stored = s.stored := by
  simp [actRecalTemp, markDue, apply_ite State.stored]
theorem stored_actKnlJournalTimer : (run actKnlJournalTimer s).stored = s.stored := by
  simp [actKnlJournalTimer, jcommit, systemUnit, takeSeq, apply_ite State.stored]

/-- A write of BRK_OVF_REARM re-arms classes, or is ignored before the firmware is ready (R337, R379). -/
theorem stored_rearmWrite {m : Nat} (h : m < 2 ^ 32) : (run (regWrite Reg.BRK_OVF_REARM 8 m) s).stored = s.stored := by
  by_cases hfw : s.is Fld.GLB_STATUS_FW_READY = true
  · rw [run_regWrite_whole rfl hfw rfl rfl rfl, writePart_brkOvfRearm _ h]
    simp
  · rw [run_regWrite_unserved]
    have hlo : ¬ 0x100000 ≤ Reg.BRK_OVF_REARM := by decide
    simp [regServed, hfw, hlo]

/-! ### The CXL memory-device commands and MCTP -/

@[simp] theorem stored_cxlEnd (code : Nat) (out : List Byte) : (run (cxlEnd code out) s).stored = s.stored := by
  rw [cxlEnd, run_look, setMbox, stored_onBody]
@[simp] theorem stored_cxlOk (out : List Byte) : (run (cxlOk out) s).stored = s.stored := stored_cxlEnd s _ out

end

section
variable {s : State}

theorem stored_runCxl {f : List Byte → Act} (h : ∀ p, (run (f p) s).stored = s.stored) (op : Nat) : (run (runCxl op f) s).stored = s.stored := by
  rw [runCxl, run_look]
  split
  · simp
  · split_ifs <;> simp [h]

theorem stored_sized {a : Act} (h : (run a s).stored = s.stored) (n : Nat) (p : List Byte) : (run (sized n p a) s).stored = s.stored := by
  rw [sized]
  split <;> simp [h]

theorem stored_mctpReply {ok : Act} (h : (run ok s).stored = s.stored) (runs : State → Bool) : (run (mctpReply runs ok) s).stored = s.stored := by
  rw [mctpReply, run_look]
  split_ifs <;> simp [h]

end

section
variable (s : State) (p : List Byte)

theorem stored_cxlGetEvents : (run (cxlGetEvents p) s).stored = s.stored := by
  refine stored_sized ?_ 1 p
  rw [run_look]
  split <;> simp

theorem stored_cxlClearEvents : (run (cxlClearEvents p) s).stored = s.stored := by
  rw [cxlClearEvents, run_look]
  dsimp only
  split
  · simp
  · split_ifs <;> simp [setLog]

theorem stored_cxlSetPolicy : (run (cxlSetPolicy p) s).stored = s.stored := stored_sized (by simp) 4 p
theorem stored_cxlSetTimestamp : (run (cxlSetTimestamp p) s).stored = s.stored := stored_sized (by simp) 8 p
theorem stored_cxlHealth : (run (cxlHealth p) s).stored = s.stored := stored_sized (by simp) 0 p
theorem stored_cxlGetLog : (run (cxlGetLog p) s).stored = s.stored := by
  refine stored_sized ?_ 24 p
  dsimp only
  split <;> simp

theorem stored_actCxlUnsupported : (run actCxlUnsupported s).stored = s.stored := by
  rw [actCxlUnsupported, run_look]
  split
  · simp
  · split
    · simp
    · exact stored_runCxl (fun _ => stored_cxlEnd s _ _) _

theorem stored_actMctpQuote : (run (actMctpQuote p) s).stored = s.stored := stored_mctpReply (by simp) _

end

/-! ### The rows -/

theorem stored_done {a : Act} {s t : State} (ha : ∀ s, (run a s).stored = s.stored) (h : done a s = .next t) : t.stored = s.stored := by
  rw [done_next h]; exact stored_when (ha s)
theorem stored_doneAlways {a : Act} {s t : State} (ha : ∀ s, (run a s).stored = s.stored) (h : doneAlways a s = .next t) : t.stored = s.stored := by
  rw [doneAlways_next h]; exact ha s
theorem stored_doneWhen {b : Bool} {a : Act} {s t : State} (ha : ∀ s, (run a s).stored = s.stored) (h : done (when b a) s = .next t) :
    t.stored = s.stored := stored_done (fun s => stored_when (ha s)) h
theorem stored_doneAlwaysWhen {b : Bool} {a : Act} {s t : State} (ha : ∀ s, (run a s).stored = s.stored) (h : doneAlways (when b a) s = .next t) :
    t.stored = s.stored := stored_doneAlways (fun s => stored_when (ha s)) h

/-- Every quiet row leaves memory, the tenant-window counters and the ledgers as they were. -/
theorem exec_quiet_stored {c : Instr} {s t : State} (hq : quietRow c = true) (h : exec c s = .next t) : t.stored = s.stored := by
  cases c
  case getEventRecords => exact stored_done (fun s => stored_runCxl (stored_cxlGetEvents s) _) h
  case clearEventRecords => exact stored_done (fun s => stored_runCxl (stored_cxlClearEvents s) _) h
  case getEventInterruptPolicy => exact stored_done (fun s => stored_runCxl (fun p => stored_sized (by simp) 0 p) _) h
  case setEventInterruptPolicy => exact stored_done (fun s => stored_runCxl (stored_cxlSetPolicy s) _) h
  case getFwInfo => exact stored_done (fun s => stored_runCxl (fun p => stored_sized (by simp) 0 p) _) h
  case getTimestamp => exact stored_done (fun s => stored_runCxl (fun p => stored_sized (by simp) 0 p) _) h
  case setTimestamp => exact stored_done (fun s => stored_runCxl (stored_cxlSetTimestamp s) _) h
  case getSupportedLogs => exact stored_done (fun s => stored_runCxl (fun p => stored_sized (by simp) 0 p) _) h
  case getLog => exact stored_done (fun s => stored_runCxl (stored_cxlGetLog s) _) h
  case identifyMemoryDevice => exact stored_done (fun s => stored_runCxl (fun p => stored_sized (by simp) 0 p) _) h
  case getHealthInfo => exact stored_done (fun s => stored_runCxl (stored_cxlHealth s) _) h
  case cxlUnsupportedOpcode => exact stored_done stored_actCxlUnsupported h
  case brkOvfRearm m => exact stored_doneWhen (fun s => stored_rearmWrite s (Nat.mod_lt m (Nat.two_pow_pos 32))) h
  case hdmDecoderCommit => exact stored_done (fun s => stored_actHdmCommit s _ _ _) h
  case hostWindowRead off n ue =>
    by_cases hout : Mem.hostWindowSize < off + n
    · cases (if_pos hout).symm.trans h
    · exact stored_done (fun s => stored_actWindowRead s _ _ _) ((if_neg hout).symm.trans h)
  case sctRecalTemperature => exact stored_doneWhen (fun s => stored_actRecalTemp s _ _) h
  case knlTempMinute => exact stored_done (fun s => stored_count s _ _) h
  case knlJournalTimer => exact stored_done stored_actKnlJournalTimer h
  case islIdleStop => exact stored_doneWhen (fun s => stored_actIslIdleStop s _) h
  case whistle => exact stored_doneWhen (fun s => stored_actWhistle s _) h
  case islResetEnd => exact stored_doneWhen (fun s => stored_actIslResetEnd s _) h
  case islThrottle => exact stored_doneWhen (fun s => stored_actIslThrottle s _ _ _ _) h
  case islandRestart => exact stored_doneWhen (fun s => stored_actIslandRestart s _) h
  case barkIrqWindowEnd => exact stored_done stored_actBarkIrqWindowEnd h
  case coreFault => exact stored_doneWhen (fun s => stored_actCoreFault s _) h
  case mgmtTakeover => exact stored_done stored_actMgmtTakeover h
  case secRestart => exact stored_done (fun s => stored_actSecRestart s _) h
  case secReentry => exact stored_done (fun s => stored_actSecReentry s _) h
  case podKeyRotate => exact stored_done stored_actPodKeyRotate h
  case repairBurn => exact stored_done stored_actRepairBurn h
  case testRelock => exact stored_done stored_actTestRelock h
  case fwReady => exact stored_done stored_actFwReady h
  case perstNRise => exact stored_doneAlways (fun s => stored_onBody s _) h
  case cxlLinkUp => exact stored_doneWhen (fun s => stored_actCxlLinkUp s _ _ _) h
  case surpriseLinkDown => exact stored_done stored_actLinkDown h
  case pwrfailFall => exact stored_doneAlways stored_actPwrfailFall h
  case railUv => exact stored_doneAlwaysWhen (fun s => stored_actRailUv s _) h
  case railOv => exact stored_doneAlwaysWhen (fun s => stored_raiseWith s _ _ _) h
  case thermAlert => exact stored_doneWhen (fun s => stored_actThermAlert s _ _) h
  case thermAlertRelease => exact stored_doneAlways stored_actThermRelease h
  case thermalTrip => exact stored_doneAlwaysWhen (fun s => stored_actThermalTrip s _) h
  case tapIdcode => exact stored_doneAlways (fun s => stored_setTap s _) h
  case tapSamplePreload => exact stored_doneAlwaysWhen (fun s => by simp [actTapSample]) h
  case tapExtest | tapExtestPulse | tapExtestTrain | tapHighz | tapClamp => exact stored_doneAlways (fun s => stored_takePins s _ _) h
  case tapBypass => exact stored_doneAlwaysWhen (fun s => stored_tapBypass s _) h
  case tapScanBist | tapCoreDebug | tapEfuseRead => exact stored_doneAlwaysWhen (fun s => stored_tapPrivate s _ _ _ _) h
  case trst => exact stored_doneAlways (fun s => by simp [actTrst]) h
  case mctpCertificates => exact stored_doneAlways (fun s => stored_mctpReply (by simp) _) h
  case mctpQuote => exact stored_doneAlwaysWhen (fun s => stored_actMctpQuote s _) h
  case mctpHealth => exact stored_doneAlways (fun s => stored_mctpReply (by simp) _) h
  case mctpPowerStatus => exact stored_doneAlways (fun s => stored_mctpReply (by simp) _) h
  case i3cSetdasa => exact stored_doneAlwaysWhen (fun s => stored_actSetdasa s _ _) h
  case i3cEntdaa => exact stored_doneAlwaysWhen (fun s => stored_actEntdaa s _) h
  all_goals cases hq

/-! ### Stores and clears -/

section
variable {s : State}

/-- A byte of a stored range reads back. -/
theorem byte_store_same {d : List Byte} (a : Nat) (hs : s.canonical) {i : Nat} (hi : i < d.length) :
    (run (store a d) s).byte (a + i) = d.getD i 0 := by
  induction d generalizing a s i with
  | nil => cases hi
  | cons b bs ih =>
    rw [run_store_cons]
    cases i with
    | zero =>
      have hb : cget memDefault (memPut s.mem a b) a = b := cget_cput_same a b hs.risingMem
      rw [byte_store_other _ _ _ (.inl (by omega)), Nat.add_zero, State.byte, applyEff_mem_mem, hb]
      rfl
    | succ i =>
      rw [show a + (i + 1) = a + 1 + i by omega, ih (a + 1) (applyEff_canonical _ _ hs) (by simpa using hi)]
      rfl

theorem tget_filter_kept {α : Type} (l : List (Nat × α)) {p : Nat × α → Bool} {b : Nat} (h : ∀ v, p (b, v) = true) :
    tget (l.filter p) b = tget l b := by
  induction l with
  | nil => rfl
  | cons e l ih =>
    obtain ⟨k, v⟩ := e
    by_cases hk : k = b
    · subst hk
      simp [h, tget]
    · rw [List.filter_cons]
      split <;> simp [tget, hk, ih]

theorem tget_filter_dropped {α : Type} (l : List (Nat × α)) {p : Nat × α → Bool} {b : Nat} (h : ∀ v, p (b, v) = false) :
    tget (l.filter p) b = none := by
  induction l with
  | nil => rfl
  | cons e l ih =>
    obtain ⟨k, v⟩ := e
    by_cases hk : k = b
    · subst hk
      simp [h, ih]
    · rw [List.filter_cons]
      split <;> simp [tget, hk, ih]

theorem tget_memDrop_same (l : List Host.Cell) (a n : Nat) {b : Nat} (h : a ≤ b ∧ b < a + n) : tget (memDrop l a n) b = none :=
  tget_filter_dropped l (p := fun e => decide (e.1 < a) || decide (a + n ≤ e.1)) fun _ => by
    show (decide (b < a) || decide (a + n ≤ b)) = false
    simp only [Bool.or_eq_false_iff, decide_eq_false_iff_not]
    omega

theorem tget_memDrop_other (l : List Host.Cell) (a n : Nat) {b : Nat} (h : b < a ∨ a + n ≤ b) : tget (memDrop l a n) b = tget l b :=
  tget_filter_kept l (p := fun e => decide (e.1 < a) || decide (a + n ≤ e.1)) fun _ => by
    show (decide (b < a) || decide (a + n ≤ b)) = true
    simpa only [Bool.or_eq_true, decide_eq_true_iff] using h

theorem byte_clearMem_same (a n : Nat) {b : Nat} (h : a ≤ b ∧ b < a + n) : (run (clearMem a n) s).byte b = memDefault b :=
  congrArg (Option.getD · (memDefault b)) (tget_memDrop_same s.mem a n h)

theorem byte_clearMem_other (a n : Nat) {b : Nat} (h : b < a ∨ a + n ≤ b) : (run (clearMem a n) s).byte b = s.byte b :=
  congrArg (Option.getD · (memDefault b)) (tget_memDrop_other s.mem a n h)

end

/-- Settles O60: the quiet rows by `exec_quiet_stored`, stores and clears by what they leave of each byte. -/
theorem quietRowsAndStores : Obligations.QuietRowsAndStores := by
  refine ⟨fun c s t hq h => ?_, fun s a d hs => ⟨fun i hi => byte_store_same a hs hi, fun b hb => byte_store_other a d s hb, by simp⟩,
    fun s a n _ => ⟨fun i hi => byte_clearMem_same a n ⟨by omega, by omega⟩, fun b hb => byte_clearMem_other a n hb, by simp [clearMem]⟩,
    fun s a d hs => bytes_store_same a d hs⟩
  have hst := exec_quiet_stored hq h
  simp only [State.stored, Prod.mk.injEq] at hst
  exact hst

end Sys2Proof.Machine
end

section
/-! SUPPORT. Reading rules of the registers and of the remaining state after the shared operations: which registers a flag writes (R359, R376),
what of the body an error record leaves alone, and what a register reads after a write to it or to another one. -/

namespace Sys2Proof.Machine

/-! ### Registers in their canonical form -/

theorem State.canonical.risingRegs {s : State} (hs : s.canonical) : risingKeys s.regs = true := (canon_iff.1 hs.2.1).1

theorem run_canonical (a : Act) {s : State} (hs : s.canonical) : (run a s).canonical := run_keeps applyEff_canonical a s hs

/-! ### What a flag writes -/

/-- The registers that raising a flag writes: the flag's, its event counter, and those of the Bark ring. -/
def flagRegs (blk bit : Nat) : List Nat :=
  [(flagAddrs blk).1, (flagAddrs blk).2 + 4 * bit, Reg.BRK_ERR_FLAGS, Reg.BRK_ERR_EVT 0, Reg.BRK_ERR_EVT 1]

theorem rd_bark_of_notMem (r : BarkRec) (s : State) {a : Nat} (h : a ∉ [Reg.BRK_ERR_FLAGS, Reg.BRK_ERR_EVT 0, Reg.BRK_ERR_EVT 1]) :
    (applyEff (.bark r) s).rd a = s.rd a := by
  simp only [List.mem_cons, List.not_mem_nil, or_false, not_or] at h
  obtain ⟨hflags, hevt0, hevt1⟩ := h
  simp only [State.rd, applyEff, barkEff]
  split
  · split
    · exact regRead_flagPut_other _ _ hflags hevt1
    · rfl
  · exact regRead_flagPut_other _ _ hflags hevt0

theorem rd_raiseWith_of_notMem {blk bit a : Nat} (c : Ctx) (s : State) (h : a ∉ flagRegs blk bit) : (run (raiseWith blk bit c) s).rd a = s.rd a := by
  have hbrk : a ∉ [Reg.BRK_ERR_FLAGS, Reg.BRK_ERR_EVT 0, Reg.BRK_ERR_EVT 1] := fun hm => h (List.mem_cons_of_mem _ (List.mem_cons_of_mem _ hm))
  have hflag : a ≠ (flagAddrs blk).1 := fun he => h (he ▸ List.mem_cons_self)
  have hevt : a ≠ (flagAddrs blk).2 + 4 * bit := fun he => h (he ▸ List.mem_cons_of_mem _ List.mem_cons_self)
  simp only [run, raiseWith, applyAll_cons, applyAll_nil]
  rw [rd_bark_of_notMem _ _ hbrk, State.rd, applyEff_reg_regs, regRead_regPut_other _ _ hevt, applyEff_reg_regs, regRead_regPut_other _ _ hflag,
    State.rd]

theorem rd_raise_of_notMem {blk bit a : Nat} (s : State) (h : a ∉ flagRegs blk bit) : (run (raise blk bit) s).rd a = s.rd a :=
  rd_raiseWith_of_notMem {} s h

theorem get_raiseWith_of_notMem {blk bit : Nat} {f : Fld} (c : Ctx) (s : State) (h : f.addr ∉ flagRegs blk bit) :
    (run (raiseWith blk bit c) s).get f = s.get f := by
  rw [State.get, rd_raiseWith_of_notMem c s h, State.get]

theorem get_raise_of_notMem {blk bit : Nat} {f : Fld} (s : State) (h : f.addr ∉ flagRegs blk bit) : (run (raise blk bit) s).get f = s.get f :=
  get_raiseWith_of_notMem {} s h

section
variable (blk bit : Nat) (c : Ctx) (s : State)

@[simp] theorem raiseWith_plat : (run (raiseWith blk bit c) s).body.plat = s.body.plat := rfl
@[simp] theorem raise_plat : (run (raise blk bit) s).body.plat = s.body.plat := rfl
@[simp] theorem raise_mbox : (run (raise blk bit) s).body.mbox = s.body.mbox := rfl

end

section
variable (f : Plat → Plat) (s : State)

@[simp] theorem onPlat_plat : (run (onPlat f) s).body.plat = f s.body.plat := by rw [onPlat, run_onBody]
@[simp] theorem onPlat_regs : (run (onPlat f) s).regs = s.regs := by rw [onPlat, run_onBody]

end

/-! ### What a register reads after a write -/

@[simp] theorem rd_onBody (f : Body → Body) (s : State) (a : Nat) : (run (onBody f) s).rd a = s.rd a := by rw [State.rd, run_onBody, State.rd]

theorem rd_setReg {s : State} {a v : Nat} (hs : risingKeys s.regs = true) (hv : v < 2 ^ 64) : (run (setReg a v) s).rd a = v := by
  rw [run_setReg, State.rd, regRead_regPut_same _ _ hs hv]

theorem rd_setReg_of_ne {s : State} {a b v : Nat} (h : b ≠ a) : (run (setReg a v) s).rd b = s.rd b := by
  rw [run_setReg, State.rd, regRead_regPut_other _ _ h, State.rd]

theorem rd_count_of_ne {s : State} {a b n : Nat} (h : b ≠ a) : (run (count a n) s).rd b = s.rd b := by
  rw [run_count, State.rd, regRead_regPut_other _ _ h, State.rd]

/-! ### Completions with OK -/

section
variable (s : State)

@[simp] theorem run_setMbox_regs (m : Mailbox) : (run (setMbox m) s).regs = s.regs := by rw [setMbox, run_onBody]
@[simp] theorem run_setMbox_bark (m : Mailbox) : (run (setMbox m) s).bark = s.bark := by rw [setMbox, run_onBody]
@[simp] theorem run_setCmds_regs (src : Src) (l : List Cmd) : (run (setCmds src l) s).regs = s.regs := by cases src <;> rfl
@[simp] theorem run_setCmds_bark (src : Src) (l : List Cmd) : (run (setCmds src l) s).bark = s.bark := by cases src <;> rfl
@[simp] theorem run_count_bark (a n : Nat) : (run (count a n) s).bark = s.bark := rfl
@[simp] theorem run_setReg_bark (a v : Nat) : (run (setReg a v) s).bark = s.bark := rfl

end

@[simp] theorem run_store_bark (a : Nat) (bs : List Byte) (s : State) : (run (store a bs) s).bark = s.bark := by
  induction bs generalizing a s with
  | nil => rfl
  | cons b bs ih => rw [run_store_cons, ih, applyEff_mem_bark]

/-- A completion with OK raises no flag. -/
theorem run_finish_ok_keeps {P : State → Prop} (hcount : ∀ s, P s → P (run (count (Reg.MBX_DONE St.ok) 1) s))
    (hstore : ∀ a bs s, P s → P (run (store a bs) s)) (hcmds : ∀ src l s, P s → P (run (setCmds src l) s))
    (hmbox : ∀ m s, P s → P (run (setMbox m) s)) (ref : CmdRef) (detail : Nat) (result out : List Byte) {s : State} (hs : P s) :
    P (run (finish ref St.ok detail result out) s) := by
  rw [finish, run_look]
  split
  · exact hs
  · next c _ =>
    split
    · exact hs
    · rw [run_andThen, show (c.opcode == 0x0104 && St.ok == St.invalid) = false from Bool.and_false _, run_when, if_neg Bool.false_ne_true]
      split
      · split <;> simp only [run_acts_cons, run_acts_nil] <;> exact hcmds _ _ _ (hstore _ _ _ hs)
      · rw [run_acts_cons, run_acts_cons, run_acts_nil, countCpl, run_acts_cons, run_acts_cons, run_acts_nil, run_when, if_neg (by decide)]
        exact hcount _ (hmbox _ _ hs)

/-- A completion with OK writes the register of its count alone. -/
theorem rd_finish_ok_other {a : Nat} (h : a ≠ Reg.MBX_DONE St.ok) (ref : CmdRef) (detail : Nat) (result out : List Byte) (s : State) :
    (run (finish ref St.ok detail result out) s).rd a = s.rd a :=
  run_finish_ok_keeps (P := fun t => t.rd a = s.rd a) (fun _ ht => (regRead_regPut_other _ _ h).trans ht)
    (fun _ _ _ ht => by rwa [State.rd, run_store_regs]) (fun _ _ _ ht => by rwa [State.rd, run_setCmds_regs])
    (fun _ _ ht => by rwa [State.rd, run_setMbox_regs]) ref detail result out rfl

theorem bark_finish_ok (ref : CmdRef) (detail : Nat) (result out : List Byte) (s : State) :
    (run (finish ref St.ok detail result out) s).bark = s.bark :=
  run_finish_ok_keeps (P := fun t => t.bark = s.bark) (fun _ ht => ht) (fun _ _ _ ht => (run_store_bark _ _ _).trans ht)
    (fun _ _ _ ht => (run_setCmds_bark _ _ _).trans ht) (fun _ _ ht => (run_setMbox_bark _ _).trans ht) ref detail result out rfl

end Sys2Proof.Machine
end

section
/-! SUPPORT. What the commands of the interface and of the configuration do at their turn, and what their completions write (R341, R345, R347,
R349, R352, R354, 12_host_interface.md). -/

namespace Sys2Proof.Machine

variable {s u : State} {src : Src} {c : Cmd}

/-! ### The commands at their turn -/

theorem exec_ifaceOpen (h : Runs s src 0x0101 c u) : exec (.ifaceOpen src) s = .next (run (opIfaceOpen ⟨src, c.seq⟩ c) u) := runs_done h _
theorem exec_identify (h : Runs s src 0x0102 c u) : exec (.identify src) s = .next (run (opIdentify ⟨src, c.seq⟩ c) u) := runs_done h _
theorem exec_tenantQuery (h : Runs s src 0x0201 c u) : exec (.tenantQuery src) s = .next (run (opTenantQuery ⟨src, c.seq⟩ c) u) := runs_done h _
theorem exec_configStage (h : Runs s src 0x0103 c u) : exec (.configStage src) s = .next (run (opStage ⟨src, c.seq⟩ c) u) := runs_done h _
theorem exec_configRead (h : Runs s src 0x0107 c u) : exec (.configRead src) s = .next (run (opConfigRead ⟨src, c.seq⟩ c) u) := runs_done h _
theorem exec_configDiscard (h : Runs s src 0x0108 c u) : exec (.configDiscard src) s = .next (run (opDiscard ⟨src, c.seq⟩ c) u) := runs_done h _
theorem exec_configConfirm (h : Runs s src 0x0105 c u) : exec (.configConfirm src) s = .next (run (opConfirm ⟨src, c.seq⟩ c) u) := runs_done h _
theorem exec_configCommit (h : Runs s src 0x0104 c u) : exec (.configCommit src) s = .next (run (opCommit ⟨src, c.seq⟩ c) u) := runs_done h _
theorem exec_heel (h : Runs s src 0x0106 c u) : exec (.heel src) s = .next (run (opHeel ⟨src, c.seq⟩ c) u) := runs_done h _

/-! ### The interface (R347) -/

theorem negotiated_setIface_ring (s : State) (r minor : Nat) : (run (setIface (.ring r) minor) s).negotiated (.ring r) = true := by
  simp [setIface, State.negotiated, State.ring, setRing, onBody, run_setFld]

theorem negotiated_setIface_mailbox (s : State) (minor : Nat) : (run (setIface .mailbox minor) s).negotiated .mailbox = true := by
  simp [setIface, State.negotiated, setMbox, onBody]

theorem length_trecBytes (s : State) (t : Nat) : (trecBytes s t).length = 256 := by
  rw [trecBytes]
  simp only [List.length_take, List.length_append, List.length_replicate]
  omega

theorem length_flatMap_const {α β : Type} (l : List α) (f : α → List β) {n : Nat} (h : ∀ x, (f x).length = n) :
    (l.flatMap f).length = l.length * n := by
  simp [List.length_flatMap, h]

theorem length_tenantReport (s : State) (t : Nat) : (tenantReport s t).length = 1792 := by
  rw [tenantReport, List.length_append, length_trecBytes, length_flatMap_const _ _ fun _ => length_leBytes _ _]
  simp

/-- Settles O4: each command at its turn is its own action, and the two reports pass the check of OUT_LEN. -/
theorem interfaceCommands : Obligations.InterfaceCommands := by
  refine ⟨?_, negotiated_setIface_ring, negotiated_setIface_mailbox, ?_, ?_, length_tenantReport⟩
  · intro s src c u h hmaj
    rw [exec_ifaceOpen h, opIfaceOpen, run_look, if_neg (not_not_intro hmaj)]
    rfl
  · intro s src c u h hout
    rw [exec_identify h, opIdentify, run_look, run_finOut hout, run_nop]
  · intro s src c u h hout
    rw [exec_tenantQuery h, opTenantQuery, run_look, run_finOut ((length_tenantReport _ _).trans_le hout), run_nop]

/-! ### The configuration (R349, R352) -/

/-- A Heel starts the run that brings back the previous configuration. -/
theorem run_heel {l : List Item} (ref : Option CmdRef) (auto : Bool) (hp : s.body.conf.previous = some l) :
    run (heel ref auto) s = run (startRun ⟨ref, s.get Fld.GLB_CFG_VER_PREVIOUS, restoreItems s l, 0, true, auto⟩) s := by
  rw [heel, run_look, hp]

/-- A run that leaves the personality as it is takes effect at once. -/
theorem run_startRun_now {r : CfgRun} (h : ∀ p, (run (onConf fun x => { x with run := some r }) s).nextPers = some p → p = s.rd Reg.GLB_PERS) :
    run (startRun r) s = run (finishRun r) (run (onConf fun x => { x with run := some r }) s) := by
  rw [startRun, run_acts_cons, run_acts_cons, run_look, run_acts_nil]
  cases hn : (run (onConf fun x => { x with run := some r }) s).nextPers with
  | none => rfl
  | some p =>
    have hp : p = (run (onConf fun x => { x with run := some r }) s).rd Reg.GLB_PERS := (h p hn).trans (rd_onBody _ s _).symm
    simp only [if_pos hp]

/-- A run that changes the personality waits. -/
theorem run_startRun_waits {r : CfgRun} {p : Nat} (hn : (run (onConf fun x => { x with run := some r }) s).nextPers = some p)
    (hp : p ≠ s.rd Reg.GLB_PERS) : run (startRun r) s = run (onConf fun x => { x with run := some r }) s := by
  have hp' : p ≠ (run (onConf fun x => { x with run := some r }) s).rd Reg.GLB_PERS := fun he => hp (he.trans (rd_onBody _ s _))
  rw [startRun, run_acts_cons, run_acts_cons, run_look, run_acts_nil, hn]
  simp only [if_neg hp', run_nop]

/-- Settles O5: each command at its turn, the confirmation's timeout, and a run's start and end. -/
theorem configurationCommands : Obligations.ConfigurationCommands := by
  refine ⟨?_, ?_, ?_, ?_, ?_, ?_, ?_, ?_, ?_, ?_⟩
  · intro s src c u l h hr hp
    rw [exec_configStage h, opStage, run_look]
    simp [hr, hp]
  · intro s src c u h hout
    rw [exec_configRead h, opConfigRead, run_look, run_finOut hout, run_nop]
  · intro s src c u h hr
    rw [exec_configDiscard h, opDiscard, run_look]
    simp [hr]
  · intro s src c u h hr hp hv
    rw [exec_configConfirm h, opConfirm, run_look]
    simp [hr, hp, hv]
  · intro s src c u r h hr hf hp hv hok hrun
    rw [exec_configCommit h, opCommit, run_look, hrun]
    simp [hr, hf, hp, hok, Nat.not_le.2 hv]
  · intro s src c u l h hr hf hp
    rw [exec_heel h, opHeel, run_look]
    simp [hr, hf, hp, run_heel _ _ hp]
  · intro s l hw hp hr hf hl
    have hd : exec .configConfirmTimeout s = .next (run actConfirmTimeout s) := done_works hw
    rw [hd, actConfirmTimeout, run_look]
    simp [hp, hr, hf, run_heel _ _ hl]
  · exact fun s r hp => run_startRun_now hp
  · exact fun s r p hn hp => run_startRun_waits hn hp
  · intro s r hw hr hidle
    have hd : exec .personalityReassign s = .next (run actPersReassign s) := done_works hw
    have hfree : ∀ e, e < 2 → ((List.range 16).all fun g => !changing s e g ||
        (bitsOf (if e = 0 then s.get Fld.DAE_STATUS_GROUPS_BUSY else s.get Fld.PAE_STATUS_GROUPS_BUSY) g 1 == 0
          && s.isl (groupIsland e g) != IslSt.reset)) = true := by
      intro e he
      refine List.all_eq_true.2 fun g hg => ?_
      cases hc : changing s e g with
      | false => rfl
      | true =>
        obtain ⟨hb, hi⟩ := hidle e g he (List.mem_range.1 hg) hc
        simp [hb, hi]
    rw [hd, actPersReassign, run_look, hr]
    dsimp only
    rw [if_pos (by rw [Bool.and_eq_true]; exact ⟨hfree 0 (by omega), hfree 1 (by omega)⟩)]

/-! ### Completions (R328, R341, R345) -/

theorem length_pad16 (bs : List Byte) : (pad16 bs).length = 16 := by simp [pad16]

theorem length_cplBytes (st ph cid op d w h : Nat) (res : List Byte) : (cplBytes st ph cid op d w h res).length = 32 := by
  simp [cplBytes, length_leBytes, length_pad16]

/-- A completion that is no refused CONFIG_COMMIT raises no flag of the configuration. -/
theorem no_cfgReject {st : Nat} (hop : c.opcode = 0x0104 → st ≠ St.invalid) : (c.opcode == 0x0104 && st == St.invalid) = false := by
  by_cases ho : c.opcode = 0x0104 <;> simp [ho, hop]

section
variable {st : Nat} (d : Nat) (res out : List Byte) (hd : c.isDone = false) (hop : c.opcode = 0x0104 → st ≠ St.invalid)
include hd hop

theorem run_finish_ring {r n : Nat} (hc : s.cmd ⟨.ring r, n⟩ = some c) (hl : c.lost = false) :
    run (finish ⟨.ring r, n⟩ st d res out) s
      = run (setCmdStatus ⟨.ring r, n⟩ (.done st d res out)) (run (store (Mem.hostWindow + c.outAddr) out) s) := by
  rw [finish, run_look, hc]
  simp [hd, hl, no_cfgReject hop]

theorem run_finish_mailbox {n : Nat} (hc : s.cmd ⟨.mailbox, n⟩ = some c) :
    run (finish ⟨.mailbox, n⟩ st d res out) s = run (countCpl st) (run (setMbox { s.body.mbox with
      cmd := none, retCode := 0, output := cplBytes st 0 c.cid c.opcode d out.length 0 res ++ out }) s) := by
  rw [finish, run_look, hc]
  simp [hd, no_cfgReject hop]

end

theorem countCpl_mbox (st : Nat) (s : State) : (run (countCpl st) s).body.mbox = s.body.mbox := by
  rw [countCpl, run_acts_cons, run_acts_cons, run_acts_nil, run_when]
  split <;> simp

/-- Settles O15: a completion on a ring and on the mailbox. -/
theorem completionIsWritten : Obligations.CompletionIsWritten := by
  refine ⟨?_, ?_, length_cplBytes⟩
  · exact fun s r c st d res out hc hd hl hop => run_finish_ring d res out hd hop hc hl
  · intro s c st d res out hc hd hop
    rw [run_finish_mailbox d res out hd hop hc, countCpl_mbox]
    exact ⟨rfl, rfl, rfl⟩

end Sys2Proof.Machine
end

section
/-! SUPPORT. The versions after a commit or a Heel has taken effect (R352, 12_host_interface.md). -/

namespace Sys2Proof.Machine

/-! ### The register of the versions: the running one, and above it the one before -/

theorem versions_lt {running previous : Nat} (hr : running < 2 ^ 32) (hp : previous < 2 ^ 32) : running + previous * 2 ^ 32 < 2 ^ 64 := by omega

theorem running_of_versions {running : Nat} (previous : Nat) (hr : running < 2 ^ 32) : bitsOf (running + previous * 2 ^ 32) 0 32 = running := by
  simp only [bitsOf]; omega

theorem previous_of_versions {running previous : Nat} (hr : running < 2 ^ 32) (hp : previous < 2 ^ 32) :
    bitsOf (running + previous * 2 ^ 32) 32 32 = previous := by
  simp only [bitsOf]; omega

section
variable {s : State} {r : CfgRun}

/-- The answer of a run to the command that asked for it, if one did. -/
def answerRun (result : List Byte) : Option CmdRef → Act
  | some f => finish f St.ok 0 result []
  | none => nop

/-- It leaves every register but the count of completions. -/
theorem rd_answerRun_other {a : Nat} (h : a ≠ Reg.MBX_DONE St.ok) (ref : Option CmdRef) (result : List Byte) (s : State) :
    (run (answerRun result ref) s).rd a = s.rd a := by
  cases ref with
  | none => rw [answerRun, run_nop]
  | some f => exact rd_finish_ok_other h f 0 result [] s

theorem rd_finishRun_commit (hs : s.canonical) (hr : r.heel = false) (hv : r.version < 2 ^ 32) :
    (run (finishRun r) s).rd Reg.GLB_CFG_VER = r.version + s.get Fld.GLB_CFG_VER_RUNNING * 2 ^ 32 := by
  have hitems := run_canonical (each r.items applyItem) hs
  have hlt : r.version + s.get Fld.GLB_CFG_VER_RUNNING * 2 ^ 32 < 2 ^ 64 := versions_lt hv (bitsOf_lt _ _ _)
  rw [finishRun, run_look]
  simp only [hr, Bool.false_eq_true, if_false, run_acts_cons, run_acts_nil]
  refine (rd_answerRun_other (by decide) r.ref [] _).trans ?_
  rw [run_when]
  split
  · simp only [run_acts_cons, run_acts_nil]
    rw [rd_setFld_other (by decide), rd_setReg_of_ne (by decide), rd_setReg_of_ne (by decide), onConf, rd_onBody, rd_setReg hitems.risingRegs hlt]
  · rw [onConf, rd_onBody, rd_setReg hitems.risingRegs hlt]

theorem rd_finishRun_heel (hs : s.canonical) (hr : r.heel = true) (hv : r.version < 2 ^ 32) :
    (run (finishRun r) s).rd Reg.GLB_CFG_VER = r.version + 0 * 2 ^ 32 := by
  have hitems := run_canonical (each r.items applyItem) hs
  have hflag : Reg.GLB_CFG_VER ∉ flagRegs Blk.glb (if r.auto then 0 else 1) := by cases r.auto <;> decide
  rw [finishRun, run_look]
  simp only [hr, if_true, run_acts_cons, run_acts_nil]
  refine (rd_answerRun_other (by decide) r.ref (leBytes 4 r.version) _).trans ?_
  rw [rd_raise_of_notMem _ hflag, onConf, rd_onBody, rd_setFld_other (by decide), rd_setReg_of_ne (by decide), rd_setReg_of_ne (by decide),
    rd_setReg hitems.risingRegs (by omega), Nat.zero_mul, Nat.add_zero]

end

/-- Settles O6: the register of the versions after a run has taken effect. -/
theorem commitSetsVersion : Obligations.CommitSetsVersion := by
  constructor
  · intro s r hs hr hv
    have hrd := rd_finishRun_commit hs hr hv
    exact ⟨(congrArg (bitsOf · 0 32) hrd).trans (running_of_versions _ hv),
      (congrArg (bitsOf · 32 32) hrd).trans (previous_of_versions hv (bitsOf_lt _ _ _))⟩
  · intro s r hs hr hv
    have hrd := rd_finishRun_heel hs hr hv
    exact ⟨(congrArg (bitsOf · 0 32) hrd).trans (running_of_versions _ hv),
      (congrArg (bitsOf · 32 32) hrd).trans (previous_of_versions hv (by omega))⟩

end Sys2Proof.Machine
end

section
/-! SUPPORT. The rows of the rings and the mailbox doorbell where they have their own effect (R328, R341 to R344, 12_host_interface.md). -/

namespace Sys2Proof.Machine

/-! ### The word that the host writes to MBX_RING_CFG -/

section
variable {k irq coal : Nat}

/-- The fields of a word that sets ENABLE. -/
theorem bitsOf_ringCfg_set (hk : k < 16) (hi : irq < 2) (hc : coal < 256) :
    bitsOf (k % 16 + 16 + 32 * (irq % 2) + 256 * (coal % 256)) 0 4 = k ∧ bitsOf (k % 16 + 16 + 32 * (irq % 2) + 256 * (coal % 256)) 4 1 = 1 ∧
    bitsOf (k % 16 + 16 + 32 * (irq % 2) + 256 * (coal % 256)) 5 1 = irq ∧
    bitsOf (k % 16 + 16 + 32 * (irq % 2) + 256 * (coal % 256)) 8 8 = coal := by
  simp only [bitsOf]; omega

/-- The fields of a word that clears ENABLE. -/
theorem bitsOf_ringCfg_clear (k : Nat) (hi : irq < 2) (hc : coal < 256) :
    bitsOf (k % 16 + 32 * (irq % 2) + 256 * (coal % 256)) 4 1 = 0 ∧ bitsOf (k % 16 + 32 * (irq % 2) + 256 * (coal % 256)) 5 1 = irq ∧
    bitsOf (k % 16 + 32 * (irq % 2) + 256 * (coal % 256)) 8 8 = coal := by
  simp only [bitsOf]; omega

end

/-! ### The rows -/

section
variable {s : State} {r tail head k irq coal op : Nat} {p : List Byte}

theorem exec_ringDoorbell (hT : Takes s (.ringDoorbell r tail)) : exec (.ringDoorbell r tail) s = .next (run (actRingDoorbell r tail) s) := hT.done _
theorem exec_cplHeadWrite (hT : Takes s (.cplHeadWrite r head)) : exec (.cplHeadWrite r head) s = .next (run (actCplHeadWrite r head) s) := hT.done _
theorem exec_ringEnable (hT : Takes s (.ringEnable r k irq coal)) :
    exec (.ringEnable r k irq coal) s = .next (run (actRingEnable r k irq coal) s) := hT.done _
theorem exec_ringDisable (hT : Takes s (.ringDisable r k irq coal)) :
    exec (.ringDisable r k irq coal) s = .next (run (actRingDisable r k irq coal) s) := hT.done _
theorem exec_ringDisableDone (hT : Takes s (.ringDisableDone r)) : exec (.ringDisableDone r) s = .next (run (actRingDisableDone r) s) := hT.done _
theorem exec_commandComplete (hT : Takes s (.commandComplete r)) : exec (.commandComplete r) s = .next (run (actCommandComplete r) s) := hT.done _
theorem exec_coalesceWindowEnd (hT : Takes s (.coalesceWindowEnd r)) :
    exec (.coalesceWindowEnd r) s = .next (run (actCoalesceWindowEnd r) s) := hT.done _
theorem exec_mailboxDoorbell (hT : Takes s (.mailboxDoorbell op p)) :
    exec (.mailboxDoorbell op p) s = .next (run (actMailboxDoorbell op p) s) := hT.done _

/-- A write that sets ENABLE of a ring that is off starts the ring afresh. -/
theorem run_ringCfgWrite_set {v : Nat} (hfw : s.is Fld.GLB_STATUS_FW_READY = true) (hsv : s.ringsServed = true)
    (hen : s.is (Fld.MBX_RING_CFG_ENABLE r) = false) (hset : bitsOf v 4 1 = 1) (hlo : 4 ≤ bitsOf v 0 4) (hhi : bitsOf v 0 4 ≤ 12) :
    run (ringCfgWrite r v) s = run (acts [setFld (Fld.MBX_RING_CFG_IRQ_EN r) (bitsOf v 5 1), setFld (Fld.MBX_RING_CFG_COALESCE_US r) (bitsOf v 8 8),
      setFld (Fld.MBX_RING_CFG_SIZE_LOG2 r) (bitsOf v 0 4), setReg (Reg.MBX_RING_PTR r) 0, setReg (Reg.MBX_CPL_HEAD r) 0,
      setRing r { cmds := (s.ring r).cmds.filter (·.lost), taken := (s.ring r).taken }, freshCpl r (2 ^ bitsOf v 0 4),
      setFld (Fld.MBX_RING_CFG_ENABLE r) 1]) s := by
  rw [ringCfgWrite, run_look]
  simp [hfw, hsv, hen, hset, Nat.not_lt.2 hlo, Nat.not_lt.2 hhi]

/-- A write that clears ENABLE of a ring that is on starts the drain. -/
theorem run_ringCfgWrite_clear {v : Nat} (hfw : s.is Fld.GLB_STATUS_FW_READY = true) (hen : s.is (Fld.MBX_RING_CFG_ENABLE r) = true)
    (hd : (s.ring r).draining = false) (hclr : bitsOf v 4 1 = 0) :
    run (ringCfgWrite r v) s = run (acts [setFld (Fld.MBX_RING_CFG_IRQ_EN r) (bitsOf v 5 1), setFld (Fld.MBX_RING_CFG_COALESCE_US r) (bitsOf v 8 8),
      setRing r { s.ring r with draining := true }]) s := by
  rw [ringCfgWrite, run_look]
  simp [hfw, hen, hd, hclr]

end

/-- Settles O14: each row's own branch; the words written to MBX_RING_CFG by their fields. -/
theorem ringRowsTakeEffect : Obligations.RingRowsTakeEffect := by
  refine ⟨?_, ?_, ?_, ?_, ?_, ?_, ?_, ?_, ?_, ?_⟩
  · intro s r tail hT hfw hen htail
    rw [exec_ringDoorbell hT, actRingDoorbell, run_look]
    simp [hfw, hen, Nat.not_le.2 htail]
  · intro s r head hT hfw hhead hroom
    rw [exec_cplHeadWrite hT, actCplHeadWrite, run_look]
    simp [hfw, Nat.not_le.2 hhead, Nat.not_lt.2 hroom]
  · intro s r k irq coal hT hfw hsv hen hlo hhi hi hc
    obtain ⟨hk, hset, hirq, hcoal⟩ := bitsOf_ringCfg_set (k := k) (by omega) hi hc
    rw [exec_ringEnable hT, actRingEnable, run_ringCfgWrite_set hfw hsv hen hset (by rwa [hk]) (by rwa [hk]), hk, hirq, hcoal]
  · intro s r k irq coal hT hfw hen hd hi hc
    obtain ⟨hclr, hirq, hcoal⟩ := bitsOf_ringCfg_clear k hi hc
    rw [exec_ringDisable hT, actRingDisable, run_ringCfgWrite_clear hfw hen hd hclr, hirq, hcoal]
  · intro s r hT hen hd hlost
    have hempty : (s.ring r).cmds.filter (!·.lost) = [] := List.filter_eq_nil_iff.2 fun c hc => by simp [hlost c hc]
    rw [exec_ringDisableDone hT, actRingDisableDone, run_look]
    simp [hen, hd, hempty]
  · intro s r l hT hm hsv hl hne
    refine ⟨_, exec_commandComplete hT, ?_⟩
    rw [actCommandComplete, run_look]
    simp [hl, hm, hsv, hne]
  · intro s r hT hopen hpend
    rw [exec_coalesceWindowEnd hT, actCoalesceWindowEnd, run_look]
    simp [hopen, hpend]
  · intro s r hT hopen hpend
    rw [exec_coalesceWindowEnd hT, actCoalesceWindowEnd, run_look]
    simp [hopen, hpend]
  · intro s op p hT hfw hrec hm hc hx hop
    rw [exec_mailboxDoorbell hT, actMailboxDoorbell, run_look]
    simp [hfw, hm, hc, hx, hop]
  · intro s op p c hT hfw hrec hm hc hx hop he hlen hmax hspec
    obtain ⟨sp, hsp⟩ := Option.ne_none_iff_exists'.1 hspec
    have hlen64 : ¬ p.length < 64 := by omega
    rw [exec_mailboxDoorbell hT, actMailboxDoorbell, run_look]
    simp [hfw, hrec, hm, hc, hx, Nat.not_lt.2 hop, ← he, hlen64, Nat.not_lt.2 hlen, Nat.not_lt.2 hmax, hsp]

end Sys2Proof.Machine
end

section
/-! SUPPORT. The commands of shared prefixes and of page and embedding loads at their turn (R356 to R358, 12_host_interface.md). -/

namespace Sys2Proof.Machine

section
variable {s u v : State} {src : Src} {c : Cmd}

/-! ### The commands at their turn -/

theorem exec_prefixCreate (h : Runs s src 0x0401 c v) : exec (.prefixCreate src) s = .next (run (opPrefixCreate ⟨src, c.seq⟩ c) v) := runs_done h _
theorem exec_prefixRelease (h : Runs s src 0x0402 c v) : exec (.prefixRelease src) s = .next (run (opPrefixRelease ⟨src, c.seq⟩ c) v) :=
  runs_done h _
theorem exec_prefixDemote (h : Runs s src 0x0403 c v) : exec (.prefixDemote src) s = .next (run (opPrefixDemote ⟨src, c.seq⟩ c) v) := runs_done h _
theorem exec_prefixPin (h : Runs s src 0x0404 c v) : exec (.prefixPin src) s = .next (run (opPrefixPin ⟨src, c.seq⟩ c) v) := runs_done h _
theorem exec_pageLoad (h : Runs s src 0x0405 c v) : exec (.pageLoad src) s = .next (run (opPageLoad ⟨src, c.seq⟩ c) v) := runs_done h _
theorem exec_embLoad (h : Runs s src 0x0406 c v) : exec (.embLoad src) s = .next (run (opEmbLoad ⟨src, c.seq⟩ c) v) := runs_done h _

/-- A request takes pages while it is ADMITTED or LISTENING. -/
theorem takesPages {p : Phase} (h : p = .admitted ∨ p = .listening) : (p != .admitted && p != .listening) = false := by
  rcases h with rfl | rfl <;> rfl

/-- The users of shared pages, when each is PARKED. -/
theorem users_parked {p : Prefix} (h : ∀ w ∈ p.users, (u.req w).map (·.record.phase) = some .parked) :
    (p.users.all fun w => ((u.req w).map (·.record.phase)) == some Phase.parked) = true :=
  List.all_eq_true.2 fun w hw => by rw [h w hw]; rfl

/-! ### Page loads -/

/-- A page that passes is of the layer, has its CRC, and is full where it is sealed. -/
theorem of_loadPageOk {m : Model} {layer first crc : Nat} {last : Bool} {p : ImgPage} (h : loadPageOk m layer first last p crc = true) :
    p.layer = layer ∧ p.crc = crc ∧ (p.isSealed = true → p.count = 2 ^ m.pLog2) := by
  simp only [loadPageOk, Bool.and_eq_true, beq_iff_eq] at h
  obtain ⟨⟨⟨⟨⟨⟨⟨⟨⟨⟨hlayer, -⟩, -⟩, -⟩, -⟩, -⟩, -⟩, hsealed⟩, -⟩, -⟩, hcrc⟩ := h
  refine ⟨hlayer, hcrc, fun hs => ?_⟩
  rw [if_pos hs, Bool.and_eq_true, beq_iff_eq] at hsealed
  exact hsealed.2

theorem of_loadOk {m : Model} {l : Loc} {layer : Nat} {ps : List (ImgPage × Nat)} (h : loadOk m l layer ps = true) :
    (l.layer layer).count + pagePositions ps ≤ l.maxPositions ∧
      ∀ e ∈ ps, e.1.layer = layer ∧ e.1.crc = e.2 ∧ (e.1.isSealed = true → e.1.count = 2 ^ m.pLog2) := by
  simp only [loadOk, Bool.and_eq_true, decide_eq_true_iff] at h
  obtain ⟨⟨hpages, -⟩, hroom⟩ := h
  refine ⟨hroom, fun e he => ?_⟩
  obtain ⟨i, hi⟩ := List.mem_iff_getElem?.1 he
  exact of_loadPageOk (List.all_eq_true.1 hpages (e, i) (List.mk_mem_zipIdx_iff_getElem?.2 hi))

end

/-- Settles O11: each command at its turn, past the checks that the hypotheses pass. -/
theorem prefixCommands : Obligations.PrefixCommands := by
  refine ⟨?_, ?_, ?_, ?_, ?_, ?_⟩
  · intro s src c v u q l m pages i h a hl hm hphase howner hst hpos hdvd hsrc hslot hfree
    have hn : ¬ (c.arg 8 32 = 0 ∨ c.arg 8 32 % 2 ^ m.pLog2 ≠ 0) := by
      rw [Nat.dvd_iff_mod_eq_zero] at hdvd
      omega
    have hfull : ¬ (q.record.prefix0 ≠ 0 ∧ q.record.prefix1 ≠ 0) := by omega
    rw [exec_prefixCreate h, opPrefixCreate, run_withLive a, run_look]
    simp only [hl, hm, takesPages hphase, howner, hst, bne_self_eq_false, Bool.or_self, Bool.false_eq_true, if_false, if_neg hn, hsrc, hslot,
      if_neg hfull, run_acts_cons, run_acts_nil]
  · intro s src c u p h hp href
    rw [exec_prefixRelease h, opPrefixRelease, run_look]
    simp [hp, href]
  · intro s src c u p h hp hpin
    rw [exec_prefixPin h, opPrefixPin, run_look]
    simp [hp, hpin]
  · intro s src c u p a h hp hpin htier ha
    have hany : (p.refs.any fun r => refTier r == 2) = false := List.any_eq_false.2 fun r hr => by simpa using htier r hr
    rw [exec_prefixPin h, opPrefixPin, run_look]
    simp [hp, hpin, hany, ha]
  · intro s src c u p m slot bytes h hp hpin husers hrec himage hm hprot hbytes hlen hslot hacc hroom hparks
    have hany : (u.kr.parks.any fun e => e.2.handle == c.arg 0 64) = false := List.any_eq_false.2 fun e he => by simpa using hparks e he
    rw [exec_prefixDemote h, opPrefixDemote, run_look]
    simp only [hp, hpin, users_parked husers, hrec, himage, hm, hprot, hbytes, Nat.not_lt.2 (ceilDiv_le_of_le hlen), hslot, hacc, hany,
      Nat.not_lt.2 hroom, Bool.not_true, Bool.or_self, Bool.false_and, decide_false, Bool.false_eq_true, if_false, tenantKeyId]
  · intro s src c u p slot h hp hpin husers hrec himage
    rw [exec_prefixDemote h, opPrefixDemote, run_look]
    simp only [hp, hpin, users_parked husers, hrec, himage, Bool.not_true, Bool.or_self, Bool.false_eq_true, if_false]

/-- Settles O12: both commands at their turn, and the checks that `loadOk` makes. -/
theorem loadCommands : Obligations.LoadCommands := by
  refine ⟨?_, ?_, fun m l layer ps => of_loadOk⟩
  · intro s src c v u q l m ps refs a h at_ hl hm hphase hst hlayer hps hok hres
    rw [exec_pageLoad h, opPageLoad, run_withLive at_, run_look]
    simp only [hl, hm, takesPages hphase, hst, hps, hok, hres, bne_self_eq_false, Bool.or_self, Bool.false_eq_true, if_false,
      Nat.not_le.2 hlayer, Bool.not_true]
  · intro s src c u a h hw hlen hrows ha
    have hsize : ¬ (sliceSize u = 0 ∨ (cmdInput u src c).length ≠ c.arg 4 32 * sliceSize u) := by simp [hw, hlen]
    have hvocab : ¬ (c.arg 4 32 ≠ 0 ∧ largestVocab u < c.arg 0 32 + c.arg 4 32) := fun hv => Nat.not_lt.2 (hrows hv.1) hv.2
    rw [exec_embLoad h, opEmbLoad, run_look]
    simp only [if_neg hsize, if_neg hvocab, ha]

end Sys2Proof.Machine
end

section
/-! SUPPORT. Firmware images: their activation, the units' turns, and the anti-rollback count (R394 to R396, 13_resilience.md; R406, R409 to
R411, 14_security.md). -/

namespace Sys2Proof.Machine

section
variable {s u : State} {src : Src} {c : Cmd}

/-! ### The commands at their turn -/

theorem exec_fwInfo (h : Runs s src 0x0801 c u) : exec (.fwInfo src) s = .next (run (opFwInfo ⟨src, c.seq⟩ c) u) := runs_done h _
theorem exec_fwStage (h : Runs s src 0x0802 c u) : exec (.fwStage src) s = .next (run (opFwStage ⟨src, c.seq⟩ c) u) := runs_done h _
theorem exec_fwActivate (h : Runs s src 0x0803 c u) (verifies : Bool) :
    exec (.fwActivate src verifies) s = .next (run (activate (some ⟨src, c.seq⟩) (c.arg 0 8) (c.arg 1 8) verifies) u) := runs_done h _

/-! ### Activations -/

variable {slot : Nat}

/-- The outcome of an activation that a command has asked for is the command's completion. -/
theorem run_fwAnswer_some (f : CmdRef) (st d : Nat) (s : State) : run (fwAnswer (some f) st d) s = run (finish f st d [] []) s := by
  rw [fwAnswer, run_look]

/-- A valid image waits for the next full reset. -/
theorem run_activate_next (ref : Option CmdRef) (hf : s.body.plat.fwAct = none) (hb : secBusy s = false) (hi : imageForm s slot = true)
    (hr : s.is Fld.SEC_STATUS_RECOVERY = false) :
    run (activate ref slot 1 true) s
      = run (fwAnswer ref St.ok 0) (run (acts [showSlot slot true, writeRecord slot, onSec fun x => { x with raiseArb := true }]) s) := by
  rw [activate, run_look]
  simp [hf, hb, hi, hr]

/-- A valid image's live activation begins. -/
theorem run_activate_live (ref : Option CmdRef) (hf : s.body.plat.fwAct = none) (hb : secBusy s = false) (hi : imageForm s slot = true)
    (hr : s.is Fld.SEC_STATUS_RECOVERY = false) :
    run (activate ref slot 0 true) s = run (acts [showSlot slot true,
      onPlat (fun p => { p with fwAct := some { ref := ref, slot := slot, left := updateOrder s } }), setFld Fld.GLB_STATUS_FW_ACTIVATING 1]) s := by
  rw [activate, run_look]
  simp [hf, hb, hi, hr]

/-- An image that does not verify is refused. -/
theorem run_activate_refused (ref : Option CmdRef) (mode : Nat) (hf : s.body.plat.fwAct = none) (hb : secBusy s = false) :
    run (activate ref slot mode false) s = run (fwAnswer ref St.invalid 0) (run (acts [showSlot slot false, raise Blk.sec 0]) s) := by
  rw [activate, run_look]
  simp [hf, hb]

/-! ### The units' turns -/

/-- A unit has taken the image: its turn is over, and the last one ends the activation. -/
theorem run_fwCoreUpdateDone {a : FwAct} {core : Nat} {rest : List Nat} (ha : s.body.plat.fwAct = some a) (hl : a.left = core :: rest)
    (hrole : core ≠ 21) (hback : core = 22 → 21 ∉ a.updated) :
    run (actFwCoreUpdateDone true) s = run (when rest.isEmpty (activationEnds { a with left := [], updated := a.updated ++ [core] }))
      (run (onPlat fun p => { p with fwAct := some { a with left := rest, updated := a.updated ++ [core] } }) s) := by
  have hstandby : (core == 22 && a.updated.contains 21) = false := by
    by_cases hc : core = 22 <;> simp [hc, hback]
  rw [actFwCoreUpdateDone, run_look, ha]
  simp only [hl, if_true, run_acts_cons, run_acts_nil, hstandby, beq_eq_false_iff_ne.2 hrole, run_when, Bool.false_eq_true, if_false]

/-- A unit has failed before the role moved: the activation is reversed. -/
theorem run_fwCoreUpdateFailed {a : FwAct} {core : Nat} {rest : List Nat} (ha : s.body.plat.fwAct = some a) (hl : a.left = core :: rest)
    (hrole : 21 ∉ a.updated) :
    run (actFwCoreUpdateDone false) s = run (acts [writeRecord s.body.sec.runSlot, raiseWith Blk.isl 14 { unit := core }, afterActivation,
      fwAnswer a.ref St.invalid core]) s := by
  rw [actFwCoreUpdateDone, run_look, ha]
  simp [hl, hrole]

/-! ### The anti-rollback count (R409) -/

/-- The count is written first; what follows writes other fields. -/
theorem get_raiseCount (hs : s.canonical) (slot : Nat) :
    (run (raiseCount slot) s).get Fld.SEC_ARB_ARB_COUNT = max (s.get Fld.SEC_ARB_ARB_COUNT) (imgSvn s slot) := by
  have hcount : s.get Fld.SEC_ARB_ARB_COUNT < 2 ^ 7 := bitsOf_lt _ _ _
  have hsvn : imgSvn s slot < 128 := Nat.mod_lt _ (by decide)
  have hboot : ∀ (f : Fld) (b : Bool) (t : State), f = Fld.SEC_ARB_A_BOOTABLE ∨ f = Fld.SEC_ARB_B_BOOTABLE → t.canonical →
      (run (when b (setFld f 0)) t).get Fld.SEC_ARB_ARB_COUNT = t.get Fld.SEC_ARB_ARB_COUNT := by
    intro f b t hf ht
    refine run_when_keeps (f := fun x : State => x.get Fld.SEC_ARB_ARB_COUNT) ?_
    rcases hf with rfl | rfl <;> exact get_setFld_other ht.risingRegs (by decide) (by decide)
  simp only [raiseCount, run_acts_cons, run_acts_nil, run_look]
  rw [hboot _ _ _ (.inr rfl) (run_canonical _ (run_canonical _ (run_canonical _ hs))), hboot _ _ _ (.inl rfl) (run_canonical _ (run_canonical _ hs)),
    get_setFld_otherReg (by decide), get_setFld_same hs.risingRegs (by decide)]
  exact Nat.mod_eq_of_lt (by simp only [Fld.SEC_ARB_ARB_COUNT] at hcount ⊢; omega)

end

/-- Settles O44: each command and turn by its own branch, and the count by the writes that come after it. -/
theorem firmwareCommands : Obligations.FirmwareCommands := by
  refine ⟨?_, ?_, ?_, ?_, ?_, ?_, ?_, ?_, ?_, ?_, fun s slot hs => get_raiseCount hs slot⟩
  · intro s src c u h hout
    rw [exec_fwInfo h, opFwInfo, run_look, run_finOut hout, run_nop]
  · intro s src c u h hok
    rw [exec_fwStage h, opFwStage, run_look]
    simp [hok]
  · intro s slot off n hf hb hrun hfit
    have hslot : (s.body.plat.booted && slot == s.body.sec.runSlot) = false := by
      cases hbo : s.body.plat.booted with
      | false => rfl
      | true => simpa using hrun hbo
    simp [stageFault, hf, hb, hslot, Nat.not_lt.2 hfit]
  · intro s src c u h hf hb hi hr hm
    rw [exec_fwActivate h, hm, run_activate_next _ hf hb hi hr, run_fwAnswer_some]
    simp only [run_acts_cons, run_acts_nil, fin]
  · intro s src c u h hf hb hi hr hm
    rw [exec_fwActivate h, hm, run_activate_live _ hf hb hi hr]
  · intro s src c u h hf hb
    rw [exec_fwActivate h, run_activate_refused _ _ hf hb, run_fwAnswer_some]
    simp only [run_acts_cons, run_acts_nil, fin]
  · intro s a core rest hT ha hl hrest hcore
    have hd : exec (.fwCoreUpdateDone true) s = .next (run (actFwCoreUpdateDone true) s) := done_works hT.works
    rw [hd, run_fwCoreUpdateDone ha hl (by omega) (by omega)]
    simp [hrest]
  · intro s a hT ha hl hrole
    have hd : exec (.fwCoreUpdateDone true) s = .next (run (actFwCoreUpdateDone true) s) := done_works hT.works
    rw [hd, run_fwCoreUpdateDone ha hl (by decide) fun _ => hrole]
    rfl
  · intro s a core rest hT ha hl hrole
    have hd : exec (.fwCoreUpdateDone false) s = .next (run (actFwCoreUpdateDone false) s) := done_works hT.works
    rw [hd, run_fwCoreUpdateFailed ha hl hrole]
  · intro s hT hst
    have hd : exec (.secReentry true) s = .next (run (when true (actSecReentry true)) s) := done_works hT.works
    rw [hd, run_when, if_pos rfl, actSecReentry, run_look]
    simp [hst]

end Sys2Proof.Machine
end

section
/-! SUPPORT. Keys, attestation and the test port (R413, R414, R417 to R419, 14_security.md; R252, 09_transport_and_links.md). -/

namespace Sys2Proof.Machine

section
variable {s u : State} {src : Src} {c : Cmd}

/-! ### The commands at their turn -/

theorem exec_certRead (h : Runs s src 0x0805 c u) : exec (.certRead src) s = .next (run (opCertRead ⟨src, c.seq⟩ c) u) := runs_done h _
theorem exec_attestQuote (h : Runs s src 0x0804 c u) : exec (.attestQuote src) s = .next (run (opAttestQuote ⟨src, c.seq⟩ c) u) := runs_done h _
theorem exec_podKeyInstall (h : Runs s src 0x0603 c u) (key : Option (List Byte)) :
    exec (.podKeyInstall src key) s = .next (run (opPodKeyInstall key ⟨src, c.seq⟩ c) u) := runs_done h _
theorem exec_knlKeyLoad (h : Runs s src 0x0506 c u) (key : Option (List Byte)) :
    exec (.knlKeyLoad src key) s = .next (run (opKnlKeyLoad key ⟨src, c.seq⟩ c) u) := runs_done h _
theorem exec_testUnlock (h : Runs s src 0x0806 c u) (verifies : Bool) :
    exec (.testUnlock src verifies) s = .next (run (opTestUnlock verifies ⟨src, c.seq⟩ c) u) := runs_done h _

/-! ### Keys -/

@[simp] theorem showEpochs_body (s : State) : (run showEpochs s).body = s.body := by simp [showEpochs]

@[simp] theorem onSec_sec (f : Sec → Sec) (s : State) : (run (onSec f) s).body.sec = f s.body.sec := by rw [onSec, run_onBody]
@[simp] theorem onSec_xpt (f : Sec → Sec) (s : State) : (run (onSec f) s).body.xpt = s.body.xpt := by rw [onSec, run_onBody]
@[simp] theorem onXpt_sec (f : Xpt → Xpt) (s : State) : (run (onXpt f) s).body.sec = s.body.sec := by rw [onXpt, run_onBody]
@[simp] theorem onXpt_xpt (f : Xpt → Xpt) (s : State) : (run (onXpt f) s).body.xpt = f s.body.xpt := by rw [onXpt, run_onBody]

/-- A rotation moves the staged key and the current one up, and drops what the former previous epoch had cached. -/
theorem run_podKeyRotate {e d : Nat} {k : List Byte} (h : s.body.sec.podStaged = some (e, k, d)) :
    (run actPodKeyRotate s).body.sec = { s.body.sec with podPrev := s.body.sec.podCur, podCur := some (e, k), podStaged := none } ∧
    (run actPodKeyRotate s).body.xpt.keys = s.body.xpt.keys.filter fun p => !(s.body.sec.podPrev.map (·.1)).toList.contains p.2 := by
  rw [actPodKeyRotate, run_look, h]
  simp

/-- A cached key whose epoch the rotation drops is gone. -/
theorem keys_after_rotate {e d : Nat} {k : List Byte} (h : s.body.sec.podStaged = some (e, k, d)) :
    ∀ x ∈ (run actPodKeyRotate s).body.xpt.keys, ∀ old, s.body.sec.podPrev = some old → x.2 ≠ old.1 := by
  intro x hx old hold
  rw [(run_podKeyRotate h).2, List.mem_filter, hold] at hx
  simpa using hx.2

/-- A wrapped key that does not open is refused, in whatever form it comes. -/
theorem run_opPodKeyInstall_none (hb : secBusy u = false) (hk : keysBarred u = false) (ref : CmdRef) :
    run (opPodKeyInstall none ref c) u = run (wrapFail ref) u := by
  rw [opPodKeyInstall, run_look]
  simp [hb, hk]

theorem run_opKnlKeyLoad_none (hb : secBusy u = false) (hk : keysBarred u = false) (ref : CmdRef) :
    run (opKnlKeyLoad none ref c) u = run (wrapFail ref) u := by
  rw [opKnlKeyLoad, run_look]
  simp [hb, hk]

/-- Zeroing leaves no pod key, no staged key, no Kennel key and no cached key. -/
theorem run_zeroKeys (s : State) :
    (run zeroKeys s).body.sec = { s.body.sec with podCur := none, podPrev := none, podStaged := none, knlKeys := [] } ∧
    (run zeroKeys s).body.xpt.keys = [] := by
  simp [zeroKeys, setKnlKeys]

end

/-- Settles O45: each command and row by its own branch; the keys after a rotation and after the zeroing as lemmas of their own. -/
theorem securityCommands : Obligations.SecurityCommands := by
  refine ⟨?_, ?_, ?_, ?_, ?_, ?_, ?_, ?_, ?_, ?_, ?_, ?_, ?_, ?_⟩
  · intro s src c u h hb hout
    rw [exec_certRead h, opCertRead, run_look, hb, if_neg Bool.false_ne_true, run_finOut hout, run_nop]
  · intro s src c u h hq hout
    rw [exec_attestQuote h, opAttestQuote, run_look]
    simp [hq, Nat.not_lt.2 hout]
  · intro s src c u h hq
    rw [exec_attestQuote h, opAttestQuote, run_look, if_pos hq]
  · intro s src c u k cur h hb hbar hform hst hcur hahead hfar hne
    rw [exec_podKeyInstall h, opPodKeyInstall, run_look]
    simp [hb, hbar, hform, hst, hcur, hne, hahead.ne', Nat.not_lt.2 hfar]
  · intro s src c u h hb hbar
    rw [exec_podKeyInstall h, run_opPodKeyInstall_none hb hbar]
  · intro s e k d hT hst
    have hd : exec .podKeyRotate s = .next (run actPodKeyRotate s) := done_works hT.works
    have hstored := stored_actPodKeyRotate s
    simp only [State.stored, Prod.mk.injEq] at hstored
    obtain ⟨hmem, -, hled⟩ := hstored
    refine ⟨_, hd, ?_, ?_, ?_, keys_after_rotate hst, hmem, hled⟩ <;> rw [(run_podKeyRotate hst).1]
  · intro s src c u k h hb hbar hform hnew hmine hroom
    rw [exec_knlKeyLoad h, opKnlKeyLoad, run_look]
    simp only [hb, hbar, hform, hnew, List.length_map, if_pos hmine, if_pos hroom, Bool.not_true, Bool.false_eq_true, if_false, run_acts_cons,
      run_acts_nil]
  · intro s src c u h hb hbar
    rw [exec_knlKeyLoad h, run_opKnlKeyLoad_none hb hbar]
  · intro s src c u d h hd hb hfails hform
    rw [exec_testUnlock h, opTestUnlock, run_look, ← hd]
    simp [hb, Nat.not_le.2 hfails, hform]
  · intro s src c u h hb hfails
    rw [exec_testUnlock h, opTestUnlock, run_look]
    simp [hb, Nat.not_le.2 hfails]
  · intro s
    obtain ⟨hsec, hxpt⟩ := run_zeroKeys s
    rw [hsec]
    exact ⟨rfl, rfl, rfl, rfl, hxpt⟩
  · intro s hT hopen huntil
    have hd : exec .testRelock s = .next (run actTestRelock s) := done_works hT.works
    rw [hd, actTestRelock, run_look, run_when, if_pos (by rw [hopen, huntil]; rfl)]
  · intro s hT
    have hd : exec (.secRestart false) s = .next (run (actSecRestart false) s) := done_works hT.works
    rw [hd, actSecRestart, if_neg Bool.false_ne_true]
    simp only [run_acts_cons, run_acts_nil]
  · intro s hT
    have hd : exec (.secRestart true) s = .next (run (actSecRestart true) s) := done_works hT.works
    rw [hd, actSecRestart, if_pos rfl]
    simp only [run_acts_cons, run_acts_nil]

end Sys2Proof.Machine
end

section
/-! SUPPORT. The Bark ring, its acknowledgements, the ledgers' audits and the reports (R378, R380, R388 to R392, 13_resilience.md; R354,
12_host_interface.md). -/

namespace Sys2Proof.Machine

/-! ### Audits (R391, R392) -/

section
variable {l : Ledger}

theorem creditsOk_of_balanced {c : Credits} (h : c.balanced) : creditsOk c = true := by
  rw [creditsOk, beq_iff_eq, show c.issued = c.returned + c.inflight + c.flushed from h]

theorem collarOk_of_balanced {c : CollarAcct} (h : c.balanced) : collarOk c = true := by
  rw [collarOk, beq_iff_eq, show (c.granted : Int) = c.spent + (c.balance + c.reserved) + c.expired from h]

/-- Ledgers that balance have no mismatch. -/
theorem mismatch_of_balanced (h : l.balanced) : mismatch l = 0 := by
  have hports : (l.ports.all fun e => creditsOk e.2) = true := List.all_eq_true.2 fun e he => creditsOk_of_balanced (h.credits.2 e he)
  have hcollars : (l.collars.all fun e => collarOk e.2) = true := List.all_eq_true.2 fun e he => collarOk_of_balanced (h.collars e he)
  simp [mismatch, creditsOk_of_balanced h.credits.1, hports, hcollars, h.buffers, h.arrivals, h.requests, h.references]

/-- The account of two together. -/
def addAcct (a c : CollarAcct) : CollarAcct :=
  { balance := a.balance + c.balance, reserved := a.reserved + c.reserved, granted := a.granted + c.granted, spent := a.spent + c.spent,
    expired := a.expired + c.expired }

theorem addAcct_balanced {a c : CollarAcct} (ha : a.balanced) (hc : c.balanced) : (addAcct a c).balanced := by
  simp only [CollarAcct.balanced, addAcct] at ha hc ⊢
  omega

theorem collarSum_eq (l : Ledger) (kind : Nat) :
    collarSum l kind = (l.collars.filter fun e => e.1 % 2 == kind).foldl (fun a e => addAcct a e.2) {} := rfl

theorem foldl_addAcct_balanced (es : List (Nat × CollarAcct)) {a : CollarAcct} (ha : a.balanced) (h : ∀ e ∈ es, CollarAcct.balanced e.2) :
    (es.foldl (fun a e => addAcct a e.2) a).balanced := by
  induction es generalizing a with
  | nil => exact ha
  | cons e es ih => exact ih (addAcct_balanced ha (h e List.mem_cons_self)) fun x hx => h x (List.mem_cons_of_mem _ hx)

/-- The sums over the tenants of a kind balance where each account does. -/
theorem collarSum_balanced (h : l.balanced) (kind : Nat) : (collarSum l kind).balanced := by
  rw [collarSum_eq]
  exact foldl_addAcct_balanced _ rfl fun e he => h.collars e (List.mem_of_mem_filter he)

/-- The bit of an identity in MISMATCH. -/
theorem mismatchBit_cases (ok : Bool) (i : Nat) : (if ok then 0 else 2 ^ i) = 0 ∨ (if ok then 0 else 2 ^ i) = 2 ^ i := by cases ok <;> simp

/-- Requests that do not balance set bit 4. -/
theorem mismatch_requests (h : l.admitted % 2 ^ 64 ≠ (l.closed + l.failed + l.live) % 2 ^ 64) : bitsOf (mismatch l) 4 1 = 1 := by
  have hreq : (l.admitted % 2 ^ 64 == (l.closed + l.failed + l.live) % 2 ^ 64) = false := beq_eq_false_iff_ne.2 h
  have h0 := mismatchBit_cases (creditsOk l.chip && l.ports.all fun e => creditsOk e.2) 0
  have h1 := mismatchBit_cases (l.bufPosted % 2 ^ 64 == (l.bufCompleted + l.bufOutstanding + l.bufWithdrawn) % 2 ^ 64) 1
  have h2 := mismatchBit_cases (l.collars.all fun e => collarOk e.2) 2
  have h3 := mismatchBit_cases (l.increments % 2 ^ 64 ==
    (sumCounts l.jobStatus + sumCounts l.smpDone + sumCounts l.movDone + l.signals + l.msgDone) % 2 ^ 64) 3
  have h5 := mismatchBit_cases (l.refTaken % 2 ^ 64 == (l.refDropped + l.refLive) % 2 ^ 64) 5
  rw [bitsOf, mismatch, hreq]
  dsimp only
  rw [if_neg Bool.false_ne_true]
  omega

end

/-! ### What an audit leaves -/

section
variable {s : State}

theorem length_quad (a b c d : Nat) : (quad a b c d).length = 32 := by simp [quad, length_leBytes]

theorem length_collarQuad (c : CollarAcct) : (collarQuad c).length = 32 := length_quad _ _ _ _

/-- Each part of a snapshot lies in it. -/
theorem snapshotParts_fit {l : Ledger} (h : ∀ e ∈ l.collars, e.1 < 2048) (tick seq : Nat) :
    ∀ p ∈ snapshotParts l tick seq, p.1 + p.2.length ≤ snapshotSize := by
  have hports : ∀ k ∈ List.range 16, 0x40 + 32 * k + 32 ≤ 0x11000 := fun k hk => by
    have := List.mem_range.1 hk
    omega
  have hcollars : ∀ e ∈ l.collars, 0x1000 + 32 * e.1 + 32 ≤ 0x11000 := fun e he => by
    have := h e he
    omega
  simp only [snapshotParts, snapshotSize, List.forall_mem_append, List.forall_mem_cons, List.forall_mem_map, length_quad, length_collarQuad,
    length_leBytes, List.length_append]
  exact ⟨⟨⟨⟨by decide, hports⟩, by simp⟩, hcollars⟩, by simp⟩

/-- Stores within a range leave what is outside it. -/
theorem byte_stores_other {parts : List (Nat × List Byte)} {a n b : Nat} (hp : ∀ p ∈ parts, p.1 + p.2.length ≤ n) (hb : b < a ∨ a + n ≤ b) :
    (run (each parts fun p => store (a + p.1) p.2) s).byte b = s.byte b := by
  induction parts generalizing s with
  | nil => rw [run_each_nil]
  | cons p parts ih =>
    have hfit := hp p List.mem_cons_self
    rw [run_each_cons, ih fun x hx => hp x (List.mem_cons_of_mem _ hx), byte_store_other _ _ _ (by omega)]

/-- Both places of a snapshot lie in the host window below 0x24000. -/
theorem snapshotAt_bounds (n : Nat) :
    Mem.hostWindow + 0x1000 ≤ snapshotAt n ∧ snapshotAt n + snapshotSize ≤ Mem.hostWindow + 0x24000 := by
  simp only [snapshotAt, snapshotSize]
  split <;> omega

theorem byte_of_mem {s t : State} (h : t.mem = s.mem) (b : Nat) : t.byte b = s.byte b := by rw [State.byte, h, State.byte]

theorem byte_audit_other (hold : Nat) (h : ∀ e ∈ s.led.collars, e.1 < 2048) {b : Nat}
    (hb : b < Mem.hostWindow + 0x1000 ∨ Mem.hostWindow + 0x24000 ≤ b) : (run (audit hold) s).byte b = s.byte b := by
  have hat : b < snapshotAt (s.rd Reg.LDG_SNAP_SEQ + 1) ∨ snapshotAt (s.rd Reg.LDG_SNAP_SEQ + 1) + snapshotSize ≤ b := by
    obtain ⟨hlo, hhi⟩ := snapshotAt_bounds (s.rd Reg.LDG_SNAP_SEQ + 1)
    exact hb.imp (fun hb => hb.trans_le hlo) fun hb => hhi.trans hb
  have hflags : ∀ (l : List Nat) (t : State), (run (each l fun i => raise Blk.ldg i) t).mem = t.mem := fun l t =>
    run_each_keeps (P := fun x => x.mem = t.mem) (fun _ _ hx => (run_raise_mem _ _ _).trans hx) l rfl
  rw [audit, run_look]
  simp only [run_acts_cons, run_acts_nil]
  rw [byte_of_mem (hflags _ _), byte_of_mem (run_setReg_mem _ _ _), byte_of_mem (run_count_mem _ _ _), byte_of_mem (run_setReg_mem _ _ _),
    byte_stores_other (snapshotParts_fit h _ _) hat, byte_clearMem_other _ _ hat]

theorem run_each_stores_led (parts : List (Nat × List Byte)) (a : Nat) (s : State) :
    (run (each parts fun p => store (a + p.1) p.2) s).led = s.led :=
  run_each_keeps (P := fun t => t.led = s.led) (fun _ _ ht => (run_store_led _ _ _).trans ht) parts rfl

theorem audit_led (hold : Nat) (s : State) : (run (audit hold) s).led = s.led := by
  have hflags : ∀ (l : List Nat) (t : State), (run (each l fun i => raise Blk.ldg i) t).led = t.led := fun l t =>
    run_each_keeps (P := fun x => x.led = t.led) (fun _ _ hx => (run_raise_led _ _ _).trans hx) l rfl
  rw [audit, run_look]
  simp only [run_acts_cons, run_acts_nil]
  rw [hflags, run_setReg_led, run_count_led, run_setReg_led, run_each_stores_led, run_clearMem_led]

/-- An audit without a mismatch sets no flag and makes no record. -/
theorem audit_of_balanced (hold : Nat) (h : s.led.balanced) :
    (run (audit hold) s).rd Reg.LDG_ERR_FLAGS = s.rd Reg.LDG_ERR_FLAGS ∧ (run (audit hold) s).bark = s.bark := by
  have hstores : ∀ (parts : List (Nat × List Byte)) (a : Nat) (t : State),
      (run (each parts fun p => store (a + p.1) p.2) t).regs = t.regs ∧ (run (each parts fun p => store (a + p.1) p.2) t).bark = t.bark := fun parts a t =>
    run_each_keeps (P := fun x => x.regs = t.regs ∧ x.bark = t.bark)
      (fun _ _ hx => ⟨(run_store_regs _ _ _).trans hx.1, (run_store_bark _ _ _).trans hx.2⟩) parts ⟨rfl, rfl⟩
  have hnone : ((List.range 6).filter fun i => bitsOf (mismatch s.led) i 1 == 1) = [] := by
    rw [mismatch_of_balanced h]
    decide
  rw [audit, run_look]
  simp only [hnone, run_acts_cons, run_acts_nil, run_each_nil]
  constructor
  · rw [rd_setReg_of_ne (by decide), rd_count_of_ne (by decide), rd_setReg_of_ne (by decide), State.rd, (hstores _ _ _).1, clearMem, run_eff,
      applyEff_memClear_regs, State.rd]
  · rw [run_setReg_bark, run_count_bark, run_setReg_bark, (hstores _ _ _).2, clearMem, run_eff, applyEff_memClear_bark]

end

/-- Settles O58: MISMATCH of ledgers that balance, the sums, an audit without mismatch, and bit 4. -/
theorem balancedLedgersPassAudits : Obligations.BalancedLedgersPassAudits :=
  ⟨fun _ h => mismatch_of_balanced h, fun _ k h => collarSum_balanced h k, fun _ hold h => audit_of_balanced hold h,
    fun _ h => mismatch_requests h⟩

end Sys2Proof.Machine
end

section
/-! SUPPORT. The records of the Bark ring and their acknowledgement (R378, R380, 13_resilience.md), and the reports (R354,
12_host_interface.md; R388, 13_resilience.md). -/

namespace Sys2Proof.Machine

/-! ### One record (R378) -/

section
variable (r : BarkRec) (s : State)

/-- The record as the ring keeps it. -/
def BarkRec.stamped : BarkRec := { r with tick := s.body.tick, seq := s.bark.made }

/-- Apart from its window for the interrupt, the ring after a record is what `barkMake` makes of it. -/
theorem bark_after_record : ∃ o p, (run (eff (.bark r)) s).bark
    = { barkMake s.bark (s.get Fld.BRK_CTL_RESERVE) (r.stamped s) with winOpen := o, winPend := p } := by
  rw [run_eff]
  simp only [applyEff, barkEff, State.get, State.rd, Fld.BRK_CTL_RESERVE, BarkRec.stamped]
  split
  · split <;> exact ⟨_, _, rfl⟩
  · exact ⟨_, _, rfl⟩

theorem record_head : (applyEff (.bark r) s).bark.head = s.bark.head := by
  obtain ⟨o, p, hb⟩ := bark_after_record r s
  rw [← run_eff, hb, barkMake]
  split <;> rfl

theorem regs_after_record : (run (eff (.bark r)) s).regs =
    if barkFits s.bark (s.get Fld.BRK_CTL_RESERVE) r.severity then
      if 2 ≤ r.severity ∧ barkReserved s.bark (s.get Fld.BRK_CTL_RESERVE) then flagPut s.regs Reg.BRK_ERR_FLAGS (Reg.BRK_ERR_EVT 1) 1 else s.regs
    else flagPut s.regs Reg.BRK_ERR_FLAGS (Reg.BRK_ERR_EVT 0) 0 := by
  rw [run_eff]
  rfl

end

section
variable {s : State} {r : BarkRec}

theorem barkFits_iff (b : Bark) (reserve severity : Nat) : barkFits b reserve severity = true ↔
    (if severity ≤ 1 then reserve + (b.stored - b.head) < 4096 else b.stored - b.head < 4096) := by
  simp only [barkFits]
  split <;> rw [decide_eq_true_iff] <;> omega

/-- A record that fits is stored under the number of its making. -/
theorem record_stored (h : barkFits s.bark (s.get Fld.BRK_CTL_RESERVE) r.severity = true) :
    (run (eff (.bark r)) s).bark.stored = s.bark.stored + 1 ∧ (run (eff (.bark r)) s).bark.made = s.bark.made + 1 ∧
    (run (eff (.bark r)) s).bark.ovf = s.bark.ovf ∧ tget (run (eff (.bark r)) s).bark.ring (s.bark.stored % 4096) = some (r.stamped s) := by
  obtain ⟨o, p, hb⟩ := bark_after_record r s
  have hfit : barkFits s.bark (s.get Fld.BRK_CTL_RESERVE) (r.stamped s).severity = true := h
  rw [hb, barkMake, if_pos hfit]
  exact ⟨rfl, rfl, rfl, tget_tput_same _ _ _⟩

/-- A record that does not fit goes to its class area and is counted as overflow. -/
theorem record_overflows (h : barkFits s.bark (s.get Fld.BRK_CTL_RESERVE) r.severity = false) :
    (run (eff (.bark r)) s).bark.stored = s.bark.stored ∧ (run (eff (.bark r)) s).bark.made = s.bark.made + 1 ∧
    (run (eff (.bark r)) s).bark.ovf = s.bark.ovf + 1 ∧ (run (eff (.bark r)) s).bark.ring = s.bark.ring ∧
    (classGet (run (eff (.bark r)) s).bark r.cls).ovf = (classGet s.bark r.cls).ovf + 1 := by
  obtain ⟨o, p, hb⟩ := bark_after_record r s
  have hfit : ¬ barkFits s.bark (s.get Fld.BRK_CTL_RESERVE) (r.stamped s).severity = true := Bool.eq_false_iff.1 h
  rw [hb, barkMake, if_neg hfit]
  refine ⟨rfl, rfl, rfl, rfl, ?_⟩
  simp [classGet, BarkRec.stamped]

/-- A flag of the Bark ring that is put reads 1. -/
theorem flagPut_flag (hs : s.canonical) {bit : Nat} (hb : bit < 64) (n : Nat) :
    bitsOf (regRead (flagPut s.regs Reg.BRK_ERR_FLAGS (Reg.BRK_ERR_EVT n) bit) Reg.BRK_ERR_FLAGS) bit 1 = 1 := by
  have hne : Reg.BRK_ERR_FLAGS ≠ Reg.BRK_ERR_EVT n := by simp only [Reg.BRK_ERR_FLAGS, Reg.BRK_ERR_EVT]; omega
  rw [flagPut, regRead_regPut_other _ _ hne, regRead_regPut_same _ _ hs.risingRegs (withBits_lt (regRead_lt _ _) (by omega)), bitsOf_withBits_same]
  rfl

end

/-! ### Acknowledgements (R380) -/

section
variable {s u : State} {src : Src} {c : Cmd}

theorem exec_barkAck (h : Runs s src 0x0702 c u) : exec (.barkAck src) s = .next (run (opBarkAck ⟨src, c.seq⟩ c) u) := runs_done h _

theorem arg_lt (c : Cmd) (i : Nat) : c.arg i 32 < 2 ^ 32 := by
  refine (leNat_lt _).trans_le (Nat.pow_le_pow_right (by decide) ?_)
  rw [List.length_take]
  omega

/-- The number of an acknowledgement is the first from the head on that is congruent to HEAD. -/
theorem run_opBarkAck {h : Nat} (hlo : u.bark.head ≤ h) (hhi : h < u.bark.head + 2 ^ 32) (hmod : h % 2 ^ 32 = c.arg 0 32) (ref : CmdRef) :
    run (opBarkAck ref c) u = run (if h ≤ u.bark.stored then acts [eff (.barkHead h), fin ref St.ok] else finInvalid ref 0) u := by
  have hnum : u.bark.head + (c.arg 0 32 + 2 ^ 32 - u.bark.head % 2 ^ 32) % 2 ^ 32 = h := by omega
  rw [opBarkAck, run_look]
  dsimp only
  rw [hnum]

/-- There is always such a number. -/
theorem exists_ackNumber (head : Nat) (c : Cmd) : ∃ h, head ≤ h ∧ h < head + 2 ^ 32 ∧ h % 2 ^ 32 = c.arg 0 32 := by
  have := arg_lt c 0
  exact ⟨head + (c.arg 0 32 + 2 ^ 32 - head % 2 ^ 32) % 2 ^ 32, by omega, by omega, by omega⟩

theorem barkHead_moves {h : Nat} (hlo : s.bark.head ≤ h) (hhi : h ≤ s.bark.stored) :
    (run (eff (.barkHead h)) s).bark = { s.bark with head := h } := by
  rw [run_eff]
  simp only [applyEff, if_pos (And.intro hlo hhi)]

/-- No completion moves the head. -/
theorem finish_head (ref : CmdRef) (st d : Nat) (res out : List Byte) (s : State) : (run (finish ref st d res out) s).bark.head = s.bark.head := by
  have hraise : ∀ blk bit (t : State), (run (raise blk bit) t).bark.head = t.bark.head := by
    intro blk bit t
    simp only [run, raise, raiseWith, applyAll_cons, applyAll_nil, record_head, applyEff_reg_bark]
  exact run_finish_keeps (P := fun t => t.bark.head = s.bark.head) (fun _ _ _ h => (hraise _ _ _).trans h) (fun _ _ _ h => h)
    (fun _ _ _ h => (congrArg Bark.head (run_store_bark _ _ _)).trans h) (fun _ _ _ h => (congrArg Bark.head (run_setCmds_bark _ _ _)).trans h)
    (fun _ _ h => (congrArg Bark.head (run_setMbox_bark _ _)).trans h) ref st d res out rfl

end

/-- Settles O57: a record that fits and one that does not, the two flags, and the acknowledgement by the number it names. -/
theorem barkRecordsAreKept : Obligations.BarkRecordsAreKept := by
  refine ⟨fun s r => barkFits_iff _ _ _, ?_, fun s r h => record_overflows h, ?_, ?_, ?_, ?_, ?_, ?_⟩
  · intro s r h
    obtain ⟨hstored, hmade, hovf, hring⟩ := record_stored h
    exact ⟨r.stamped s, rfl, rfl, rfl, rfl, rfl, hstored, hmade, hovf, hring⟩
  · intro s r hs h
    rw [State.rd, regs_after_record, h, if_neg Bool.false_ne_true]
    exact flagPut_flag hs (by decide) 0
  · intro s r hs h hsev hres
    have hreserved : barkReserved s.bark (s.get Fld.BRK_CTL_RESERVE) = true := by
      rw [barkReserved, decide_eq_true_iff]
      omega
    rw [State.rd, regs_after_record, if_pos h, if_pos ⟨hsev, hreserved⟩]
    exact flagPut_flag hs (by decide) 1
  · intro s r hmade
    cases h : barkFits s.bark (s.get Fld.BRK_CTL_RESERVE) r.severity with
    | true =>
      obtain ⟨hst, hm, ho, -⟩ := record_stored h
      omega
    | false =>
      obtain ⟨hst, hm, ho, -⟩ := record_overflows h
      omega
  · intro s src c u h hr hlo hst hmod hhi
    refine ⟨_, exec_barkAck hr, ?_⟩
    rw [run_opBarkAck hlo hhi hmod, if_pos hst, run_acts_cons, run_acts_cons, run_acts_nil, fin, bark_finish_ok, barkHead_moves hlo hst, run_finish_led,
      run_eff, applyEff_barkHead_led]
    exact ⟨rfl, rfl, rfl⟩
  · intro s src c u hr hnone
    obtain ⟨h, hlo, hhi, hmod⟩ := exists_ackNumber u.bark.head c
    rw [exec_barkAck hr, run_opBarkAck hlo hhi hmod, if_neg fun hst => hnone h hlo hst hmod]
  · intro s src c u t hr ht
    obtain ⟨h, hlo, hhi, hmod⟩ := exists_ackNumber u.bark.head c
    rw [exec_barkAck hr, run_opBarkAck hlo hhi hmod, Host.Outcome.next.injEq] at ht
    subst ht
    split
    · next hst =>
      rw [run_acts_cons, run_acts_cons, run_acts_nil, fin, bark_finish_ok, barkHead_moves hlo hst]
      exact hlo
    · rw [finInvalid, finish_head]

/-! ### Reports (R354, R388) -/

section
variable {s u : State} {src : Src} {c : Cmd}

theorem exec_health (h : Runs s src 0x0701 c u) : exec (.health src) s = .next (run (opHealth ⟨src, c.seq⟩ c) u) := runs_done h _
theorem exec_spareMap (h : Runs s src 0x0704 c u) : exec (.spareMap src) s = .next (run (opSpareMap ⟨src, c.seq⟩ c) u) := runs_done h _
theorem exec_ledgerAudit (h : Runs s src 0x0703 c u) (hold : Nat) :
    exec (.ledgerAudit src hold) s = .next (run (opLedgerAudit hold ⟨src, c.seq⟩ c) u) := runs_done h _
theorem exec_repairBurn (hT : Takes s .repairBurn) : exec .repairBurn s = .next (run actRepairBurn s) := done_works hT.works

end

/-- Settles O46: each command and row by its own branch; the audit by what it leaves. -/
theorem reportsAndAudits : Obligations.ReportsAndAudits := by
  refine ⟨?_, ?_, ?_, ?_, ?_, ?_, ?_, ?_, ?_, ?_⟩
  · intro s src c u h hout
    rw [exec_health h, opHealth, run_look, run_finOut hout, run_nop]
  · intro s src c u h hout
    rw [exec_spareMap h, opSpareMap, run_look, run_finOut hout, run_nop]
  · intro s src c u h hr hlo hhi hmod hst
    rw [exec_barkAck hr, run_opBarkAck hlo hhi hmod, if_pos hst, run_acts_cons, run_acts_cons, run_acts_nil]
  · intro s src c u h hr hlo hhi hmod hst
    rw [exec_barkAck hr, run_opBarkAck hlo hhi hmod, if_neg (Nat.not_le.2 hst)]
  · intro s h hlo hhi
    rw [barkHead_moves hlo hhi]
    exact ⟨rfl, rfl, by rw [run_eff, applyEff_barkHead_body]⟩
  · intro s src c u hold t h hout ht
    rw [exec_ledgerAudit h, opLedgerAudit, run_look, if_neg (Nat.not_lt.2 hout), run_acts_cons, ← ht, run_acts_cons, run_look, run_acts_nil]
  · intro s hold hT hms
    have hd : exec (.ledgerAuditTimer hold) s = .next (run (actLedgerAuditTimer hold) s) := done_works hT.works
    rw [hd, actLedgerAuditTimer, run_look, if_neg hms]
  · intro s hold h
    exact ⟨audit_led hold s, fun a ha => byte_audit_other hold h ha⟩
  · intro s r l hT hl hroom
    have hstored := stored_actRepairBurn s
    simp only [State.stored, Prod.mk.injEq] at hstored
    obtain ⟨hmem, -, hled⟩ := hstored
    refine ⟨_, exec_repairBurn hT, ?_, ?_, hmem, hled⟩ <;>
      · rw [actRepairBurn, run_look, hl]
        simp [hroom]
  · intro s r l hT hl hfull
    rw [exec_repairBurn hT, actRepairBurn, run_look, hl]
    simp [Nat.not_lt.2 hfull]

end Sys2Proof.Machine
end

section
/-! SUPPORT. The CXL memory-device commands of the primary mailbox (R327, 12_host_interface.md; R410, 14_security.md). -/

namespace Sys2Proof.Machine

section
variable {s : State} {op : Nat} {p : List Byte}

/-! ### A command that waits, and its answer -/

/-- A command whose turn it is runs on its payload. -/
theorem run_runCxl (h : CxlRuns s op p) (f : List Byte → Act) : run (runCxl op f) s = run (f p) s := by
  rw [runCxl, run_look, h.cmd]
  simp [h.mgmt, h.normal]

theorem done_runCxl (h : CxlRuns s op p) (f : List Byte → Act) : done (runCxl op f) s = .next (run (f p) s) := by
  rw [done_works h.works, run_runCxl h]

theorem run_sized {n : Nat} (h : p.length = n) (a : Act) (s : State) : run (sized n p a) s = run a s := by rw [sized, if_pos h]

theorem run_cxlEnd (code : Nat) (out : List Byte) (s : State) :
    run (cxlEnd code out) s = { s with body := { s.body with mbox := { s.body.mbox with cxlCmd := none, retCode := code, output := out } } } := by
  rw [cxlEnd, run_look, setMbox, run_onBody]

/-! ### The commands at their turn -/

theorem exec_getEventRecords (h : CxlRuns s 0x0100 p) : exec .getEventRecords s = .next (run (cxlGetEvents p) s) := done_runCxl h _
theorem exec_clearEventRecords (h : CxlRuns s 0x0101 p) : exec .clearEventRecords s = .next (run (cxlClearEvents p) s) := done_runCxl h _
theorem exec_getEventInterruptPolicy (h : CxlRuns s 0x0102 p) : exec .getEventInterruptPolicy s = .next (run (cxlGetPolicy p) s) := done_runCxl h _
theorem exec_setEventInterruptPolicy (h : CxlRuns s 0x0103 p) : exec .setEventInterruptPolicy s = .next (run (cxlSetPolicy p) s) := done_runCxl h _
theorem exec_getFwInfo (h : CxlRuns s 0x0200 p) : exec .getFwInfo s = .next (run (cxlFwInfo p) s) := done_runCxl h _
theorem exec_transferFw (h : CxlRuns s 0x0201 p) : exec .transferFw s = .next (run (cxlTransferFw p) s) := done_runCxl h _
theorem exec_activateFw (h : CxlRuns s 0x0202 p) (verifies : Bool) : exec (.activateFw verifies) s = .next (run (cxlActivateFw verifies p) s) :=
  done_runCxl h _
theorem exec_getTimestamp (h : CxlRuns s 0x0300 p) : exec .getTimestamp s = .next (run (cxlGetTimestamp p) s) := done_runCxl h _
theorem exec_setTimestamp (h : CxlRuns s 0x0301 p) : exec .setTimestamp s = .next (run (cxlSetTimestamp p) s) := done_runCxl h _
theorem exec_getSupportedLogs (h : CxlRuns s 0x0400 p) : exec .getSupportedLogs s = .next (run (cxlSupportedLogs p) s) := done_runCxl h _
theorem exec_getLog (h : CxlRuns s 0x0401 p) : exec .getLog s = .next (run (cxlGetLog p) s) := done_runCxl h _
theorem exec_identifyMemoryDevice (h : CxlRuns s 0x4000 p) : exec .identifyMemoryDevice s = .next (run (cxlIdentify p) s) := done_runCxl h _
theorem exec_getHealthInfo (h : CxlRuns s 0x4200 p) : exec .getHealthInfo s = .next (run (cxlHealth p) s) := done_runCxl h _

/-! ### Parts of the answers -/

theorem length_fwRevision (s : State) (slot : Nat) : (fwRevision s slot).length = 16 := by
  rw [fwRevision, List.length_take, List.length_append, List.length_replicate]
  omega

/-- The CXL command in the mailbox while an activation shows and records its slot. -/
theorem showSlot_mbox (slot : Nat) (ok : Bool) (s : State) : (run (showSlot slot ok) s).body.mbox = s.body.mbox := by
  rw [showSlot, run_look]
  dsimp only
  split <;> simp

/-- The outcome of an activation that Activate FW has asked for is the answer of that command. -/
theorem run_fwAnswer_cxl {st d : Nat} (h : s.body.mbox.cxlCmd = some (0x0202, p)) : run (fwAnswer none st d) s = run (cxlEnd (cxlCode st) []) s := by
  rw [fwAnswer, run_look, h, run_cxlEnd]
  rfl

end

/-- Settles O47: each command at its turn, past the checks that the hypotheses pass. -/
theorem cxlCommands : Obligations.CxlCommands := by
  refine ⟨?_, ?_, ?_, ?_, ?_, ?_, ?_, ?_, ?_, ?_, ?_, ?_, ?_, ?_, ?_, ?_, ?_, ?_⟩
  · intro s code out
    rw [run_cxlEnd]
    exact ⟨_, rfl, rfl, rfl, rfl, rfl, rfl, rfl⟩
  · intro s p l h hlen hl hmax
    rw [exec_getEventRecords h, cxlGetEvents, run_sized hlen, run_look, hl]
    simp [List.take_of_length_le hmax]
  · intro s p l h hl hlen hall
    rw [exec_clearEventRecords h, cxlClearEvents, run_look]
    simp [hl, Nat.not_lt.2 hlen, hall]
  · intro s p l h hl hlen hall hhandles
    rw [exec_clearEventRecords h, cxlClearEvents, run_look]
    simp [hl, Nat.not_lt.2 hlen, hall, hhandles]
  · rintro s p h rfl
    rw [exec_getEventInterruptPolicy h, cxlGetPolicy, run_sized List.length_nil, run_look]
  · intro s p h hlen
    refine ⟨_, exec_setEventInterruptPolicy h, ?_⟩
    rw [cxlSetPolicy, run_sized hlen, run_acts_cons, run_acts_cons, run_acts_nil, cxlOk, run_cxlEnd, run_onBody]
    exact ⟨rfl, rfl, rfl, rfl⟩
  · rintro s p h rfl hraise
    rw [exec_getFwInfo h, cxlFwInfo, run_sized List.length_nil, run_look, hraise]
    simp
  · intro s p h hlen hact hslot hok
    have hslots : ¬ (pnum p 1 1 ≠ 1 ∧ pnum p 1 1 ≠ 2) := by omega
    rw [exec_transferFw h, cxlTransferFw, run_look]
    dsimp only
    rw [if_neg (Nat.not_lt.2 hlen), if_neg (by omega), if_neg (by omega), if_neg hslots, hok]
    simp
  · intro s p h hlen hact hslot
    have hslots : ¬ (pnum p 1 1 ≠ 1 ∧ pnum p 1 1 ≠ 2) := by omega
    rw [exec_activateFw h, cxlActivateFw, run_sized hlen, if_neg (Nat.not_lt.2 hact), if_neg hslots]
  · intro s p slot h hf hb hi
    have hcmd : (run (acts [showSlot slot true, writeRecord slot, onSec fun x => { x with raiseArb := true }]) s).body.mbox.cxlCmd = some (0x0202, p) := by
      simp only [run_acts_cons, run_acts_nil, writeRecord, onSec, run_onBody, showSlot_mbox, h.cmd]
    rw [run_activate_next none hf hb hi h.normal, run_fwAnswer_cxl hcmd, show cxlCode St.ok = cxlSuccess from rfl]
    simp only [run_acts_cons, run_acts_nil, cxlOk]
  · intro s p slot h hf hb hi
    exact run_activate_live none hf hb hi h.normal
  · rintro s p h rfl
    rw [exec_getTimestamp h, cxlGetTimestamp, run_sized List.length_nil, run_look]
  · intro s p h hlen
    refine ⟨_, exec_setTimestamp h, ?_⟩
    rw [cxlSetTimestamp, run_sized hlen, run_acts_cons, run_acts_cons, run_acts_nil, cxlOk, run_cxlEnd, run_onBody]
    exact ⟨rfl, rfl, rfl, rfl⟩
  · rintro s p h rfl
    rw [exec_getSupportedLogs h, cxlSupportedLogs, run_sized List.length_nil]
  · intro s p h hlen huuid hfit
    rw [exec_getLog h, cxlGetLog, run_sized hlen]
    simp [huuid, Nat.not_lt.2 hfit]
  · rintro s p h rfl
    refine ⟨_, exec_identifyMemoryDevice h, ?_⟩
    rw [cxlIdentify, run_sized List.length_nil, run_look, cxlOk, run_cxlEnd]
    refine ⟨rfl, ?_, rfl⟩
    simp only [List.append_assoc]
    rw [List.drop_left' (length_fwRevision _ _)]
    simp [List.take_append, length_leBytes, List.take_of_length_le]
  · rintro s p h rfl
    refine ⟨_, exec_getHealthInfo h, ?_⟩
    rw [cxlHealth, run_sized List.length_nil, run_look, run_acts_cons, run_acts_cons, run_acts_nil, cxlOk, run_cxlEnd, drawFree, run_onBody]
    refine ⟨rfl, ?_, rfl⟩
    simp only [List.append_assoc]
    rw [List.drop_left' (length_leBytes _ _)]
    simp [List.take_append, length_leBytes, List.take_of_length_le]
  · intro s op p h hop
    have hd : exec .cxlUnsupportedOpcode s = .next (run actCxlUnsupported s) := done_works h.works
    have hlisted : cxlOpcodes.contains op = false := by simpa using hop
    rw [hd, actCxlUnsupported, run_look, h.cmd]
    simp only [hlisted, Bool.false_eq_true, if_false]
    rw [run_runCxl h]

end Sys2Proof.Machine
end

section
/-! SUPPORT. The host's accesses to its window (R325, R326, R329, R334, R337, 12_host_interface.md), and what reset leaves (R337,
12_host_interface.md; R373, R378, R389, 13_resilience.md). -/

namespace Sys2Proof.Machine

/-! ### The bytes of a host write -/

section
variable {s : State}

theorem byte_putByte_same (a : Nat) (b : Byte) (hs : s.canonical) : (applyEff (.mem a b) s).byte a = b := by
  rw [State.byte, applyEff_mem_mem]
  exact cget_cput_same a b hs.risingMem

theorem byte_putByte_other {a x : Nat} (b : Byte) (h : x ≠ a) : (applyEff (.mem a b) s).byte x = s.byte x := by
  rw [State.byte, applyEff_mem_mem, byte_memPut_other _ _ h, State.byte]

/-- The first byte of a host write: taken, or dropped in the device's regions. -/
def hostByte (o : Nat) (b : Byte) (s : State) : State := if deviceWritten o then s else applyEff (.mem (Mem.hostWindow + o) b) s

theorem applyAll_hostBytes_cons (o : Nat) (b : Byte) (bs : List Byte) (s : State) :
    applyAll (hostBytes o (b :: bs)) s = applyAll (hostBytes (o + 1) bs) (hostByte o b s) := by
  rw [hostBytes, applyAll_append, hostByte]
  split <;> rfl

theorem hostByte_canonical (o : Nat) (b : Byte) (hs : s.canonical) : (hostByte o b s).canonical := by
  rw [hostByte]
  split
  · exact hs
  · exact applyEff_canonical _ _ hs

theorem byte_hostByte_other {o x : Nat} (b : Byte) (h : x ≠ Mem.hostWindow + o) : (hostByte o b s).byte x = s.byte x := by
  rw [hostByte]
  split
  · rfl
  · exact byte_putByte_other b h

theorem byte_hostByte_device {o : Nat} (b : Byte) (x : Nat) (h : deviceWritten o = true) : (hostByte o b s).byte x = s.byte x := by
  rw [hostByte, if_pos h]

theorem byte_hostByte_same {o : Nat} (b : Byte) (hs : s.canonical) (h : deviceWritten o = false) : (hostByte o b s).byte (Mem.hostWindow + o) = b := by
  rw [hostByte, h, if_neg Bool.false_ne_true]
  exact byte_putByte_same _ b hs

/-- Every other byte is as it was. -/
theorem byte_hostBytes_other {d : List Byte} {o x : Nat} (h : x < Mem.hostWindow + o ∨ Mem.hostWindow + o + d.length ≤ x) :
    (applyAll (hostBytes o d) s).byte x = s.byte x := by
  induction d generalizing o s with
  | nil => rfl
  | cons b bs ih =>
    rw [List.length_cons] at h
    rw [applyAll_hostBytes_cons, ih (by omega), byte_hostByte_other b (by omega)]

/-- A byte of the device's regions is as it was. -/
theorem byte_hostBytes_device {d : List Byte} {o i : Nat} (hi : i < d.length) (h : deviceWritten (o + i) = true) :
    (applyAll (hostBytes o d) s).byte (Mem.hostWindow + o + i) = s.byte (Mem.hostWindow + o + i) := by
  induction d generalizing o i s with
  | nil => cases hi
  | cons b bs ih =>
    rw [applyAll_hostBytes_cons]
    cases i with
    | zero =>
      rw [byte_hostBytes_other (by omega)]
      exact byte_hostByte_device b _ h
    | succ i =>
      have hat : Mem.hostWindow + o + (i + 1) = Mem.hostWindow + (o + 1) + i := by omega
      rw [hat, ih (Nat.lt_of_succ_lt_succ hi) (by rwa [Nat.add_right_comm]), byte_hostByte_other b (by omega)]

/-- A byte where the host may write is what was written. -/
theorem byte_hostBytes_same {d : List Byte} {o i : Nat} (hs : s.canonical) (hi : i < d.length) (h : deviceWritten (o + i) = false) :
    (applyAll (hostBytes o d) s).byte (Mem.hostWindow + o + i) = d.getD i 0 := by
  induction d generalizing o i s with
  | nil => cases hi
  | cons b bs ih =>
    rw [applyAll_hostBytes_cons]
    cases i with
    | zero =>
      rw [byte_hostBytes_other (by omega)]
      exact byte_hostByte_same b hs h
    | succ i =>
      have hat : Mem.hostWindow + o + (i + 1) = Mem.hostWindow + (o + 1) + i := by omega
      rw [hat, ih (hostByte_canonical o b hs) (Nat.lt_of_succ_lt_succ hi) (by rwa [Nat.add_right_comm])]
      rfl

theorem hostBytes_led (d : List Byte) (o : Nat) (s : State) : (applyAll (hostBytes o d) s).led = s.led := by
  induction d generalizing o s with
  | nil => rfl
  | cons b bs ih =>
    rw [applyAll_hostBytes_cons, ih, hostByte]
    split
    · rfl
    · rw [applyEff_mem_led]

/-! ### The rows -/

theorem exec_hdmDecoderCommit {base size ways : Nat} (hT : Takes s (.hdmDecoderCommit base size ways)) :
    exec (.hdmDecoderCommit base size ways) s = .next (run (actHdmCommit base size ways) s) := done_works hT.works

theorem exec_hostWindowWrite {off : Nat} {d : List Byte} (hw : s.works = true) (hfit : off + d.length ≤ 2 ^ 36) :
    exec (.hostWindowWrite off d) s = .next (run (actWindowWrite off d) s) :=
  (if_neg (Nat.not_lt.2 hfit)).trans (done_works hw)

theorem exec_hostWindowRead {off n : Nat} {ue : Bool} (hw : s.works = true) (hfit : off + n ≤ 2 ^ 36) :
    exec (.hostWindowRead off n ue) s = .next (run (actWindowRead off n ue) s) :=
  (if_neg (Nat.not_lt.2 hfit)).trans (done_works hw)

/-- A write to a served window puts its bytes; a report of discarded bytes touches neither memory nor ledgers. -/
theorem run_actWindowWrite (off : Nat) (d : List Byte) (hsv : s.windowServed = true) :
    (run (actWindowWrite off d) s).mem = (applyAll (hostBytes off d) s).mem ∧ (run (actWindowWrite off d) s).led = (applyAll (hostBytes off d) s).led := by
  rw [actWindowWrite, run_look]
  simp only [hsv, Bool.not_true, Bool.false_eq_true, if_false, run_acts_cons, run_acts_nil, run_when]
  split
  · rw [run_raise_mem, run_raise_led, run_count_mem, run_count_led]
    exact ⟨rfl, rfl⟩
  · exact ⟨rfl, rfl⟩

end

/-- Settles O49: the decoder, the bytes of a write by `byte_hostBytes_same`, `_device` and `_other`, reads, and accesses that are not served. -/
theorem hostWindowAccesses : Obligations.HostWindowAccesses := by
  refine ⟨?_, ?_, ?_, ?_, ?_, ?_, ?_, ?_⟩
  · intro s base hT hbase
    refine ⟨_, exec_hdmDecoderCommit hT, ?_⟩
    rw [actHdmCommit, if_pos ⟨rfl, hbase, rfl⟩, run_onBody]
    exact ⟨rfl, rfl, rfl, rfl⟩
  · intro s base size ways hT hbad
    refine ⟨_, exec_hdmDecoderCommit hT, ?_⟩
    rw [actHdmCommit, if_neg (by omega), run_raise_mem, run_raise_led]
    exact ⟨rfl, rfl, rfl⟩
  · intro s off d hs hT hsv hfit
    obtain ⟨hmem, hled⟩ := run_actWindowWrite off d hsv
    refine ⟨_, exec_hostWindowWrite hT.works hfit, ?_, ?_, ?_, hled.trans (hostBytes_led d off s)⟩
    · exact fun i hi hdev => (byte_of_mem hmem _).trans (byte_hostBytes_same hs hi hdev)
    · exact fun i hi hdev => (byte_of_mem hmem _).trans (byte_hostBytes_device hi hdev)
    · exact fun a ha => (byte_of_mem hmem _).trans (byte_hostBytes_other ha)
  · intro s off n hT hsv hfit
    rw [exec_hostWindowRead hT.works hfit, actWindowRead, run_look]
    simp [hsv]
  · intro s off n hT hsv hfit
    rw [exec_hostWindowRead hT.works hfit, actWindowRead, run_look]
    simp [hsv]
  · intro s off d hT hsv hfit
    rw [exec_hostWindowWrite hT.works hfit, actWindowWrite, run_look]
    simp [hsv]
  · exact fun s off d hout => if_pos hout
  · exact fun s off n ue hout => if_pos hout

/-! ### Reset -/

/-- With no register listed, every one reads its reset value. -/
theorem rd_reset (a : Nat) : State.reset.rd a = (regReset a).toNat := rfl

/-- A field that reset leaves at a value. -/
theorem get_reset {f : Fld} {v : Nat} (h : bitsOf (regReset f.addr).toNat f.lo f.w = v) : State.reset.get f = v := h

/-- Settles O53: the reset value of each field, and the empty lists. -/
theorem resetLeaves : Obligations.ResetLeaves := by
  refine ⟨get_reset ?_, get_reset ?_, get_reset ?_, get_reset ?_, get_reset ?_, get_reset ?_, get_reset ?_, get_reset ?_, get_reset ?_, get_reset ?_,
    get_reset ?_, get_reset ?_, get_reset ?_, get_reset ?_, get_reset ?_, get_reset ?_, get_reset ?_, get_reset ?_, get_reset ?_, rd_reset, rfl,
    fun _ => rfl, empty_balanced, ⟨rfl, Nat.le_refl _, Nat.zero_le _⟩, canon_nil, canon_nil, canon_nil⟩ <;> decide

end Sys2Proof.Machine
end

section
/-! SUPPORT. Islands that stop, wake, are reset, throttled and restarted, and cores that are replaced (R367, R369 to R372, R381, R383, R384,
13_resilience.md). -/

namespace Sys2Proof.Machine

/-! ### The state of an island -/

section
variable {s : State}

theorem isl_setIsl_same {n v : Nat} (hs : s.canonical) (hv : v < 8) : (run (setIsl n v) s).isl n = v :=
  (get_setFld_same hs.risingRegs (show 0 + 3 ≤ 64 by decide)).trans (Nat.mod_eq_of_lt hv)

theorem isl_setFld_other {f : Fld} {v m : Nat} (h : Reg.ISL_STATE m ≠ f.addr) : (run (setFld f v) s).isl m = s.isl m := get_setFld_otherReg h

theorem isl_setIsl_other {n v m : Nat} (h : m ≠ n) : (run (setIsl n v) s).isl m = s.isl m :=
  isl_setFld_other (by simp only [Fld.ISL_STATE_STATE, Reg.ISL_STATE]; omega)

theorem isl_count_other {a k m : Nat} (h : Reg.ISL_STATE m ≠ a) : (run (count a k) s).isl m = s.isl m := get_count_other h

theorem isl_of_regs {t : State} (h : t.regs = s.regs) (m : Nat) : t.isl m = s.isl m := by
  rw [State.isl, State.get, State.rd, h, State.isl, State.get, State.rd]

/-- The flags of the ISL block and their counters lie apart from the islands' states. -/
theorem isl_raiseWith_isl {f m : Nat} (c : Ctx) (hm : m < 56) : (run (raiseWith Blk.isl f c) s).isl m = s.isl m := by
  refine get_raiseWith_of_notMem c s ?_
  simp only [flagRegs, flagAddrs, Blk.isl, Fld.ISL_STATE_STATE, Reg.ISL_STATE, Reg.ISL_ERR_FLAGS, Reg.ISL_ERR_EVT, Reg.BRK_ERR_FLAGS,
    Reg.BRK_ERR_EVT, List.mem_cons, List.not_mem_nil, or_false, not_or]
  omega

theorem setIsl_frame (n v : Nat) (s : State) :
    (run (setIsl n v) s).body = s.body ∧ (run (setIsl n v) s).mem = s.mem ∧ (run (setIsl n v) s).led = s.led := by
  rw [setIsl, run_setFld]
  exact ⟨rfl, rfl, rfl⟩

/-! ### An island reset (R369) -/

/-- The flag of a reset's cause. -/
def raiseCause (n : Nat) : Option Nat → Act
  | some f => raiseWith Blk.isl f { island := n }
  | none => nop

theorem run_islandReset (n st credits : Nat) (flag : Option Nat) (s : State) : run (islandReset n st credits flag) s =
    run (raiseWith Blk.isl 1 { island := n }) (run (raiseCause n flag)
      (run (count Reg.ISL_RESETS 1) (applyEff (.credFlush none credits) (run (setIsl n st) s)))) := by
  cases flag <;> simp [islandReset, raiseCause]

theorem isl_raiseCause {n m : Nat} (flag : Option Nat) (hm : m < 56) : (run (raiseCause n flag) s).isl m = s.isl m := by
  cases flag with
  | none => rw [raiseCause, run_nop]
  | some f => exact isl_raiseWith_isl _ hm

theorem raiseCause_frame (n : Nat) (flag : Option Nat) (s : State) :
    (run (raiseCause n flag) s).led = s.led ∧ (run (raiseCause n flag) s).mem = s.mem := by
  cases flag with
  | none =>
    rw [raiseCause, run_nop]
    exact ⟨rfl, rfl⟩
  | some f => exact ⟨run_raiseWith_led _ _ _ _, run_raiseWith_mem _ _ _ _⟩

theorem isl_islandReset {n st : Nat} (hs : s.canonical) (hn : n < 56) (hst : st < 8) (credits : Nat) (flag : Option Nat) :
    (run (islandReset n st credits flag) s).isl n = st := by
  have hresets : Reg.ISL_STATE n ≠ Reg.ISL_RESETS := by simp only [Reg.ISL_STATE, Reg.ISL_RESETS]; omega
  rw [run_islandReset, isl_raiseWith_isl _ hn, isl_raiseCause _ hn, isl_count_other hresets, isl_of_regs (applyEff_credFlush_regs _ _ _),
    isl_setIsl_same hs hst]

theorem islandReset_frame (n st credits : Nat) (flag : Option Nat) (s : State) :
    (run (islandReset n st credits flag) s).led = (applyEff (.credFlush none credits) s).led ∧ (run (islandReset n st credits flag) s).mem = s.mem := by
  rw [run_islandReset, run_raiseWith_led, run_raiseWith_mem, (raiseCause_frame _ _ _).1, (raiseCause_frame _ _ _).2, run_count_led, run_count_mem,
    applyEff_credFlush_mem]
  exact ⟨rfl, rfl⟩

/-- The credits in flight that are given are flushed. -/
theorem credFlush_chip {credits : Nat} (h : credits ≤ s.led.chip.inflight) : (applyEff (.credFlush none credits) s).led.chip.flushed
      = s.led.chip.flushed + credits ∧ (applyEff (.credFlush none credits) s).led.chip.inflight + credits = s.led.chip.inflight := by
  simp only [applyEff, credGet, credPut, Nat.min_eq_left h]
  exact ⟨trivial, Nat.sub_add_cancel h⟩

/-! ### Throttling (R372) -/

/-- A frequency within eight times its only running neighbour's, either way, stands. -/
theorem clampFreq_within {n f m : Nat} (hn : neighbours s n = [m]) (hhi : f ≤ 8 * s.get (Fld.ISL_STATE_FREQ_MHZ m))
    (hlo : s.get (Fld.ISL_STATE_FREQ_MHZ m) ≤ 8 * f) : clampFreq s n f = f := by
  simp only [clampFreq, hn, List.foldl_cons, List.foldl_nil]
  omega

/-! ### Cores (R383) -/

/-- A control core is mapped out, and has no turn in an activation any more. -/
def coreMappedOut (core : Nat) (p : Plat) : Plat :=
  { p with coresOut := p.coresOut ++ [core], fwAct := p.fwAct.map (fun a => { a with left := a.left.filter (· != core) }) }

/-! ### The rows -/

variable {n core freq temp credits : Nat} {cause : ResetCause} {th : ThrottleCause}

theorem exec_islIdleStop (hT : Takes s (.islIdleStop n)) : exec (.islIdleStop n) s = .next (run (actIslIdleStop n) s) := hT.done _
theorem exec_whistle (hT : Takes s (.whistle n)) : exec (.whistle n) s = .next (run (actWhistle n) s) := hT.done _
theorem exec_islReset (hT : Takes s (.islReset n cause credits)) : exec (.islReset n cause credits) s = .next (run (actIslReset n cause credits) s) :=
  hT.done _
theorem exec_limitBreach (hT : Takes s (.limitBreach n credits)) : exec (.limitBreach n credits) s = .next (run (actLimitBreach n credits) s) :=
  hT.done _
theorem exec_islResetEnd (hT : Takes s (.islResetEnd n)) : exec (.islResetEnd n) s = .next (run (actIslResetEnd n) s) := hT.done _
theorem exec_islandRestart (hT : Takes s (.islandRestart n)) : exec (.islandRestart n) s = .next (run (actIslandRestart n) s) := hT.done _
theorem exec_islThrottle (hT : Takes s (.islThrottle n freq temp th)) :
    exec (.islThrottle n freq temp th) s = .next (run (actIslThrottle n freq temp th) s) := hT.done _
theorem exec_coreFault (hT : Takes s (.coreFault core)) : exec (.coreFault core) s = .next (run (actCoreFault core) s) := hT.done _
theorem exec_mgmtTakeover (hT : Takes s .mgmtTakeover) : exec .mgmtTakeover s = .next (run actMgmtTakeover s) := done_works hT.works
theorem exec_barkIrqWindowEnd (hT : Takes s .barkIrqWindowEnd) : exec .barkIrqWindowEnd s = .next (run actBarkIrqWindowEnd s) := done_works hT.works

/-- An island that may stop and is idle takes the next step of its stop. -/
theorem run_actIslIdleStop (hm : mayStopIsland n = true) (hr : rtIsland s n = false) (hi : s.get Fld.ISL_CTL_IDLE_US ≠ 0) :
    run (actIslIdleStop n) s = run (if s.isl n = IslSt.run then setIsl n IslSt.stopping
      else if s.isl n = IslSt.stopping then setIsl n IslSt.stopped else nop) s := by
  rw [actIslIdleStop, run_look, hm, hr, beq_eq_false_iff_ne.2 hi]
  rfl

theorem run_actIslIdleStop_never (h : mayStopIsland n = false ∨ rtIsland s n = true) : run (actIslIdleStop n) s = s := by
  rw [actIslIdleStop, run_look]
  rcases h with h | h <;> simp [h]

end

/-- Settles O50: each row by its own branch, and the island's field read back after the writes. -/
theorem islandRowsTakeEffect : Obligations.IslandRowsTakeEffect := by
  refine ⟨?_, ?_, ?_, ?_, ?_, ?_, ?_, ?_, ?_, ?_, ?_, ?_, ?_, ?_, ?_, ?_, ?_⟩
  · intro s n hs hT hm hr hi hrun
    refine ⟨_, exec_islIdleStop hT, ?_⟩
    rw [run_actIslIdleStop hm hr hi, if_pos hrun]
    exact ⟨isl_setIsl_same hs (by decide), fun m _ hne => isl_setIsl_other hne, setIsl_frame _ _ _⟩
  · intro s n hs hT hm hr hi hst
    refine ⟨_, exec_islIdleStop hT, ?_⟩
    rw [run_actIslIdleStop hm hr hi, hst, if_neg (by decide), if_pos rfl]
    exact ⟨isl_setIsl_same hs (by decide), fun m _ hne => isl_setIsl_other hne, setIsl_frame _ _ _⟩
  · intro s n hT h
    rw [exec_islIdleStop hT, run_actIslIdleStop_never h]
  · intro s n hs hT hst
    have hn : n < 56 := of_decide_eq_true hT.form
    have hw : Reg.ISL_STATE n ≠ Reg.ISL_WHISTLES := by simp only [Reg.ISL_STATE, Reg.ISL_WHISTLES]; omega
    have hcounted : (run (count Reg.ISL_WHISTLES 1) (run (setIsl n IslSt.run) s)).rd Reg.ISL_WHISTLES = wrapAdd 64 (s.rd Reg.ISL_WHISTLES) 1 := by
      have hlt : wrapAdd 64 ((run (setIsl n IslSt.run) s).rd Reg.ISL_WHISTLES) 1 < 2 ^ 64 := Nat.mod_lt _ (Nat.two_pow_pos 64)
      rw [run_count, State.rd, regRead_regPut_same _ _ (run_canonical _ hs).risingRegs hlt, setIsl, rd_setFld_other hw.symm]
    refine ⟨_, exec_whistle hT, ?_⟩
    rw [actWhistle, run_look, if_pos (.inl hst), run_acts_cons, run_acts_cons, run_acts_nil, run_count_body, run_count_mem, run_count_led]
    exact ⟨(isl_count_other hw).trans (isl_setIsl_same hs (by decide)), hcounted, setIsl_frame n IslSt.run s⟩
  · intro s n hs hT hst
    have hn : n < 56 := of_decide_eq_true hT.form
    have hw : Reg.ISL_WHISTLES ≠ Reg.ISL_STATE n := by simp only [Reg.ISL_STATE, Reg.ISL_WHISTLES]; omega
    refine ⟨_, exec_whistle hT, ?_⟩
    rw [actWhistle, run_look, hst, if_neg (by decide), if_pos rfl]
    exact ⟨isl_setIsl_same hs (by decide), rd_setFld_other hw, setIsl_frame _ _ _⟩
  · intro s n hT hst
    rw [exec_whistle hT, actWhistle, run_look, hst, if_neg (by decide), if_neg (by decide), run_nop]
  · intro s n cause credits hT
    rw [exec_islReset hT, actIslReset, run_acts_cons, run_acts_cons, run_acts_nil]
  · intro s n credits hT
    rw [exec_limitBreach hT, actLimitBreach, run_acts_cons, run_acts_cons, run_acts_nil]
  · intro s n st credits flag hs hn hst hcr _
    obtain ⟨hled, hmem⟩ := islandReset_frame n st credits flag s
    obtain ⟨hflushed, hinflight⟩ := credFlush_chip hcr
    rw [hled]
    exact ⟨isl_islandReset hs hn hst credits flag, hflushed, hinflight, hmem⟩
  · intro s n hs hT hst hheld
    refine ⟨_, exec_islResetEnd hT, ?_⟩
    rw [actIslResetEnd, run_look, if_pos ⟨hst, by simpa using hheld⟩]
    exact ⟨isl_setIsl_same hs (by decide), setIsl_frame _ _ _⟩
  · intro s n hs hT hst
    refine ⟨_, exec_islandRestart hT, ?_⟩
    rw [actIslandRestart, run_look, if_pos hst]
    exact ⟨isl_setIsl_same hs (by decide), setIsl_frame _ _ _⟩
  · intro s n freq temp hT
    rw [exec_islThrottle hT, actIslThrottle, run_look]
    simp only [run_acts_cons, run_acts_nil]
  · intro s n freq temp b mw hT
    rw [exec_islThrottle hT, actIslThrottle, run_look]
    simp only [run_acts_cons, run_acts_nil]
  · intro s n f m hn hhi hlo
    exact clampFreq_within hn hhi hlo
  · intro s core hT hcore hout hfw
    refine ⟨run (onPlat (coreMappedOut core)) s, ?_, ?_⟩
    · have hin : s.body.plat.coresOut.contains core = false := by simpa using hout
      rw [exec_coreFault hT, actCoreFault, run_look, if_pos hcore, hin, if_neg Bool.false_ne_true, run_acts_cons]
      unfold coreMappedOut
      with_reducible rfl
    · rw [onPlat, run_onBody]
      exact ⟨rfl, rfl, rfl, rfl⟩
  · intro s hT hst
    rw [exec_mgmtTakeover hT, actMgmtTakeover, run_look, if_pos hst]
  · intro s hT hopen hpend
    refine ⟨_, exec_barkIrqWindowEnd hT, ?_⟩
    rw [actBarkIrqWindowEnd, run_look, hopen, hpend]
    exact ⟨rfl, rfl, rfl, rfl, rfl, rfl⟩

end Sys2Proof.Machine
end

section
/-! SUPPORT. Resets, the link, power failures, temperatures and clocks (R326, R337, R338, 12_host_interface.md; R373, 13_resilience.md; R426 to
R434, 15_package_power_test.md). -/

namespace Sys2Proof.Machine

section
variable {s : State}

/-! ### Flag fields and whether the device works -/

theorem is_of_get {f : Fld} (h : s.get f = 1) : s.is f = true := by rw [State.is, h]; rfl

theorem is_false_of_get {f : Fld} (h : s.get f = 0) : s.is f = false := by rw [State.is, h]; rfl

theorem stopped_of_powerFail (h : s.get Fld.PWR_STATUS_PF_STATE = 1) : s.works = false := by rw [State.works, h]; rfl

theorem stopped_of_trip (h : s.is Fld.PWR_STATUS_TRIP = true) : s.works = false := by simp [State.works, h]

theorem stopped_of_pinsTaken (h : s.body.plat.pinsTaken = true) : s.works = false := by simp [State.works, h]

/-- A row of the pins that names what the device has is its action, whether or not the device works. -/
theorem doneAlways_eq (a : Act) (s : State) : doneAlways a s = .next (run a s) := rfl

theorem doneAlways_when {b : Bool} (hb : b = true) (a : Act) (s : State) : doneAlways (when b a) s = .next (run a s) := by
  rw [doneAlways_eq, run_when, if_pos hb]

/-! ### The link (R326, R337) -/

/-- The fields of a link that has trained. -/
def linkTrained (w r m trainings : Nat) : Act :=
  acts [setFld Fld.CXL_LINK_STATUS_WIDTH w, setFld Fld.CXL_LINK_STATUS_RATE r, setFld Fld.CXL_LINK_STATUS_MODE m,
    setFld Fld.CXL_LINK_STATUS_TRAININGS trainings, setFld Fld.GLB_STATUS_HOST_MODE m]

theorem get_linkTrained {w r m : Nat} (hs : s.canonical) (hw : w < 32) (hr : r < 8) (hm : m < 4) (n : Nat) :
    (run (linkTrained w r m n) s).get Fld.CXL_LINK_STATUS_WIDTH = w ∧ (run (linkTrained w r m n) s).get Fld.CXL_LINK_STATUS_RATE = r ∧
    (run (linkTrained w r m n) s).get Fld.CXL_LINK_STATUS_MODE = m ∧ (run (linkTrained w r m n) s).get Fld.GLB_STATUS_HOST_MODE = m := by
  have h1 := run_canonical (setFld Fld.CXL_LINK_STATUS_WIDTH w) hs
  have h2 := run_canonical (setFld Fld.CXL_LINK_STATUS_RATE r) h1
  have h3 := run_canonical (setFld Fld.CXL_LINK_STATUS_MODE m) h2
  have h4 := run_canonical (setFld Fld.CXL_LINK_STATUS_TRAININGS n) h3
  simp only [linkTrained, run_acts_cons, run_acts_nil]
  refine ⟨?_, ?_, ?_, ?_⟩
  · rw [get_setFld_otherReg (by decide), get_setFld_other h3.risingRegs (by decide) (by decide), get_setFld_other h2.risingRegs (by decide) (by decide),
      get_setFld_other h1.risingRegs (by decide) (by decide), get_setFld_same hs.risingRegs (by decide)]
    exact Nat.mod_eq_of_lt hw
  · rw [get_setFld_otherReg (by decide), get_setFld_other h3.risingRegs (by decide) (by decide), get_setFld_other h2.risingRegs (by decide) (by decide),
      get_setFld_same h1.risingRegs (by decide)]
    exact Nat.mod_eq_of_lt hr
  · rw [get_setFld_otherReg (by decide), get_setFld_other h3.risingRegs (by decide) (by decide), get_setFld_same h2.risingRegs (by decide)]
    exact Nat.mod_eq_of_lt hm
  · rw [get_setFld_same h4.risingRegs (by decide)]
    exact Nat.mod_eq_of_lt hm

theorem linkTrained_frame (w r m n : Nat) (s : State) : (run (linkTrained w r m n) s).body = s.body ∧ (run (linkTrained w r m n) s).mem = s.mem ∧
    (run (linkTrained w r m n) s).led = s.led := by
  simp [linkTrained]

/-- Firmware-ready sets its two bits. -/
theorem get_fwReady (hs : s.canonical) :
    (run (setFld Fld.GLB_STATUS_FW_READY 1) (run (setFld Fld.GLB_STATUS_MEM_ACTIVE 1) s)).get Fld.GLB_STATUS_FW_READY = 1 ∧
    (run (setFld Fld.GLB_STATUS_FW_READY 1) (run (setFld Fld.GLB_STATUS_MEM_ACTIVE 1) s)).get Fld.GLB_STATUS_MEM_ACTIVE = 1 := by
  have h1 := run_canonical (setFld Fld.GLB_STATUS_MEM_ACTIVE 1) hs
  exact ⟨get_setFld_same h1.risingRegs (by decide),
    (get_setFld_other h1.risingRegs (by decide) (by decide)).trans (get_setFld_same hs.risingRegs (by decide))⟩

/-! ### Power failures (R428) -/

/-- A power failure begins the flush. -/
theorem get_powerFail (hs : s.canonical) (h : s.get Fld.PWR_STATUS_PF_STATE = 0) : (run powerFail s).get Fld.PWR_STATUS_PF_STATE = 1 := by
  rw [powerFail, run_look, h, run_when, if_pos (beq_self_eq_true 0), get_setFld_same hs.risingRegs (by decide)]
  rfl

/-- The flags of the PWR block lie apart from its status. -/
theorem pfState_raiseWith {bit : Nat} (c : Ctx) (h : Reg.PWR_STATUS ∉ flagRegs Blk.pwr bit) (s : State) :
    (run (raiseWith Blk.pwr bit c) s).get Fld.PWR_STATUS_PF_STATE = s.get Fld.PWR_STATUS_PF_STATE := get_raiseWith_of_notMem c s h

theorem get_actPwrfailFall (hs : s.canonical) (h : s.get Fld.PWR_STATUS_PF_STATE = 0) :
    (run actPwrfailFall s).get Fld.PWR_STATUS_PF_STATE = 1 := by
  have hraised : (run (raise Blk.pwr 1) s).get Fld.PWR_STATUS_PF_STATE = 0 := (pfState_raiseWith _ (by decide) s).trans h
  rw [actPwrfailFall, run_look, h, run_when, if_pos (beq_self_eq_true 0), run_acts_cons, run_acts_cons, run_acts_nil]
  exact get_powerFail (run_canonical _ hs) hraised

theorem get_actRailUv (hs : s.canonical) (h : s.get Fld.PWR_STATUS_PF_STATE = 0) (r : Nat) :
    (run (actRailUv r) s).get Fld.PWR_STATUS_PF_STATE = 1 := by
  have hrail : (run (raiseWith Blk.pwr 2 { unit := r }) s).get Fld.PWR_STATUS_PF_STATE = 0 := (pfState_raiseWith _ (by decide) s).trans h
  have hraised := (pfState_raiseWith (bit := 1) {} (by decide) (run (raiseWith Blk.pwr 2 { unit := r }) s)).trans hrail
  rw [actRailUv, run_look, if_pos h, run_acts_cons, run_acts_cons, run_acts_cons, run_acts_nil]
  exact get_powerFail (run_canonical _ (run_canonical _ hs)) hraised

/-! ### Temperatures (R430) -/

/-- Resets of listed islands: each listed one is in reset, each other as it was. -/
theorem isl_each_reset (l : List Nat) (hs : s.canonical) (k : Nat) :
    (run (each l fun i => setIsl i IslSt.reset) s).isl k = if k ∈ l then IslSt.reset else s.isl k := by
  induction l generalizing s with
  | nil => rw [run_each_nil, if_neg List.not_mem_nil]
  | cons i l ih =>
    rw [run_each_cons, ih (run_canonical _ hs)]
    by_cases hk : k = i
    · subst hk
      rw [isl_setIsl_same hs (by decide), ite_self, if_pos List.mem_cons_self]
    · rw [isl_setIsl_other hk]
      simp [hk]

theorem pwrStatus_each_reset {f : Fld} (hf : f.addr = Reg.PWR_STATUS) (l : List Nat) (hl : ∀ i ∈ l, i < 56) :
    (run (each l fun i => setIsl i IslSt.reset) s).get f = s.get f := by
  induction l generalizing s with
  | nil => rw [run_each_nil]
  | cons i l ih =>
    have hi := hl i List.mem_cons_self
    have hne : f.addr ≠ Reg.ISL_STATE i := by rw [hf]; simp only [Reg.ISL_STATE, Reg.PWR_STATUS]; omega
    rw [run_each_cons, ih fun j hj => hl j (List.mem_cons_of_mem _ hj)]
    exact get_setFld_otherReg hne

/-- The pins of a trip: both flags stand, and the hottest island is named. -/
def tripPins (n : Nat) : Act :=
  acts [setFld Fld.PWR_STATUS_TRIP 1, setFld Fld.PWR_STATUS_ALERT 1, setFld Fld.PWR_STATUS_HOT_ISLAND n]

/-- The islands that a trip stops. -/
def tripIslands : List Nat := (List.range 56).filter (· != 54)

theorem mem_tripIslands {k : Nat} : k ∈ tripIslands ↔ k < 56 ∧ k ≠ 54 := by
  rw [tripIslands, List.mem_filter, List.mem_range, bne_iff_ne]

theorem run_actThermalTrip (n : Nat) (s : State) : run (actThermalTrip n) s =
    run (onPlat fun p => { p with mgmtUp := false, ibi := true }) (run (each tripIslands fun i => setIsl i IslSt.reset) (run (tripPins n) s)) := by
  simp only [actThermalTrip, tripPins, tripIslands, run_acts_cons, run_acts_nil]

theorem get_tripPins (hs : s.canonical) (n : Nat) :
    (run (tripPins n) s).get Fld.PWR_STATUS_TRIP = 1 ∧ (run (tripPins n) s).get Fld.PWR_STATUS_ALERT = 1 := by
  have h1 := run_canonical (setFld Fld.PWR_STATUS_TRIP 1) hs
  have h2 := run_canonical (setFld Fld.PWR_STATUS_ALERT 1) h1
  simp only [tripPins, run_acts_cons, run_acts_nil]
  constructor
  · rw [get_setFld_other h2.risingRegs (by decide) (by decide), get_setFld_other h1.risingRegs (by decide) (by decide),
      get_setFld_same hs.risingRegs (by decide)]
    rfl
  · rw [get_setFld_other h2.risingRegs (by decide) (by decide), get_setFld_same h1.risingRegs (by decide)]
    rfl

theorem isl_tripPins (n k : Nat) (hk : k < 56) : (run (tripPins n) s).isl k = s.isl k := by
  have hne : Reg.ISL_STATE k ≠ Reg.PWR_STATUS := by simp only [Reg.ISL_STATE, Reg.PWR_STATUS]; omega
  simp only [tripPins, run_acts_cons, run_acts_nil]
  rw [isl_setFld_other hne, isl_setFld_other hne, isl_setFld_other hne]

/-- A trip: both flags stand. -/
theorem get_actThermalTrip (hs : s.canonical) (n : Nat) :
    (run (actThermalTrip n) s).get Fld.PWR_STATUS_TRIP = 1 ∧ (run (actThermalTrip n) s).get Fld.PWR_STATUS_ALERT = 1 := by
  have hl : ∀ i ∈ tripIslands, i < 56 := fun i hi => (mem_tripIslands.1 hi).1
  rw [run_actThermalTrip, onPlat, get_onBody, get_onBody, pwrStatus_each_reset rfl _ hl, pwrStatus_each_reset rfl _ hl]
  exact get_tripPins hs n

/-- A trip stops every island but 54. -/
theorem isl_actThermalTrip (hs : s.canonical) (n : Nat) {k : Nat} (hk : k < 56) :
    (run (actThermalTrip n) s).isl k = if k ≠ 54 then IslSt.reset else s.isl k := by
  rw [run_actThermalTrip, isl_of_regs (onPlat_regs _ _), isl_each_reset _ (run_canonical _ hs), isl_tripPins n k hk]
  simp [mem_tripIslands, hk]

/-- A release clears the alert and its interrupt. -/
theorem run_actThermRelease (h : s.is Fld.PWR_STATUS_TRIP = false) :
    run actThermRelease s = run (onPlat fun p => { p with ibi := false }) (run (setFld Fld.PWR_STATUS_ALERT 0) s) := by
  rw [actThermRelease, run_look, run_when, h, if_pos Bool.not_false, run_acts_cons, run_acts_cons, run_acts_nil]

/-! ### Clocks (R432) -/

/-- A clock's loss is recorded and reported before what it clocks is reset. -/
def clockLost (c : Nat) (s : State) : State :=
  run (raiseWith Blk.pwr 4 { unit := c }) (run (onPlat fun p => { p with clocksLost := p.clocksLost ++ [c] }) s)

/-- What a lost clock resets. -/
theorem run_actRefclkLoss {c : Nat} (hc : c < 6) (h : c ∉ s.body.plat.clocksLost) : run (actRefclkLoss c) s =
    run (if c = 0 then acts [each sysIslands fun n => actIslReset n .clock 0, eff (.credFlush none s.led.chip.inflight),
                             onPlat fun p => { p with heldReset := sysIslands, mgmtUp := false }]
      else if c = 1 then actLinkDown
      else each (List.range 4) fun i => portDown (4 * (c - 2) + i)) (clockLost c s) := by
  have hgo : ¬ (decide (5 < c) || s.body.plat.clocksLost.contains c) = true := by simpa [h] using Nat.le_of_lt_succ hc
  rw [actRefclkLoss, run_look, if_neg hgo]
  simp only [run_acts_cons, run_acts_nil, clockLost]

/-- A clock that is back is no longer listed. -/
def clockBack (c : Nat) : Act := onPlat fun p => { p with clocksLost := p.clocksLost.filter (· != c) }

theorem run_actRefclkRestore {c : Nat} (h : c ∈ s.body.plat.clocksLost) : run (actRefclkRestore c) s =
    run (when (c == 0) (acts [each s.body.plat.heldReset (fun n => setIsl n IslSt.run), actSecRestart true,
      onPlat fun p => { p with heldReset := [], mgmtUp := true }])) (run (clockBack c) s) := by
  have hgo : ¬ (!s.body.plat.clocksLost.contains c) = true := by simpa using h
  rw [actRefclkRestore, run_look, if_neg hgo, run_acts_cons, run_acts_cons, run_acts_nil, clockBack]

/-! ### The rows -/

theorem exec_perstNFall (a b : Bool) (s : State) : exec (.perstNFall a b) s = .next (run (actPerstFall a b) s) := doneAlways_eq _ s
theorem exec_warmResetN (a b : Bool) (s : State) : exec (.warmResetN a b) s = .next (run (actWarmReset a b) s) := doneAlways_eq _ s
theorem exec_pwrfailFall (s : State) : exec .pwrfailFall s = .next (run actPwrfailFall s) := doneAlways_eq _ s
theorem exec_railUv {r : Nat} (hr : r < 11) (s : State) : exec (.railUv r) s = .next (run (actRailUv r) s) := doneAlways_when (decide_eq_true hr) _ s
theorem exec_thermAlertRelease (s : State) : exec .thermAlertRelease s = .next (run actThermRelease s) := doneAlways_eq _ s
theorem exec_thermalTrip {n : Nat} (hn : n < 56) (s : State) : exec (.thermalTrip n) s = .next (run (actThermalTrip n) s) :=
  doneAlways_when (decide_eq_true hn) _ s
theorem exec_cxlLinkUp {w r m : Nat} (hT : Takes s (.cxlLinkUp w r m)) : exec (.cxlLinkUp w r m) s = .next (run (actCxlLinkUp w r m) s) := hT.done _
theorem exec_fwReady (hT : Takes s .fwReady) : exec .fwReady s = .next (run actFwReady s) := done_works hT.works
theorem exec_surpriseLinkDown (hT : Takes s .surpriseLinkDown) : exec .surpriseLinkDown s = .next (run actLinkDown s) := done_works hT.works
theorem exec_thermAlert {n temp : Nat} (hT : Takes s (.thermAlert n temp)) : exec (.thermAlert n temp) s = .next (run (actThermAlert n temp) s) :=
  hT.done _
theorem exec_refclkLoss {c : Nat} (hT : Takes s (.refclkLoss c)) : exec (.refclkLoss c) s = .next (run (actRefclkLoss c) s) := hT.done _
theorem exec_refclkRestore {c : Nat} (hT : Takes s (.refclkRestore c)) : exec (.refclkRestore c) s = .next (run (actRefclkRestore c) s) := hT.done _

theorem mem_led_of_stored {t : State} (h : t.stored = s.stored) : t.mem = s.mem ∧ t.led = s.led := by
  simp only [State.stored, Prod.mk.injEq] at h
  exact ⟨h.1, h.2.2⟩

end

/-- Settles O51: each row by its own branch, and the fields it writes read back. -/
theorem resetsAndPower : Obligations.ResetsAndPower := by
  refine ⟨?_, ?_, ?_, ?_, ?_, ?_, ?_, ?_, ?_, ?_, ?_, ?_, ?_, ?_, ?_, ?_, ?_, ?_, ?_, ?_, ?_, ?_⟩
  · intro s straps a b hstraps
    have hd : exec (.powerOnReset straps a b) s = .next (run (actPowerOnReset straps a b) s) := doneAlways_when (decide_eq_true hstraps) _ s
    rw [hd, actPowerOnReset, run_look, Nat.mod_eq_of_lt hstraps]
  · intro s a b hpf htrip hk
    rw [exec_perstNFall, actPerstFall, run_look, hpf, if_neg (by decide), htrip, if_neg Bool.false_ne_true, if_neg hk, run_acts_cons, run_acts_cons,
      run_acts_nil]
  · intro s a b hpf htrip hk
    rw [exec_perstNFall, actPerstFall, run_look, hpf, if_neg (by decide), htrip, if_neg Bool.false_ne_true, if_pos hk]
  · intro s a b hpf
    refine ⟨_, exec_perstNFall a b s, ?_⟩
    rw [actPerstFall, run_look, if_pos hpf, onPlat, run_onBody]
    exact ⟨rfl, rfl, rfl, rfl⟩
  · intro s
    refine ⟨_, doneAlways_eq actPerstRise s, ?_⟩
    rw [actPerstRise, run_onBody]
    exact ⟨rfl, rfl, rfl, rfl⟩
  · intro s a b hpf htrip
    rw [exec_warmResetN, actWarmReset, run_look, if_neg hpf, htrip, if_neg Bool.false_ne_true]
  · intro s a b hpf
    refine ⟨_, exec_warmResetN a b s, ?_⟩
    rw [actWarmReset, run_look, if_pos hpf, onPlat, run_onBody]
    exact ⟨rfl, rfl, rfl, rfl⟩
  · intro s w r m hs hT hperst hclk hform
    have hwf : (decide (w < 32) && decide (r < 8) && decide (m < 4)) = true := hT.form
    simp only [Bool.and_eq_true, decide_eq_true_iff] at hwf
    obtain ⟨⟨hw, hr⟩, hm⟩ := hwf
    have hrun : run (actCxlLinkUp w r m) s = run (linkTrained w r m (min 65535 (s.get Fld.CXL_LINK_STATUS_TRAININGS + 1))) s := by
      rw [actCxlLinkUp, run_look]
      simp [hperst, hclk, hform, linkTrained]
    obtain ⟨hgw, hgr, hgm, hhost⟩ := get_linkTrained hs hw hr hm (min 65535 (s.get Fld.CXL_LINK_STATUS_TRAININGS + 1))
    refine ⟨_, exec_cxlLinkUp hT, ?_⟩
    rw [hrun]
    exact ⟨hgw, hgr, hgm, hhost, linkTrained_frame _ _ _ _ _⟩
  · intro s hs hT hbooted hrec hperst hhost hfw harb
    have hrun : run actFwReady s = run (setFld Fld.GLB_STATUS_FW_READY 1) (run (setFld Fld.GLB_STATUS_MEM_ACTIVE 1) s) := by
      rw [actFwReady, run_look]
      simp [hbooted, hrec, hperst, hhost, hfw, harb]
    obtain ⟨hready, hactive⟩ := get_fwReady hs
    refine ⟨_, exec_fwReady hT, ?_⟩
    rw [hrun]
    exact ⟨is_of_get hready, is_of_get hactive, by simp⟩
  · intro s hT hhost
    rw [exec_surpriseLinkDown hT, actLinkDown, run_look, run_when, if_pos (by simpa using hhost), run_acts_cons, run_acts_cons,
      run_acts_cons, run_acts_nil]
  · intro s hs hpf
    have hfail := get_actPwrfailFall hs hpf
    exact ⟨_, exec_pwrfailFall s, hfail, stopped_of_powerFail hfail, mem_led_of_stored (stored_actPwrfailFall s)⟩
  · intro s hpf
    rw [exec_pwrfailFall, actPwrfailFall, run_look, beq_eq_false_iff_ne.2 hpf, run_when, if_neg Bool.false_ne_true]
  · intro s r hs hr hpf
    have hfail := get_actRailUv hs hpf r
    exact ⟨_, exec_railUv hr s, hfail, stopped_of_powerFail hfail, mem_led_of_stored (stored_actRailUv s r)⟩
  · intro s r hr
    exact doneAlways_when (decide_eq_true hr) _ s
  · intro s n temp hT hhot hal
    rw [exec_thermAlert hT, actThermAlert, run_look]
    simp [hhot, hal]
  · intro s hs htrip
    have hal : (run actThermRelease s).get Fld.PWR_STATUS_ALERT = 0 := by
      rw [run_actThermRelease htrip, onPlat, get_onBody, get_setFld_same hs.risingRegs (by decide)]
      rfl
    have hibi : (run actThermRelease s).body.plat.ibi = false := by rw [run_actThermRelease htrip, onPlat_plat]
    exact ⟨_, exec_thermAlertRelease s, is_false_of_get hal, hibi, mem_led_of_stored (stored_actThermRelease s)⟩
  · intro s n hs hn
    obtain ⟨htrip, hal⟩ := get_actThermalTrip hs n
    refine ⟨_, exec_thermalTrip hn s, is_of_get htrip, is_of_get hal, stopped_of_trip (is_of_get htrip), fun k hk hne => ?_, ?_,
      mem_led_of_stored (stored_actThermalTrip s n)⟩
    · rw [isl_actThermalTrip hs n hk, if_pos hne]
    · rw [isl_actThermalTrip hs n (by decide), if_neg (by decide)]
  · intro s hT hclk
    rw [exec_refclkLoss hT, run_actRefclkLoss (by decide) hclk, if_neg (by decide), if_pos rfl, clockLost]
  · intro s k hT hclk
    have hk : 2 + k < 6 := of_decide_eq_true hT.form
    rw [exec_refclkLoss hT, run_actRefclkLoss hk hclk, if_neg (by omega), if_neg (by omega), clockLost, Nat.add_sub_cancel_left]
  · intro s hT hclk
    have hrun := run_actRefclkLoss (by decide) hclk
    rw [if_pos rfl, run_acts_cons, run_acts_cons, run_acts_cons, run_acts_nil] at hrun
    refine ⟨_, exec_refclkLoss hT, ?_, ?_, hrun⟩ <;> rw [hrun, onPlat_plat]
  · intro s hT hclk
    have hrun := run_actRefclkRestore hclk
    rw [run_when, if_pos (beq_self_eq_true 0), run_acts_cons, run_acts_cons, run_acts_cons, run_acts_nil] at hrun
    refine ⟨_, exec_refclkRestore hT, ?_, ?_, hrun⟩ <;> rw [hrun, onPlat_plat]
  · intro s k hT hclk hne
    refine ⟨_, exec_refclkRestore hT, ?_⟩
    rw [run_actRefclkRestore hclk, run_when, if_neg (by simpa using hne), clockBack, onPlat_plat]
    exact ⟨by simp, rfl, rfl, rfl⟩

end Sys2Proof.Machine
end

section
/-! SUPPORT. The TAP, the I3C target and the MCTP requests (R433, R435, R437, R440, R444, 15_package_power_test.md; R415, R419,
14_security.md). -/

namespace Sys2Proof.Machine

section
variable {s : State}

/-! ### Instructions of the TAP -/

theorem get_setTap {i : Nat} (hs : s.canonical) (hi : i < 256) : (run (setTap i) s).get Fld.TST_STATUS_INSTRUCTION = i :=
  (get_setFld_same hs.risingRegs (by decide)).trans (Nat.mod_eq_of_lt hi)

@[simp] theorem setTap_body (i : Nat) (s : State) : (run (setTap i) s).body = s.body := by rw [setTap, run_setFld]

@[simp] theorem get_onPlat (f : Plat → Plat) (x : Fld) (s : State) : (run (onPlat f) s).get x = s.get x := get_onBody _ s x

theorem get_actTapSample (hs : s.canonical) (cells : Nat) : (run (actTapSample cells) s).get Fld.TST_STATUS_INSTRUCTION = 0x02 := by
  rw [actTapSample, run_acts_cons, run_acts_cons, run_acts_nil, get_onPlat, get_setTap hs (by decide)]

theorem tapSample_boundary (cells : Nat) (s : State) : (run (actTapSample cells) s).body.plat.boundary = cells % bsrBound := by
  rw [actTapSample, run_acts_cons, run_acts_cons, run_acts_nil, onPlat_plat]

theorem stored_actTapSample (s : State) (cells : Nat) : (run (actTapSample cells) s).stored = s.stored := by simp [actTapSample]

theorem get_actTrst (hs : s.canonical) : (run actTrst s).get Fld.TST_STATUS_INSTRUCTION = 0x01 := by
  rw [actTrst, run_acts_cons, run_acts_cons, run_acts_nil, get_onPlat, get_setTap hs (by decide)]

theorem trst_highZ (s : State) : (run actTrst s).body.plat.highZ = false := by rw [actTrst, run_acts_cons, run_acts_cons, run_acts_nil, onPlat_plat]

theorem stored_actTrst (s : State) : (run actTrst s).stored = s.stored := by simp [actTrst]

/-- Whether a data-plane island runs. -/
def pinsLive (s : State) : Bool := (List.range 56).any fun n => dataPlane n && s.isl n == IslSt.run

theorem pinsLive_of_run {n : Nat} (hn : n < 56) (hd : dataPlane n = true) (hr : s.isl n = IslSt.run) : pinsLive s = true :=
  List.any_eq_true.2 ⟨n, List.mem_range.2 hn, by rw [hd, hr]; rfl⟩

theorem pinsLive_eq_false (h : ∀ n, n < 56 → dataPlane n = true → s.isl n ≠ IslSt.run) : pinsLive s = false := by
  refine List.any_eq_false.2 fun n hn => ?_
  simpa using h n (List.mem_range.1 hn)

theorem run_takePins (i : Nat) (hiz : Bool) (s : State) : run (takePins i hiz) s =
    run (onPlat fun p => { p with pinsTaken := p.pinsTaken || pinsLive s, highZ := hiz })
      (run (when (pinsLive s) (raise Blk.tst 0)) (run (setTap i) s)) := by
  rw [takePins, run_look]
  simp only [run_acts_cons, run_acts_nil, pinsLive]

theorem takePins_plat (i : Nat) (hiz : Bool) (s : State) :
    (run (takePins i hiz) s).body.plat = { s.body.plat with pinsTaken := s.body.plat.pinsTaken || pinsLive s, highZ := hiz } := by
  have hw : (run (when (pinsLive s) (raise Blk.tst 0)) (run (setTap i) s)).body.plat = s.body.plat := by
    rw [run_when_keeps (f := fun t : State => t.body.plat) (raise_plat _ _ _), setTap_body]
  rw [run_takePins, onPlat_plat, hw]

theorem get_takePins {i : Nat} (hs : s.canonical) (hi : i < 256) (hiz : Bool) :
    (run (takePins i hiz) s).get Fld.TST_STATUS_INSTRUCTION = i := by
  rw [run_takePins, get_onPlat, run_when_keeps (f := fun t : State => t.get Fld.TST_STATUS_INSTRUCTION) (get_raise_of_notMem _ (by decide)),
    get_setTap hs hi]

/-- An instruction that takes the pins: it is in force; the pins are taken where a data-plane island runs, and then the device is stopped. -/
theorem takePins_spec {i : Nat} (hs : s.canonical) (hi : i < 256) (hiz : Bool) :
    (run (takePins i hiz) s).get Fld.TST_STATUS_INSTRUCTION = i ∧ (run (takePins i hiz) s).mem = s.mem ∧ (run (takePins i hiz) s).led = s.led ∧
    (run (takePins i hiz) s).body.plat.highZ = hiz ∧
    (s.body.plat.pinsTaken = false → (∀ n, n < 56 → dataPlane n = true → s.isl n ≠ IslSt.run) → (run (takePins i hiz) s).body.plat.pinsTaken = false) ∧
    (∀ n, n < 56 → dataPlane n = true → s.isl n = IslSt.run → (run (takePins i hiz) s).works = false) := by
  obtain ⟨hmem, hled⟩ := mem_led_of_stored (stored_takePins s i hiz)
  have hplat := takePins_plat i hiz s
  refine ⟨get_takePins hs hi hiz, hmem, hled, by rw [hplat], fun hfree hidle => ?_, fun n hn hd hr => stopped_of_pinsTaken ?_⟩
  · rw [hplat, hfree, pinsLive_eq_false hidle]
    rfl
  · rw [hplat, pinsLive_of_run hn hd hr, Bool.or_true]

/-- BYPASS is in force, its register is 0, and any other encoding at a locked port is flagged. -/
theorem run_tapBypass (enc : Nat) (s : State) : run (tapBypass enc) s =
    run (when (enc != 0xFF && s.is Fld.TST_STATUS_LOCKED) (raise Blk.tst 1)) (run (onPlat fun p => { p with bypassBit := 0 }) (run (setTap 0xFF) s)) := by
  rw [tapBypass, run_look]
  simp only [run_acts_cons, run_acts_nil]

theorem get_tapBypass (hs : s.canonical) (enc : Nat) : (run (tapBypass enc) s).get Fld.TST_STATUS_INSTRUCTION = 0xFF := by
  rw [run_tapBypass, run_when_keeps (f := fun t : State => t.get Fld.TST_STATUS_INSTRUCTION) (get_raise_of_notMem _ (by decide)), get_onPlat,
    get_setTap hs (by decide)]

theorem tapBypass_bit (enc : Nat) (s : State) : (run (tapBypass enc) s).body.plat.bypassBit = 0 := by
  rw [run_tapBypass, run_when_keeps (f := fun t : State => t.body.plat.bypassBit) (congrArg Plat.bypassBit (raise_plat _ _ _)), onPlat_plat]

section
variable {enc lo hi bit : Nat}

/-- An instruction of a scope that is open is in force. -/
theorem run_tapPrivate_open (hlo : lo ≤ enc) (hhi : enc ≤ hi) (h : bitsOf (s.get Fld.TST_STATUS_SCOPE) bit 1 = 1) :
    run (tapPrivate enc lo hi bit) s = run (setTap enc) s := by
  rw [tapPrivate, run_look, if_pos ⟨hlo, hhi, h⟩]

/-- With its scope closed it is BYPASS. -/
theorem run_tapPrivate_closed (h : bitsOf (s.get Fld.TST_STATUS_SCOPE) bit 1 = 0) : run (tapPrivate enc lo hi bit) s = run (tapBypass enc) s := by
  rw [tapPrivate, run_look, if_neg fun hc => by omega]

theorem tapPrivate_spec (hs : s.canonical) (henc : enc < 256) (hlo : lo ≤ enc) (hhi : enc ≤ hi) (h : bitsOf (s.get Fld.TST_STATUS_SCOPE) bit 1 = 1) :
    (run (tapPrivate enc lo hi bit) s).get Fld.TST_STATUS_INSTRUCTION = enc ∧ (run (tapPrivate enc lo hi bit) s).body = s.body ∧
    (run (tapPrivate enc lo hi bit) s).mem = s.mem ∧ (run (tapPrivate enc lo hi bit) s).led = s.led := by
  rw [run_tapPrivate_open hlo hhi h]
  exact ⟨get_setTap hs henc, setTap_body _ _, run_setFld_mem _ _ _, run_setFld_led _ _ _⟩

end

/-! ### I3C and MCTP -/

/-- The target takes its dynamic address from a request that finds its pins powered. -/
theorem run_actSetdasa (hpf : s.get Fld.PWR_STATUS_PF_STATE = 0) (dyn : Nat) : run (actSetdasa (0x50 + s.get Fld.PWR_STRAPS_I3C_SA) dyn) s =
    run (onPlat fun p => { p with i3cAddr := some dyn }) s := by
  rw [actSetdasa, run_look]
  simp [hpf]

theorem run_actEntdaa (hpf : s.get Fld.PWR_STATUS_PF_STATE = 0) (ha : s.body.plat.i3cAddr = none) (dyn : Nat) :
    run (actEntdaa dyn) s = run (onPlat fun p => { p with i3cAddr := some dyn }) s := by
  rw [actEntdaa, run_look]
  simp [hpf, ha]

/-- After a power failure no address is taken. -/
theorem run_actSetdasa_failed (hpf : s.get Fld.PWR_STATUS_PF_STATE ≠ 0) (static dyn : Nat) : run (actSetdasa static dyn) s = s := by
  rw [actSetdasa, run_look]
  simp [hpf]

theorem run_actEntdaa_failed (hpf : s.get Fld.PWR_STATUS_PF_STATE ≠ 0) (dyn : Nat) : run (actEntdaa dyn) s = s := by
  rw [actEntdaa, run_look]
  simp [hpf]

theorem i3cAddr_frame (dyn : Nat) (s : State) : (run (onPlat fun p => { p with i3cAddr := some dyn }) s).body.plat.i3cAddr = some dyn ∧
    (run (onPlat fun p => { p with i3cAddr := some dyn }) s).regs = s.regs ∧ (run (onPlat fun p => { p with i3cAddr := some dyn }) s).mem = s.mem ∧
    (run (onPlat fun p => { p with i3cAddr := some dyn }) s).led = s.led := by
  rw [onPlat, run_onBody]
  exact ⟨rfl, rfl, rfl, rfl⟩

/-- A request over MCTP is answered by the core that runs, and with BUSY_RETRY where it does not. -/
theorem run_mctpReply (hpf : s.get Fld.PWR_STATUS_PF_STATE = 0) (hpins : s.body.plat.pinsTaken = false) (runs : State → Bool) (ok : Act) :
    run (mctpReply runs ok) s = run (if runs s then ok else emit (.mctp St.busyRetry [])) s := by
  rw [mctpReply, run_look, if_neg (by simp [hpf, hpins])]

/-! ### The rows -/

variable {enc : Nat}

theorem exec_tapBypass (h : enc < 256) (s : State) : exec (.tapBypass enc) s = .next (run (tapBypass enc) s) := doneAlways_when (decide_eq_true h) _ s
theorem exec_tapScanBist (h : enc < 256) (s : State) : exec (.tapScanBist enc) s = .next (run (tapPrivate enc 0x80 0x8F 0) s) :=
  doneAlways_when (decide_eq_true h) _ s
theorem exec_tapCoreDebug (h : enc < 256) (s : State) : exec (.tapCoreDebug enc) s = .next (run (tapPrivate enc 0x90 0x9F 1) s) :=
  doneAlways_when (decide_eq_true h) _ s
theorem exec_tapEfuseRead (h : enc < 256) (s : State) : exec (.tapEfuseRead enc) s = .next (run (tapPrivate enc 0xA0 0xA7 2) s) :=
  doneAlways_when (decide_eq_true h) _ s
theorem exec_i3cSetdasa (static dyn : Nat) (s : State) : exec (.i3cSetdasa static dyn) s =
    .next (run (when (decide (static < 128) && decide (dyn < 128)) (actSetdasa static dyn)) s) := doneAlways_eq _ s
theorem exec_i3cEntdaa (dyn : Nat) (s : State) : exec (.i3cEntdaa dyn) s = .next (run (when (decide (dyn < 128)) (actEntdaa dyn)) s) := doneAlways_eq _ s
theorem exec_mctpCertificates (s : State) : exec .mctpCertificates s = .next (run actMctpCertificates s) := doneAlways_eq _ s
theorem exec_mctpQuote {nonce : List Byte} (h : nonce.length = 32) (s : State) : exec (.mctpQuote nonce) s = .next (run (actMctpQuote nonce) s) :=
  doneAlways_when (beq_iff_eq.2 h) _ s
theorem exec_mctpHealth (s : State) : exec .mctpHealth s = .next (run actMctpHealth s) := doneAlways_eq _ s
theorem exec_mctpPowerStatus (s : State) : exec .mctpPowerStatus s = .next (run actMctpPower s) := doneAlways_eq _ s

end

/-- Settles O52: the instruction in force read back, the pins by `takePins_spec`, and each request's own branch. -/
theorem testAndManagementPorts : Obligations.TestAndManagementPorts := by
  refine ⟨?_, ?_, ?_, ?_, ?_, ?_, ?_, ?_, ?_, ?_, ?_, ?_, ?_, ?_, ?_, ?_, ?_, ?_, ?_, ?_, ?_, ?_, ?_, ?_⟩
  · exact fun s hs => ⟨_, doneAlways_eq actTapIdcode s, get_setTap hs (by decide), run_setFld_mem _ _ _, run_setFld_led _ _ _, setTap_body _ _⟩
  · exact fun s hs => ⟨_, doneAlways_eq actTapExtest s, takePins_spec hs (by decide) false⟩
  · exact fun s hs => ⟨_, doneAlways_eq actTapExtestPulse s, takePins_spec hs (by decide) false⟩
  · exact fun s hs => ⟨_, doneAlways_eq actTapExtestTrain s, takePins_spec hs (by decide) false⟩
  · exact fun s hs => ⟨_, doneAlways_eq actTapHighz s, takePins_spec hs (by decide) true⟩
  · exact fun s hs => ⟨_, doneAlways_eq actTapClamp s, takePins_spec hs (by decide) false⟩
  · intro s cells hs hfit
    exact ⟨_, doneAlways_when hfit (actTapSample cells) s, get_actTapSample hs cells,
      (tapSample_boundary cells s).trans (Nat.mod_eq_of_lt (of_decide_eq_true hfit)), mem_led_of_stored (stored_actTapSample s cells)⟩
  · intro s enc hs henc
    exact ⟨_, exec_tapBypass henc s, get_tapBypass hs enc, tapBypass_bit enc s, mem_led_of_stored (stored_tapBypass s enc)⟩
  · intro s enc henc hlocked
    have hflag : (enc != 0xFF && s.is Fld.TST_STATUS_LOCKED) = true := by simp [hlocked, henc.ne]
    rw [exec_tapBypass (by omega), run_tapBypass, run_when, if_pos hflag]
  · exact fun s enc hs hlo hhi h => ⟨_, exec_tapScanBist (by omega) s, tapPrivate_spec hs (by omega) hlo hhi h⟩
  · intro s enc hlo hhi h
    rw [exec_tapScanBist (by omega), run_tapPrivate_closed h]
  · exact fun s enc hs hlo hhi h => ⟨_, exec_tapCoreDebug (by omega) s, tapPrivate_spec hs (by omega) hlo hhi h⟩
  · intro s enc hlo hhi h
    rw [exec_tapCoreDebug (by omega), run_tapPrivate_closed h]
  · exact fun s enc hs hlo hhi h => ⟨_, exec_tapEfuseRead (by omega) s, tapPrivate_spec hs (by omega) hlo hhi h⟩
  · intro s enc hlo hhi h
    rw [exec_tapEfuseRead (by omega), run_tapPrivate_closed h]
  · exact fun s hs => ⟨_, doneAlways_eq actTrst s, get_actTrst hs, trst_highZ s, mem_led_of_stored (stored_actTrst s)⟩
  · intro s dyn hdyn hpf
    have hsa : s.get Fld.PWR_STRAPS_I3C_SA < 4 := bitsOf_lt _ _ 2
    have hstatic : (decide (0x50 + s.get Fld.PWR_STRAPS_I3C_SA < 128) && decide (dyn < 128)) = true := by
      rw [decide_eq_true (by omega), decide_eq_true hdyn]
      rfl
    refine ⟨_, exec_i3cSetdasa _ dyn s, ?_⟩
    rw [run_when, if_pos hstatic, run_actSetdasa hpf]
    exact i3cAddr_frame dyn s
  · intro s dyn hdyn hpf ha
    refine ⟨_, exec_i3cEntdaa dyn s, ?_⟩
    rw [run_when, if_pos (decide_eq_true hdyn), run_actEntdaa hpf ha]
    exact i3cAddr_frame dyn s
  · intro s st dyn hpf
    rw [exec_i3cSetdasa, exec_i3cEntdaa, run_when, run_when, run_actSetdasa_failed hpf, run_actEntdaa_failed hpf, ite_self, ite_self]
    exact ⟨rfl, rfl⟩
  · intro s hpf hpins hrun
    rw [exec_mctpCertificates, actMctpCertificates, run_mctpReply hpf hpins, if_pos hrun]
  · intro s nonce hpf hpins hrun hq hlen
    rw [exec_mctpQuote hlen, actMctpQuote, run_mctpReply hpf hpins, if_pos (by rw [hrun, hq]; rfl), run_look, run_acts_cons, run_acts_cons,
      run_acts_cons, run_acts_nil]
  · intro s hpf hpins hrun
    rw [exec_mctpHealth, actMctpHealth, run_mctpReply hpf hpins, if_pos hrun, run_look]
  · intro s hpf hpins hrun
    rw [exec_mctpHealth, actMctpHealth, run_mctpReply hpf hpins, hrun, if_neg Bool.false_ne_true]
  · intro s hpf hpins
    rw [exec_mctpPowerStatus, actMctpPower, run_mctpReply hpf hpins, if_pos rfl, run_look]

end Sys2Proof.Machine
end
